-- ==== Sys2Proof/Word.lean ====
section
/-! DEFINITION. The word types of the device (spec/00 R6): bytes, half-words and 32-bit cells. -/
namespace Sys2Proof

/-- One byte of the byte-addressed space. -/
abbrev Byte := BitVec 8

/-- A 16-bit quantity. -/
abbrev Half := BitVec 16

/-- A 32-bit cell or register. -/
abbrev Word := BitVec 32

end Sys2Proof
end

