-- ==== Sys2Proof/Syntax.lean ====
section
/-! DEFINITION. The commands of the device: one constructor of `Instr` for each row of spec/opcode_table.json,
with the operands the rules give it. -/
namespace Sys2Proof

/-- The two management ports (spec/03 R43). -/
inductive MgPort where
  | mga | mgb
deriving DecidableEq, Repr

/-- Where a Brenex command comes from: a typed line or a generated line with its sequence number on a port
(spec/03 R44, R48), or the start-up script (spec/18 R401). -/
inductive Via where
  | typed (p : MgPort)
  | gen (p : MgPort) (seq : Nat)
  | script
deriving DecidableEq, Repr

/-- Session roles, rising (spec/03 R54). -/
inductive Role where
  | observe | operate | engineer | machine
deriving DecidableEq, Repr

/-- Event classes, in the bit order of EVMASK (spec/03 R66). -/
inductive EvClass where
  | pwr | fence | state | port | partner | evr | dma | tile | afe | sess
deriving DecidableEq, Repr

/-- Privilege levels (spec/09 R189). -/
inductive Priv where
  | u | f | k | m
deriving DecidableEq, Repr

/-- Who makes a register access: a core at a privilege, the Bellwether, a DMA channel, or a session's
`x peek` or `x poke` (spec/04 R72). -/
inductive Agent where
  | core (c : Fin 32) (l : Priv)
  | bw
  | dma (c : Fin 64)
  | mg (p : MgPort)
deriving DecidableEq, Repr

/-- The units of the Brenex unit table (spec/03 R47). -/
inductive UnitId where
  | core (n : Fin 32) | pen (n : Fin 8) | fold (n : Fin 8) | tile (n : Fin 8) | dma (n : Fin 64)
  | t1s (n : Fin 4) | gbe (n : Fin 2) | can (n : Fin 4) | uart (n : Fin 8) | mg (p : MgPort)
  | afe | pwm (n : Fin 16) | gpio | halt | pmu | ptab | evr (n : Fin 8)
deriving DecidableEq, Repr

/-- The reference and the root PLL as the PMU finds them at a release or wake (spec/02 R38). -/
inductive PllState where
  | locked | noRef | noLock
deriving DecidableEq, Repr

/-- Causes of a shedding step (spec/02 R28). -/
inductive ShedCause where
  | vin | therm | sim
deriving DecidableEq, Repr

/-- Sources a host can arm for a wake (spec/02 R23, R41). -/
inductive ArmSrc where
  | wake (n : Fin 16) | halt (n : Fin 8) | rtc | brk (p : MgPort)
deriving DecidableEq, Repr

/-- Everything that can wake the device (spec/02 R41). -/
inductive WakeSrc where
  | arm (a : ArmSrc)
  | line (p : MgPort)
  | evr
deriving DecidableEq, Repr

/-- What `shed keep` designates (spec/02 R41). -/
inductive KeepKind where
  | afe | can | t1s | dma
deriving DecidableEq, Repr

/-- An upset that the sweep may meet at a unit (spec/04 R76, R84): none, hardware state flops changed, a
shadow state changed, a parity error in the shadow, or a state-bearing register changed behind the arbiter. -/
inductive Upset where
  | none
  | hwState (s : Fin 6)
  | shadowState (s : Fin 6)
  | parity
  | reg (off : Half) (v : Word)
deriving DecidableEq, Repr

/-- Condition field of an instruction (spec/05 R106). -/
inductive Cond where
  | always | z | nz | n | nn | c | nc | v
deriving DecidableEq, Repr

/-- Base field of the memory families (spec/05 R125, R128). -/
inductive Base where
  | tos | fp | gp | tp | spd
deriving DecidableEq, Repr

/-- Immediate forms of families 9 and 10 and of the control transfers: format L or X (spec/05 R124). -/
inductive ImmForm where
  | imm16 (i : BitVec 16)
  | imm32 (i : BitVec 32)
deriving DecidableEq, Repr

/-- Displacement forms of the loads and stores (spec/05 R124, R126). -/
inductive MemForm where
  | short (d : BitVec 6)
  | long (d : BitVec 16)
  | ext (d : BitVec 32)
deriving DecidableEq, Repr

/-- Mask and displacement of the multiple transfers (spec/06). -/
structure MultiForm where
  mask : BitVec 16
  disp : Option (BitVec 16)
deriving DecidableEq, Repr

/-- Element sizes of the string instructions (spec/06 R138). -/
inductive ESize where
  | b | h | w
deriving DecidableEq, Repr

/-- Encodings of the custom families (spec/08 R170). -/
inductive CustomOp where
  | operate (op : BitVec 8)
  | long (grpF : Bool) (sub : BitVec 6) (i : BitVec 16)
  | ext (grpF : Bool) (sub : BitVec 6) (i : BitVec 32)
deriving DecidableEq, Repr

/-- What EXCEPTION_ENTRY takes when no boundary exception is held: a cause with its qualifier, and of the instruction that meets it its
condition, its syllables and the address at fault (spec/09 R188, R191). -/
structure ExcReq where
  cause : Byte
  qual : Byte
  cond : Cond
  syl : List Half
  addr : Word
deriving DecidableEq, Repr

/-- What a power-on reset finds: the supply in hundredths of a volt, and which VIOSELn balls are left open (spec/02 R19, R25). -/
structure PowerUp where
  vin : Nat
  viosel : BitVec 4
deriving DecidableEq, Repr

/-- An entry of a core's store buffer, oldest first (spec/13 R280). -/
structure StoreRef where
  core : Fin 32
  entry : Fin 8
deriving DecidableEq, Repr

/-- A task switch of a core; `cut` says that a fence of the core falls due between its save and its restore (spec/07 R158). -/
structure SwitchOf where
  core : Fin 32
  cut : Bool
deriving DecidableEq, Repr

/-- Where the bytes of a key stand, and after how many of its 32-bit words the supply fails, if it does (spec/18 R403, R408). -/
structure KeySource where
  addr : Nat
  cut : Option Nat
deriving DecidableEq, Repr

/-- The golden copies of the control stores: the base images of each personality and the overlay
slots (spec/08 R174). -/
inductive GoldenSlot where
  | base (tether : Bool)
  | overlay (f : Fin 8) (tether : Bool)
deriving DecidableEq, Repr

/-- Requests a hook module may make (spec/09 R203); `other` stands for the requests it may not make. -/
inductive HookOp where
  | on | off | fence | unfence | reset | other
deriving DecidableEq, Repr

/-- One request of a hook module (spec/09 R203). -/
structure HookReq where
  op : HookOp
  unit : UnitId
deriving DecidableEq, Repr

/-- The figures of `ration pen<p> rate|cap|floor` (spec/10 R229). -/
inductive RatFigure where
  | rate | cap | floor
deriving DecidableEq, Repr

/-- The figures of `x task pen<p> <s> set` (spec/10 R230). -/
structure TaskSet where
  pri : Nat
  cls : Nat
  cost : Nat
  tsb : Nat
deriving DecidableEq, Repr

/-- The input balls (spec/11 R234, R248, spec/17 R385). -/
inductive PinId where
  | wake (n : Fin 16) | halt (n : Fin 8) | gpio (n : Fin 64)
deriving DecidableEq, Repr

/-- The arguments of `evr line` (spec/11 R252). -/
structure LineSet where
  prio : Nat
  pens : Option (List Nat)
  oneshot : Option Bool
  en : Option Bool
deriving DecidableEq, Repr

/-- A request waiting at a Mycelium port: of a core's buffer or load port, a DMA mover, a tile engine or a Drove core's spill engine (spec/13
R273). -/
inductive ReqRef where
  | core (c : Fin 32)
  | mover (m : Fin 4)
  | tile (t : Fin 8)
  | spill (c : Fin 32)
deriving DecidableEq, Repr

/-- The arguments of `mem win` (spec/13 R289). -/
structure WinSet where
  base : Nat
  limit : Nat
  perms : List (Fin 6)
deriving DecidableEq, Repr

/-- The arguments of `dma cfg` (spec/14 R314); a class is 1 TETHER, 2 DROVE, 3 BULK. -/
structure DmaCfg where
  prio : Option Nat
  cls : Option Nat
  retry : Option Nat
  backoff : Option Nat
  movers : Option Nat
deriving DecidableEq, Repr

/-- A CAN frame as received (spec/16). -/
structure CanFrame where
  ext : Bool
  id : BitVec 29
  rtr : Bool
  fd : Bool
  brs : Bool
  esi : Bool
  dlc : BitVec 4
  bytes : List (BitVec 8)
deriving DecidableEq, Repr

/-- A field port (spec/16 R345). -/
inductive FieldPort where
  | t1s (n : Fin 4) | can (n : Fin 4) | gbe (n : Fin 2) | uart (n : Fin 8)
deriving DecidableEq, Repr

/-- A requester of buffers (spec/16 R349). -/
inductive ReqId where
  | port (u : FieldPort)
  | dma (c : Fin 64)
  | fold (f : Fin 8)
deriving DecidableEq, Repr

/-- The timing figures of one CAN bit rate (spec/16 R358). -/
structure CanTiming where
  brp : Nat
  tseg1 : Nat
  tseg2 : Nat
  sjw : Nat
deriving DecidableEq, Repr

/-- The arguments of `can filter` (spec/16 R370). -/
structure CanFilt where
  id : Nat
  mask : Nat
  ext : Bool
  fold : Fin 8
  rx : Bool
  tx : Bool
deriving DecidableEq, Repr

/-- The arguments of `uart` (spec/16 R370): a mode is 0 raw, 1 modbus, 2 iec. -/
structure UartSet where
  baud : Nat
  fmt : Option (Fin 4)
  mode : Fin 3
  rs485 : Option (Nat × Nat)
  idle : Option Nat
deriving DecidableEq, Repr

/-- The arguments of `pwm cfg` (spec/17 R392); `halter` is `some none` for the word none. -/
structure PwmCfg where
  pre : Nat
  per : Nat
  polHigh : Option Bool
  halter : Option (Option Nat)
  foldsafe : Option Bool
  pev : Option Bool
deriving DecidableEq, Repr

/-- The commands: one constructor per row of spec/opcode_table.json, in its order. -/
inductive Instr where
  /-- `POWER_ON_RESET`, R436: VIN first applied, or VIN below 2.5 V or the device in OFF, followed by a rise of VIN causes a power-on reset that clears the RTC, the PMU log and retention RAM. -/
  | powerOnReset (up : PowerUp)
  /-- `BROWN_OUT_RESET`, R26: VIN falling below 4.1 V for 1 µs causes a device reset that keeps retention RAM while VIN stays at or above 2.5 V. -/
  | brownOutReset (vin : Nat)
  /-- `OVER_VOLTAGE_RESET`, R35: VIN above 38.0 V for 1 µs stops the input converter and enters over-voltage reset. -/
  | overVoltageReset (vin : Nat)
  /-- `OVER_TEMPERATURE_RESET`, R32: Tj at or above 165 °C stops the input converter and enters over-temperature reset. -/
  | overTemperatureReset (k : Fin 10) (tj : Int)
  /-- `PIN_RESET`, R419: RESET_N held low for 1 µs or more causes a device reset with cause PIN. -/
  | pinReset
  /-- `RESET_RELEASE`, R439: The release condition for the reset cause is met, and the device leaves reset in the state given by its cause, after which boot runs. -/
  | resetRelease (vin : Nat) (tj : Int) (pll : PllState)
  /-- `SHED_STEP_APPLY`, R26: VIN below a step threshold for 2 µs, a thermal trip or a simulation applies the shedding step, which fences the step's units with cause SHED and raises !SHED. -/
  | shedStepApply (n : Fin 5) (cause : ShedCause) (vin : Nat)
  /-- `TILE_COMMIT_WINDOW_EXPIRY`, R26: At S1 the 400 CLK_CORE-cycle commit window expires, and every uncommitted tile operation is aborted before the tile engines and GbE MACs are shed. -/
  | tileCommitWindowExpiry
  /-- `SHED_DRAIN_TIMEOUT`, R285: A shedding drain that is not complete within 400 CLK_FAB cycles discards the unissued entries, writes a Bellwether record, raises !SB LOST and then applies the step. -/
  | shedDrainTimeout
  /-- `S5_SAVE_COPY`, R31: After the S5 drain, the S5 save region is copied from shared SRAM into retention RAM at 0x1900_2000. -/
  | s5SaveCopy
  /-- `RESTORE_ELIGIBLE`, R28: Every cause of an applied step has stayed clear for 10 ms, and the step becomes eligible for restore with !ELIG. -/
  | restoreEligible (n : Fin 5) (vin : Nat) (tj : Int)
  /-- `THERM_WARN`, R32: Tj reaching 135 °C sets PMU.THERM.WARN and raises !THERM WARN. -/
  | thermWarn (k : Fin 10) (tj : Int)
  /-- `THERM_TRIP`, R32: Tj reaching 150 °C applies S1 and S2 with cause THERM and raises !THERM TRIP. -/
  | thermTrip (k : Fin 10) (tj : Int)
  /-- `CLK_FAIL`, R38: No XTAL_IN edge for 4 µs, or a loss of PLL lock, switches the clocks to the fallback oscillator, fences the clocked ports with cause CLOCK and raises !CLK FAIL. -/
  | clkFail (refLost : Bool)
  /-- `PLL_RELOCK`, R38: During fallback, the root PLL locks within 200 µs of the reference returning, and PMU.CLK.LOCK reads 1. -/
  | pllRelock
  /-- `LINE_BREAK`, R62: RXD held low for 1 ms resets the port's session and settings and raises !SESS BREAK, or acts as a wake source in RETAIN and SPORE when armed. -/
  | lineBreak (p : MgPort)
  /-- `RTC_SECOND_TICK`, R438: The RTC seconds count advances by one. -/
  | rtcSecondTick
  /-- `WAKE_FROM_IDLE`, R23: An armed source, a priority-7 event or a Brenex line restarts the core clocks and leaves IDLE for the wake target, raising !WAKE. -/
  | wakeFromIdle (w : WakeSrc)
  /-- `WAKE_FROM_RETAIN`, R23: An armed source starts the 253 µs wake, in which rails and PLL return, latched events are presented and deferred shedding is applied. -/
  | wakeFromRetain (w : WakeSrc) (pll : PllState)
  /-- `WAKE_FROM_SPORE`, R25: An armed source causes a device reset with cause SPORE that keeps retention RAM, the RTC, the wake target and the halter configuration. -/
  | wakeFromSpore (w : WakeSrc)
  /-- `POWER_DRAIN_COMPLETE`, R284: The store buffers and held bursts have drained for an accepted power-state command, and the state transition proceeds. -/
  | powerDrainComplete
  /-- `POWER_DRAIN_TIMEOUT`, R284: A power-state drain exceeds 400 CLK_FAB cycles, the command is refused with er 40, and the cores and movers are released. -/
  | powerDrainTimeout
  /-- `POWER_STATE_ENTRY_COMPLETE`, R23: Entry into the commanded power state completes within its entry time. -/
  | powerStateEntryComplete
  /-- `PMU_CMD_RUN`, R22: A PMU.CMD write with REQ RUN and a matching GEN commands RUN. -/
  | pmuCmdRun (a : Agent) (g : BitVec 16)
  /-- `PMU_CMD_SLOW`, R22: A PMU.CMD write with REQ SLOW commands SLOW. -/
  | pmuCmdSlow (a : Agent) (g : BitVec 16)
  /-- `PMU_CMD_IDLE`, R22: A PMU.CMD write with REQ IDLE drains the store buffers and commands IDLE. -/
  | pmuCmdIdle (a : Agent) (g : BitVec 16)
  /-- `PMU_CMD_RETAIN`, R24: A PMU.CMD write with REQ RETAIN commands RETAIN, and is refused when no wake source is armed. -/
  | pmuCmdRetain (a : Agent) (g : BitVec 16)
  /-- `PMU_CMD_SPORE`, R24: A PMU.CMD write with REQ SPORE commands SPORE, and is refused when the wake target is IDLE or no source is armed. -/
  | pmuCmdSpore (a : Agent) (g : BitVec 16)
  /-- `PMU_CMD_OFF`, R22: A PMU.CMD write with REQ OFF commands OFF. -/
  | pmuCmdOff (a : Agent) (g : BitVec 16)
  /-- `PMU_WAKE_WRITE`, R24: A write to PMU.WAKE sets the wake target, and a value of 3 is refused with REFUSED set. -/
  | pmuWakeWrite (a : Agent) (v : Word)
  /-- `PMU_RESTORE_WRITE`, R29: A write to PMU.RESTORE restores applied steps from the deepest upward, and sets REFUSED when the deepest is not eligible. -/
  | pmuRestoreWrite (a : Agent) (v : Word)
  /-- `LWATCH_WRITE`, R30: A write to PMU.LWATCH designates the last-watch pen, and is refused for a Drove pen or while S4 is applied. -/
  | lwatchWrite (a : Agent) (v : Word)
  /-- `KEEPAFE_WRITE`, R30: A write to PMU.KEEPAFE designates up to 4 kept AFE channels, and is refused while S3 is applied. -/
  | keepafeWrite (a : Agent) (v : Word)
  /-- `KEEPPORT_WRITE`, R30: A write to PMU.KEEPPORT designates the kept CAN ports and T1S port within their counts. -/
  | keepportWrite (a : Agent) (v : Word)
  /-- `KEEPDMA_WRITE`, R30: A write to PMU.KEEPDMALO or KEEPDMAHI designates kept DMA channels of the last-watch pen's fold. -/
  | keepdmaWrite (a : Agent) (hi : Bool) (v : Word)
  /-- `S5_REGION_WRITE`, R31: A write to PMU.S5BASE or S5LEN sets the S5 save region, and is refused while S5 is applied or when the length exceeds 32. -/
  | s5RegionWrite (a : Agent) (len : Bool) (v : Word)
  /-- `PWR`, R41: Brenex pwr shows the state, wake target, armed sources, VIN, Tj and the applied steps. -/
  | pwr (o : Via)
  /-- `PWR_RUN`, R41: Brenex pwr run commands RUN. -/
  | pwrRun (o : Via)
  /-- `PWR_SLOW`, R41: Brenex pwr slow commands SLOW, with a glitch-free switch of CLK_CORE. -/
  | pwrSlow (o : Via)
  /-- `PWR_IDLE`, R41: Brenex pwr idle commands IDLE after the ok line has been sent. -/
  | pwrIdle (o : Via)
  /-- `PWR_RETAIN`, R41: Brenex pwr retain commands RETAIN. -/
  | pwrRetain (o : Via)
  /-- `PWR_SPORE`, R41: Brenex pwr spore commands SPORE. -/
  | pwrSpore (o : Via)
  /-- `PWR_OFF`, R41: Brenex pwr off commands OFF. -/
  | pwrOff (o : Via)
  /-- `PWR_WAKE`, R41: Brenex pwr wake sets the wake target. -/
  | pwrWake (o : Via) (t : Fin 3)
  /-- `PWR_ARM`, R41: Brenex pwr arm arms the named wake sources. -/
  | pwrArm (o : Via) (ws : List ArmSrc)
  /-- `PWR_DISARM`, R41: Brenex pwr disarm disarms the named wake sources. -/
  | pwrDisarm (o : Via) (ws : List ArmSrc)
  /-- `PWR_RESTORE`, R29: Brenex pwr restore restores the eligible steps and raises !RESTORE. -/
  | pwrRestore (o : Via) (n : Option (Fin 5))
  /-- `SHED`, R41: Brenex shed shows the thresholds, the steps and the designations. -/
  | shed (o : Via)
  /-- `SHED_LASTWATCH`, R30: Brenex shed lastwatch designates or clears the last-watch pen. -/
  | shedLastwatch (o : Via) (p : Option (Fin 8))
  /-- `SHED_KEEP`, R30: Brenex shed keep designates the kept AFE channels, CAN ports, T1S port or DMA channels. -/
  | shedKeep (o : Via) (w : KeepKind) (ns : List Nat)
  /-- `SHED_SAVE`, R31: Brenex shed save sets or clears the S5 save region. -/
  | shedSave (o : Via) (r : Option (Nat × Nat))
  /-- `CLK`, R41: Brenex clk shows the reference, lock and fallback status. -/
  | clk (o : Via)
  /-- `THERM`, R41: Brenex therm shows Tj, the highest sensor, and the warning and trip status. -/
  | therm (o : Via)
  /-- `RTC`, R41: Brenex rtc reads the RTC seconds. -/
  | rtc (o : Via)
  /-- `RTC_SET`, R41: Brenex rtc set sets the RTC seconds. -/
  | rtcSet (o : Via) (n : Nat)
  /-- `RTC_ALARM`, R41: Brenex rtc alarm arms or clears the RTC alarm. -/
  | rtcAlarm (o : Via) (n : Option Nat)
  /-- `X_PWR_VMON`, R42: Brenex x pwr vmon shows VIN, its minimum, the rails and the threshold filters. -/
  | xPwrVmon (o : Via)
  /-- `X_PWR_SIM`, R42: Brenex x pwr sim applies every step up to the one named, with cause SIM. -/
  | xPwrSim (o : Via) (n : Fin 5)
  /-- `X_PWR_SIM_OFF`, R42: Brenex x pwr sim off clears cause SIM. -/
  | xPwrSimOff (o : Via)
  /-- `X_THERM_SIM`, R42: Brenex x therm sim replaces the sensor maximum with a test value, or returns it to the real sensors. -/
  | xThermSim (o : Via) (t : Option Int)
  /-- `X_CLK_RESTORE`, R38: Brenex x clk restore leaves clock fallback when the reference is present and the PLL is locked. -/
  | xClkRestore (o : Via)
  /-- `X_PWR_LOG`, R42: Brenex x pwr log lists the last 32 PMU records. -/
  | xPwrLog (o : Via)
  /-- `CHARACTER_RECEIVED`, R45: A character arrives on MGA or MGB, and is echoed, edited, buffered or flagged as a framing error. -/
  | characterReceived (p : MgPort) (ch : Byte) (bad : Bool)
  /-- `TYPED_LINE`, R46: A terminated typed line is parsed with prefix abbreviation and executed, then followed by a status line and the prompt. -/
  | typedLine (p : MgPort)
  /-- `GENERATED_LINE`, R48: A terminated generated line is checked for its CRC and sequence number and executed, with its responses carrying its sequence number. -/
  | generatedLine (p : MgPort)
  /-- `EVENT_TRANSMIT`, R52: A queued event line is sent between responses, preceded by !LOST when events were discarded. -/
  | eventTransmit (p : MgPort)
  /-- `LOGIN`, R56: Brenex login issues a 128-bit challenge nonce for the role and scope. -/
  | login (o : Via) (r : Role) (fold : Option (Fin 8))
  /-- `AUTH`, R56: Brenex auth checks the HMAC and raises the session's role with !SESS, or fails with !AUTH FAIL. -/
  | auth (o : Via) (mac : BitVec 256)
  /-- `AUTH_BLOCK_EXPIRY`, R56: The 60 s login block after three failed auth attempts expires. -/
  | authBlockExpiry (p : MgPort)
  /-- `SESSION_TIMEOUT`, R57: The inactivity timeout expires, and the session drops to observe with !SESS TIMEOUT. -/
  | sessionTimeout (p : MgPort)
  /-- `LOGOUT`, R57: Brenex logout drops the session to observe and releases its lock. -/
  | logout (o : Via)
  /-- `HELP`, R64: Brenex help lists the verbs, or the syntax of one verb. -/
  | help (o : Via) (verb : Option String)
  /-- `INV`, R64: Brenex inv shows the variant, stepping, firmware and the presence of every unit. -/
  | inv (o : Via)
  /-- `WHO`, R64: Brenex who shows the role, scope, lock and idle time of both ports. -/
  | who (o : Via)
  /-- `SESS`, R64: Brenex sess shows this port's settings. -/
  | sess (o : Via)
  /-- `SESS_ECHO`, R64: Brenex sess echo sets echo on or off. -/
  | sessEcho (o : Via) (on : Bool)
  /-- `SESS_BAUD`, R64: Brenex sess baud sets the port's rate and format after the ok line. -/
  | sessBaud (o : Via) (rate : Nat) (fmt : Option (Fin 4))
  /-- `SESS_TIMEOUT`, R64: Brenex sess timeout sets the inactivity timeout. -/
  | sessTimeout (o : Via) (n : Nat)
  /-- `SESS_LOCK`, R60: Brenex sess lock reserves commands of operate rank and above to this port. -/
  | sessLock (o : Via)
  /-- `SESS_UNLOCK`, R60: Brenex sess unlock releases the lock. -/
  | sessUnlock (o : Via)
  /-- `EV`, R64: Brenex ev shows the port's event filter and its lost-event count. -/
  | ev (o : Via)
  /-- `EV_SET`, R64: Brenex ev on or ev off enables or disables event classes. -/
  | evSet (o : Via) (on : Bool) (cs : List EvClass)
  /-- `LOG`, R64: Brenex log lists the last Bellwether records. -/
  | log (o : Via) (n : Option Nat)
  /-- `X_PEEK`, R65: Brenex x peek reads 1 to 64 cells as data-path reads. -/
  | xPeek (o : Via) (addr : Nat) (n : Option Nat)
  /-- `X_POKE`, R65: Brenex x poke writes one cell through the state arbiter, with an optional generation. -/
  | xPoke (o : Via) (addr : Nat) (v : Nat) (g : Option Nat)
  /-- `X_BRX`, R65: Brenex x brx shows the counters of both ports. -/
  | xBrx (o : Via)
  /-- `X_BRX_CLEAR`, R65: Brenex x brx clear clears this port's counters. -/
  | xBrxClear (o : Via)
  /-- `X_CRC`, R65: Brenex x crc prints the CRC-16/CCITT-FALSE of a text. -/
  | xCrc (o : Via) (text : String)
  /-- `X_SESS_KILL`, R65: Brenex x sess kill ends the other port's session and releases its lock. -/
  | xSessKill (o : Via) (p : MgPort)
  /-- `MG_CFG_WRITE`, R66: A write to MGA.CFG or MGB.CFG acts as sess baud or sess echo on that port. -/
  | mgCfgWrite (a : Agent) (p : MgPort) (v : Word)
  /-- `MG_EVMASK_WRITE`, R66: A write to EVMASK acts as ev on that port. -/
  | mgEvmaskWrite (a : Agent) (p : MgPort) (v : Word)
  /-- `READY`, R63: After boot, each present management port sends !READY with the variant, stepping and reset cause, then the queued events. -/
  | ready
  /-- `UNIT_LIST`, R86: Brenex unit lists every unit with its state, generation and fence causes. -/
  | unitList (o : Via)
  /-- `UNIT_SHOW`, R86: Brenex unit followed by a unit name shows that unit's state, generation, causes and fold. -/
  | unitShow (o : Via) (u : UnitId)
  /-- `UNIT_ON`, R68: Brenex unit on moves a unit from OFF to IDLE. -/
  | unitOn (o : Via) (u : UnitId) (g : Option Nat)
  /-- `UNIT_OFF`, R68: Brenex unit off moves a unit from IDLE or FAULT to OFF. -/
  | unitOff (o : Via) (u : UnitId) (g : Option Nat)
  /-- `FENCE`, R73: Brenex fence applies fence cause CMD to a unit and its contents. -/
  | fence (o : Via) (u : UnitId) (g : Option Nat)
  /-- `UNFENCE`, R74: Brenex unfence clears cause CMD, and raises !UNFENCE when no cause remains. -/
  | unfence (o : Via) (u : UnitId) (g : Option Nat)
  /-- `RESET_UNIT`, R78: Brenex reset resets one unit and its contents. -/
  | resetUnit (o : Via) (u : UnitId) (g : Option Nat)
  /-- `RESET_DEVICE`, R86: Brenex reset device causes a device reset with cause CMD after the ok line. -/
  | resetDevice (o : Via)
  /-- `UNIT_ADOPT_MGMT`, R77: Brenex unit adopt mgmt rewrites the hardware from the shadow and clears DISAGREE. -/
  | unitAdoptMgmt (o : Via) (u : UnitId) (g : Option Nat)
  /-- `UNIT_ADOPT_DATA`, R77: Brenex unit adopt data rewrites the shadow from the hardware and clears DISAGREE. -/
  | unitAdoptData (o : Via) (u : UnitId) (g : Option Nat)
  /-- `X_STATE`, R87: Brenex x state shows the shadow and hardware copies of a unit's registers. -/
  | xState (o : Via) (u : UnitId)
  /-- `X_STATE_LOG`, R87: Brenex x state log lists the last 32 arbiter decisions. -/
  | xStateLog (o : Via)
  /-- `X_STATE_SIM_DISAGREE`, R87: Brenex x state sim disagree corrupts a unit's shadow state, to test disagreement handling. -/
  | xStateSimDisagree (o : Via) (u : UnitId)
  /-- `STATE_REQ_ON`, R88: A STATE.REQ write with OP ON requests OFF to IDLE through the arbiter. -/
  | stateReqOn (a : Agent) (u : UnitId) (g : Option (BitVec 16))
  /-- `STATE_REQ_OFF`, R88: A STATE.REQ write with OP OFF requests the move to OFF. -/
  | stateReqOff (a : Agent) (u : UnitId) (g : Option (BitVec 16))
  /-- `STATE_REQ_FENCE`, R88: A STATE.REQ write with OP FENCE applies cause CMD. -/
  | stateReqFence (a : Agent) (u : UnitId) (g : Option (BitVec 16))
  /-- `STATE_REQ_UNFENCE`, R88: A STATE.REQ write with OP UNFENCE clears cause CMD. -/
  | stateReqUnfence (a : Agent) (u : UnitId) (g : Option (BitVec 16))
  /-- `STATE_REQ_RESET`, R88: A STATE.REQ write with OP RESET resets the unit. -/
  | stateReqReset (a : Agent) (u : UnitId) (g : Option (BitVec 16))
  /-- `STATE_REQ_ADOPT_MGMT`, R88: A STATE.REQ write with OP ADOPT MGMT adopts the shadow. -/
  | stateReqAdoptMgmt (a : Agent) (u : UnitId) (g : Option (BitVec 16))
  /-- `STATE_REQ_ADOPT_DATA`, R88: A STATE.REQ write with OP ADOPT DATA adopts the hardware state. -/
  | stateReqAdoptData (a : Agent) (u : UnitId) (g : Option (BitVec 16))
  /-- `SHADOW_SWEEP`, R76: The arbiter sweep compares one unit's shadow with its hardware each CLK_FAB cycle. -/
  | shadowSweep (u : UnitId) (x : Upset)
  /-- `UNIT_RESET_COMPLETE`, R78: A running unit, pen or fold reset completes, raises !RESET and applies the fences held during it. -/
  | unitResetComplete (u : UnitId)
  /-- `RESET_TIMEOUT`, R82: A reset not complete within 100 µs is abandoned, and the unit is fenced with cause MCHECK. -/
  | resetTimeout (u : UnitId)
  /-- `NOP`, R89: NOP does nothing. -/
  | nop (c : Fin 32) (k : Cond)
  /-- `DUP`, R89: DUP copies the top of stack. -/
  | dup (c : Fin 32) (k : Cond)
  /-- `DROP`, R89: DROP pops the top of stack. -/
  | drop (c : Fin 32) (k : Cond)
  /-- `SWAP`, R89: SWAP exchanges the top two cells. -/
  | swap (c : Fin 32) (k : Cond)
  /-- `OVER`, R89: OVER copies the second cell to the top. -/
  | overTos (c : Fin 32) (k : Cond)
  /-- `ROT`, R89: ROT rotates the top three cells. -/
  | rot (c : Fin 32) (k : Cond)
  /-- `NIP`, R89: NIP removes the second cell. -/
  | nip (c : Fin 32) (k : Cond)
  /-- `TUCK`, R89: TUCK copies the top cell below the second cell. -/
  | tuck (c : Fin 32) (k : Cond)
  /-- `TWO_DUP`, R89: 2DUP copies the top two cells. -/
  | twoDup (c : Fin 32) (k : Cond)
  /-- `TWO_DROP`, R89: 2DROP pops the top two cells. -/
  | twoDrop (c : Fin 32) (k : Cond)
  /-- `RPUSH`, R90: RPUSH moves a cell from the data stack to the return stack. -/
  | rpush (c : Fin 32) (k : Cond)
  /-- `RPOP`, R90: RPOP moves a cell from the return stack to the data stack. -/
  | rpop (c : Fin 32) (k : Cond)
  /-- `RCOPY`, R90: RCOPY copies the top return-stack entry to the data stack. -/
  | rcopy (c : Fin 32) (k : Cond)
  /-- `ADD`, R125: ADD adds two cells and sets ZNCV. -/
  | add (c : Fin 32) (k : Cond)
  /-- `SUB`, R125: SUB subtracts two cells and sets ZNCV. -/
  | sub (c : Fin 32) (k : Cond)
  /-- `ADC`, R125: ADC adds two cells and C. -/
  | adc (c : Fin 32) (k : Cond)
  /-- `SBC`, R125: SBC subtracts two cells with borrow. -/
  | sbc (c : Fin 32) (k : Cond)
  /-- `AND`, R125: AND computes the bitwise and of two cells. -/
  | and (c : Fin 32) (k : Cond)
  /-- `OR`, R125: OR computes the bitwise or of two cells. -/
  | or (c : Fin 32) (k : Cond)
  /-- `XOR`, R125: XOR computes the bitwise exclusive or of two cells. -/
  | xor (c : Fin 32) (k : Cond)
  /-- `NOT`, R125: NOT inverts a cell. -/
  | not (c : Fin 32) (k : Cond)
  /-- `NEG`, R125: NEG negates a cell. -/
  | neg (c : Fin 32) (k : Cond)
  /-- `INC`, R125: INC adds 1 to a cell. -/
  | inc (c : Fin 32) (k : Cond)
  /-- `DEC`, R125: DEC subtracts 1 from a cell. -/
  | dec (c : Fin 32) (k : Cond)
  /-- `CMP`, R125: CMP sets the flags of a subtraction and pops both cells. -/
  | cmp (c : Fin 32) (k : Cond)
  /-- `TST`, R125: TST sets Z and N from the top cell and clears C and V. -/
  | tst (c : Fin 32) (k : Cond)
  /-- `SHL`, R126: SHL shifts left by bits 4:0 of n. -/
  | shl (c : Fin 32) (k : Cond)
  /-- `SHR`, R126: SHR shifts right logically. -/
  | shr (c : Fin 32) (k : Cond)
  /-- `SAR`, R126: SAR shifts right arithmetically. -/
  | sar (c : Fin 32) (k : Cond)
  /-- `ROL`, R126: ROL rotates left. -/
  | rol (c : Fin 32) (k : Cond)
  /-- `ROR`, R126: ROR rotates right. -/
  | ror (c : Fin 32) (k : Cond)
  /-- `MIN`, R125: MIN returns the signed minimum. -/
  | min (c : Fin 32) (k : Cond)
  /-- `MAX`, R125: MAX returns the signed maximum. -/
  | max (c : Fin 32) (k : Cond)
  /-- `MINU`, R125: MINU returns the unsigned minimum. -/
  | minu (c : Fin 32) (k : Cond)
  /-- `MAXU`, R125: MAXU returns the unsigned maximum. -/
  | maxu (c : Fin 32) (k : Cond)
  /-- `SEXB`, R125: SEXB sign-extends bits 7:0. -/
  | sexb (c : Fin 32) (k : Cond)
  /-- `SEXH`, R125: SEXH sign-extends bits 15:0. -/
  | sexh (c : Fin 32) (k : Cond)
  /-- `ZEXB`, R125: ZEXB zero-extends bits 7:0. -/
  | zexb (c : Fin 32) (k : Cond)
  /-- `ZEXH`, R125: ZEXH zero-extends bits 15:0. -/
  | zexh (c : Fin 32) (k : Cond)
  /-- `CLZ`, R125: CLZ counts the leading zeros. -/
  | clz (c : Fin 32) (k : Cond)
  /-- `POPC`, R125: POPC counts the bits set. -/
  | popc (c : Fin 32) (k : Cond)
  /-- `BSWAP`, R125: BSWAP reverses the byte order. -/
  | bswap (c : Fin 32) (k : Cond)
  /-- `ADDI`, R125: ADDI adds an immediate. -/
  | addi (c : Fin 32) (k : Cond) (n : ImmForm)
  /-- `SUBI`, R125: SUBI subtracts an immediate. -/
  | subi (c : Fin 32) (k : Cond) (n : ImmForm)
  /-- `ANDI`, R125: ANDI ands an immediate. -/
  | andi (c : Fin 32) (k : Cond) (n : ImmForm)
  /-- `ORI`, R125: ORI ors an immediate. -/
  | ori (c : Fin 32) (k : Cond) (n : ImmForm)
  /-- `XORI`, R125: XORI exclusive-ors an immediate. -/
  | xori (c : Fin 32) (k : Cond) (n : ImmForm)
  /-- `CMPI`, R125: CMPI sets the flags of a subtraction of an immediate. -/
  | cmpi (c : Fin 32) (k : Cond) (n : ImmForm)
  /-- `LIT_S`, R121: LIT.S pushes a sign-extended 9-bit immediate. -/
  | litS (c : Fin 32) (k : Cond) (n : BitVec 9)
  /-- `LIT`, R121: LIT pushes a 16-bit sign-extended or 32-bit immediate. -/
  | lit (c : Fin 32) (k : Cond) (n : ImmForm)
  /-- `MUL`, R127: MUL writes the signed 64-bit product to MRH:MRL. -/
  | mul (c : Fin 32) (k : Cond)
  /-- `MULU`, R127: MULU writes the unsigned product. -/
  | mulu (c : Fin 32) (k : Cond)
  /-- `MAC`, R127: MAC adds the signed product to MRH:MRL. -/
  | mac (c : Fin 32) (k : Cond)
  /-- `MACU`, R127: MACU adds the unsigned product. -/
  | macu (c : Fin 32) (k : Cond)
  /-- `DIV`, R128: DIV divides signed, truncating, in one 34-cycle uninterruptible step. -/
  | div (c : Fin 32) (k : Cond)
  /-- `DIVU`, R128: DIVU divides unsigned. -/
  | divu (c : Fin 32) (k : Cond)
  /-- `REM`, R128: REM returns the signed remainder. -/
  | rem (c : Fin 32) (k : Cond)
  /-- `REMU`, R128: REMU returns the unsigned remainder. -/
  | remu (c : Fin 32) (k : Cond)
  /-- `PAR8`, R129: PAR8 computes the parity of a byte. -/
  | par8 (c : Fin 32) (k : Cond)
  /-- `PAR32`, R129: PAR32 computes the parity of a cell. -/
  | par32 (c : Fin 32) (k : Cond)
  /-- `BREV8`, R129: BREV8 reverses the bits in each byte. -/
  | brev8 (c : Fin 32) (k : Cond)
  /-- `BREV16`, R129: BREV16 reverses the bits in each half. -/
  | brev16 (c : Fin 32) (k : Cond)
  /-- `BREV32`, R129: BREV32 reverses the bits of the cell. -/
  | brev32 (c : Fin 32) (k : Cond)
  /-- `CRCB`, R129: CRCB feeds one byte into CACC, least significant bit first. -/
  | crcb (c : Fin 32) (k : Cond)
  /-- `LD_B`, R130: LD.B loads a sign-extended byte. -/
  | ldB (c : Fin 32) (k : Cond) (b : Base) (f : MemForm)
  /-- `LD_BU`, R130: LD.BU loads a zero-extended byte. -/
  | ldBu (c : Fin 32) (k : Cond) (b : Base) (f : MemForm)
  /-- `LD_H`, R130: LD.H loads a sign-extended half. -/
  | ldH (c : Fin 32) (k : Cond) (b : Base) (f : MemForm)
  /-- `LD_HU`, R130: LD.HU loads a zero-extended half. -/
  | ldHu (c : Fin 32) (k : Cond) (b : Base) (f : MemForm)
  /-- `LD_W`, R130: LD.W loads a cell. -/
  | ldW (c : Fin 32) (k : Cond) (b : Base) (f : MemForm)
  /-- `ST_B`, R130: ST.B stores a byte, locally or through the store buffer. -/
  | stB (c : Fin 32) (k : Cond) (b : Base) (f : MemForm)
  /-- `ST_H`, R130: ST.H stores a half. -/
  | stH (c : Fin 32) (k : Cond) (b : Base) (f : MemForm)
  /-- `ST_W`, R130: ST.W stores a cell. -/
  | stW (c : Fin 32) (k : Cond) (b : Base) (f : MemForm)
  /-- `LOAD_DATA_RETURN`, R131: A non-local load's data arrives and completes into its level's bank, or raises a deferred bus error. -/
  | loadDataReturn (c : Fin 32) (l : Fin 8)
  /-- `STM_W`, R133: STM.W stores the masked window cells. -/
  | stmW (c : Fin 32) (k : Cond) (b : Base) (m : MultiForm) (x : Option Nat)
  /-- `STM_D`, R133: STM.D stores the masked stack cells and pops h + 1 cells. -/
  | stmD (c : Fin 32) (k : Cond) (b : Base) (m : MultiForm) (x : Option Nat)
  /-- `LDM_W`, R133: LDM.W loads the masked window cells. -/
  | ldmW (c : Fin 32) (k : Cond) (b : Base) (m : MultiForm)
  /-- `LDM_D`, R133: LDM.D pushes h + 1 cells, loading the masked ones. -/
  | ldmD (c : Fin 32) (k : Cond) (b : Base) (m : MultiForm)
  /-- `BR_S`, R135: BR.S branches by a 9-bit offset. -/
  | brS (c : Fin 32) (k : Cond) (n : BitVec 9)
  /-- `BR`, R135: BR branches by a 16-bit or 32-bit offset. -/
  | br (c : Fin 32) (k : Cond) (n : ImmForm)
  /-- `CALL`, R135: CALL pushes the return address and branches. -/
  | call (c : Fin 32) (k : Cond) (n : ImmForm)
  /-- `RET`, R135: RET pops the return address and branches to it. -/
  | ret (c : Fin 32) (k : Cond)
  /-- `JMPT`, R135: JMPT jumps to an address taken from the stack. -/
  | jmpt (c : Fin 32) (k : Cond)
  /-- `CALLT`, R135: CALLT calls an address taken from the stack. -/
  | callt (c : Fin 32) (k : Cond)
  /-- `ENTER`, R94: ENTER opens a new frame window and lowers FP by 48 bytes. -/
  | enter (c : Fin 32) (k : Cond)
  /-- `LEAVE`, R94: LEAVE returns to the previous window and raises FP by 48 bytes. -/
  | leave (c : Fin 32) (k : Cond)
  /-- `STKWB`, R92: STKWB writes every cached stack and window cell to memory. -/
  | stkwb (c : Fin 32) (k : Cond)
  /-- `SYNC`, R136: SYNC waits until every store-buffer entry has been accepted. -/
  | sync (c : Fin 32) (k : Cond)
  /-- `WAIT`, R137: WAIT stops fetching until an event arrives (Tether), or gives up the core (Drove). -/
  | wait (c : Fin 32) (k : Cond)
  /-- `GATE`, R195: GATE n checks descriptor n and its arguments, writes a frame and enters the handler at the target level. -/
  | gate (c : Fin 32) (k : Cond) (n : BitVec 8)
  /-- `GRET`, R197: GRET returns from a gate frame with RETC results. -/
  | gret (c : Fin 32) (k : Cond)
  /-- `ERET`, R193: ERET returns from an exception frame. -/
  | eret (c : Fin 32) (k : Cond)
  /-- `RETI`, R154: RETI returns from a Tether level, restoring PC, FLG, PRIV and the extended state. -/
  | reti (c : Fin 32) (k : Cond)
  /-- `MFS`, R97: MFS pushes a special register. -/
  | mfs (c : Fin 32) (k : Cond) (n : BitVec 5)
  /-- `MTS`, R97: MTS writes a special register, and re-points a stack where the register is a stack pointer. -/
  | mts (c : Fin 32) (k : Cond) (n : BitVec 5)
  /-- `RPT`, R109: RPT loads RC and repeats the following string instruction. -/
  | rpt (c : Fin 32) (k : Cond)
  /-- `MOVS`, R138: MOVS copies elements from RS to RD. -/
  | movs (c : Fin 32) (k : Cond) (z : ESize) (m : Option Nat)
  /-- `FILLS`, R138: FILLS fills elements at RD. -/
  | fills (c : Fin 32) (k : Cond) (z : ESize) (m : Option Nat)
  /-- `CMPS`, R138: CMPS compares elements at RS and RD, ending on a difference. -/
  | cmps (c : Fin 32) (k : Cond) (z : ESize) (m : Option Nat)
  /-- `SCANS`, R138: SCANS scans RS for a value. -/
  | scans (c : Fin 32) (k : Cond) (z : ESize) (m : Option Nat)
  /-- `CRCS`, R138: CRCS feeds bytes at RS into CACC. -/
  | crcs (c : Fin 32) (k : Cond) (m : Option Nat)
  /-- `PARS`, R138: PARS XORs bytes at RS into CACC. -/
  | pars (c : Fin 32) (k : Cond) (m : Option Nat)
  /-- `CUSTOM_OPCODE`, R140: A custom opcode executes as the fold's signed overlay defines it. -/
  | customOpcode (c : Fin 32) (k : Cond) (op : CustomOp)
  /-- `SPILL_CELL`, R91: The Drove spill engine spills or fills one cached cell in a free port cycle. -/
  | spillCell (c : Fin 32)
  /-- `STORE_ISSUE`, R280: The oldest store-buffer entry is issued to Mycelium. -/
  | storeIssue (c : Fin 32)
  /-- `STORE_ACCEPT`, R280: A target accepts an issued store entry, which leaves the buffer. -/
  | storeAccept (e : StoreRef)
  /-- `POSTED_STORE_ERROR`, R282: A posted store's later error raises exception 0x09 with POSTED at a qualifying boundary. -/
  | postedStoreError (c : Fin 32)
  /-- `EXCEPTION_ENTRY`, R191: An exception writes a frame at the handler level's gate stack and enters the handler with the record address. -/
  | exceptionEntry (c : Fin 32) (x : ExcReq)
  /-- `INTERRUPT_ENTRY`, R152: A presented level above the current level with IE 1 is entered in 5 uninterruptible cycles through the vector table. -/
  | interruptEntry (c : Fin 32)
  /-- `DISPATCH_DECISION`, R223: The pen picks the highest-priority affordable ready slot in 8 cycles and reserves its COST. -/
  | dispatchDecision (p : Fin 8)
  /-- `TASK_SWITCH`, R147: Once the spare bank is empty, a Drove core saves the outgoing block, exchanges banks and restores the incoming block. -/
  | taskSwitch (t : SwitchOf)
  /-- `PERSSEL_WRITE`, R143: A write to PENn.PERSSEL selects the next personality, refused for the last-watch pen, a missing golden image or a stale generation. -/
  | persselWrite (a : Agent) (p : Fin 8) (v : Word)
  /-- `PEN`, R161: Brenex pen shows every pen's personalities, fold, state and last-watch mark. -/
  | pen (o : Via)
  /-- `PEN_SHOW`, R161: Brenex pen followed by a pen number shows that pen per core. -/
  | penShow (o : Via) (p : Fin 8)
  /-- `PEN_PERS`, R161: Brenex pen pers sets PERSSEL.NEXT. -/
  | penPers (o : Via) (p : Fin 8) (tether : Bool) (g : Option Nat)
  /-- `X_CORE`, R162: Brenex x core shows a core's special and save registers. -/
  | xCore (o : Via) (c : Fin 32)
  /-- `X_CORE_TSB`, R162: Brenex x core tsb shows the task-state block. -/
  | xCoreTsb (o : Via) (c : Fin 32)
  /-- `X_PEN_HWM_CLEAR`, R162: Brenex x pen hwm clear clears the high-water marks. -/
  | xPenHwmClear (o : Via) (p : Fin 8)
  /-- `SCRUB_STEAL`, R177: The scrubber reads one control-store beat, checks its parity and compares it with the golden copy. -/
  | scrubSteal (p : Fin 8)
  /-- `SCRUB_PASS_LATE`, R179: A scrub pass not complete within 4 ms sets LATE. -/
  | scrubPassLate (p : Fin 8)
  /-- `UCODE_PARITY`, R181: A parity error found on use fences the pen with cause MCHECK and raises !UCODE PARITY. -/
  | ucodeParity (c : Fin 32) (off : Nat)
  /-- `UCODE_GOLDEN`, R183: An uncorrectable ECC error in a golden beat raises 0x11 and starts a reload of the image from flash. -/
  | ucodeGolden (slot : GoldenSlot) (off : Nat)
  /-- `GOLDEN_RELOAD`, R410: The Bellwether rereads and rechecks the base-image section, or marks it unusable with !UCODE GOLDEN FAIL. -/
  | goldenReload (slot : GoldenSlot)
  /-- `CS_INJ_GO`, R187: A PENn.CS.INJ write with GO flips a parity bit of the target beat. -/
  | csInjGo (a : Agent) (p : Fin 8) (v : Word)
  /-- `UCODE`, R185: Brenex ucode shows the images, the overlays and each pen's scrub status. -/
  | ucode (o : Via)
  /-- `UCODE_PEN`, R185: Brenex ucode followed by a pen number shows that pen's control-store status. -/
  | ucodePen (o : Via) (p : Fin 8)
  /-- `X_UCODE_CHECK`, R186: Brenex x ucode check runs the overlay rules without staging. -/
  | xUcodeCheck (o : Via) (addr : Nat)
  /-- `X_UCODE_LOAD`, R176: Brenex x ucode load checks and stages an overlay and raises !UCODE STAGED. -/
  | xUcodeLoad (o : Via) (f : Fin 8) (tether : Bool) (addr : Nat)
  /-- `X_UCODE_UNLOAD`, R186: Brenex x ucode unload stages an empty overlay. -/
  | xUcodeUnload (o : Via) (f : Fin 8) (tether : Bool)
  /-- `X_UCODE_CANCEL`, R186: Brenex x ucode cancel discards the staged overlay. -/
  | xUcodeCancel (o : Via)
  /-- `X_UCODE_PEEK`, R186: Brenex x ucode peek reads beats from the array or the golden copy. -/
  | xUcodePeek (o : Via) (p : Fin 8) (off : Nat) (n : Option Nat) (golden : Bool)
  /-- `X_UCODE_INJECT`, R186: Brenex x ucode inject flips a parity bit of a beat. -/
  | xUcodeInject (o : Via) (p : Fin 8) (off : Nat)
  /-- `MACHINE_CHECK`, R202: A machine check is fenced in hardware, then within 2 µs the Bellwether writes a record, raises !MCHK and calls the hook. -/
  | machineCheck (u : UnitId) (code : Byte) (hook : List HookReq)
  /-- `HOOK_TIMEOUT`, R203: A hook that has not returned within 50 µs is abandoned with a type 4 record, and is disabled after 3 abandonments. -/
  | hookTimeout
  /-- `LOCKSTEP_MISMATCH`, R207: A Bellwether lockstep mismatch halts the Bellwether and sends !BW HALT. -/
  | lockstepMismatch
  /-- `EXC`, R209: Brenex exc shows the exception counts per pen. -/
  | exc (o : Via)
  /-- `EXC_PEN`, R209: Brenex exc followed by a pen shows the gate state per core. -/
  | excPen (o : Via) (p : Fin 8)
  /-- `BW`, R209: Brenex bw shows the Bellwether's status. -/
  | bw (o : Via)
  /-- `X_GATE`, R210: Brenex x gate decodes a gate descriptor. -/
  | xGate (o : Via) (p : Fin 8) (n : Nat)
  /-- `X_GATE_TRY`, R210: Brenex x gate try runs the argument checks on given values. -/
  | xGateTry (o : Via) (p : Fin 8) (n : Nat) (xs : List Nat)
  /-- `X_EXC_INJECT`, R210: Brenex x exc inject raises a cause at a core's next boundary. -/
  | xExcInject (o : Via) (c : Fin 32) (code : Nat)
  /-- `X_EXC_CLEAR`, R210: Brenex x exc clear clears PENn.EXCNT. -/
  | xExcClear (o : Via) (p : Fin 8)
  /-- `X_BW_HOOK`, R210: Brenex x bw hook enables or disables the hook module. -/
  | xBwHook (o : Via) (on : Bool)
  /-- `RATION_TICK`, R213: Every 10 µs each account is debited, refilled under derating and clamped to CAP. -/
  | rationTick (p : Fin 8)
  /-- `ESTIMATE_UPDATE`, R214: Every 256 CLK_CORE cycles a core's activity estimate is charged to its account and task. -/
  | estimateUpdate (c : Fin 32) (tile : Nat) (idle : Nat)
  /-- `SLICE_EXPIRY`, R222: A task that has run for SLICE ticks while an equal-priority affordable slot is ready requests a decision. -/
  | sliceExpiry (c : Fin 32)
  /-- `BINDING_WAKE`, R218: Two cycles after a line is delivered, the slot named by its binding entry becomes ready. -/
  | bindingWake (p : Fin 8) (l : Fin 64)
  /-- `RAT_WAKE_WRITE`, R218: A write to PENn.RAT.WAKE wakes the slot. -/
  | ratWakeWrite (a : Agent) (p : Fin 8) (v : Word)
  /-- `SLOT_CTL_WRITE`, R217: A write to PENn.SLOTs.CTL creates, invalidates or stops a slot. -/
  | slotCtlWrite (a : Agent) (p : Fin 8) (n : Fin 256) (v : Word)
  /-- `RAT_XFER_WRITE`, R225: A write to PENn.RAT.XFER moves rate between pens of one fold. -/
  | ratXferWrite (a : Agent) (p : Fin 8) (v : Word)
  /-- `RAT_CTL_WRITE`, R230: A write to PENn.RAT.CTL starts or stops the dispatcher and sets SLICE. -/
  | ratCtlWrite (a : Agent) (p : Fin 8) (v : Word)
  /-- `RATION`, R231: Brenex ration shows the accounts per pen and the budgets per fold. -/
  | ration (o : Via)
  /-- `RATION_PEN`, R231: Brenex ration followed by a pen shows its full account. -/
  | rationPen (o : Via) (p : Fin 8)
  /-- `RATION_PEN_SET`, R231: Brenex ration pen rate, cap or floor sets that figure. -/
  | rationPenSet (o : Via) (p : Fin 8) (w : RatFigure) (pts : Nat)
  /-- `RATION_PEN_THR`, R231: Brenex ration pen thr sets a class threshold. -/
  | rationPenThr (o : Via) (p : Fin 8) (w : Nat) (pts : Nat)
  /-- `RATION_FOLD_RATE`, R231: Brenex ration fold rate sets the fold budget and scales its pens' rates. -/
  | rationFoldRate (o : Via) (f : Fin 8) (pts : Nat)
  /-- `RATION_MOVE`, R231: Brenex ration move moves rate between pens. -/
  | rationMove (o : Via) (p : Fin 8) (q : Fin 8) (pts : Nat)
  /-- `TASK`, R231: Brenex task lists a pen's valid slots. -/
  | task (o : Via) (p : Fin 8)
  /-- `TASK_WAKE`, R231: Brenex task wake wakes a slot. -/
  | taskWake (o : Via) (p : Fin 8) (n : Nat)
  /-- `TASK_STOP`, R217: Brenex task stop stops a slot. -/
  | taskStop (o : Via) (p : Fin 8) (n : Nat)
  /-- `TASK_CLEAR`, R229: Brenex task clear clears a slot's FAULT. -/
  | taskClear (o : Via) (p : Fin 8) (n : Nat)
  /-- `X_RATION_COEF`, R232: Brenex x ration coef shows or sets a coefficient. -/
  | xRationCoef (o : Via) (p : Fin 8) (x : Option (Nat × Nat))
  /-- `X_RATION_SCALE`, R232: Brenex x ration scale sets SCALE. -/
  | xRationScale (o : Via) (p : Fin 8) (n : Nat)
  /-- `X_RATION_DERATE`, R232: Brenex x ration derate sets or disables a derating entry. -/
  | xRationDerate (o : Via) (p : Fin 8) (e : Nat) (x : Option (Nat × Nat))
  /-- `X_RATION_RUN`, R232: Brenex x ration run starts or stops the dispatcher. -/
  | xRationRun (o : Via) (p : Fin 8) (on : Bool) (slice : Option Nat)
  /-- `X_RATION_BOOT`, R232: Brenex x ration boot sets PENn.RAT.BOOT. -/
  | xRationBoot (o : Via) (p : Fin 8) (x : Option Nat)
  /-- `X_TASK_SET`, R232: Brenex x task set writes the slot registers. -/
  | xTaskSet (o : Via) (p : Fin 8) (n : Nat) (x : TaskSet)
  /-- `X_RATION_BIND`, R232: Brenex x ration bind writes a binding entry. -/
  | xRationBind (o : Via) (p : Fin 8) (l : Nat) (x : Option Nat)
  /-- `PIN_INPUT_EDGE`, R235: A WAKE, HALT or GPIO input changes and fires its source under MODE after the filter and synchroniser. -/
  | pinInputEdge (n : PinId) (level : Bool)
  /-- `PENDING_SET`, R237: A source event passes the map and the rate limiter and sets the line's pending bit in the target pens. -/
  | pendingSet (n : Fin 512)
  /-- `LIMITER_TICK`, R245: Every 100 µs RATE tokens are added to the fold's bucket. -/
  | limiterTick (f : Fin 8)
  /-- `EVR_DOOR_WRITE`, R236: A write to EVR.DOOR rings a doorbell if the writer's fold may. -/
  | evrDoorWrite (a : Agent) (v : Word)
  /-- `EVR_SET_WRITE`, R236: A write to EVR.Ff.SET0 or SET1 fires lines directly. -/
  | evrSetWrite (a : Agent) (f : Fin 8) (hi : Bool) (v : Word)
  /-- `EVR_MAP_WRITE`, R235: A write to EVR.SRCn.MAP maps a source to a fold line, refused for foreign, absent or reserved sources. -/
  | evrMapWrite (a : Agent) (n : Fin 512) (v : Word)
  /-- `EVR_LINE_WRITE`, R237: A write to a line entry sets PRIO, PENS, ONESHOT and EN, refused above MAXPRI. -/
  | evrLineWrite (a : Agent) (f : Fin 8) (l : Fin 64) (v : Word)
  /-- `PSET_WRITE`, R240: A write to PSET0 or PSET1 sets Tether pending bits. -/
  | psetWrite (a : Agent) (p : Fin 8) (hi : Bool) (v : Word)
  /-- `PCLR_WRITE`, R240: A write to PCLR0 or PCLR1 clears Tether pending bits. -/
  | pclrWrite (a : Agent) (p : Fin 8) (hi : Bool) (v : Word)
  /-- `MSET_WRITE`, R240: A write to MSET0 or MSET1 unmasks lines on a Tether core. -/
  | msetWrite (a : Agent) (c : Fin 32) (hi : Bool) (v : Word)
  /-- `MCLR_WRITE`, R240: A write to MCLR0 or MCLR1 masks lines on a Tether core. -/
  | mclrWrite (a : Agent) (c : Fin 32) (hi : Bool) (v : Word)
  /-- `PEND_READ`, R242: A Drove core's read of PEND0 or PEND1 clears its NEWc record. -/
  | pendRead (c : Fin 32) (hi : Bool)
  /-- `PEND_WRITE`, R242: A Drove write to PEND stores the value, and any newly pending bit written 0 is lost and recorded. -/
  | pendWrite (a : Agent) (p : Fin 8) (hi : Bool) (v : Word)
  /-- `MASK_WRITE`, R241: A write to a Drove MASK register stores the mask and may deliver pending lines. -/
  | maskWrite (a : Agent) (p : Fin 8) (hi : Bool) (v : Word)
  /-- `ASYNC_LATCH_CAPTURE`, R247: In RETAIN or SPORE a WAKE or HALT edge is captured in EVR.LATCH. -/
  | asyncLatchCapture (n : Fin 24) (level : Bool)
  /-- `HALT_INPUT_ACTIVE`, R248: A HALT input becoming active trips the outputs whose INS include it, which drive SAFE, fire their sources and raise !HALT TRIP. -/
  | haltInputActive (n : Fin 8)
  /-- `HALT_INPUT_INACTIVE`, R248: The last active INS input becoming inactive ends a non-latched, input-made trip. -/
  | haltInputInactive (n : Fin 8)
  /-- `HALT_FORCE_WRITE`, R248: A write of 1 to a bit of HALT.FORCE trips that output. -/
  | haltForceWrite (a : Agent) (v : Word)
  /-- `HALT_CLR_WRITE`, R248: A write of 1 to a bit of HALT.CLR ends a latched or forced trip, unless an INS input is active, and raises !HALT CLEAR. -/
  | haltClrWrite (a : Agent) (v : Word)
  /-- `HALT_LOCK_WRITE`, R250: A write to HALT.CTL.LOCK freezes INCFG and the map entries. -/
  | haltLockWrite (a : Agent) (v : Word)
  /-- `HALT_CFG_MISMATCH`, R254: Differing copies of an output's entry trip it and raise !HALT CFG. -/
  | haltCfgMismatch (j : Fin 8)
  /-- `EVR`, R256: Brenex evr shows the bucket and counters of each fold. -/
  | evr (o : Via)
  /-- `EVR_FOLD`, R256: Brenex evr fold shows a fold's lines, pending bits and masks. -/
  | evrFold (o : Via) (f : Fin 8)
  /-- `EVR_SRC`, R256: Brenex evr src shows a source's map entry. -/
  | evrSrc (o : Via) (n : Nat)
  /-- `EVR_MAP`, R256: Brenex evr map writes a map entry and enables it. -/
  | evrMap (o : Via) (n : Nat) (f : Fin 8) (l : Nat) (mode : Option (Fin 4)) (open_ : Bool)
  /-- `EVR_UNMAP`, R256: Brenex evr unmap clears EN. -/
  | evrUnmap (o : Via) (n : Nat)
  /-- `EVR_LINE`, R256: Brenex evr line writes a line entry. -/
  | evrLine (o : Via) (f : Fin 8) (l : Nat) (x : LineSet)
  /-- `EVR_LIMIT`, R256: Brenex evr limit writes the bucket and priority figures. -/
  | evrLimit (o : Via) (f : Fin 8) (rate : Nat) (depth : Nat) (exempt : Option Nat) (maxpri : Option Nat)
  /-- `EVR_FILTER`, R256: Brenex evr filter sets a pin's input filter. -/
  | evrFilter (o : Via) (n : Nat) (cyc : Nat)
  /-- `EVR_SET`, R256: Brenex evr set fires a line. -/
  | evrSet (o : Via) (f : Fin 8) (l : Nat)
  /-- `HALT`, R256: Brenex halt shows the halter map. -/
  | halt (o : Via)
  /-- `HALT_MAP`, R256: Brenex halt map writes HALT.MAPj. -/
  | haltMap (o : Via) (j : Nat) (ins : Nat) (safe : Option Bool) (latch : Option Bool)
  /-- `HALT_INPUT`, R256: Brenex halt input writes the polarity and filter. -/
  | haltInput (o : Via) (n : Nat) (low : Bool) (flt : Option Nat)
  /-- `HALT_ARM`, R256: Brenex halt arm sets ARM. -/
  | haltArm (o : Via) (j : Nat)
  /-- `HALT_DISARM`, R256: Brenex halt disarm clears ARM. -/
  | haltDisarm (o : Via) (j : Nat)
  /-- `HALT_FORCE`, R256: Brenex halt force trips an output. -/
  | haltForce (o : Via) (j : Nat)
  /-- `HALT_CLEAR`, R256: Brenex halt clear clears a trip. -/
  | haltClear (o : Via) (j : Nat)
  /-- `HALT_LOCK`, R256: Brenex halt lock sets LOCK. -/
  | haltLock (o : Via)
  /-- `X_EVR_RAISE`, R257: Brenex x evr raise fires a source once. -/
  | xEvrRaise (o : Via) (n : Nat)
  /-- `X_EVR_RACE`, R257: Brenex x evr race shows RACE and LOST per core. -/
  | xEvrRace (o : Via) (p : Fin 8)
  /-- `X_EVR_RACE_CLEAR`, R257: Brenex x evr race clear clears them. -/
  | xEvrRaceClear (o : Via) (p : Fin 8)
  /-- `X_EVR_LATCH`, R257: Brenex x evr latch shows EVR.LATCH or clears one bit. -/
  | xEvrLatch (o : Via) (n : Option Nat)
  /-- `X_HALT_SIM`, R257: Brenex x halt sim drives a simulated input value inside the map. -/
  | xHaltSim (o : Via) (n : Nat) (on : Bool)
  /-- `MYC_WINDOW_WRITE`, R271: A write to a window register is checked against the memory map and refused when invalid. -/
  | mycWindowWrite (a : Agent) (f : Fin 8) (w : Fin 16) (lim : Bool) (v : Word)
  /-- `MYC_SHARE_WRITE`, R277: A write to MYC.Ff.SHARE is refused when the total exceeds 512. -/
  | mycShareWrite (a : Agent) (f : Fin 8) (v : Word)
  /-- `MYC_INJ_GO`, R292: A MYC.INJ write with GO flips 1 or 2 check bits of a cell. -/
  | mycInjGo (a : Agent) (v : Word)
  /-- `CREDIT_PERIOD`, R276: Every 64 CLK_FAB cycles SHARE beats are added to each fold's credit, clamped to BURST. -/
  | creditPeriod
  /-- `REQUEST_PROMOTION`, R273: A DROVE or BULK request that has waited 256 CLK_FAB cycles is raised one class. -/
  | requestPromotion (r : ReqRef)
  /-- `REMOTE_ACCESS_PRIORITY`, R275: A remote access waiting 16 cycles on a Drove core's local memory takes the next port cycle. -/
  | remoteAccessPriority (c : Fin 32)
  /-- `ECC_PATROL_READ`, R279: Every 64 CLK_FAB cycles the patrol reads and corrects one beat, or poisons an uncorrectable cell. -/
  | eccPatrolRead
  /-- `ECC_CORR_REPORT`, R290: At most once per second !ECC CORR reports the corrected errors since the last report. -/
  | eccCorrReport
  /-- `MEMORY_INIT_COMPLETE`, R289: Reset memory initialisation completes and sets MYC.STAT.INIT. -/
  | memoryInitComplete
  /-- `MEM`, R290: Brenex mem shows the memory map and the enabled windows. -/
  | mem (o : Via)
  /-- `MEM_FOLD`, R290: Brenex mem fold shows a fold's windows. -/
  | memFold (o : Via) (f : Fin 8)
  /-- `MEM_WIN`, R271: Brenex mem win writes and enables a window, or disables it. -/
  | memWin (o : Via) (f : Fin 8) (w : Nat) (x : Option WinSet)
  /-- `MYC`, R290: Brenex myc shows the regulators per fold. -/
  | myc (o : Via)
  /-- `MYC_SHARE`, R290: Brenex myc share writes a fold's regulator. -/
  | mycShare (o : Via) (f : Fin 8) (beats : Nat) (burst : Option Nat) (spare : Option Bool)
  /-- `ECC`, R290: Brenex ecc shows the ECC counts and the patrol passes. -/
  | ecc (o : Via)
  /-- `ECC_CLEAR`, R290: Brenex ecc clear clears MYC.ECCCNT. -/
  | eccClear (o : Via)
  /-- `X_SB`, R291: Brenex x sb shows a core's store-buffer entries. -/
  | xSb (o : Via) (c : Fin 32)
  /-- `X_ECC_INJECT`, R291: Brenex x ecc inject flips check bits of a cell. -/
  | xEccInject (o : Via) (addr : Nat) (double : Bool)
  /-- `X_ECC_PATROL`, R291: Brenex x ecc patrol enables or disables the patrol. -/
  | xEccPatrol (o : Via) (on : Bool)
  /-- `X_MYC_PORT`, R291: Brenex x myc port shows a port's grant and wait counters. -/
  | xMycPort (o : Via) (t : Nat)
  /-- `DMA_CMD_KICK`, R297: A DMA.CHc.CMD write with OP KICK starts the channel fetching at HEAD. -/
  | dmaCmdKick (a : Agent) (c : Fin 64) (g : Option (BitVec 16))
  /-- `DMA_CMD_STOP`, R309: A DMA.CHc.CMD write with OP STOP ends the channel after its current burst and writes back CODE STOPPED. -/
  | dmaCmdStop (a : Agent) (c : Fin 64) (g : Option (BitVec 16))
  /-- `DMA_OWN_WRITE`, R293: A write to DMA.CHc.OWN sets the owning fold, and is refused unless the channel is OFF. -/
  | dmaOwnWrite (a : Agent) (c : Fin 64) (v : Word)
  /-- `DMA_CTL_WRITE`, R295: A write to DMA.CHc.CTL sets the priority, class, retry and movers, with TETHER refused from F. -/
  | dmaCtlWrite (a : Agent) (c : Fin 64) (v : Word)
  /-- `DMA_REQ_WRITE`, R299: A write to DMA.CHc.REQ selects the pacing queue, refused for queues the fold cannot access. -/
  | dmaReqWrite (a : Agent) (c : Fin 64) (v : Word)
  /-- `DMA_MARK_WRITE`, R299: A write to DMA.CHc.MARK sets HIGH and LOW, refused when LOW is not below HIGH. -/
  | dmaMarkWrite (a : Agent) (c : Fin 64) (v : Word)
  /-- `DMA_REQUEST_ASSERT`, R299: A queue level rising to HIGH asserts the channel's request. -/
  | dmaRequestAssert (c : Fin 64)
  /-- `DMA_REQUEST_WITHDRAW`, R308: The level falling to LOW, or the queue's unit leaving service, withdraws the request and shortens a running burst. -/
  | dmaRequestWithdraw (c : Fin 64) (issued : Nat)
  /-- `DESCRIPTOR_FETCH`, R297: The engine reads the descriptor at HEAD and checks it, then starts the transfer or goes IDLE when OWN is 0. -/
  | descriptorFetch (c : Fin 64)
  /-- `DMA_BURST_START`, R294: A free mover takes the highest-priority eligible channel and starts a burst of computed length. -/
  | dmaBurstStart
  /-- `DMA_BURST_COMPLETE`, R300: A burst's last write is accepted, DONE advances and HALF may be raised. -/
  | dmaBurstComplete (m : Fin 4)
  /-- `DMA_DESCRIPTOR_COMPLETE`, R305: With all writes accepted, the engine reads back, writes back the status, raises FULL and advances HEAD. -/
  | dmaDescriptorComplete (c : Fin 64)
  /-- `DMA_RETRY`, R310: After the backoff, a refused access is re-issued, and when retries are exhausted the channel faults with !DMA FAULT. -/
  | dmaRetry (c : Fin 64)
  /-- `DMA`, R314: Brenex dma shows every channel. -/
  | dma (o : Via)
  /-- `DMA_SHOW`, R314: Brenex dma followed by a channel shows it in full. -/
  | dmaShow (o : Via) (c : Fin 64)
  /-- `DMA_OWN`, R314: Brenex dma own writes OWN. -/
  | dmaOwn (o : Via) (c : Fin 64) (f : Option (Fin 8)) (g : Option Nat)
  /-- `DMA_CFG`, R314: Brenex dma cfg writes the channel configuration. -/
  | dmaCfg (o : Via) (c : Fin 64) (x : DmaCfg) (g : Option Nat)
  /-- `DMA_PACE`, R314: Brenex dma pace sets the queue and marks. -/
  | dmaPace (o : Via) (c : Fin 64) (q : Nat) (high : Nat) (low : Nat) (g : Option Nat)
  /-- `DMA_RING`, R314: Brenex dma ring writes RBASE, RSIZE and HEAD. -/
  | dmaRing (o : Via) (c : Fin 64) (base : Nat) (n : Nat) (head : Option Nat) (g : Option Nat)
  /-- `DMA_KICK`, R314: Brenex dma kick gives KICK. -/
  | dmaKick (o : Via) (c : Fin 64) (g : Option Nat)
  /-- `DMA_STOP`, R314: Brenex dma stop gives STOP. -/
  | dmaStop (o : Via) (c : Fin 64) (g : Option Nat)
  /-- `DMA_CLEAR`, R312: Brenex dma clear turns a faulted channel off and on. -/
  | dmaClear (o : Via) (c : Fin 64) (g : Option Nat)
  /-- `X_DMA_DESC`, R315: Brenex x dma desc decodes a ring entry. -/
  | xDmaDesc (o : Via) (c : Fin 64) (n : Option Nat)
  /-- `X_DMA_MOVERS`, R315: Brenex x dma movers shows each mover's progress. -/
  | xDmaMovers (o : Via)
  /-- `X_DMA_INJECT`, R315: Brenex x dma inject refuses a beat or withdraws a request once. -/
  | xDmaInject (o : Via) (c : Fin 64) (withdraw : Bool)
  /-- `TZERO`, R321: TZERO zeroes the shaped region of TD. -/
  | tzero (c : Fin 32) (k : Cond) (e : Word)
  /-- `TLD`, R321: TLD loads rows from memory into TD. -/
  | tld (c : Fin 32) (k : Cond) (e : Word)
  /-- `TST_TILE`, R321: The tile instruction TST stores rows of TA to memory. -/
  | tstTile (c : Fin 32) (k : Cond) (e : Word)
  /-- `TADD`, R321: TADD adds tiles elementwise. -/
  | tadd (c : Fin 32) (k : Cond) (e : Word)
  /-- `TSUB`, R321: TSUB subtracts tiles elementwise. -/
  | tsub (c : Fin 32) (k : Cond) (e : Word)
  /-- `TMUL`, R321: TMUL multiplies tiles elementwise. -/
  | tmul (c : Fin 32) (k : Cond) (e : Word)
  /-- `TMIN`, R321: TMIN takes the elementwise minimum. -/
  | tmin (c : Fin 32) (k : Cond) (e : Word)
  /-- `TMAX`, R321: TMAX takes the elementwise maximum. -/
  | tmax (c : Fin 32) (k : Cond) (e : Word)
  /-- `TMAC`, R324: TMAC accumulates a matrix product into TD. -/
  | tmac (c : Fin 32) (k : Cond) (e : Word)
  /-- `TSUMR`, R325: TSUMR sums each row. -/
  | tsumr (c : Fin 32) (k : Cond) (e : Word)
  /-- `TCVT`, R326: TCVT converts elements between types. -/
  | tcvt (c : Fin 32) (k : Cond) (e : Word)
  /-- `TLERP`, R327: TLERP interpolates a two-axis table for each element. -/
  | tlerp (c : Fin 32) (k : Cond) (e : Word)
  /-- `TILE_COMMIT`, R329: A completed tile operation commits its staged result, pops addr and updates TFLG in one uninterruptible step. -/
  | tileCommit (t : Fin 8)
  /-- `TILE_MOVE_COMPLETE`, R334: A tile context save or restore over the context port completes, and the holder updates. -/
  | tileMoveComplete (t : Fin 8)
  /-- `TTXB_WRITE`, R343: A write to PENn.TE.TTXBc sets the Tether context areas, and is ignored when invalid. -/
  | ttxbWrite (a : Agent) (c : Fin 32) (v : Word)
  /-- `TILE`, R341: Brenex tile shows every engine. -/
  | tile (o : Via)
  /-- `TILE_SHOW`, R341: Brenex tile followed by an engine shows it in full. -/
  | tileShow (o : Via) (t : Fin 8)
  /-- `TILE_EV`, R341: Brenex tile ev sets the done or trap events per core. -/
  | tileEv (o : Via) (t : Fin 8) (trap : Bool) (cs : List Nat)
  /-- `TILE_TCTX`, R341: Brenex tile tctx writes TTXBc. -/
  | tileTctx (o : Via) (t : Fin 8) (c : Fin 32) (x : Option Nat)
  /-- `X_TILE_PEEK`, R342: Brenex x tile peek reads the rows of a tile. -/
  | xTilePeek (o : Via) (t : Fin 8) (c : Fin 32) (tile : Nat) (rows : Option Nat)
  /-- `X_TILE_STAT`, R342: Brenex x tile stat shows the statistics per core. -/
  | xTileStat (o : Via) (t : Fin 8)
  /-- `X_TILE_INJECT`, R342: Brenex x tile inject forces a parity error or a move refusal. -/
  | xTileInject (o : Via) (t : Fin 8) (ctx : Bool)
  /-- `T1S_FRAME_RECEIVED`, R355: A T1S frame ends, is attributed by node ID, looked up in the partner table and queued to its fold. -/
  | t1sFrameReceived (p : Fin 4) (node : Byte) (bytes : List Byte) (good : Bool)
  /-- `GBE_FRAME_RECEIVED`, R356: A GbE frame ends and is looked up and queued to the owning fold. -/
  | gbeFrameReceived (m : Fin 2) (bytes : List Byte) (good : Bool)
  /-- `CAN_FRAME_RECEIVED`, R358: A CAN frame ends, is attributed by ID filter, looked up and queued. -/
  | canFrameReceived (p : Fin 4) (fr : CanFrame) (good : Bool)
  /-- `UART_CHARACTER_RECEIVED`, R360: A UART character enters the receive FIFO, or is discarded when the FIFO is full. -/
  | uartCharacterReceived (u : Fin 8) (ch : Byte) (bad : Bool) (gap : Bool)
  /-- `UART_BUFFER_CLOSE`, R360: Silence, a full buffer or a sentence end closes a UART receive buffer into a record and fires FRAME. -/
  | uartBufferClose (u : Fin 8)
  /-- `BUFFER_REQUEST`, R351: The allocator grants a buffer to the highest-ranked requester, and answers the others BUSY or NOBUF. -/
  | bufferRequest (rs : List ReqId)
  /-- `POOL_ALLOC_READ`, R352: A core's read of POOL.ALLOC returns a granted buffer address or 0. -/
  | poolAllocRead (c : Fin 32)
  /-- `POOL_FREE_WRITE`, R349: A write to POOL.FREE returns a buffer, refused as BADFREE when invalid. -/
  | poolFreeWrite (a : Agent) (v : Word)
  /-- `RXQ_READ`, R347: A read of RXQ pops the next cell of the reader's fold sub-queue. -/
  | rxqRead (a : Agent) (u : FieldPort)
  /-- `TXQ_WRITE`, R348: A write to TXQ assembles a fold's record pair and enqueues it. -/
  | txqWrite (a : Agent) (u : FieldPort) (v : Word)
  /-- `TX_RECORD_HEAD`, R348: A record reaching the head of the transmit queue is checked and sent, or refused. -/
  | txRecordHead (u : FieldPort)
  /-- `FRAME_TRANSMIT_COMPLETE`, R348: A sent frame's last bit returns its FREE buffers and fires TX. -/
  | frameTransmitComplete (u : FieldPort)
  /-- `TRANSMIT_FAILURE`, R368: 16 collisions or bus-off discard the frame, return its buffers and fire ERR. -/
  | transmitFailure (u : FieldPort)
  /-- `PARTNER_AGE_TICK`, R363: Every 1 ms each entry's IDLE advances, and entries reaching AGE are freed with LEAVE AGED. -/
  | partnerAgeTick
  /-- `PARTNER_EV_READ`, R365: A read of PTAB.Ff.EV0 or EV1 pops a partner record. -/
  | partnerEvRead (a : Agent) (f : Fin 8)
  /-- `PTAB_ADD_WRITE`, R361: A write to PTAB.ADDHI adds a STATIC entry. -/
  | ptabAddWrite (a : Agent) (v : Word)
  /-- `PTAB_DEL_WRITE`, R361: A write to PTAB.DEL frees an entry with LEAVE DELETED. -/
  | ptabDelWrite (a : Agent) (v : Word)
  /-- `PORT_OWN_WRITE`, R345: A write to a port's OWN sets the owner, and is refused unless the port is OFF. -/
  | portOwnWrite (a : Agent) (u : FieldPort) (v : Word)
  /-- `POOL_FLOOR_WRITE`, R350: A write to FLOORr is refused when the sum of floors would exceed 512. -/
  | poolFloorWrite (a : Agent) (r : ReqId) (v : Word)
  /-- `POOL_HDES_WRITE`, R350: A write to HDES is refused when more than 8 requesters would be designated. -/
  | poolHdesWrite (a : Agent) (n : Fin 4) (v : Word)
  /-- `PLCA_LOST`, R354: Loss of the beacon switches the port to CSMA/CD and raises !PLCA LOST. -/
  | plcaLost (p : Fin 4)
  /-- `PLCA_OK`, R354: The beacon's return raises !PLCA OK. -/
  | plcaOk (p : Fin 4)
  /-- `GBE_LINK_DOWN`, R368: Link loss makes the MAC IDLE and raises !PORT DOWN. -/
  | gbeLinkDown (m : Fin 2)
  /-- `GBE_LINK_UP`, R368: Link up raises !PORT UP, and the MAC goes ACTIVE at full duplex. -/
  | gbeLinkUp (m : Fin 2) (speed : Fin 4) (hdx : Bool)
  /-- `MDIO_TRANSACTION`, R356: A write of GO to GbE MDIO starts a Clause 22 transaction. -/
  | mdioTransaction (a : Agent) (m : Fin 2) (v : Word)
  /-- `MDIO_COMPLETE`, R356: The MDIO transaction completes or sets ERR, and GO clears. -/
  | mdioComplete (m : Fin 2) (x : Option (BitVec 16))
  /-- `CAN_ERROR_PASSIVE`, R357: A CAN port reaching error passive raises !CAN PASSIVE. -/
  | canErrorPassive (p : Fin 4) (tec : Byte) (rec_ : Byte)
  /-- `CAN_BUS_OFF`, R357: A CAN port reaching bus-off enters FAULT and raises !CAN BUSOFF. -/
  | canBusOff (p : Fin 4)
  /-- `CAN_INTEGRATED`, R357: After 128 occurrences of 11 recessive bits the CAN port integrates and becomes ACTIVE. -/
  | canIntegrated (p : Fin 4)
  /-- `PORT`, R370: Brenex port shows every port. -/
  | port (o : Via)
  /-- `PORT_SHOW`, R370: Brenex port followed by a port name shows it in full. -/
  | portShow (o : Via) (u : FieldPort)
  /-- `PORT_OWN`, R370: Brenex port own writes OWN. -/
  | portOwn (o : Via) (u : FieldPort) (f : Option (Fin 8))
  /-- `T1S_PLCA_COORD`, R370: Brenex t1s plca coord sets coordinator mode. -/
  | t1sPlcaCoord (o : Via) (p : Fin 4) (nodes : Nat) (burst : Option Nat) (to_ : Option Nat)
  /-- `T1S_PLCA_FOLLOW`, R370: Brenex t1s plca follow sets follower mode. -/
  | t1sPlcaFollow (o : Via) (p : Fin 4) (id_ : Nat) (burst : Option Nat) (to_ : Option Nat)
  /-- `T1S_PLCA_OFF`, R370: Brenex t1s plca off disables PLCA. -/
  | t1sPlcaOff (o : Via) (p : Fin 4)
  /-- `T1S_NODE`, R370: Brenex t1s node writes NIDk. -/
  | t1sNode (o : Via) (p : Fin 4) (ns : List Nat) (f : Option (Fin 8))
  /-- `GBE_SPEED`, R370: Brenex gbe speed writes the GbE CFG. -/
  | gbeSpeed (o : Via) (m : Fin 2) (speed : Fin 4) (tx : Option Bool) (rx : Option Bool)
  /-- `CAN_RATE`, R370: Brenex can rate writes the bit timing. -/
  | canRate (o : Via) (p : Fin 4) (nom : CanTiming) (dat : Option CanTiming) (listen : Option Bool)
  /-- `CAN_FILTER`, R370: Brenex can filter writes a filter. -/
  | canFilter (o : Via) (p : Fin 4) (n : Nat) (x : Option CanFilt)
  /-- `UART_CFG`, R370: Brenex uart writes the UART CFG and DE. -/
  | uartCfg (o : Via) (u : Fin 8) (x : UartSet)
  /-- `PTAB`, R370: Brenex ptab lists the partner entries. -/
  | ptab (o : Via) (u : Option FieldPort)
  /-- `PTAB_AGE`, R370: Brenex ptab age writes AGE. -/
  | ptabAge (o : Via) (u : FieldPort) (ms : Nat)
  /-- `PTAB_ADD`, R370: Brenex ptab add adds a STATIC entry and places a JOIN. -/
  | ptabAdd (o : Via) (u : FieldPort) (key : Nat) (f : Fin 8)
  /-- `PTAB_DEL`, R370: Brenex ptab del frees an entry. -/
  | ptabDel (o : Via) (n : Nat)
  /-- `POOL`, R370: Brenex pool shows the pool state. -/
  | pool (o : Via)
  /-- `POOL_FLOOR`, R370: Brenex pool floor writes a floor. -/
  | poolFloor (o : Via) (r : ReqId) (n : Nat)
  /-- `POOL_HALTER`, R370: Brenex pool halter writes HDES. -/
  | poolHalter (o : Via) (rs : List ReqId)
  /-- `X_PORT_REGS`, R371: Brenex x port regs decodes a port's registers. -/
  | xPortRegs (o : Via) (u : FieldPort)
  /-- `X_PTAB_DUMP`, R371: Brenex x ptab dump shows raw entries. -/
  | xPtabDump (o : Via) (x : Option (Nat × Nat))
  /-- `X_POOL_MAP`, R371: Brenex x pool map shows every allocated buffer. -/
  | xPoolMap (o : Via)
  /-- `X_PORT_INJECT`, R371: Brenex x port inject corrupts an FCS or forces a NOBUF. -/
  | xPortInject (o : Via) (u : FieldPort) (nobuf : Bool)
  /-- `AFE_CONVERSION_PERIOD`, R376: At each conversion period the AFE builds a 24-cell frame, updates the loop faults and queues the frame. -/
  | afeConversionPeriod (xs : List Int)
  /-- `AFE_REFERENCE_CHECK`, R390: Every 1 ms the internal reference is checked, and a deviation puts the AFE in FAULT. -/
  | afeReferenceCheck (ok : Bool)
  /-- `AFE_FRAMEQ_READ`, R376: A read of AFE.FRAMEQ pops one cell for the owning fold. -/
  | afeFrameqRead (a : Agent)
  /-- `AFE_OWN_WRITE`, R373: A write to AFE.OWN sets the owner, and is refused unless the AFE is OFF. -/
  | afeOwnWrite (a : Agent) (v : Word)
  /-- `PWM_PERIOD_START`, R379: A PWM period starts, takes the next queued set-point, applies dither and sets the active phase. -/
  | pwmPeriodStart (n : Fin 16)
  /-- `PWM_SP_WRITE`, R379: A write to PWMn.SP sets the set-point, discards queued entries and makes an IDLE channel ACTIVE. -/
  | pwmSpWrite (a : Agent) (n : Fin 16) (v : Word)
  /-- `PWM_SPQ_WRITE`, R381: A write to PWMn.SPQ queues a set-point, raising 0x09 when the queue is full. -/
  | pwmSpqWrite (a : Agent) (n : Fin 16) (v : Word)
  /-- `PWM_CMD_RESUME`, R382: A PWMn.CMD write of RESUME clears HELD when no linked trip is in force. -/
  | pwmCmdResume (a : Agent) (n : Fin 16)
  /-- `PWM_HALTER_HOLD`, R382: Within 3 CLK_PER cycles of a linked halter trip or fold fence the channel drives SAFE and sets HELD. -/
  | pwmHalterHold (n : Fin 16)
  /-- `PWM_BALL_SAMPLE`, R390: The PWM ball is sampled mid-phase, and three mismatches put the channel in FAULT with !PWM FAULT. -/
  | pwmBallSample (n : Fin 16) (ok : Bool)
  /-- `PWM_OWN_WRITE`, R378: A write to PWMn.OWN sets the owner, SAFE and OE while the channel is OFF. -/
  | pwmOwnWrite (a : Agent) (n : Fin 16) (v : Word)
  /-- `PWM_PERIOD_WRITE`, R378: A write to CFG.PRE or PER is refused when the period is shorter than 4000 cycles. -/
  | pwmPeriodWrite (a : Agent) (n : Fin 16) (per : Bool) (v : Word)
  /-- `GPIO_OUT_WRITE`, R383: A write to GPIO OUT changes the fold's own pins. -/
  | gpioOutWrite (a : Agent) (hi : Bool) (v : Word)
  /-- `GPIO_OSET_WRITE`, R383: A write to OSET sets single OUT bits. -/
  | gpioOsetWrite (a : Agent) (hi : Bool) (v : Word)
  /-- `GPIO_OCLR_WRITE`, R383: A write to OCLR clears single OUT bits. -/
  | gpioOclrWrite (a : Agent) (hi : Bool) (v : Word)
  /-- `GPIO_SNAPSHOT`, R384: Every PER CLK_PER cycles the 32 inputs of a bank are captured into the snapshot queue. -/
  | gpioSnapshot
  /-- `GPIO_SNAPQ_READ`, R384: A read of GPIO.SNAPQ pops one capture. -/
  | gpioSnapqRead (a : Agent)
  /-- `GPIO_MISMATCH`, R390: An output ball differing from OUT for 1 µs sets MISM and raises !GPIO MISMATCH. -/
  | gpioMismatch (n : Fin 64)
  /-- `HALT_BALL_MISMATCH`, R386: A HALT_OUT ball differing from the map's level for 1 µs sets HOBALL.MISM and raises !HALT BALL. -/
  | haltBallMismatch (j : Fin 8)
  /-- `AFE`, R392: Brenex afe shows the AFE status. -/
  | afe (o : Via)
  /-- `AFE_OWN`, R392: Brenex afe own writes AFE.OWN. -/
  | afeOwn (o : Via) (f : Option (Fin 8))
  /-- `AFE_RATE`, R392: Brenex afe rate sets the conversion rate. -/
  | afeRate (o : Via) (sps : Nat)
  /-- `AFE_CH`, R392: Brenex afe ch sets the channel modes. -/
  | afeCh (o : Via) (ns : List Nat) (mode : Fin 3)
  /-- `AFE_LOOP_SET`, R392: Brenex afe loop sets LO, HI and FCNT. -/
  | afeLoopSet (o : Via) (ns : List Nat) (lo : Int) (hi : Int) (count : Option Nat)
  /-- `PWM`, R392: Brenex pwm shows the channels. -/
  | pwm (o : Via) (n : Option (Fin 16))
  /-- `PWM_OWN`, R392: Brenex pwm own writes the owner. -/
  | pwmOwn (o : Via) (n : Fin 16) (f : Option (Fin 8))
  /-- `PWM_SAFE`, R392: Brenex pwm safe writes SAFE and OE. -/
  | pwmSafe (o : Via) (n : Fin 16) (high : Bool) (oe : Option Bool)
  /-- `PWM_CFG`, R392: Brenex pwm cfg writes CFG and PER. -/
  | pwmCfg (o : Via) (n : Fin 16) (x : PwmCfg)
  /-- `PWM_SET`, R392: Brenex pwm set writes SP. -/
  | pwmSet (o : Via) (n : Fin 16) (sp : Nat)
  /-- `PWM_DITHER`, R392: Brenex pwm dither writes DITH. -/
  | pwmDither (o : Via) (n : Fin 16) (x : Option (Nat × Nat))
  /-- `PWM_RESUME`, R392: Brenex pwm resume gives RESUME. -/
  | pwmResume (o : Via) (n : Fin 16)
  /-- `GPIO`, R392: Brenex gpio shows the pins. -/
  | gpio (o : Via)
  /-- `GPIO_OWN`, R392: Brenex gpio own writes OWNk. -/
  | gpioOwn (o : Via) (ns : List Nat) (f : Option (Fin 8))
  /-- `GPIO_DIR`, R392: Brenex gpio dir writes DIR, ODRN and PULL. -/
  | gpioDir (o : Via) (ns : List Nat) (out : Bool) (od : Bool) (pull : Option (Fin 3))
  /-- `GPIO_SET`, R392: Brenex gpio set sets outputs. -/
  | gpioSet (o : Via) (ns : List Nat)
  /-- `GPIO_CLR`, R392: Brenex gpio clr clears outputs. -/
  | gpioClr (o : Via) (ns : List Nat)
  /-- `GPIO_SNAP`, R392: Brenex gpio snap configures the snapshot. -/
  | gpioSnap (o : Via) (x : Option (Nat × Nat))
  /-- `X_AFE_LAST`, R393: Brenex x afe last shows each channel's last cell. -/
  | xAfeLast (o : Via)
  /-- `X_AFE_TEST`, R393: Brenex x afe test replaces a channel's codes for proof testing. -/
  | xAfeTest (o : Via) (ch : Nat) (x : Option Bool)
  /-- `X_PWM_REGS`, R393: Brenex x pwm regs decodes a channel's registers. -/
  | xPwmRegs (o : Via) (n : Fin 16)
  /-- `X_GPIO_MISM`, R393: Brenex x gpio mism shows or clears the mismatch bits. -/
  | xGpioMism (o : Via) (clear : Bool)
  /-- `BOOT_SEQUENCE`, R395: After reset release the Bellwether discovers the flash, checks and places the image, writes the records, loads the pens, runs the script and releases the keeper. -/
  | bootSequence (lines : Option Nat)
  /-- `SCRIPT_TIMEOUT`, R401: The start-up script reaching 45 ms is stopped, and !BOOT SCRIPT TIME follows !READY. -/
  | scriptTimeout
  /-- `JTAG_EXTEST`, R407: EXTEST, CLAMP or HIGHZ on the TAP hands every ball to the boundary register and raises !JTAG EXTEST. -/
  | jtagExtest
  /-- `BOOT`, R411: Brenex boot shows the booted image and the boot results. -/
  | boot (o : Via)
  /-- `X_BOOT_VERIFY`, R411: Brenex x boot verify runs the image checks without booting. -/
  | xBootVerify (o : Via) (secondary : Bool)
  /-- `X_BOOT_KEY`, R403: Brenex x boot key programs an image key slot in OTP. -/
  | xBootKey (o : Via) (slot : Nat) (key : KeySource)
  /-- `X_BOOT_REVOKE`, R404: Brenex x boot revoke revokes an image key slot. -/
  | xBootRevoke (o : Via) (slot : Nat)
  /-- `X_BOOT_ROLEKEY`, R411: Brenex x boot rolekey programs a role key generation. -/
  | xBootRolekey (o : Via) (r : Role) (f : Option (Fin 8)) (g : Nat) (key : KeySource)
  /-- `X_BOOT_ROLEREVOKE`, R411: Brenex x boot rolerevoke revokes a role key generation. -/
  | xBootRolerevoke (o : Via) (r : Role) (f : Option (Fin 8)) (g : Nat)
  /-- `X_BOOT_ARB`, R404: Brenex x boot arb raises the anti-rollback counter. -/
  | xBootArb (o : Via) (n : Nat)
  /-- `X_BOOT_LOCK`, R407: Brenex x boot lock sets LOCKED. -/
  | xBootLock (o : Via)
  /-- `X_BOOT_JTAG`, R407: Brenex x boot jtag sets or clears JTAGEN. -/
  | xBootJtag (o : Via) (on : Bool)
  /-- `X_FLASH_ERASE`, R411: Brenex x flash erase erases flash sectors. -/
  | xFlashErase (o : Via) (off : Nat) (len : Nat)
  /-- `X_FLASH_WRITE`, R411: Brenex x flash write writes bytes to flash. -/
  | xFlashWrite (o : Via) (off : Nat) (bytes : List Byte)
  /-- `REGISTER_WRITE`, R7: A write to a register that has no row of its own acts under its access code. -/
  | registerWrite (a : Agent) (addr : Word) (v : Word)
  /-- `STATUS_LINE_SENT`, R284: The last stop bit of a command's ok status line leaves the port, and the deferred action of that command (entry into IDLE, RETAIN, SPORE or OFF, the new baud and format of sess baud or reset mga, or the CMD device reset) then begins. -/
  | statusLineSent (p : MgPort)
  /-- `JTAG_EXTEST_END`, R407: The TAP leaves EXTEST, CLAMP or HIGHZ, and the halter map again drives HALT_OUT0–7 while the other balls return to their units. -/
  | jtagExtestEnd
deriving DecidableEq, Repr

end Sys2Proof
end

