-- ==== Sys2Proof/Machine/State.lean ====
section
/-! DEFINITION. The state of the device as plain data, the reasons a step can stop, and the state after reset.
A register that software reads and writes whole is a `Word`; counts are `Nat` with the saturation of their rule
made explicit where they advance. -/
namespace Sys2Proof.Machine

/-- A sparse table from index to record: indexes strictly rising, and no entry equal to the default of its index
(the default is an argument of the operations of Ops.lean). -/
abbrev Tab (α : Type) := List (Nat × α)

/-- Unit states (spec/04 R67). -/
inductive UState where
  | absent | off | fenced | idle | active | fault
deriving DecidableEq, Repr

/-- Fence causes, in the bit order of STATE.CUR.FCAUSE (spec/04 R74). -/
inductive FCause where
  | cmd | mcheck | disagree | shed | clock | parent
deriving DecidableEq, Repr

/-- Why a device reset runs (spec/02 R22, PMU.RSTCAUSE). -/
inductive RstCause where
  | por | bor | ovr | otr | pin | spore | cmd
deriving DecidableEq, Repr

/-- Where the device stands between resets: held in a reset, waiting for its boot sequence, running, or in
recovery (spec/02 R22, spec/18 R395, R409). -/
inductive Phase where
  | reset (c : RstCause)
  | boot
  | run
  | recovery
deriving DecidableEq, Repr

/-- Power states, in the coding of PMU.STATE.CUR (spec/02 R438). -/
inductive PState where
  | run | slow | idle | retain | spore | off
deriving DecidableEq, Repr

/-- A fence held while a reset of the unit runs (spec/04 R82, R83); of a disagreement with the states found: the shadow's (none: its
parity is bad), the hardware's, and whether registers differed. -/
structure HeldFence where
  cause : FCause
  code : Byte
  mgmt : Option UState
  data : UState
  cfg : Bool
deriving DecidableEq, Repr

/-- One unit as the arbiter and the hardware hold it (spec/04 R67 to R77). The shadow of the state-bearing registers
is `regDiff`: the registers in which the hardware differs from the shadow, with the shadow's values. -/
structure UnitRec where
  st : UState
  prior : UState
  fcause : BitVec 6
  gen : Half
  sh : UState
  shBad : Bool
  regDiff : List (Half × Word)
  dis : Bool
  disMgmt : Option UState
  disData : UState
  disCfg : Bool
  resetting : Bool
  sb : Nat
  held : List HeldFence
deriving DecidableEq, Repr

/-- One decision of the arbiter, as `x state log` lists it (spec/04 R87). -/
structure ArbEntry where
  source : String
  unit : Nat
  req : String
  gen : Nat
  code : Nat
deriving DecidableEq, Repr

/-- Who waits for the answer of a commanded power transition (spec/02 R37, spec/13 R284). -/
inductive CmdOrigin where
  | via (o : Via)
  | reg
deriving DecidableEq, Repr

/-- The stages of a commanded transition (spec/13 R284): draining, then entering; `wait` holds the entry back until
the status line has been sent. -/
inductive TransStage where
  | drain
  | wait (p : MgPort)
  | entry
deriving DecidableEq, Repr

/-- A commanded transition under way (spec/02 R23, R37). -/
structure Trans where
  target : PState
  origin : CmdOrigin
  stage : TransStage
deriving DecidableEq, Repr

/-- The action of a shedding step under way (spec/02 R26): the commit window of S1, the drain of S2, S4 and S5, the
copy of S5. -/
inductive ShedStage where
  | window
  | drain
  | copy
deriving DecidableEq, Repr

/-- One record of the PMU log (spec/02 R42). -/
structure PmuRec where
  sec : Word
  text : String
deriving DecidableEq, Repr

/-- The power management unit (spec/02 R438). `vcause`, `tcause`, `scause` are the causes of each step, bit 0 = S1; `vio` are the bank
voltages as VIOSELn was sampled (R19; 1: 3.3 V), `stopOv` and `stopOt` that the converter is stopped for voltage or temperature (R32,
R35), `atWarn` and `atTrip` that Tj stands at 135 or 150 degrees (R32); `due` holds steps that wait for the action under way (R26);
`deferred` the steps recorded in RETAIN or SPORE whose units are shed when clocks return (R37); `shedUnits` which units each step shed. -/
structure Pmu where
  cur : PState
  trans : Option Trans
  refused : Bool
  wakeTarget : PState
  wakeEn : BitVec 27
  wakeCause : BitVec 30
  wakeLatched : Option WakeSrc
  vinNow : Half
  vinLow : Half
  applied : BitVec 5
  elig : BitVec 5
  vcause : BitVec 5
  tcause : BitVec 5
  scause : BitVec 5
  step : Option (Fin 5 × ShedStage)
  due : List (Fin 5)
  deferred : List (Fin 5)
  shedUnits : List (Fin 5 × UnitId)
  afeShed : BitVec 24
  lwatch : Word
  keepAfe : Word
  keepPort : Word
  keepDmaLo : Word
  keepDmaHi : Word
  s5base : Word
  s5len : Word
  temps : List (BitVec 12)
  peak : BitVec 12
  thermSim : Option (BitVec 12)
  warn : Bool
  trip : Bool
  lock : Bool
  refOk : Bool
  fallback : Bool
  clkFailPend : Bool
  rstCause : RstCause
  retValid : Bool
  rtcSec : Word
  rtcAlm : Word
  log : List PmuRec
  heldSrc : List Nat
  vio : BitVec 4
  stopOv : Bool
  stopOt : Bool
  atWarn : Bool
  atTrip : Bool
deriving DecidableEq, Repr

/-- An event waiting in the queue of a port (spec/03 R52, R53). -/
structure Event where
  text : String
deriving DecidableEq, Repr

/-- What a management port has sent: an echoed character or erasure, a whole line, or the prompt (spec/03 R45, R51). -/
inductive TxItem where
  | echo (b : Byte)
  | line (text : String)
  | prompt
deriving DecidableEq, Repr

/-- A line received, waiting to be executed: its framing or overrun mark, its place in the order in which the terminators of both ports came
in, and whether a Ctrl-C stops the data lines of its response (spec/03 R45, R58, R59, R61). -/
structure RxLine where
  text : List Byte
  bad : Bool
  ovf : Bool
  stamp : Nat
  cut : Bool
deriving DecidableEq, Repr

/-- A login challenge outstanding (spec/03 R56). -/
structure Chal where
  nonce : BitVec 128
  role : Role
  fold : Option (Fin 8)
  age : Nat
deriving DecidableEq, Repr

/-- An action that waits for the last stop bit of a status line (spec/03 R60, spec/13 R284). -/
inductive Deferred where
  | baud (cfg : Word)
  | resetPort
  | power
  | resetDevice
deriving DecidableEq, Repr

/-- One management port with its session (spec/03). -/
structure Console where
  cfg : Word
  role : Role
  scope : Option (Fin 8)
  lock : Bool
  genForm : Bool
  authBlk : Bool
  authFails : Nat
  evMask : BitVec 10
  cntLines : Nat
  cntCrc : Nat
  cntFraming : Nat
  cntOverrun : Nat
  cntAuth : Nat
  cntLost : Nat
  rx : List Byte
  rxBad : Bool
  rxOver : Bool
  lastCr : Bool
  lines : List RxLine
  chal : Option Chal
  timeout : Nat
  idle : Nat
  evq : List Event
  lostPend : Nat
  evCount : Half
  kept : Option (Nat × String × List String)
  busy : Option Via
  deferred : Option Deferred
  ready : Bool
  cut : Bool
  tx : List TxItem
deriving DecidableEq, Repr

/-- Stack and frame storage of one task (Drove) or one level (Tether) (spec/05 R90, spec/07 R151). `data` is the
data stack as held in the core, top first; `rets` the return-stack cache, top first (Drove); `rdepth` the return depth of the
level (Tether); `wc` the window cells held in the core, by address; `wn` how many window cells from FP upward are
resident, 16 for the first window and 12 for each further one. -/
structure Bank where
  spd : Word
  spr : Word
  fp : Word
  data : List Word
  rets : List Word
  rdepth : Nat
  wc : List (Nat × Word)
  wn : Nat
  tflg : Word
deriving DecidableEq, Repr

/-- What one open frame hides of its caller: the level's bank in Tether, the stack bases in Drove (spec/09 R192, R196). -/
structure GateSave where
  lvl : Nat
  bank : Bank
  dbase : Word
  rbase : Word
  fbase : Word
deriving DecidableEq, Repr

/-- The classes of Mycelium, highest first (spec/13 R272). -/
inductive MClass where
  | urgent | tether | drove | bulk
deriving DecidableEq, Repr

/-- One entry of a store buffer (spec/13 R280). -/
structure SbEntry where
  addr : Nat
  size : Nat
  val : Word
  pc : Word
  cls : MClass
  lvl : Nat
  slot : Nat
  priv : Priv
  issued : Bool
deriving DecidableEq, Repr

/-- A posted-store error held by a core (spec/13 R282). -/
structure PostErr where
  pc : Word
  addr : Word
  lvl : Nat
  slot : Nat
  ecc : Bool
deriving DecidableEq, Repr

/-- A load waiting for its data, or with the error it has met and whether that is an ECC error (spec/06 R131). -/
structure PendLoad where
  pc : Word
  next : Word
  syl : List Half
  addr : Nat
  size : Nat
  signed : Bool
  tos : Bool
  priv : Priv
  cls : MClass
  err : Option (Byte × Bool)
deriving DecidableEq, Repr

/-- An exception due at the next instruction boundary of a level (spec/05 R118, spec/09 R205, R210). -/
structure BoundExc where
  cause : Byte
  qual : Byte
  addr : Word
deriving DecidableEq, Repr

/-- A tile instruction waiting for its engine (spec/15 R318). -/
structure TileWait where
  op : Nat
  ext : Word
  addr : Word
  priv : Priv
  pc : Word
  next : Word
  syl : List Half
deriving DecidableEq, Repr

/-- A slot dispatched to a core, waiting for its switch, with the reason of the switch (spec/07 R147). -/
structure NextTask where
  slot : Nat
  tsb : Word
  reason : Nat
deriving DecidableEq, Repr

/-- One stack core (spec/05, spec/07, spec/09). -/
structure Core where
  pc : Word
  z : Bool
  n : Bool
  c : Bool
  v : Bool
  rpt : Bool
  ie : Bool
  xs : Bool
  lvl : Nat
  priv : Priv
  banks : List Bank
  dbase : Word
  rbase : Word
  fbase : Word
  tctx : Word
  spare : List (Nat × Word)
  spareRets : List Nat
  parked : Option Nat
  spillProm : Nat
  sparePriv : Priv
  ghost : List (Nat × Word)
  delay : List (Nat × Word)
  gp : Word
  tp : Word
  rc : Word
  rs : Word
  rd : Word
  cpoly : Word
  cacc : Word
  tsbr : Word
  prod : BitVec 64
  mulPipe : List (Nat × BitVec 64)
  cyc : Nat
  rptSquash : Bool
  extOwner : Nat
  spc : List Word
  sflg : List Word
  sxa : List Word
  nest : BitVec 8
  hwmDepth : List Nat
  hwmWin : List Nat
  gsbF : Word
  gsbK : Word
  gsbM : Word
  gfr : Word
  gdep : Nat
  gates : List GateSave
  lmguard : Nat
  sb : List SbEntry
  perr : Option PostErr
  plost : Nat
  shedlost : Nat
  loads : List (Nat × PendLoad)
  waiting : Bool
  tileWait : Option TileWait
  bexc : List (Nat × BoundExc)
  slot : Option Nat
  next : Option NextTask
  preempt : Option Nat
  sblost : Nat
  rstScope : Nat
  rstRead : Bool
  race : BitVec 64
  lost : Nat
  newRec : BitVec 64
  mask : BitVec 64
  cnt : List Nat
  slotTicks : Nat
  keeper : Bool
deriving DecidableEq, Repr

/-- The storage of a level or task with nothing in it and its first window in use (spec/05 R120). -/
def Bank.empty : Bank :=
  { spd := 0, spr := 0, fp := 0, data := [], rets := [], rdepth := 0, wc := [], wn := 16, tflg := 0 }

/-- A core after a core reset (spec/05 R120, spec/07 R160, spec/09 R208). -/
def Core.reset : Core :=
  { pc := 0, z := false, n := false, c := false, v := false, rpt := false, ie := false, xs := false, lvl := 0, priv := .f,
    banks := List.replicate 8 Bank.empty, dbase := 0, rbase := 0, fbase := 0, tctx := 0, spare := [], spareRets := [], parked := none,
    spillProm := 0,
    sparePriv := .f, ghost := [], delay := [], gp := 0, tp := 0, rc := 0, rs := 0, rd := 0, cpoly := 0, cacc := 0, tsbr := 0,
    prod := 0, mulPipe := [], cyc := 0, rptSquash := false, extOwner := 0,
    spc := List.replicate 8 0, sflg := List.replicate 8 0, sxa := List.replicate 8 0, nest := 1,
    hwmDepth := List.replicate 8 0, hwmWin := List.replicate 8 0, gsbF := 0, gsbK := 0, gsbM := 0, gfr := 0, gdep := 0,
    gates := [], lmguard := 0, sb := [], perr := none, plost := 0, shedlost := 0, loads := [], waiting := false,
    tileWait := none, bexc := [], slot := none, next := none, preempt := none, sblost := 0,
    rstScope := 3, rstRead := false, race := 0, lost := 0, newRec := 0, mask := 0, cnt := List.replicate 8 0, slotTicks := 0,
    keeper := false }

/-- One task slot (spec/10 R216, R233). -/
structure Slot where
  pri : Nat
  cls : Nat
  valid : Bool
  ready : Bool
  run : Bool
  fault : Bool
  stop : Bool
  core : Nat
  tsb : Word
  cost : Nat
  used : Nat
  parity : Bool
  reserved : Nat
  woke : Bool
deriving DecidableEq, Repr

/-- One binding entry; `parity` says that its parity is wrong (spec/10 R218, R229, R233). -/
structure Bind where
  slot : Nat
  en : Bool
  parity : Bool
deriving DecidableEq, Repr

/-- One derating entry (spec/10 R215). -/
structure Derate where
  tj : Nat
  factor : Nat
  en : Bool
deriving DecidableEq, Repr

/-- The ration account and scheduler of a pen (spec/10 R212 to R233); amounts in RU. `acc` are the charges since the
last tick, `frac` the fraction of a refill left over (sixteenths), `overArmed` and `lowState` what the events have reported; `paused`
stands from a freeze or a fence to the next tick (R228). -/
structure Rat where
  run : Bool
  frozen : Bool
  slice : Nat
  bal : Int
  frac : Nat
  acc : Nat
  accFrac : Nat
  rate : Nat
  cap : Nat
  floor : Nat
  thr1 : Nat
  thr2 : Nat
  thr3 : Nat
  rateEff : Nat
  capEff : Nat
  floorEff : Nat
  thrEff : List Nat
  derate : List Derate
  coef : List Nat
  scale : Nat
  boot : Word
  refused : Bool
  overflows : Nat
  faults : Nat
  factor : Nat
  est : Nat
  lowState : Bool
  overArmed : Bool
  paused : Bool
deriving DecidableEq, Repr

/-- A slot that software has not created (spec/10 R230). -/
def Slot.reset : Slot :=
  { pri := 0, cls := 0, valid := false, ready := false, run := false, fault := false, stop := false, core := 0,
    tsb := 0, cost := 0, used := 0, parity := false, reserved := 0, woke := false }

/-- A disabled binding entry. -/
def Bind.reset : Bind := { slot := 0, en := false, parity := false }

/-- The account at device reset (spec/10 R215, R230, R233). -/
def Rat.reset : Rat :=
  { run := false, frozen := false, slice := 0, bal := 16000, frac := 0, acc := 0, accFrac := 0, rate := 256, cap := 16000,
    floor := 1600, thr1 := 0, thr2 := 800, thr3 := 3200, rateEff := 256, capEff := 16000, floorEff := 1600,
    thrEff := [0, 800, 3200],
    derate := [⟨105, 14, true⟩, ⟨115, 12, true⟩, ⟨125, 8, true⟩, ⟨135, 4, true⟩, ⟨145, 2, true⟩, ⟨0, 0, false⟩,
      ⟨0, 0, false⟩, ⟨0, 0, false⟩],
    coef := List.replicate 8 0, scale := 256, boot := 0, refused := false, overflows := 0, faults := 0, factor := 16,
    est := 0, lowState := false, overArmed := true, paused := false }

/-- The tile operation under way on an engine (spec/15 R318, R329): the core of the pen (0 to 3), the operation and its
extension word, and whether the engine is waiting for the core's store buffer or ready to commit. -/
structure TileOp where
  core : Nat
  op : Nat
  ext : Word
  addr : Word
  priv : Priv
deriving DecidableEq, Repr

/-- A context move under way (spec/15 R332 to R334): the area, whether it is a save, and the owner restored afterwards. -/
structure TileMove where
  save : Bool
  area : Word
  owner : Nat
deriving DecidableEq, Repr

/-- One context of a tile engine (spec/15 R317, R334): its bytes by offset (an unlisted offset reads zero), its holder, the
move under way, and the owner it is due to. `area` is the holder's area and `want` the change still to be made: the new owner
and its area. -/
structure TileCtx where
  bytes : List (Nat × Byte)
  holder : Option Nat
  area : Option Word
  move : Option TileMove
  want : Option (Nat × Option Word)
deriving DecidableEq, Repr

/-- One tile engine (spec/15 R343). `perCore` are queue waits, cut-offs and trap causes of each core (R342), `prom` how
often the engine's waiting request has been raised a class (spec/13 R273). -/
structure Tile where
  op : Option TileOp
  last : Nat
  ctxs : List TileCtx
  doneEv : BitVec 4
  trapEv : BitVec 4
  commits : Word
  cutoff : Nat
  traps : Nat
  ttxb : List Word
  err : Word
  injParity : Bool
  injCtx : Bool
  perCore : List (Nat × Nat × Word)
  prom : Nat
deriving DecidableEq, Repr

/-- A context that holds zeros for no one. -/
def TileCtx.reset : TileCtx := { bytes := [], holder := none, area := none, move := none, want := none }

/-- A tile engine at device reset (spec/15 R340). -/
def Tile.reset : Tile :=
  { op := none, last := 3, ctxs := List.replicate 4 TileCtx.reset, doneEv := 0, trapEv := 0, commits := 0, cutoff := 0,
    traps := 0, ttxb := List.replicate 4 0, err := 0, injParity := false, injCtx := false,
    perCore := List.replicate 4 (0, 0, 0), prom := 0 }

/-- A pen's control store (spec/08): its data bytes by offset (an unlisted offset reads zero), the parity bits that do not
match their word (index of the word's parity bit), whether a load is complete, the registers of R187, where the scrubber stands and
what it has found. -/
structure CStore where
  data : List (Nat × Byte)
  flips : List Nat
  loaded : Bool
  ovl : Bool
  scrub : Bool
  late : Bool
  passes : Byte
  repairs : Nat
  usepar : Nat
  weak : Nat
  last : Nat
  lastValid : Bool
  beat : Nat
  found : Option (Nat × Bool)
  times : List (Nat × Word × Nat)
deriving DecidableEq, Repr

/-- One pen (spec/07 R163, spec/09 R211, spec/11 R258). `pers` is the loaded personality, `some true` Tether. -/
structure Pen where
  fold : Nat
  pers : Option Bool
  persNext : Bool
  persLoad : Option Bool
  persRefused : Bool
  tvec : Word
  gtb : Word
  exv : Word
  exctl : Nat
  excTotal : Nat
  excDf : Nat
  excLast : Byte
  cs : CStore
  pend : BitVec 64
  deliv : BitVec 64
  mask : BitVec 64
  rat : Rat
  slots : List (Nat × Slot)
  binds : List (Nat × Bind)
  rr : List Nat
  released : Bool
  te : Tile
deriving DecidableEq, Repr

/-- An empty control store (spec/08 R184). -/
def CStore.reset : CStore :=
  { data := [], flips := [], loaded := false, ovl := false, scrub := false, late := false, passes := 0, repairs := 0,
    usepar := 0, weak := 0, last := 0, lastValid := false, beat := 0, found := none, times := [] }

/-- The reference allocation of pens to folds, by variant (spec/01, reference fold allocation; log 6). -/
def referenceFold (variant p : Nat) : Nat :=
  match variant, p with
  | 1, 0 => 0 | 1, 1 => 1 | 1, 2 => 1 | 1, 3 => 2 | 1, 4 => 2 | 1, _ => 3
  | 2, 0 => 3 | 2, 1 => 3 | 2, 2 => 0 | 2, 3 => 1 | 2, 4 => 1 | 2, 5 => 2
  | 3, 0 => 0 | 3, 1 => 1 | 3, 2 => 2 | 3, 3 => 3
  | _, _ => 0

/-- A pen at device reset (spec/07 R160, spec/09 R208, spec/10 R230). -/
def Pen.reset (fold : Nat) : Pen :=
  { fold := fold, pers := none, persNext := false, persLoad := none, persRefused := false, tvec := 0, gtb := 0, exv := 0, exctl := 0,
    excTotal := 0,
    excDf := 0, excLast := 0, cs := CStore.reset, pend := 0, deliv := 0, mask := 0, rat := Rat.reset, slots := [], binds := [],
    rr := List.replicate 32 0, released := false, te := Tile.reset }

/-- One map entry, EVR.SRCn.MAP (spec/11 R235, R258). -/
structure SrcMap where
  fold : Nat
  line : Nat
  mode : Nat
  en : Bool
  open_ : Bool
deriving DecidableEq, Repr

/-- One line entry, EVR.Ff.LINEl.CFG (spec/11 R237). -/
structure LineCfg where
  prio : Nat
  oneshot : Bool
  en : Bool
  pens : BitVec 8
deriving DecidableEq, Repr

/-- One fold slice (spec/11 R245, R246, R258). -/
structure Slice where
  maxpri : Nat
  exempt : Nat
  rate : Nat
  depth : Nat
  tokens : Nat
  held : BitVec 64
  storm : Bool
  refused : Bool
  cnt : Word
  hcnt : Nat
  drop : Nat
  lines : List (Nat × LineCfg)
deriving DecidableEq, Repr

/-- The event router (spec/11). -/
structure Evr where
  maps : List (Nat × SrcMap)
  latch : BitVec 24
  flt : List Word
  refused : Bool
  slices : List Slice
deriving DecidableEq, Repr

/-- The configuration of one halter output, HALT.MAPj (spec/11 R248). -/
structure HaltMap where
  ins : BitVec 8
  safe : Bool
  latch : Bool
  arm : Bool
deriving DecidableEq, Repr

/-- The halter map (spec/11 R248 to R254). `level` are the inputs behind their filters, `forced` the trips made by FORCE, `bad` the
outputs whose copies differ, `sims` the simulated inputs (`some` value). -/
structure Halter where
  lock : Bool
  pol : BitVec 8
  flt : List Nat
  maps : List HaltMap
  trip : BitVec 8
  forced : BitVec 8
  level : BitVec 8
  bad : BitVec 8
  sims : List (Option Bool)
  refused : Bool
  driven : Bool
deriving DecidableEq, Repr

/-- The balls of the device that are inputs, by their level at the ball (spec/11 R234, spec/17 R385); of VIOSELn whether it is left open
(spec/02 R19). -/
structure Pins where
  wake : BitVec 16
  halt : BitVec 8
  gpio : BitVec 64
  viosel : BitVec 4
deriving DecidableEq, Repr

/-- A map entry at device reset. -/
def SrcMap.reset : SrcMap := { fold := 0, line := 0, mode := 0, en := false, open_ := false }

/-- A line entry at device reset (spec/11 R255). -/
def LineCfg.reset : LineCfg := { prio := 0, oneshot := false, en := false, pens := 0xFF }

/-- A fold slice at device reset (spec/11 R255). -/
def Slice.reset : Slice :=
  { maxpri := 7, exempt := 7, rate := 100, depth := 256, tokens := 256, held := 0, storm := false, refused := false,
    cnt := 0, hcnt := 0, drop := 0, lines := [] }

/-- The router at device reset (spec/11 R255). -/
def Evr.reset : Evr :=
  { maps := [], latch := 0, flt := List.replicate 11 0x22222222, refused := false, slices := List.replicate 8 Slice.reset }

/-- The halter map at a device reset other than a wake from SPORE (spec/11 R249, R258). -/
def Halter.reset : Halter :=
  { lock := false, pol := 0, flt := List.replicate 8 2,
    maps := List.replicate 8 { ins := 0, safe := false, latch := true, arm := false },
    trip := 0, forced := 0, level := 0, bad := 0, sims := List.replicate 8 none, refused := false, driven := true }

/-- One fold window (spec/13 R268, R292): the registers BASE and LIM. -/
structure Window where
  base : Word
  lim : Word
deriving DecidableEq, Repr

/-- The credit regulator and windows of a fold (spec/13 R276, R292). -/
structure FoldMem where
  wins : List Window
  spare : Bool
  idleper : Nat
  share : Nat
  burst : Nat
  credit : Int
  beats : Word
deriving DecidableEq, Repr

/-- The MYC unit (spec/13 R292). `corrSince` counts corrections since the last report, `uePages` the uncorrectable errors of each page;
`grants` the counters of each target port by class and `waits` those of the requests it kept waiting (R291), `rr` the fold last granted by
port and class (R273); `ecc` the cells with flipped check bits. -/
structure Myc where
  refused : Bool
  init : Bool
  corr : Nat
  uncorr : Nat
  eccAddr : Word
  ueAddr : Word
  patrolEn : Bool
  passes : Byte
  patrolAt : Nat
  corrSince : Nat
  uePages : List (Nat × Nat)
  folds : List FoldMem
  grants : List (Nat × Nat)
  waits : List (Nat × Nat)
  rr : List (Nat × Nat)
  ecc : List (Nat × Nat)
deriving DecidableEq, Repr

/-- A fold's windows and regulator at device reset (spec/13 R289). -/
def FoldMem.reset : FoldMem :=
  { wins := List.replicate 16 ⟨0, 0⟩, spare := true, idleper := 0, share := 64, burst := 256, credit := 256, beats := 0 }

/-- The MYC unit at device reset (spec/13 R289). -/
def Myc.reset : Myc :=
  { refused := false, init := false, corr := 0, uncorr := 0, eccAddr := 0, ueAddr := 0, patrolEn := true, passes := 0,
    patrolAt := 0, corrSince := 0, uePages := [], folds := List.replicate 8 FoldMem.reset, grants := [], waits := [], rr := [], ecc := [] }

/-- A descriptor as fetched (spec/14 R296). -/
structure Desc where
  src : Word
  dst : Word
  len : Word
  ctl : Word
  pstride : Word
  status : Word
deriving DecidableEq, Repr

/-- What is left to do of a descriptor (spec/14 R297, R305): fetch it, move data, read back, write back; or a stop's
write-back. -/
inductive DmaStage where
  | idle | fetch | data | readback | writeback | stopping
deriving DecidableEq, Repr

/-- One DMA channel (spec/14 R316). `req` is the request's state, `resid` the bytes read but not yet written, `halfPend` that HALF is due with
FULL, `stopReq` that STOP waits for the burst under way. -/
structure Channel where
  own : Option Nat
  prio : Nat
  cls : Nat
  retry : Nat
  backoff : Nat
  movers : Nat
  src : Nat
  high : Nat
  low : Nat
  rbase : Word
  rsize : Nat
  head : Nat
  code : Nat
  half : Bool
  full : Bool
  short : Bool
  req : Bool
  tries : Nat
  done : Nat
  errAddr : Word
  cntDesc : Nat
  cntShort : Nat
  cntRetry : Nat
  cntNobuf : Nat
  cntReslost : Nat
  resid : List Byte
  desc : Option Desc
  stage : DmaStage
  halfDone : Bool
  descShort : Bool
  backing : Bool
  buf : Option Nat
  lastElem : List Byte
  injErr : Bool
  injWith : Bool
  stopReq : Bool
  halfPend : Bool
deriving DecidableEq, Repr

/-- One mover: its channel, the bytes of its burst and the ports they go to, how often its request has been raised a class, and how many
issued beats are still to complete of a burst that a fence or a reset has cut off (spec/14 R294, R300, R309, spec/13 R273). -/
structure Mover where
  ch : Nat
  busy : Bool
  bytes : Nat
  ports : List Nat
  prom : Nat
  cut : Option Nat
deriving DecidableEq, Repr

/-- The DMA engine (spec/14). -/
structure Dma where
  refused : Bool
  movers : List Mover
  rr : List Nat
  chans : List (Nat × Channel)
deriving DecidableEq, Repr

/-- A free mover. -/
def Mover.reset : Mover := { ch := 0, busy := false, bytes := 0, ports := [], prom := 0, cut := none }

/-- A channel at device reset (spec/14 R313, R316). -/
def Channel.reset : Channel :=
  { own := none, prio := 0, cls := 3, retry := 3, backoff := 1, movers := 15, src := 0, high := 1, low := 0, rbase := 0,
    rsize := 0, head := 0, code := 0, half := false, full := false, short := false, req := false, tries := 0, done := 0,
    errAddr := 0, cntDesc := 0, cntShort := 0, cntRetry := 0, cntNobuf := 0, cntReslost := 0, resid := [], desc := none,
    stage := .idle, halfDone := false, descShort := false, backing := false, buf := none, lastElem := [], injErr := false,
    injWith := false, stopReq := false, halfPend := false }

/-- The DMA engine at device reset. -/
def Dma.reset : Dma :=
  { refused := false, movers := List.replicate 4 Mover.reset, rr := List.replicate 4 63, chans := [] }

/-- One record of a receive or transmit queue (spec/16, frame record), with the fold that wrote it. -/
structure Rec where
  addr : Word
  info : Word
  fold : Nat
deriving DecidableEq, Repr

/-- A frame that has ended at a port and waits for buffers or for room in its sub-queue: its bytes, fold, status and
the partner entry found (spec/16 R352, R362, R366). -/
structure RxFrame where
  bytes : List Byte
  fold : Nat
  stat : Nat
  pidx : Option Nat
  bufs : List Nat
deriving DecidableEq, Repr

/-- The receive sub-queue and the transmit assembly of one fold at a port (spec/16 R347, R348). `half` is set when cell 0 of
the oldest record has been read, `tx0` the cell 0 written and not yet paired. -/
structure SubQ where
  recs : List Rec
  half : Bool
  tx0 : Option Word
  last : Word
deriving DecidableEq, Repr

/-- One field port (spec/16 R372). `txFrame` are the records of the frame at the head that have been checked, `txBusy` that it is being
sent; `held` the buffers taken for the frame in reception and `dropNext` that it has met NOBUF; `rxWait` the frames that wait at the
port; `sent` what the port has sent. -/
structure Port where
  own : Option Nat
  cfg : Word
  tmr : Word
  dbt : Word
  rxok : Nat
  txok : Nat
  err : Nat
  nobuf : Nat
  qfull : Nat
  unowned : Nat
  txref : Nat
  ovf : Nat
  refused : Bool
  subs : List (Nat × SubQ)
  txq : List Rec
  txFrame : List Rec
  txBusy : Bool
  rxWait : List RxFrame
  held : List Nat
  dropNext : Bool
  plcaOk : Bool
  curTo : Byte
  link : Bool
  speed : Nat
  hdx : Bool
  mdio : Word
  errState : Nat
  tec : Byte
  rec_ : Byte
  integrated : Bool
  rxBuf : List Byte
  rxStat : Nat
  sentence : Bool
  crSeen : Bool
  injFcs : Bool
  injNobuf : Bool
  sent : List (List Byte)
deriving DecidableEq, Repr

/-- One CAN filter (spec/16 R358): the two registers. -/
structure Filt where
  a : Word
  b : Word
deriving DecidableEq, Repr

/-- One partner entry (spec/16 R361). -/
structure Partner where
  stat : Bool
  port : Nat
  fold : Nat
  nid : Nat
  key : Nat
  idle : Nat
  frames : Word
deriving DecidableEq, Repr

/-- The partner queue of a fold (spec/16 R365). -/
structure PartnerQ where
  recs : List (Word × Word)
  lost : Nat
  fullTick : Bool
deriving DecidableEq, Repr

/-- The partner table (spec/16 R361 to R366, R372). -/
structure Ptab where
  entries : List (Nat × Partner)
  fullCnt : Nat
  addLo : Word
  ages : List Nat
  queues : List PartnerQ
deriving DecidableEq, Repr

/-- Tag and holder of an allocated buffer (spec/16 R349, R350): the fold and the requester that took it. -/
structure BufTag where
  fold : Nat
  req : Nat
deriving DecidableEq, Repr

/-- The buffer pool (spec/16 R349 to R352, R372). -/
structure Pool where
  tags : List (Nat × BufTag)
  retired : List Nat
  badFree : Bool
  hdes : List Word
  lowmark : Nat
  floors : List (Nat × Nat)
  low : Bool
deriving DecidableEq, Repr

/-- An empty sub-queue. -/
def SubQ.reset : SubQ := { recs := [], half := false, tx0 := none, last := 0 }

/-- The reset values of CFG, the second and the third register of a port class: 0 T1S, 1 CAN, 2 GbE, 3 UART (spec/16 R372). -/
def portRegReset (cls : Nat) : Word × Word × Word :=
  match cls with
  | 0 => (0x00080000, 0x00008020, 0)
  | 3 => (9600, 0x00000411, 0)
  | _ => (0, 0, 0)

/-- A field port of a class at device reset (spec/16 R369, R372). -/
def Port.reset (cls : Nat) : Port :=
  { own := none, cfg := (portRegReset cls).1, tmr := (portRegReset cls).2.1, dbt := 0, rxok := 0, txok := 0, err := 0, nobuf := 0,
    qfull := 0, unowned := 0, txref := 0, ovf := 0, refused := false, subs := [], txq := [], txFrame := [], txBusy := false,
    rxWait := [], held := [], dropNext := false, plcaOk := false, curTo := 0, link := false, speed := 0, hdx := false, mdio := 0,
    errState := 0, tec := 0,
    rec_ := 0, integrated := false, rxBuf := [], rxStat := 0, sentence := false, crSeen := false, injFcs := false,
    injNobuf := false, sent := [] }

/-- The partner table at device reset (spec/16 R369). -/
def Ptab.reset : Ptab :=
  { entries := [], fullCnt := 0, addLo := 0, ages := List.replicate 18 5000,
    queues := List.replicate 8 { recs := [], lost := 0, fullTick := false } }

/-- The buffer pool at device reset (spec/16 R369). -/
def Pool.reset : Pool :=
  { tags := [], retired := [], badFree := false, hdes := List.replicate 4 0, lowmark := 64, floors := [], low := false }

/-- One AFE channel (spec/17 R374 to R377, R394). `fault` is 0 none, 1 low, 2 high; `runDir` and `run` count conversions in one direction
(0 in range, 1 low, 2 high); `discard` the INVALID conversions still to come, `old` the mode in which the conversion under way completes
after a change. -/
structure AfeCh where
  mode : Nat
  fcnt : Nat
  lo : BitVec 24
  hi : BitVec 24
  last : Word
  fault : Nat
  runDir : Nat
  run : Nat
  discard : Nat
  old : Option Nat
  test : Option Bool
deriving DecidableEq, Repr

/-- The analog front end (spec/17 R373 to R377, R394). `ovrWait` counts the frame periods in which no further overrun is reported, `dry`
that nothing has entered the queue since its reset. -/
structure Afe where
  rate : Nat
  frev : Bool
  own : Option Nat
  refok : Bool
  seq : Nat
  refused : Bool
  ovr : Nat
  frames : Nat
  ovrWait : Nat
  queue : List Word
  dry : Bool
  chans : List AfeCh
deriving DecidableEq, Repr

/-- One PWM channel (spec/17 R378 to R382, R394). `dpos` counts periods of the dither pattern, `acc` is ACC, `h` the active
counts of the period, `running` that a period with a waveform runs, `due` that a trip or a fold
fence is to hold it. -/
structure Pwm where
  own : Option Nat
  safe : Bool
  oe : Bool
  pre : Nat
  polLow : Bool
  pev : Bool
  foldsafe : Bool
  hen : Bool
  hlink : Nat
  per : Nat
  sp : Nat
  spq : List Nat
  lastSpq : Half
  damp : Nat
  dhalf : Nat
  dpos : Nat
  acc : Nat
  h : Nat
  running : Bool
  held : Bool
  due : Bool
  ballf : Bool
  qdrop : Nat
  refused : Bool
  mism : Nat
deriving DecidableEq, Repr

/-- The GPIO unit (spec/17 R383 to R387, R394). `dry` says that nothing has entered the snapshot queue since its reset. -/
structure Gpio where
  out : BitVec 64
  dir : BitVec 64
  odrn : BitVec 64
  pull : List Nat
  own : List (Option Nat)
  mism : BitVec 64
  hoMism : BitVec 8
  snapEn : Bool
  snapBank : Bool
  snapPer : Nat
  snapq : List Word
  dry : Bool
  ovr : Nat
  mismSec : List (Nat × Word)
deriving DecidableEq, Repr

/-- An AFE channel at device reset (spec/17 R394). -/
def AfeCh.reset : AfeCh :=
  { mode := 0, fcnt := 4, lo := 0x800000, hi := 0x7FFFFF, last := 0, fault := 0, runDir := 0, run := 0, discard := 4, old := none,
    test := none }

/-- The AFE at device reset (spec/17 R394). -/
def Afe.reset : Afe :=
  { rate := 0, frev := true, own := none, refok := true, seq := 0, refused := false, ovr := 0, frames := 0,
    ovrWait := 0, queue := [], dry := true, chans := List.replicate 24 AfeCh.reset }

/-- A PWM channel at device reset (spec/17 R394). -/
def Pwm.reset : Pwm :=
  { own := none, safe := false, oe := false, pre := 0, polLow := false, pev := false, foldsafe := true, hen := false, hlink := 0,
    per := 4000, sp := 0, spq := [], lastSpq := 0, damp := 0, dhalf := 0, dpos := 0, acc := 0, h := 0, running := false,
    held := false, due := false, ballf := false, qdrop := 0, refused := false, mism := 0 }

/-- The GPIO unit at device reset (spec/17 R394). -/
def Gpio.reset : Gpio :=
  { out := 0, dir := 0, odrn := 0, pull := List.replicate 64 0, own := List.replicate 64 none, mism := 0, hoMism := 0,
    snapEn := false, snapBank := false, snapPer := 1000, snapq := [], dry := true, ovr := 0, mismSec := [] }

/-- The Bellwether as the spec describes it (spec/09 R201 to R211). Its records lie in the ring at 0xF000_8000; `seq` is the
next sequence number, `head` the next index, `hookRun` the hook calls that have not returned. -/
structure Bw where
  seq : Word
  head : Nat
  wrap : Bool
  halt : Bool
  hook : Bool
  hookAbn : Nat
  hookEntry : Word
  kexv : Word
  kexctl : Nat
  hookRun : Nat
deriving DecidableEq, Repr

/-- Signed content that boot or `x ucode load` has accepted: the overlay in the staging slot, for a fold and a personality;
`none` content stands for the empty overlay of `x ucode unload` (spec/08 R176). -/
structure Staged where
  fold : Nat
  tether : Bool
  empty : Bool
  arb : Nat
deriving DecidableEq, Repr

/-- Where the golden region stands (spec/08 R173 to R183): which base images are held and usable, which overlay slots are
active, what is staged. -/
structure Golden where
  baseHeld : List Bool
  baseBad : List Bool
  active : List Bool
  ovlBad : List Bool
  staged : Option Staged
deriving DecidableEq, Repr

/-- The image that booted (spec/18 R398, R410, R412). -/
structure BootImg where
  secondary : Bool
  base : Nat
  version : Word
  name : List Byte
  arb : Nat
  keyslot : Nat
  kpen : Nat
  kentry : Word
  drove : Option (Nat × Nat × Nat)
  tether : Option (Nat × Nat × Nat)
  ovls : List (Nat × Nat × Nat × Nat)
deriving DecidableEq, Repr

/-- The result of boot (spec/18 R409, R412). `scriptLines` counts executed lines; `scriptEnd` is the failing line and code, code 0 for
TIME; `script` holds the lines not yet run, `released` that the release step has let the loaded pens start; `arb` and `locked` are the
fields of CAP.BOOT that show the OTP. -/
structure Boot where
  code : Nat
  secondary : Bool
  skipped : Nat
  bfailCode : Nat
  bfailSection : Nat
  jtagEn : Bool
  img : Option BootImg
  records : Nat
  scriptLines : Nat
  scriptEnd : Option (Nat × Nat)
  script : List (List Byte)
  inScript : Bool
  released : Bool
  arb : Nat
  locked : Bool
deriving DecidableEq, Repr

/-- A memory device behind a chip select of the xSPI (spec/18 R397): its density in bytes, whether it offers 8D-8D-8D, and its
content by offset (an unlisted offset reads 0xFF, erased). -/
structure Xspi where
  fitted : Bool
  density : Nat
  octal : Bool
  data : List (Nat × Byte)
deriving DecidableEq, Repr

/-- The Bellwether at device reset (spec/09 R208). -/
def Bw.reset : Bw :=
  { seq := 0, head := 0, wrap := false, halt := false, hook := false, hookAbn := 0, hookEntry := 0, kexv := 0, kexctl := 0,
    hookRun := 0 }

/-- The golden region before boot (spec/08 R184). -/
def Golden.reset : Golden :=
  { baseHeld := [false, false], baseBad := [false, false], active := List.replicate 16 false,
    ovlBad := List.replicate 16 false, staged := none }

/-- Boot results before boot (spec/18 R412). -/
def Boot.reset : Boot :=
  { code := 0, secondary := false, skipped := 0, bfailCode := 0, bfailSection := 0, jtagEn := false, img := none, records := 0,
    scriptLines := 0, scriptEnd := none, script := [], inScript := false, released := false, arb := 0, locked := false }

/-- A chip select with nothing fitted. -/
def Xspi.none : Xspi := { fitted := false, density := 0, octal := false, data := [] }

/-- A console port after a reset (spec/03 R63). -/
def Console.reset : Console :=
  { cfg := 0x00040480, role := .observe, scope := none, lock := false, genForm := false, authBlk := false, authFails := 0,
    evMask := 0x3FF, cntLines := 0, cntCrc := 0, cntFraming := 0, cntOverrun := 0, cntAuth := 0, cntLost := 0, rx := [],
    rxBad := false, rxOver := false, lastCr := false, lines := [], chal := none, timeout := 900, idle := 0, evq := [],
    lostPend := 0, evCount := 0, kept := none, busy := none, deferred := none, ready := false, cut := false, tx := [] }

/-- The PMU at the release of a power-on reset with VIN at 24 V and every sensor at 25 degrees (spec/02 R438; logs 3, 4). -/
def Pmu.reset : Pmu :=
  { cur := .run, trans := none, refused := false, wakeTarget := .run, wakeEn := 0, wakeCause := 0, wakeLatched := none,
    vinNow := 2400, vinLow := 2400, applied := 0, elig := 0, vcause := 0, tcause := 0, scause := 0, step := none, due := [],
    deferred := [], shedUnits := [], afeShed := 0, lwatch := 0, keepAfe := 0, keepPort := 0, keepDmaLo := 0, keepDmaHi := 0,
    s5base := 0, s5len := 0, temps := List.replicate 10 100, peak := 100, thermSim := none, warn := false, trip := false,
    lock := true, refOk := true, fallback := false, clkFailPend := false, rstCause := .por, retValid := false, rtcSec := 0,
    rtcAlm := 0xFFFFFFFF, log := [], heldSrc := [], vio := 7, stopOv := false, stopOt := false, atWarn := false,
    atTrip := false }

/-- The device but for its OTP and its queue. `variant` is 1 KY-840, 2 KY-620, 3 KY-410; `step` 0 A0, 1 B0, 2 B1 (CAP.ID). -/
structure Dev where
  variant : Nat
  step : Nat
  phase : Phase
  free : Nat
  jtag : Bool
  mem : List Host.Cell
  flash : Xspi
  cs1 : Xspi
  pmu : Pmu
  mga : Console
  mgb : Console
  units : List (Nat × UnitRec)
  stateSel : Nat
  stateResult : List (Nat × Word)
  disOrder : List Nat
  arbLog : List ArbEntry
  cores : List (Nat × Core)
  pens : List (Nat × Pen)
  evr : Evr
  halter : Halter
  pins : Pins
  myc : Myc
  dma : Dma
  ports : List (Nat × Port)
  nid : List (Nat × Nat)
  filts : List (Nat × Filt)
  ptab : Ptab
  pool : Pool
  afe : Afe
  pwms : List (Nat × Pwm)
  gpio : Gpio
  bw : Bw
  golden : Golden
  boot : Boot
deriving DecidableEq, Repr

/-- One OTP slot: the bits written, whether PROG and REVOKED are set, and the BAD mark made at boot (spec/18 R403). -/
structure OtpKey where
  bits : BitVec 512
  prog : Bool
  revoked : Bool
  bad : Bool
deriving DecidableEq, Repr

/-- The one-time-programmable memory (spec/18 R403): image key slots 0 to 7, role key slots (operate all, engineer, machine,
operate of fold 0 to 7, each with two generations: index 2 * slot + generation), the counter C as its 64 bits, LOCKED, and the factory
values of COEF0 to COEF7 of each pen. -/
structure Otp where
  image : List OtpKey
  role : List OtpKey
  arb : BitVec 64
  locked : Bool
  coef : List Nat
deriving DecidableEq, Repr

/-- An OTP slot nothing has been written to. -/
def OtpKey.blank : OtpKey := { bits := 0, prog := false, revoked := false, bad := false }

/-- An OTP with no key programmed (log 16). -/
def Otp.blank : Otp :=
  { image := List.replicate 8 OtpKey.blank, role := List.replicate 22 OtpKey.blank, arb := 0, locked := false,
    coef := List.replicate 64 0 }

/-- The state of the block: the device, its OTP, and the commands that wait, first in, first out (log 1). -/
structure State where
  dev : Dev
  otp : Otp
  pending : List Instr
deriving DecidableEq, Repr

/-- Faults of the model. No meaning of this model ends in one: an error of the device is an effect on its state. The one
constructor is raised by no command; it is safe, since a run that stops proves nothing about the device. -/
inductive Fault where
  /-- Raised by no command of the model; safe. -/
  | stopped
deriving DecidableEq, Repr

/-- Refusals of the model. -/
inductive Refusal where
  /-- Raised by `exec` for a command that has no meaning yet, with its mnemonic; safe: the run stops there. -/
  | notModelled (mnemonic : String)
deriving DecidableEq, Repr

/-- The device at the release of its first power-on reset, its boot still to run (spec/02 R39, R40, spec/04 R85; logs 4 to 6, 14,
16, 19). -/
def Dev.reset : Dev :=
  { variant := 1, step := 2, phase := .boot, free := 0, jtag := false, mem := [], flash := Xspi.none, cs1 := Xspi.none,
    pmu := Pmu.reset, mga := Console.reset, mgb := Console.reset, units := [], stateSel := 0, stateResult := [], disOrder := [],
    arbLog := [], cores := [], pens := [], evr := Evr.reset, halter := Halter.reset, pins := { wake := 0, halt := 0, gpio := 0, viosel := 7 },
    myc := Myc.reset, dma := Dma.reset, ports := [], nid := [], filts := [], ptab := Ptab.reset, pool := Pool.reset,
    afe := Afe.reset, pwms := [], gpio := Gpio.reset, bw := Bw.reset, golden := Golden.reset, boot := Boot.reset }

/-- The state after reset (log 4). -/
def State.reset : State := { dev := Dev.reset, otp := Otp.blank, pending := [] }

end Sys2Proof.Machine
end

