-- ==== Sys2Proof/Machine/Flags.lean ====
section
/-! DEFINITION. The flags of an instruction as functions of its operands (spec/05 R98, spec/06 R124 to R129). -/
namespace Sys2Proof.Machine

/-- Z, N, C and V. -/
structure Flags where
  z : Bool
  n : Bool
  c : Bool
  v : Bool
deriving DecidableEq, Repr

/-- The flags of a core. -/
def Core.flags (k : Core) : Flags := { z := k.z, n := k.n, c := k.c, v := k.v }

/-- Sets the flags of a core. -/
def Core.setFlags (k : Core) (f : Flags) : Core := { k with z := f.z, n := f.n, c := f.c, v := f.v }

/-- Z and N from a result, C and V unchanged. -/
def Flags.zn (f : Flags) (r : Word) : Flags := { f with z := r == 0, n := r.msb }

/-- Z, N and C, V unchanged. -/
def Flags.znc (f : Flags) (r : Word) (c : Bool) : Flags := { f.zn r with c := c }

/-- Z, N and V, C unchanged. -/
def Flags.znv (f : Flags) (r : Word) (v : Bool) : Flags := { f.zn r with v := v }

/-- Z from a condition and N cleared, C and V unchanged. -/
def Flags.zOnly (f : Flags) (z : Bool) : Flags := { f with z := z, n := false }

/-- The sum with carry in and its flags: C is the carry out, V signed overflow. -/
def addFlags (a b : Word) (cin : Bool) : Word × Flags :=
  let r := a + b + (if cin then 1 else 0)
  let wide := a.toNat + b.toNat + (if cin then 1 else 0)
  (r, { z := r == 0, n := r.msb, c := 2 ^ 32 ≤ wide, v := a.msb == b.msb && r.msb != a.msb })

/-- The difference with borrow in (`cin` false borrows) and its flags: C is 1 when no borrow occurred. -/
def subFlags (a b : Word) (cin : Bool) : Word × Flags :=
  let r := a - b - (if cin then 0 else 1)
  let need := b.toNat + (if cin then 0 else 1)
  (r, { z := r == 0, n := r.msb, c := need ≤ a.toNat, v := a.msb != b.msb && r.msb != a.msb })

end Sys2Proof.Machine
end

