-- ==== Sys2Proof/Config.lean ====
section
/-! DEFINITION. The free values: constants without a value, one for each thing the spec leaves open (the log rows named
beside them). -/
namespace Sys2Proof.Config

/-- The nonce of the n-th challenge, from the random source of spec/03 R56 (log 9). -/
opaque nonce : Nat → BitVec 128

/-- The microseconds field of a Bellwether record, spec/09 R202; the model keeps no time below the RTC second (log 10). -/
opaque micros : Nat → BitVec 20

/-- The lines an observe verb sends for a report: the spec says what they show and not how they read (log 8). -/
opaque reportText : String → List (String × String) → List String

/-- The Bellwether firmware version in CAP.FW, spec/18 R412 (log 17). -/
opaque fwVersion : Word

/-- A cell whose content the spec does not state, by the number of its use (log 22). -/
opaque freeCell : Nat → Word

end Sys2Proof.Config
end

