-- ==== Sys2Proof/Machine/Ops.lean ====
section
/-! DEFINITION. The operations every family shares: sparse tables, bit fields, units and their owners, the console's
events, the Bellwether's records. -/
namespace Sys2Proof.Machine

/-! Sparse tables with strictly rising indexes. -/

/-- The entry of index `k`, or `d` where none is listed. -/
def tget {α : Type} (t : List (Nat × α)) (d : α) (k : Nat) : α :=
  match t with
  | [] => d
  | (i, v) :: r => if i = k then v else tget r d k

/-- Unlists index `k`. -/
def tdel {α : Type} (t : List (Nat × α)) (k : Nat) : List (Nat × α) := t.filter fun x => x.1 != k

/-- Lists `v` at index `k`, which is not listed, before the first greater index. -/
def tins {α : Type} (t : List (Nat × α)) (k : Nat) (v : α) : List (Nat × α) :=
  match t with
  | [] => [(k, v)]
  | (i, w) :: r => if k < i then (k, v) :: (i, w) :: r else (i, w) :: tins r k v

/-- Lists `v` at index `k`, keeping the order. -/
def tput {α : Type} (t : List (Nat × α)) (k : Nat) (v : α) : List (Nat × α) := tins (tdel t k) k v

/-- Writes `v` at index `k` where `d` is what an unlisted index holds: equal tables are equal lists. -/
def tset {α : Type} [DecidableEq α] (t : List (Nat × α)) (d : α) (k : Nat) (v : α) : List (Nat × α) :=
  if v = d then tdel t k else tput t k v

/-- The entry of index `k`, if listed. -/
def tfind {α : Type} (t : List (Nat × α)) (k : Nat) : Option α :=
  match t with
  | [] => none
  | (i, v) :: r => if i = k then some v else tfind r k

/-- The element of a list at an index, or the default. -/
def lget {α : Type} (l : List α) (d : α) (i : Nat) : α := l.getD i d

/-- The list with the element at an index replaced. -/
def lset {α : Type} (l : List α) (i : Nat) (v : α) : List α := l.set i v

/-! Bit fields. -/

/-- The `n` bits of `w` from bit `lo`. -/
def fld (w : Word) (lo n : Nat) : Nat := (w.toNat >>> lo) % 2 ^ n

/-- Bit `i` of `w`. -/
def bitOf (w : Word) (i : Nat) : Bool := w.getLsbD i

/-- A number shifted into place as part of a register. -/
def put (v lo : Nat) : Nat := v <<< lo

/-- A flag shifted into place as part of a register. -/
def putB (b : Bool) (lo : Nat) : Nat := if b then 1 <<< lo else 0

/-- A register from its number. -/
def toWord (n : Nat) : Word := BitVec.ofNat 32 n

/-- The bits of `w` selected by `mask` from `v`, the others kept. -/
def maskWrite (w v mask : Word) : Word := (w &&& ~~~mask) ||| (v &&& mask)

/-- A counter that stops at `m`. -/
def satInc (n m : Nat) : Nat := if n < m then n + 1 else m

/-- A counter that stops at `m`, advanced by `k`. -/
def satAdd (n k m : Nat) : Nat := min (n + k) m

/-- The numbers below `n` whose bit is set. -/
def bitsOf (m n : Nat) : List Nat := (List.range n).filter fun i => m.testBit i

/-- A bit set or cleared in a vector. -/
def setBit {w : Nat} (x : BitVec w) (i : Nat) (b : Bool) : BitVec w :=
  if b then x ||| BitVec.ofNat w (1 <<< i) else x &&& ~~~(BitVec.ofNat w (1 <<< i))

/-- A hexadecimal digit. -/
def hexDigit (n : Nat) : Char := ("0123456789ABCDEF".toList).getD (n % 16) '0'

/-- `k` hexadecimal digits of `n`. -/
def hexDigits (n k : Nat) : String :=
  String.ofList ((List.range k).reverse.map fun i => hexDigit (n >>> (4 * i)))

/-- A cell as the console writes it, 0x and an underscore every four digits (spec/00). -/
def hex32 (w : Word) : String := "0x" ++ hexDigits (w.toNat >>> 16) 4 ++ "_" ++ hexDigits w.toNat 4

/-- An 8-bit value as the console writes it. -/
def hex8 (n : Nat) : String := "0x" ++ hexDigits n 2

/-- A 64-bit line mask in four groups (spec/11 R242). -/
def hex64 (n : Nat) : String :=
  "0x" ++ hexDigits (n >>> 48) 4 ++ "_" ++ hexDigits (n >>> 32) 4 ++ "_" ++ hexDigits (n >>> 16) 4 ++ "_" ++ hexDigits n 4

/-- Words joined by single spaces. -/
def joinSp (l : List String) : String := String.intercalate " " l

/-! Names and numbers of units. -/

/-- The unit ID of STATE.SEL (spec/04 R88). -/
def unitCode (u : UnitId) : Nat :=
  match u with
  | .core n => n.val
  | .pen n => 0x100 + n.val
  | .fold n => 0x200 + n.val
  | .tile n => 0x300 + n.val
  | .dma n => 0x400 + n.val
  | .t1s n => 0x500 + n.val
  | .gbe n => 0x600 + n.val
  | .can n => 0x700 + n.val
  | .uart n => 0x800 + n.val
  | .mg .mga => 0x900
  | .mg .mgb => 0x901
  | .afe => 0xA00
  | .pwm n => 0xB00 + n.val
  | .gpio => 0xC00
  | .halt => 0xD00
  | .pmu => 0xD01
  | .ptab => 0xE00
  | .evr n => 0xF00 + n.val

/-- Every unit of the unit table, in the order of its codes (spec/03 R47). -/
def allUnits : List UnitId :=
  (List.finRange 32).map .core ++ (List.finRange 8).map .pen ++ (List.finRange 8).map .fold ++ (List.finRange 8).map .tile ++
  (List.finRange 64).map .dma ++ (List.finRange 4).map .t1s ++ (List.finRange 2).map .gbe ++ (List.finRange 4).map .can ++
  (List.finRange 8).map .uart ++ [.mg .mga, .mg .mgb, .afe] ++ (List.finRange 16).map .pwm ++ [.gpio, .halt, .pmu, .ptab] ++
  (List.finRange 8).map .evr

/-- The unit of a unit ID, if it names one. -/
def unitOfCode (c : Nat) : Option UnitId := allUnits.find? fun u => unitCode u == c

/-- The Brenex name of a unit (spec/03 R47). -/
def unitName (u : UnitId) : String :=
  match u with
  | .core n => "core" ++ toString n.val
  | .pen n => "pen" ++ toString n.val
  | .fold n => "fold" ++ toString n.val
  | .tile n => "tile" ++ toString n.val
  | .dma n => "dma" ++ toString n.val
  | .t1s n => "t1s" ++ toString n.val
  | .gbe n => "gbe" ++ toString n.val
  | .can n => "can" ++ toString n.val
  | .uart n => "uart" ++ toString n.val
  | .mg .mga => "mga"
  | .mg .mgb => "mgb"
  | .afe => "afe"
  | .pwm n => "pwm" ++ toString n.val
  | .gpio => "gpio"
  | .halt => "halt"
  | .pmu => "pmu"
  | .ptab => "ptab"
  | .evr n => "evr.f" ++ toString n.val

/-- How many of each unit a variant has (spec/00 R1). -/
def countPens (v : Nat) : Nat := match v with | 1 => 8 | 2 => 6 | _ => 4
def countTiles (v : Nat) : Nat := match v with | 1 => 8 | 2 => 2 | _ => 0
def countT1s (v : Nat) : Nat := match v with | 1 => 4 | 2 => 4 | _ => 2
def countGbe (v : Nat) : Nat := match v with | 1 => 2 | 2 => 1 | _ => 0
def countCan (v : Nat) : Nat := match v with | 1 => 4 | 2 => 4 | _ => 2
def countUart (v : Nat) : Nat := match v with | 1 => 8 | 2 => 8 | _ => 4
def countDma (v : Nat) : Nat := match v with | 1 => 64 | 2 => 48 | _ => 32

/-- Whether a variant contains a unit (spec/00 R1, R2). -/
def unitPresent (v : Nat) (u : UnitId) : Bool :=
  match u with
  | .core n => n.val < 4 * countPens v
  | .pen n => n.val < countPens v
  | .tile n => n.val < countTiles v
  | .dma n => n.val < countDma v
  | .t1s n => n.val < countT1s v
  | .gbe n => n.val < countGbe v
  | .can n => n.val < countCan v
  | .uart n => n.val < countUart v
  | .afe => v == 1
  | _ => true

/-- The state a unit starts in at device reset (spec/04 R85). -/
def startState (v : Nat) (u : UnitId) : UState :=
  if !unitPresent v u then .absent else
  match u with
  | .pmu | .halt | .mg _ | .evr _ => .idle
  | _ => .off

/-- A unit's record at device reset: generation 0, the shadow loaded from the hardware (spec/04 R85). -/
def UnitRec.start (s : UState) : UnitRec :=
  { st := s, prior := s, fcause := 0, gen := 0, sh := s, shBad := false, regDiff := [], dis := false, disMgmt := none,
    disData := s, disCfg := false, resetting := false, sb := 0, held := [] }

/-! Parts of the device by index. -/

/-- The record of a unit. -/
def Dev.unit (d : Dev) (u : UnitId) : UnitRec := tget d.units (UnitRec.start (startState d.variant u)) (unitCode u)

/-- The device with a unit's record replaced. -/
def Dev.setUnit (d : Dev) (u : UnitId) (r : UnitRec) : Dev :=
  { d with units := tset d.units (UnitRec.start (startState d.variant u)) (unitCode u) r }

/-- Core `c`. -/
def Dev.core (d : Dev) (c : Nat) : Core := tget d.cores Core.reset c

/-- The device with core `c` replaced. -/
def Dev.setCore (d : Dev) (c : Nat) (k : Core) : Dev := { d with cores := tset d.cores Core.reset c k }

/-- The device with core `c` changed. -/
def Dev.updCore (d : Dev) (c : Nat) (f : Core → Core) : Dev := d.setCore c (f (d.core c))

/-- The core with an exception due at the next boundary of its level (spec/05 R118). -/
def Core.hold (k : Core) (b : BoundExc) : Core := { k with bexc := tput k.bexc k.lvl b }

/-- The exception due at the next boundary of the running level; that of an interrupted level waits for it (spec/09 R205). -/
def Core.held (k : Core) : Option BoundExc := tfind k.bexc k.lvl

/-- Pen `p`. -/
def Dev.pen (d : Dev) (p : Nat) : Pen := tget d.pens (Pen.reset (referenceFold d.variant p)) p

/-- The device with pen `p` replaced. -/
def Dev.setPen (d : Dev) (p : Nat) (k : Pen) : Dev :=
  { d with pens := tset d.pens (Pen.reset (referenceFold d.variant p)) p k }

/-- The device with pen `p` changed. -/
def Dev.updPen (d : Dev) (p : Nat) (f : Pen → Pen) : Dev := d.setPen p (f (d.pen p))

/-- The class of a port by its ID (spec/16 R350): 0 T1S, 1 CAN, 2 GbE, 3 UART. -/
def portClass (i : Nat) : Nat := if i < 4 then 0 else if i < 8 then 1 else if i < 10 then 2 else 3

/-- The ID of a field port (spec/16 R350). -/
def portId (u : FieldPort) : Nat :=
  match u with
  | .t1s n => n.val
  | .can n => 4 + n.val
  | .gbe n => 8 + n.val
  | .uart n => 10 + n.val

/-- The unit of a field port. -/
def portUnit (u : FieldPort) : UnitId :=
  match u with
  | .t1s n => .t1s n
  | .can n => .can n
  | .gbe n => .gbe n
  | .uart n => .uart n

/-- The field ports in the order of their IDs. -/
def allPorts : List FieldPort :=
  (List.finRange 4).map .t1s ++ (List.finRange 4).map .can ++ (List.finRange 2).map .gbe ++ (List.finRange 8).map .uart

/-- Port `i`. -/
def Dev.port (d : Dev) (i : Nat) : Port := tget d.ports (Port.reset (portClass i)) i

/-- The device with port `i` changed. -/
def Dev.updPort (d : Dev) (i : Nat) (f : Port → Port) : Dev :=
  { d with ports := tset d.ports (Port.reset (portClass i)) i (f (d.port i)) }

/-- DMA channel `c`. -/
def Dev.chan (d : Dev) (c : Nat) : Channel := tget d.dma.chans Channel.reset c

/-- The device with DMA channel `c` changed. -/
def Dev.updChan (d : Dev) (c : Nat) (f : Channel → Channel) : Dev :=
  { d with dma := { d.dma with chans := tset d.dma.chans Channel.reset c (f (d.chan c)) } }

/-- PWM channel `n`. -/
def Dev.pwm (d : Dev) (n : Nat) : Pwm := tget d.pwms Pwm.reset n

/-- The device with PWM channel `n` changed. -/
def Dev.updPwm (d : Dev) (n : Nat) (f : Pwm → Pwm) : Dev := { d with pwms := tset d.pwms Pwm.reset n (f (d.pwm n)) }

/-- The slice of fold `f`. -/
def Dev.slice (d : Dev) (f : Nat) : Slice := lget d.evr.slices Slice.reset f

/-- The device with the slice of fold `f` changed. -/
def Dev.updSlice (d : Dev) (f : Nat) (g : Slice → Slice) : Dev :=
  { d with evr := { d.evr with slices := lset d.evr.slices f (g (d.slice f)) } }

/-- The memory regulator and windows of fold `f`. -/
def Dev.foldMem (d : Dev) (f : Nat) : FoldMem := lget d.myc.folds FoldMem.reset f

/-- The device with the memory regulator of fold `f` changed. -/
def Dev.updFoldMem (d : Dev) (f : Nat) (g : FoldMem → FoldMem) : Dev :=
  { d with myc := { d.myc with folds := lset d.myc.folds f (g (d.foldMem f)) } }

/-- A management port. -/
def Dev.mg (d : Dev) (p : MgPort) : Console := match p with | .mga => d.mga | .mgb => d.mgb

/-- The device with a management port changed. -/
def Dev.updMg (d : Dev) (p : MgPort) (f : Console → Console) : Dev :=
  match p with
  | .mga => { d with mga := f d.mga }
  | .mgb => { d with mgb := f d.mgb }

/-- The other management port. -/
def otherPort (p : MgPort) : MgPort := match p with | .mga => .mgb | .mgb => .mga

/-- The pen of a core. -/
def penOf (c : Nat) : Nat := c / 4

/-- The personality of a core's pen: Tether. -/
def Dev.tether (d : Dev) (c : Nat) : Bool := (d.pen (penOf c)).pers == some true

/-- The fold that owns a core. -/
def Dev.foldOfCore (d : Dev) (c : Nat) : Nat := (d.pen (penOf c)).fold

/-- Unit IDs by index, for numbers in range. -/
def coreU (c : Nat) : UnitId := .core (Fin.ofNat 32 c)
def penU (p : Nat) : UnitId := .pen (Fin.ofNat 8 p)
def foldU (f : Nat) : UnitId := .fold (Fin.ofNat 8 f)
def tileU (t : Nat) : UnitId := .tile (Fin.ofNat 8 t)
def dmaU (c : Nat) : UnitId := .dma (Fin.ofNat 64 c)
def pwmU (n : Nat) : UnitId := .pwm (Fin.ofNat 16 n)
def evrU (f : Nat) : UnitId := .evr (Fin.ofNat 8 f)

/-- The fold that owns a unit, if a fold does (spec/03 R55, spec/04 R75). -/
def Dev.owner (d : Dev) (u : UnitId) : Option Nat :=
  match u with
  | .core n => some (d.foldOfCore n.val)
  | .pen n => some (d.pen n.val).fold
  | .fold n => some n.val
  | .tile n => some (d.pen n.val).fold
  | .dma n => (d.chan n.val).own
  | .t1s n => (d.port n.val).own
  | .can n => (d.port (4 + n.val)).own
  | .gbe n => (d.port (8 + n.val)).own
  | .uart n => (d.port (10 + n.val)).own
  | .afe => d.afe.own
  | .pwm n => (d.pwm n.val).own
  | .evr n => some n.val
  | _ => none

/-! Events (spec/03 R52, R53). -/

/-- The bit of a class in EVMASK. -/
def classBit (c : EvClass) : Nat :=
  match c with
  | .pwr => 0 | .fence => 1 | .state => 2 | .port => 3 | .partner => 4 | .evr => 5 | .dma => 6 | .tile => 7 | .afe => 8 | .sess => 9

/-- Whether a port's filter and its session's scope let an event through (spec/03 R53, R55): `cls` none is an event that cannot be
filtered out. -/
def wants (d : Dev) (k : Console) (cls : Option EvClass) (u : Option UnitId) : Bool :=
  match cls with
  | none => true
  | some c =>
    k.evMask.getLsbD (classBit c) &&
    match k.scope with
    | none => true
    | some f => c == .pwr || (match u with | none => false | some x => d.owner x == some f.val)

/-- Queues an event at a port: at most 64, the newest discarded and counted (spec/03 R53). -/
def enqueue (k : Console) (text : String) : Console :=
  if k.evq.length < 64 then { k with evq := k.evq ++ [⟨text⟩] }
  else { k with lostPend := k.lostPend + 1, cntLost := satInc k.cntLost 255 }

/-- Raises an event on both ports, each through its own filter and scope (spec/03 R53, R60). -/
def emit (d : Dev) (cls : Option EvClass) (u : Option UnitId) (text : String) : Dev :=
  let a := if wants d d.mga cls u then enqueue d.mga text else d.mga
  let b := if wants d d.mgb cls u then enqueue d.mgb text else d.mgb
  { d with mga := a, mgb := b }

/-! Memory bytes by absolute address. -/

/-- The canonical form of memory: addresses rise, and no entry is equal to what an unlisted address reads as. -/
def Memory.wf (m : List Host.Cell) : Bool := decide (m.Pairwise fun x y => x.1 < y.1) && m.all fun x => x.2 != 0

/-- The byte of on-chip memory at an address; an unlisted address reads 0 (spec/13 R289, log 19). -/
def Dev.byte (d : Dev) (a : Nat) : Byte := tget d.mem 0 a

/-- Writes one byte of on-chip memory. -/
def Dev.setByte (d : Dev) (a : Nat) (b : Byte) : Dev := { d with mem := tset d.mem 0 a b }

/-- The 32-bit cell at an address, least significant byte first (spec/00 R6). -/
def Dev.cell (d : Dev) (a : Nat) : Word :=
  d.byte (a + 3) ++ d.byte (a + 2) ++ d.byte (a + 1) ++ d.byte a

/-- Writes the low `n` bytes of a value at an address, least significant first. -/
def Dev.setBytes (d : Dev) (a : Nat) (v : Word) (n : Nat) : Dev :=
  match n with
  | 0 => d
  | k + 1 => (d.setByte a (v.setWidth 8)).setBytes (a + 1) (v >>> 8) k

/-- Writes a 32-bit cell. -/
def Dev.setCell (d : Dev) (a : Nat) (v : Word) : Dev := d.setBytes a v 4

/-- `n` bytes from an address. -/
def Dev.bytes (d : Dev) (a n : Nat) : List Byte := (List.range n).map fun i => d.byte (a + i)

/-- Writes a list of bytes from an address. -/
def Dev.setByteList (d : Dev) (a : Nat) (l : List Byte) : Dev :=
  match l with
  | [] => d
  | b :: r => (d.setByte a b).setByteList (a + 1) r

/-- Clears `n` listed bytes from an address: every byte in the range reads 0. -/
def Dev.clearRange (d : Dev) (a n : Nat) : Dev :=
  { d with mem := d.mem.filter fun x => x.1 < a || a + n ≤ x.1 }

/-! The Bellwether's records (spec/09 R202). -/

/-- Writes one record to the ring, unless the Bellwether is halted (spec/09 R202, R204, R207). -/
def bwRecord (d : Dev) (kind : Nat) (u : UnitId) (code : Byte) (detail pc addr : Word) : Dev :=
  if d.bw.halt then d else
  let a := 0xF0008000 + 32 * d.bw.head
  let gen := (d.unit u).gen
  let micros := Config.micros d.free
  let d := { d with free := d.free + 1 }
  let d := d.setCell a d.pmu.rtcSec
  let d := d.setCell (a + 4) (toWord (micros.toNat + put kind 24))
  let d := d.setCell (a + 8) (toWord (unitCode u + put code.toNat 16 + put ((d.owner u).getD 0) 24))
  let d := d.setCell (a + 12) detail
  let d := d.setCell (a + 16) pc
  let d := d.setCell (a + 20) addr
  let d := d.setCell (a + 24) (toWord gen.toNat)
  let d := d.setCell (a + 28) d.bw.seq
  { d with bw := { d.bw with seq := d.bw.seq + 1, head := (d.bw.head + 1) % 256,
                             wrap := d.bw.wrap || 256 ≤ d.bw.seq.toNat } }

/-- Adds a record to the PMU log, which keeps 32 (spec/02 R42). -/
def pmuLog (d : Dev) (text : String) : Dev :=
  let l := d.pmu.log ++ [⟨d.pmu.rtcSec, text⟩]
  { d with pmu := { d.pmu with log := l.drop (l.length - 32) } }

/-! Lifting. -/

/-- The next state in which the device has changed and nothing else. -/
def lift (f : Dev → Dev) (s : State) : Host.Outcome State Fault Refusal := .next { s with dev := f s.dev }

end Sys2Proof.Machine
end

