-- ==== Sys2Proof/Machine/Arb.lean ====
section
/-! DEFINITION. The state arbiter (spec/04): transitions, generations, fences, disagreements; with the event router's
delivery (spec/11), the pool's returns (spec/16) and the session's end (spec/03), which fences and transitions reach. -/
namespace Sys2Proof.Machine

/-! Sessions. -/

/-- A session that drops back to observe, its lock released (spec/03 R57). DESIGN CHOICE (log 101): its timeout setting is kept. -/
def dropSession (k : Console) : Console :=
  { k with role := .observe, scope := none, lock := false, chal := none, idle := 0 }

/-! The buffer pool. -/

/-- Buffers not allocated and not retired (spec/16 R349, R368). -/
def poolFreeCount (q : Pool) : Nat := 1024 - q.tags.length - q.retired.length

/-- Raises `!POOL LOW` and `!POOL OK` as FREE moves across LOWMARK (spec/16 R366). -/
def poolWatch (d : Dev) : Dev :=
  let n := poolFreeCount d.pool
  if n < d.pool.lowmark && !d.pool.low then
    emit { d with pool := { d.pool with low := true } } (some .partner) none "!POOL LOW"
  else if d.pool.lowmark + 16 ≤ n && d.pool.low then
    emit { d with pool := { d.pool with low := false } } (some .partner) none "!POOL OK"
  else d

/-- Returns one buffer to the pool. -/
def poolReturn (d : Dev) (b : Nat) : Dev := poolWatch { d with pool := { d.pool with tags := tdel d.pool.tags b } }

/-- Returns a list of buffers. -/
def poolReturnAll (d : Dev) (l : List Nat) : Dev := l.foldl poolReturn d

/-- Returns every buffer tagged to a fold (spec/04 R75, R80). -/
def poolReturnFold (d : Dev) (f : Nat) : Dev :=
  poolWatch { d with pool := { d.pool with tags := d.pool.tags.filter fun x => x.2.fold != f } }

/-! Generations and transitions (spec/04 R68 to R70). -/

/-- The name of a unit state. -/
def stateName (s : UState) : String :=
  match s with
  | .absent => "ABSENT" | .off => "OFF" | .fenced => "FENCED" | .idle => "IDLE" | .active => "ACTIVE" | .fault => "FAULT"

/-- The code of a unit state (spec/04 R67). -/
def stateCode (s : UState) : Nat :=
  match s with
  | .absent => 0 | .off => 1 | .fenced => 2 | .idle => 3 | .active => 4 | .fault => 5

/-- The unit state of a code. -/
def stateOfCode (n : Nat) : UState :=
  match n with
  | 0 => .absent | 1 => .off | 2 => .fenced | 3 => .idle | 4 => .active | _ => .fault

/-- The name of a fence cause. -/
def causeName (c : FCause) : String :=
  match c with
  | .cmd => "CMD" | .mcheck => "MCHECK" | .disagree => "DISAGREE" | .shed => "SHED" | .clock => "CLOCK" | .parent => "PARENT"

/-- The bit of a fence cause in FCAUSE (spec/04 R74). -/
def causeBit (c : FCause) : BitVec 6 :=
  match c with
  | .cmd => 1 | .mcheck => 2 | .disagree => 4 | .shed => 8 | .clock => 16 | .parent => 32

/-- Whether a record holds a fence cause. -/
def hasCause (r : UnitRec) (c : FCause) : Bool := r.fcause &&& causeBit c != 0

/-- Advances a unit's generation by one, modulo 65536 (spec/04 R69). -/
def bumpGen (d : Dev) (u : UnitId) : Dev :=
  let r := d.unit u
  d.setUnit u { r with gen := r.gen + 1 }

/-- Whether `!STATE` is sent for a transition (spec/04 R86): into or out of OFF or FAULT, FENCED on neither side. -/
def stateReported (a b : UState) : Bool :=
  a != b && a != .fenced && b != .fenced && (a == .off || b == .off || a == .fault || b == .fault)

/-- Results of a request, in the coding of STATE.RESULT.CODE. -/
inductive RCode where
  | ok | stale | busy | absent | fenced | power | scope | invalid
deriving DecidableEq, Repr

/-- The code of a result. -/
def rcodeNum (c : RCode) : Nat :=
  match c with
  | .ok => 0 | .stale => 1 | .busy => 2 | .absent => 3 | .fenced => 4 | .power => 5 | .scope => 6 | .invalid => 7

/-- Adds a decision to the arbiter's log, which keeps 32 (spec/04 R87). -/
def arbLog (d : Dev) (src : String) (u : UnitId) (req : String) (c : RCode) : Dev :=
  let l := d.arbLog ++ [⟨src, unitCode u, req, (d.unit u).gen.toNat, rcodeNum c⟩]
  { d with arbLog := l.drop (l.length - 32) }

/-- Makes a transition of one unit: hardware and shadow take the state, the generation advances by one, `!STATE` where R86 has it. -/
def moveOne (d : Dev) (u : UnitId) (s : UState) : Dev :=
  let r := d.unit u
  let d := d.setUnit u { r with st := s, prior := if s == .fenced then r.prior else s, sh := s, gen := r.gen + 1 }
  if stateReported r.st s then
    emit d (some .state) (some u) ("!STATE " ++ unitName u ++ " " ++ stateName r.st ++ " " ++ stateName s ++ " gen " ++
      toString (r.gen + 1).toNat)
  else d

/-- The contents of a unit (spec/04 R75). -/
def contents (d : Dev) (u : UnitId) : List UnitId :=
  match u with
  | .pen n =>
    (List.range 4).map (fun i => coreU (4 * n.val + i)) ++ (if unitPresent d.variant (.tile n) then [.tile n] else [])
  | .fold n =>
    ((List.finRange 8).filter fun p => unitPresent d.variant (.pen p) && (d.pen p.val).fold == n.val).map .pen ++
    ((List.finRange 64).filter fun c => unitPresent d.variant (.dma c) && (d.chan c.val).own == some n.val).map .dma ++
    [.evr n] ++
    (allPorts.filter fun q => unitPresent d.variant (portUnit q) && (d.port (portId q)).own == some n.val).map portUnit
  | _ => []

/-- A unit and everything inside it. -/
def withContents (d : Dev) (u : UnitId) : List UnitId :=
  u :: (contents d u).flatMap fun c => c :: contents d c

/-! Firing a source and setting pending bits (spec/11). -/

/-- The unit a source belongs to, if one that can be fenced (spec/11 R234). -/
def sourceUnit (n : Nat) : Option UnitId :=
  if 88 ≤ n && n < 104 then some (pwmU (n - 88))
  else if 104 ≤ n && n < 232 then some (dmaU ((n - 104) / 2))
  else if 232 ≤ n && n < 248 then some (.t1s (Fin.ofNat 4 ((n - 232) / 4)))
  else if 248 ≤ n && n < 256 then some (.gbe (Fin.ofNat 2 ((n - 248) / 4)))
  else if 256 ≤ n && n < 272 then some (.can (Fin.ofNat 4 ((n - 256) / 4)))
  else if 272 ≤ n && n < 304 then some (.uart (Fin.ofNat 8 ((n - 272) / 4)))
  else if 304 ≤ n && n < 332 then some .afe
  else if 332 ≤ n && n < 340 then some .ptab
  else if 340 ≤ n && n < 356 then some (tileU ((n - 340) / 2))
  else if 356 ≤ n && n < 364 then some .pmu
  else if 364 ≤ n && n < 372 then some (penU (n - 364))
  else if 372 ≤ n && n < 380 then some .halt
  else if 24 ≤ n && n < 88 then some .gpio
  else none

/-- Sources that never fire (spec/11 R234). -/
def sourceReserved (n : Nat) : Bool := n == 330 || n == 331 || n == 363 || (380 ≤ n && n < 384) || 512 ≤ n

/-- The entry of line `l` in the slice of fold `f`. -/
def lineCfg (d : Dev) (f l : Nat) : LineCfg := tget (d.slice f).lines LineCfg.reset l

/-- The map entry of source `n`. -/
def srcMap (d : Dev) (n : Nat) : SrcMap := tget d.evr.maps SrcMap.reset n

/-- Delivers a line to the binding table of a Drove pen; ONESHOT clears its mask bit (spec/11 R241). -/
def deliver (d : Dev) (p l : Nat) : Dev :=
  let k := d.pen p
  let one := (lineCfg d k.fold l).oneshot
  d.setPen p { k with deliv := setBit k.deliv l true, mask := if one then setBit k.mask l false else k.mask }

/-- Whether a pen takes part: a fenced pen presents and delivers nothing (spec/11 R252). -/
def penServed (d : Dev) (p : Nat) : Bool := (d.unit (penU p)).st != .fenced

/-- Sets the pending bit of a line in a pen, with the record of new bits of each core and the Drove delivery (spec/11 R237,
R241, R242). -/
def setPending (d : Dev) (p l : Nat) : Dev :=
  let k := d.pen p
  if k.pend.getLsbD l then d else
  let d := d.setPen p { k with pend := setBit k.pend l true }
  let d := (List.range 4).foldl (fun d i => d.updCore (4 * p + i) fun c => { c with newRec := setBit c.newRec l true }) d
  if k.pers == some false && k.mask.getLsbD l && penServed d p then deliver d p l else d

/-- Sets a line's pending bits in the pens it names that the fold owns (spec/11 R237). -/
def passLine (d : Dev) (f l : Nat) : Dev :=
  let c := lineCfg d f l
  (List.range 8).foldl (fun d p =>
    if c.pens.getLsbD p && unitPresent d.variant (penU p) && (d.pen p).fold == f then setPending d p l else d) d

/-- Raises `!EVR CALM` when nothing is held and the bucket is full again (spec/11 R246). -/
def calmCheck (d : Dev) (f : Nat) : Dev :=
  let s := d.slice f
  if s.storm && s.held == 0 && s.tokens == s.depth then
    emit (d.updSlice f fun s => { s with storm := false }) (some .evr) (some (evrU f)) ("!EVR CALM fold" ++ toString f)
  else d

/-- One source event for line `l` of fold `f`: the slice's state, the limiter, then the pens (spec/11 R237, R245, R246, R252). -/
def fireLine (d : Dev) (f l : Nat) : Dev :=
  let r := d.unit (evrU f)
  let s := d.slice f
  let c := lineCfg d f l
  if r.st == .off || r.st == .fenced || r.resetting then d.updSlice f fun s => { s with drop := satInc s.drop 0xFFFF }
  else if !c.en then d
  else if s.held.getLsbD l then d.updSlice f fun s => { s with hcnt := satInc s.hcnt 0xFFFF }
  else if 0 < s.tokens || s.exempt ≤ c.prio then
    passLine (d.updSlice f fun s => { s with tokens := s.tokens - 1, cnt := s.cnt + 1 }) f l
  else
    let d := d.updSlice f fun s => { s with held := setBit s.held l true, storm := true }
    if s.storm then d
    else emit d (some .evr) (some (evrU f)) ("!EVR STORM fold" ++ toString f)

/-- One event of source `n` (spec/11 R234 to R237, R247, R253). -/
def fireSource (d : Dev) (n : Nat) : Dev :=
  let fenced := match sourceUnit n with
    | none => false
    | some u => (d.unit u).st == .fenced || (d.unit u).st == .absent
  let pmuSide := (356 ≤ n && n < 363) || (372 ≤ n && n < 380)
  if sourceReserved n || fenced then d
  else if d.pmu.cur == .retain then
    if pmuSide && !d.pmu.heldSrc.contains n then { d with pmu := { d.pmu with heldSrc := d.pmu.heldSrc ++ [n] } } else d
  else if d.pmu.cur == .spore || d.pmu.cur == .off then d
  else
    let m := srcMap d n
    if m.en then fireLine d m.fold m.line else d

/-- Lines in the order tokens go to them: highest PRIO first, then lowest number. -/
def lineOrder (d : Dev) (f : Nat) (ls : List Nat) : List Nat :=
  (List.range 8).reverse.flatMap fun p => ls.filter fun l => (lineCfg d f l).prio == p

/-- Events of one cycle for several lines of a fold: one for each line, in the order tokens go to them (spec/11 R245). -/
def fireLines (d : Dev) (f : Nat) (ls : List Nat) : Dev :=
  (lineOrder d f ((List.range 64).filter ls.contains)).foldl (fun d l => fireLine d f l) d

/-- Sources that fire in one cycle; those of one line count as one event (spec/11 R245). -/
def fireSources (d : Dev) (ns : List Nat) : Dev :=
  if d.pmu.cur == .retain || d.pmu.cur == .spore || d.pmu.cur == .off then ns.foldl fireSource d
  else
    let fires (n : Nat) : Bool := !sourceReserved n && (srcMap d n).en &&
      match sourceUnit n with
      | none => true
      | some u => (d.unit u).st != .fenced && (d.unit u).st != .absent
    (List.range 8).foldl (fun d f =>
      fireLines d f ((ns.filter fun n => fires n && (srcMap d n).fold == f).map fun n => (srcMap d n).line)) d

/-! Fences (spec/04 R73 to R75). -/

/-- Cuts off the tile operation of a core, wherever it stands; the core's instruction is to run again (spec/15 R330). -/
def tileCutoff (d : Dev) (c : Nat) : Dev :=
  let p := penOf c
  let te := (d.pen p).te
  let d := d.updCore c fun k => { k with tileWait := none }
  match te.op with
  | some o =>
    if o.core == c % 4 then
      let pc := lget te.perCore (0, 0, 0) o.core
      let te := { te with
        op := none, cutoff := satInc te.cutoff 0xFFFF, perCore := lset te.perCore o.core (pc.1, pc.2.1 + 1, pc.2.2) }
      d.updPen p fun k => { k with te := te }
    else d
  | none => d

/-- The base of a pen's tile engine registers (spec/15). -/
def tileBase (p : Nat) : Nat := 0x50000000 + p * 0x100000 + 0x80000

/-- The engine stops: its operation is cut off and every core that waits for it meets 0x09 with the engine's base
(spec/15 R318, R338). -/
def tileStop (d : Dev) (p : Nat) : Dev :=
  (List.range 4).foldl (fun d i =>
    let c := 4 * p + i
    if (d.core c).tileWait.isSome then
      (tileCutoff d c).updCore c fun k => k.hold ⟨0x09, 0, toWord (tileBase p)⟩
    else d) d

/-- PWM channels that follow their fold are to be held safe when it is fenced or reset (spec/17 R382). -/
def pwmFoldHold (d : Dev) (f : Nat) : Dev :=
  (List.range 16).foldl (fun d n =>
    d.updPwm n fun k => if k.own == some f && k.foldsafe then { k with due := true } else k) d

/-- A fenced or reset port abandons the frame it receives; its buffers return (spec/16 R368). -/
def portAbandon (d : Dev) (i : Nat) : Dev :=
  let bufs := (d.port i).rxWait.flatMap (·.bufs) ++ (d.port i).held ++
    ((d.port i).txFrame.filter fun r => bitOf r.info 11).map fun r => (r.addr.toNat - 0x18000000) / 256
  let d := d.updPort i fun k =>
    { k with rxWait := [], held := [], dropNext := false, rxBuf := [], rxStat := 0, sentence := false, crSeen := false,
             txFrame := [], txBusy := false }
  poolReturnAll d bufs

/-- A DMA channel gives up its mover: no beat of the burst is issued any more. -/
def dmaCutoff (d : Dev) (c : Nat) : Dev :=
  { d with dma := { d.dma with
    movers := d.dma.movers.map fun (m : Mover) => if m.busy && m.ch == c then { m with busy := false, cut := none } else m } }

/-- A DMA channel that is fenced or reset issues nothing further: of its burst the beats already issued, up to 4, still complete, the rest
is cancelled; how many were issued is open, and none while a refused beat waits for its retry (spec/04 R79, spec/14 R309; log 40). -/
def dmaQuiesce (d : Dev) (c : Nat) : Dev :=
  if (d.chan c).backing then dmaCutoff d c
  else if d.dma.movers.any fun (m : Mover) => m.busy && m.ch == c && m.cut.isNone then
    let n := (Config.freeCell d.free).toNat % 5
    { d with free := d.free + 1, dma := { d.dma with
      movers := d.dma.movers.map fun (m : Mover) => if m.busy && m.ch == c && m.cut.isNone then { m with cut := some n } else m } }
  else d

/-- What a unit does at once when it is fenced, by class (spec/04 R73, R75, spec/03 R57, spec/15 R330, spec/16 R368,
spec/17 R382). -/
def fenceEffect (d : Dev) (u : UnitId) (cause : FCause) : Dev :=
  match u with
  | .core n => tileCutoff (if cause == .shed then d else d.updCore n.val fun k => { k with shedlost := 0 }) n.val
  | .pen n => d.updPen n.val fun k => { k with rat := { k.rat with paused := true } }
  | .tile n => tileStop d n.val
  | .dma n => dmaQuiesce d n.val
  | .fold n => pwmFoldHold (poolReturnFold d n.val) n.val
  | .mg p => if cause == .shed then d.updMg p dropSession else d
  | .t1s n => portAbandon d n.val
  | .can n => portAbandon d (4 + n.val)
  | .gbe n => portAbandon d (8 + n.val)
  | .uart n => portAbandon d (10 + n.val)
  | _ => d

/-- Fences one unit with a cause, and its contents by `sub` where it was not fenced before (spec/04 R73 to R75). -/
def fenceOne (sub : Dev → UnitId → Dev) (d : Dev) (u : UnitId) (cause : FCause) (code : Byte) : Dev :=
  let r := d.unit u
  if hasCause r cause then d
  else
    let first := r.fcause == 0
    let r' := { r with fcause := r.fcause ||| causeBit cause, st := .fenced, prior := if first then r.st else r.prior, sh := .fenced,
                       gen := if first then r.gen + 1 else r.gen }
    let d := fenceEffect (d.setUnit u r') u cause
    let d := emit d (some .fence) (some u) ("!FENCE " ++ unitName u ++ " " ++ causeName cause)
    let d := bwRecord d 2 u code (toWord r'.fcause.toNat) 0 0
    if first then (contents d u).foldl sub d else d

/-! Disagreement (spec/04 R76, R84). -/

/-- Whether the shadow differs from the hardware and no disagreement of the unit stands. -/
def differs (r : UnitRec) : Bool :=
  r.st != .absent && !r.dis && (r.shBad || r.sh != r.st || r.regDiff != [])

/-- Whether a shadow's parity has gone bad since the disagreement that stands was found (spec/04 R84). -/
def parityLate (r : UnitRec) : Bool := r.st != .absent && r.dis && r.shBad && r.disMgmt.isSome

/-- The name of a shadow state, UNKNOWN where its parity is bad (spec/04 R84). -/
def mgmtName (s : Option UState) : String := match s with | none => "UNKNOWN" | some s => stateName s

/-- The shadow's state as a disagreement reports it: unknown where its parity is bad. -/
def mgmtOf (r : UnitRec) : Option UState := if r.shBad then none else some r.sh

/-- `!DISAGREE` of a unit. -/
def emitDisagree (d : Dev) (u : UnitId) (mg : Option UState) (data : UState) : Dev :=
  emit d (some .state) (some u) ("!DISAGREE " ++ unitName u ++ " mgmt " ++ mgmtName mg ++ " data " ++ stateName data ++ " gen " ++
    toString (d.unit u).gen.toNat)

/-- A disagreement: the unit is fenced and reported with its shadow's and its hardware's state (spec/04 R76). -/
def disagreeOne (sub : Dev → UnitId → Dev) (d : Dev) (u : UnitId) (h : HeldFence) : Dev :=
  let d := d.setUnit u { d.unit u with dis := true, disMgmt := h.mgmt, disData := h.data, disCfg := h.cfg }
  let d := { d with disOrder := d.disOrder ++ [unitCode u] }
  emitDisagree (fenceOne sub d u .disagree h.code) u h.mgmt h.data

/-- A disagreement as it is found: with what the shadow and the hardware hold. -/
def foundDis (r : UnitRec) (data : UState) : HeldFence :=
  { cause := .disagree, code := 0x12, mgmt := mgmtOf r, data := data, cfg := r.regDiff != [] }

/-- Fences a unit with a cause, after the compare, and its contents with PARENT; `n` bounds the depth of containment. A fence that falls
due while the unit is being reset is held (spec/04 R70, R75, R82, R83). -/
def fenceN (n : Nat) (d : Dev) (u : UnitId) (cause : FCause) (code : Byte) : Dev :=
  match n with
  | 0 => d
  | n + 1 =>
    let r := d.unit u
    let sub := fun d c => fenceN n d c .parent 0x12
    if r.st == .absent then d
    else if r.resetting then
      d.setUnit u { r with held := r.held ++ [{ cause := cause, code := code, mgmt := none, data := r.st, cfg := false }] }
    else fenceOne sub (if differs r then disagreeOne sub d u (foundDis r r.st) else d) u cause code

/-- A pen or fold is busy while a core, or a pen, in it is ACTIVE (spec/04 R67; log 21). -/
def busyInside (d : Dev) (u : UnitId) : Bool :=
  match u with
  | .pen n => (List.range 4).any fun i => (d.unit (coreU (4 * n.val + i))).st == .active
  | .fold n => (List.finRange 8).any fun p =>
      unitPresent d.variant (.pen p) && (d.pen p.val).fold == n.val && (d.unit (.pen p)).st == .active
  | _ => false

/-- The containers whose activity follows a unit, the inner first. -/
def above (d : Dev) (u : UnitId) : List UnitId :=
  match u with
  | .core n => [penU (penOf n.val), foldU (d.foldOfCore n.val)]
  | .pen n => [foldU (d.pen n.val).fold]
  | _ => []

/-- The pens and the fold that a unit is or contains, the inner first. -/
def penFolds (d : Dev) (u : UnitId) : List UnitId :=
  match u with
  | .pen n => [.pen n]
  | .fold n => ((List.finRange 8).filter fun p => unitPresent d.variant (.pen p) && (d.pen p.val).fold == n.val).map .pen ++ [.fold n]
  | _ => []

/-- The state that a pen or fold that is on takes from what is inside it, where it is another. -/
def activityDue (d : Dev) (u : UnitId) : Option UState :=
  let r := d.unit u
  if r.resetting then none
  else match r.st, busyInside d u with
    | .idle, true => some .active
    | .active, false => some .idle
    | _, _ => none

/-- A pen or fold that leaves FENCED stands as its contents do: part of the same step, with no generation of its own (spec/04 R69). -/
def settle (d : Dev) (u : UnitId) : Dev :=
  (penFolds d u).foldl (fun d x => match activityDue d x with
    | some s => d.setUnit x { d.unit x with st := s, prior := s, sh := s }
    | none => d) d

/-- Fences a unit for a cause of the hardware's own, logged as its request (spec/04 R70, R87). -/
def fenceAs (d : Dev) (u : UnitId) (cause : FCause) (code : Byte) : Dev :=
  arbLog (fenceN 3 d u cause code) (if cause == .mcheck then "bw" else "hw") u ("FENCE " ++ causeName cause) .ok

/-- A disagreement found by the compare; one found while the unit is being reset is held as it was found (spec/04 R76, R82). -/
def disagreeAs (d : Dev) (u : UnitId) (data : UState) : Dev :=
  let r := d.unit u
  if r.resetting then
    if r.held.any (·.cause == .disagree) then d else d.setUnit u { r with held := r.held ++ [foundDis r data] }
  else disagreeOne (fun d c => fenceN 2 d c .parent 0x12) d u (foundDis r data)

/-- The compare of one unit: a unit whose shadow and hardware differ is fenced and reported; a shadow that loses its parity while a disagreement stands
makes its state unknown, and is reported (spec/04 R76, R84; log 92). -/
def compareOne (d : Dev) (u : UnitId) : Dev :=
  let r := d.unit u
  if differs r then disagreeAs d u r.st
  else if parityLate r then emitDisagree (d.setUnit u { r with disMgmt := none }) u none r.disData
  else d

/-- A transition that the activity inside a pen or fold makes: a transition of its own, after the compare (spec/04 R68 to R70). -/
def follow (d : Dev) (u : UnitId) : Dev :=
  let d := compareOne d u
  match activityDue d u with
  | some s => moveOne d u s
  | none => d

/-- The activity of the containers of a unit, after a transition of the unit. -/
def followUp (d : Dev) (u : UnitId) : Dev :=
  (above d u).foldl (fun d x => if (activityDue d x).isNone then d else follow d x) d

/-- The compare of a unit (spec/04 R70, R76, R84); the activity of what contains it follows. -/
def disagree (d : Dev) (u : UnitId) : Dev :=
  let r := d.unit u
  if differs r || parityLate r then followUp (compareOne d u) u else d

/-- Makes a transition of a unit, and the transitions that follow in what contains it. -/
def setUState (d : Dev) (u : UnitId) (s : UState) : Dev := followUp (moveOne d u s) u

/-- Fences a unit and its contents (spec/04 R73, R75). -/
def fence (d : Dev) (u : UnitId) (cause : FCause) : Dev :=
  followUp (if cause == .cmd then fenceN 3 d u cause 0x12 else fenceAs d u cause 0x12) u

/-- Applies a fence that was held while its unit was reset (spec/04 R82, R83). -/
def fenceHeld (d : Dev) (u : UnitId) (h : HeldFence) : Dev :=
  if h.cause == .disagree then
    if (d.unit u).st == .absent || (d.unit u).dis then d
    else followUp (disagreeOne (fun d c => fenceN 2 d c .parent 0x12) d u h) u
  else followUp (fenceAs d u h.cause h.code) u

/-- Delivers every pending unmasked line of a Drove pen, as when it leaves FENCED (spec/11 R252). -/
def redeliver (d : Dev) (p : Nat) : Dev :=
  if (d.pen p).pers == some false then
    (List.range 64).foldl (fun d l =>
      if (d.pen p).pend.getLsbD l && (d.pen p).mask.getLsbD l then deliver d p l else d) d
  else d

/-- Clears fence causes of a unit; with none left it returns to its prior state, `!UNFENCE` is raised, and its contents lose PARENT
(spec/04 R74, R86). -/
def unfenceN (n : Nat) (d : Dev) (u : UnitId) (bits : BitVec 6) : Dev :=
  match n with
  | 0 => d
  | n + 1 =>
    let r := d.unit u
    let left := r.fcause &&& ~~~bits
    if r.st != .fenced then d
    else if left != 0 then d.setUnit u { r with fcause := left }
    else
      let d := d.setUnit u { r with fcause := 0, st := r.prior, sh := r.prior, gen := r.gen + 1 }
      let d := emit d (some .fence) (some u) ("!UNFENCE " ++ unitName u)
      let d := match u with
        | .pen p => redeliver d p.val
        | _ => d
      (contents d u).foldl (fun d c => if hasCause (d.unit c) .parent then unfenceN n d c (causeBit .parent) else d) d

/-- Clears one fence cause of a unit, after the compare; its activity and that of its containers follow. -/
def unfence (d : Dev) (u : UnitId) (c : FCause) : Dev :=
  let d := unfenceN 3 (disagree d u) u (causeBit c)
  followUp (settle d u) u

/-- Clears a fence cause for the hardware's own reasons, logged as its request (spec/04 R70, R87). -/
def unfenceAs (d : Dev) (u : UnitId) (c : FCause) : Dev := arbLog (unfence d u c) "hw" u ("UNFENCE " ++ causeName c) .ok

/-! Requests (spec/04 R70 to R72, R88). -/

/-- The steps of the arbiter before a request is applied (spec/04 R2, R70, R71, R82, R83): presence, the compare, a reset
under way, the generation. -/
def arbGate (d : Dev) (u : UnitId) (gen : Option Nat) : Dev × RCode :=
  let d := if parityLate (d.unit u) then disagree d u else d
  let r := d.unit u
  if r.st == .absent then (d, .absent)
  else if differs r && !r.resetting then (disagree d u, .fenced)
  else if r.resetting then (d, .busy)
  else
    match gen with
    | some g => if g == r.gen.toNat then (d, .ok) else (d, .stale)
    | none => (d, .ok)

/-- A request to a unit: the gate, then its effect (spec/04 R70). -/
def request (d : Dev) (src : String) (u : UnitId) (req : String) (gen : Option Nat) (f : Dev → Dev × RCode) : Dev × RCode :=
  let (d, c) := arbGate d u gen
  let (d, c) := if c == .ok then f d else (d, c)
  (arbLog d src u req c, c)

/-- A write of state-bearing registers of a unit: refused on a fenced unit, and where `f` gives a code; an accepted one advances the
generation by one (spec/04 R69, R73). -/
def regRequest (d : Dev) (src : String) (u : UnitId) (gen : Option Nat) (f : Dev → Except RCode Dev) : Dev × RCode :=
  request d src u "write" gen fun d =>
    if (d.unit u).st == .fenced then (d, .fenced)
    else
      match f d with
      | .ok d' => (bumpGen d' u, .ok)
      | .error c => (d, c)

/-- The transitions that a unit's hardware makes itself (spec/04 R68). -/
def hwAllowed (a b : UState) : Bool :=
  match a, b with
  | .idle, .active | .active, .idle | .idle, .fault | .active, .fault | .off, .idle => true
  | _, _ => false

/-- A transition the unit's hardware raises itself (spec/04 R68, R70): a request to the arbiter, which compares first; a fenced unit makes
none, and only the transitions of the table occur. -/
def hwMove (d : Dev) (u : UnitId) (s : UState) : Dev :=
  let was := (d.unit u).st
  let d := disagree d u
  if hwAllowed (d.unit u).st s then arbLog (setUState d u s) "hw" u (stateName s) .ok
  else if was != .fenced && (d.unit u).st == .fenced then arbLog d "hw" u (stateName s) .fenced
  else d

/-- The Bellwether's answer to a machine check: a record of type 1, `!MCHK`, and a call of the hook (spec/09 R202, R203). -/
def mcheckReport (d : Dev) (u : UnitId) (code : Byte) (detail pc addr : Word) : Dev :=
  let d := bwRecord d 1 u code detail pc addr
  let d := if d.bw.halt then d
    else emit d (some .fence) (some u) ("!MCHK " ++ hex8 code.toNat ++ " " ++ unitName u)
  if d.bw.hook && !d.bw.halt then { d with bw := { d.bw with hookRun := d.bw.hookRun + 1 } } else d

/-- A machine check at a unit: fence with cause MCHECK, then the Bellwether's answer (spec/09 R201 to R203). -/
def machineCheck (d : Dev) (u : UnitId) (code : Byte) (detail pc addr : Word) : Dev :=
  mcheckReport (fence d u .mcheck) u code detail pc addr

/-- A machine check 0x12 with no exception behind it: the detail of its record is the unit's fence causes (spec/09 R202; log 48). -/
def causesCheck (d : Dev) (u : UnitId) (pc addr : Word) : Dev :=
  let d := fence d u .mcheck
  mcheckReport d u 0x12 (toWord (d.unit u).fcause.toNat) pc addr

end Sys2Proof.Machine
end

