-- ==== Sys2Proof/Machine/Mem.lean ====
section
/-! DEFINITION. The memory map, the fold windows, the memories with their check bits, and the credit regulators (spec/13). -/
namespace Sys2Proof.Machine

/-! The memory map (spec/13 R267). -/

/-- What lies at an address. `local_` is core `n`'s local memory; `penReg` a pen's tile engine and register block. -/
inductive Region where
  | local_ (n : Nat)
  | sram | golden | packet | ret
  | flash | cs1
  | periph
  | penCs (p : Nat)
  | penReg (p : Nat)
  | machine
  | nothing
deriving DecidableEq, Repr

/-- The region of an absolute address. The private alias of R267 is not absolute: `absAddr` turns it into the global view. -/
def regionOf (a : Nat) : Region :=
  if 0x01000000 ≤ a && a < 0x01200000 then .local_ ((a - 0x01000000) / 0x10000)
  else if 0x10000000 ≤ a && a < 0x10780000 then .sram
  else if 0x10780000 ≤ a && a < 0x10800000 then .golden
  else if 0x18000000 ≤ a && a < 0x18040000 then .packet
  else if 0x19000000 ≤ a && a < 0x19004000 then .ret
  else if 0x20000000 ≤ a && a < 0x28000000 then .flash
  else if 0x28000000 ≤ a && a < 0x30000000 then .cs1
  else if 0x40000000 ≤ a && a < 0x40400000 then .periph
  else if 0x50000000 ≤ a && a < 0x50800000 then
    if (a - 0x50000000) % 0x100000 < 0x10800 then .penCs ((a - 0x50000000) / 0x100000)
    else .penReg ((a - 0x50000000) / 0x100000)
  else if 0xF0000000 ≤ a && a < 0x100000000 then .machine
  else .nothing

/-- The absolute address of an access by core `c`: its private alias is its local memory (spec/13 R267). -/
def absAddr (c a : Nat) : Nat := if a < 0x10000 then 0x01000000 + c * 0x10000 + a else a

/-- Whether an absolute address lies in core `c`'s own local memory. -/
def ownLocal (c a : Nat) : Bool := regionOf a == .local_ c

/-- Whether a region holds plain memory. -/
def isMemory (r : Region) : Bool :=
  match r with
  | .local_ _ | .sram | .golden | .packet | .ret | .flash | .cs1 | .machine => true
  | _ => false

/-! Windows (spec/13 R268 to R271). -/

/-- Access types, in the order of the permission bits. -/
inductive Acc where
  | r | w | x
deriving DecidableEq, Repr

/-- The permission bit of an access type at U or F (spec/13 R292, WINw.LIM). -/
def permBit (p : Priv) (k : Acc) : Nat :=
  (match k with | .r => 0 | .w => 1 | .x => 2) + (if p == .u then 0 else 3)

/-- Whether a window is enabled. -/
def winEn (w : Window) : Bool := bitOf w.base 0

/-- The first address of a window. -/
def winLo (w : Window) : Nat := (fld w.base 12 20) * 4096

/-- The address after the last of a window. -/
def winHi (w : Window) : Nat := (fld w.lim 12 20 + 1) * 4096

/-- Whether one window covers a range and grants a permission bit. -/
def winGrants (w : Window) (a n bit : Nat) : Bool :=
  winEn w && winLo w ≤ a && a + n ≤ winHi w && bitOf w.lim bit

/-- Whether the windows of a fold allow an access to a range that lies in one page (spec/13 R268). -/
def windowAllows (d : Dev) (f a n : Nat) (p : Priv) (k : Acc) : Bool :=
  (d.foldMem f).wins.any fun w => winGrants w a n (permBit p k)

/-- Whether every page of a longer range is allowed (spec/14 R304, spec/15 R328). -/
def rangeAllowed (d : Dev) (f a n : Nat) (p : Priv) (k : Acc) : Bool :=
  n == 0 || (List.range ((a + n - 1) / 4096 - a / 4096 + 1)).all fun i =>
    windowAllows d f (max a ((a / 4096 + i) * 4096)) 1 p k

/-- Whether a write at U falls into the guarded part of core `c`'s local memory (spec/13 R269). -/
def guarded (d : Dev) (c a : Nat) : Bool :=
  let off := a % 0x10000
  ownLocal c a && 0x10000 - 4096 * (d.core c).lmguard ≤ off

/-- The exception an access by core `c` to plain memory meets, if any, in the order of R188: windows and reserved regions 0x08,
absent local memory 0x0D, no memory there or memory of a fenced core or pen 0x09 (spec/04 R73; spec/05 R103, R104; spec/13 R267 to
R270; spec/18 R397). -/
def memCheck (d : Dev) (c : Nat) (p : Priv) (f a n : Nat) (k : Acc) : Option Byte :=
  let g := regionOf a
  let level := p == .u || p == .f
  if g == .machine && p != .m then some 0x08
  else if g == .golden && p != .m then some 0x08
  else if (match g with | .penCs _ => true | _ => false) && p != .m then some 0x08
  else if ownLocal c a then
    if p == .u && k == .w && guarded d c a then some 0x08 else none
  else if level && !windowAllows d f a n p k then some 0x08
  else
    match g with
    | .local_ m =>
      if 4 * countPens d.variant ≤ m then some 0x0D else if (d.unit (coreU m)).st == .fenced then some 0x09 else none
    | .penCs q =>
      if countPens d.variant ≤ q then some 0x0D else if (d.unit (penU q)).st == .fenced then some 0x09 else none
    | .flash => if k == .w || !d.flash.fitted || d.flash.density < a - 0x20000000 + n then some 0x09 else none
    | .cs1 => if !d.cs1.fitted || d.cs1.density < a - 0x28000000 + n then some 0x09 else none
    | .nothing => some 0x09
    | _ => none

/-! The memories and their check bits (spec/13 R278). -/

/-- Whether the cells of a region carry check bits. -/
def eccRegion (r : Region) : Bool :=
  match r with
  | .local_ _ | .sram | .golden | .packet | .ret => true
  | _ => false

/-- The check-bit state of a cell: 0 good, 1 a single flipped bit, 2 uncorrectable, 3 uncorrectable and poisoned. -/
def eccOf (d : Dev) (a : Nat) : Nat := tget d.myc.ecc 0 (a / 4 * 4)

/-- Sets the check-bit state of a cell. -/
def setEcc (d : Dev) (a v : Nat) : Dev := { d with myc := { d.myc with ecc := tset d.myc.ecc 0 (a / 4 * 4) v } }

/-- A single-bit error is corrected and written back (spec/13 R278). -/
def eccCorrect (d : Dev) (a : Nat) : Dev :=
  let d := setEcc d a 0
  let m := d.myc
  { d with myc := { m with corr := satInc m.corr 0xFFFF, eccAddr := toWord (a / 4 * 4), corrSince := m.corrSince + 1 } }

/-- An uncorrectable cell is counted, poisoned and reported; 16 in one page raise `!ECC PAGE` (spec/13 R278, R288, R290). -/
def eccUncorrect (d : Dev) (a : Nat) (who : String) (u : UnitId) : Dev :=
  let cell := a / 4 * 4
  let d := setEcc d a 3
  let m := d.myc
  let page := a / 4096
  let cnt := tget m.uePages 0 page + 1
  let d := { d with myc := { m with uncorr := satInc m.uncorr 255, ueAddr := toWord cell, uePages := tset m.uePages 0 page cnt } }
  let d := emit d (some .fence) (some u) ("!ECC UNCORR " ++ hex32 (toWord cell) ++ " " ++ who)
  let d := mcheckReport d u 0x11 0 0 (toWord cell)
  if cnt == 16 then emit d (some .fence) (some u) ("!ECC PAGE " ++ hex32 (toWord (page * 4096))) else d

/-- A byte of plain memory, whichever device holds it. -/
def plainByte (d : Dev) (a : Nat) : Byte :=
  match regionOf a with
  | .flash => tget d.flash.data 0xFF (a - 0x20000000)
  | .cs1 => tget d.cs1.data 0xFF (a - 0x28000000)
  | _ => d.byte a

/-- Writes a byte of plain memory. -/
def setPlainByte (d : Dev) (a : Nat) (b : Byte) : Dev :=
  match regionOf a with
  | .cs1 => { d with cs1 := { d.cs1 with data := tset d.cs1.data 0xFF (a - 0x28000000) b } }
  | .flash => d
  | _ => d.setByte a b

/-- `n` bytes of plain memory as a number, least significant first. -/
def plainRead (d : Dev) (a n : Nat) : Word :=
  match n with
  | 0 => 0
  | k + 1 => (plainRead d (a + 1) k <<< 8) ||| (plainByte d a).setWidth 32

/-- Writes the low `n` bytes of a value to plain memory. -/
def plainWrite (d : Dev) (a : Nat) (v : Word) (n : Nat) : Dev :=
  match n with
  | 0 => d
  | k + 1 => plainWrite (setPlainByte d a (v.setWidth 8)) (a + 1) (v >>> 8) k

/-- A read of `n` bytes inside one cell: `none` where the cell is uncorrectable (spec/13 R278). -/
def memRead (d : Dev) (a n : Nat) (who : String) (u : UnitId) : Dev × Option Word :=
  let e := if eccRegion (regionOf a) then eccOf d a else 0
  if 2 ≤ e then (eccUncorrect d a who u, none)
  else
    let d := if e == 1 then eccCorrect d a else d
    (d, some (plainRead d a n))

/-- A write of `n` bytes inside one cell. One of 8 or 16 bits reads the cell first: it is refused, with `false`, by an uncorrectable cell,
which is reported where it is not yet poisoned (spec/13 R278). -/
def memWrite (d : Dev) (a : Nat) (v : Word) (n : Nat) (who : String) (u : UnitId) : Dev × Bool :=
  let e := if eccRegion (regionOf a) then eccOf d a else 0
  if n < 4 && 2 ≤ e then (if e == 2 then eccUncorrect d a who u else d, false)
  else
    let d := if e == 0 then d else if n < 4 then eccCorrect d a else setEcc d a 0
    (plainWrite d a v n, true)

/-- A cell read for a purpose of the hardware's own: no permission, uncorrectable cells as `none`. -/
def hwCell (d : Dev) (a : Nat) (who : String) (u : UnitId) : Dev × Option Word := memRead d a 4 who u

/-! Traffic (spec/13 R273 to R276). -/

/-- The number of the target port of an address (spec/13 R274): 0 to 31 local memories, 32 to 35 shared SRAM, 36 packet SRAM, 37 retention
RAM, 38 GPIO, 39 the bridge, 40 to 47 pen regions, 48 machine space, 49 xSPI. -/
def targetPort (a : Nat) : Nat :=
  match regionOf a with
  | .local_ n => n
  | .sram | .golden => 32 + a / 256 % 4
  | .packet => 36
  | .ret => 37
  | .periph => if a / 0x10000 == 0x4034 then 38 else 39
  | .penCs p | .penReg p => 40 + p
  | .machine => 48
  | .flash | .cs1 => 49
  | .nothing => 50

/-- The number of a class. -/
def classNum (c : MClass) : Nat := match c with | .urgent => 0 | .tether => 1 | .drove => 2 | .bulk => 3

/-- Charges `n` beats to a fold, counts the grant at the target port and notes the fold as the last of its round there; a fold of none is
charged nothing (spec/13 R273, R276). -/
def charge (d : Dev) (f : Option Nat) (n : Nat) (c : MClass) (a : Nat) : Dev :=
  let key := targetPort a * 4 + classNum c
  let d := { d with myc := { d.myc with grants := tset d.myc.grants 0 key (tget d.myc.grants 0 key + n) } }
  match f with
  | none => d
  | some f =>
    let d := { d with myc := { d.myc with rr := tset d.myc.rr 7 key f } }
    d.updFoldMem f fun m =>
      { m with credit := max (-4096) (m.credit - (n : Int)), beats := m.beats + BitVec.ofNat 32 n }

/-- The class in which a core's requests travel at a level (spec/07 R155). -/
def coreClass (d : Dev) (c lvl : Nat) : MClass :=
  if d.tether c then (if lvl == 7 then .urgent else .tether) else .drove

end Sys2Proof.Machine
end

