-- ==== Sys2Proof/Machine/CsLoad.lean ====
section
/-! DEFINITION. The layout of the control store and of the golden region, and a pen load (spec/08 R164, R173, R174). -/
namespace Sys2Proof.Machine

/-- Bytes of the array, R164. -/
def csSize : Nat := 0x10800

/-- The first address of the golden region, R173. -/
def goldenBase : Nat := 0x10780000

/-- Where the base image of a personality lies (true: Tether), R173. -/
def baseAddr (tether : Bool) : Nat := if tether then 0x10792000 else 0x10780000

/-- The number of an overlay slot, R173. -/
def ovlSlot (f : Nat) (tether : Bool) : Nat := f * 2 + (if tether then 1 else 0)

/-- Where an overlay slot lies, R173. -/
def ovlAddr (f : Nat) (tether : Bool) : Nat := 0x107A4000 + ovlSlot f tether * 0x4800

/-- Where the staging slot lies, R173. -/
def stagingAddr : Nat := 0x107EC000

/-- The golden slot a base image or overlay is named by in events: `drove`, `tether`, or `fold<n> drove|tether`. -/
def persName (tether : Bool) : String := if tether then "tether" else "drove"

/-- The parts of the overlay region: array offset, slot offset and length (R174 and the overlay slot layout). -/
def ovlParts (tether : Bool) : List (Nat × Nat × Nat) :=
  if tether then [(0x9000, 0x400, 0x3000), (0xD800, 0x3400, 0x800), (0x10500, 0x40, 0x300)]
  else [(0xC000, 0x400, 0x4000), (0x10500, 0x40, 0x300)]

/-- Whether an array offset lies in the overlay region of a personality, R174. -/
def inOvl (tether : Bool) (off : Nat) : Bool := (ovlParts tether).any fun (a, _, n) => a ≤ off && off < a + n

/-- The address of the golden byte an array offset was loaded from (R174): the slot of the overlay where one is active. -/
def goldenAddr (tether : Bool) (ovl : Option Nat) (off : Nat) : Nat :=
  match ovl, (ovlParts tether).find? fun (a, _, n) => a ≤ off && off < a + n with
  | some o, some (a, b, _) => o + b + (off - a)
  | _, _ => baseAddr tether + off

/-- The non-zero bytes of memory in `n` bytes from `a`, as (offset from `a`, byte). -/
def memRange (d : Dev) (a n : Nat) : List (Nat × Byte) :=
  (d.mem.filter fun x => a ≤ x.1 && x.1 < a + n).map fun x => (x.1 - a, x.2)

/-- Two lists with rising indexes, merged. -/
def mergeTab {α : Type} (l r : List (Nat × α)) : List (Nat × α) := r.foldl (fun t x => tput t x.1 x.2) l

/-- The bytes the array holds after a load from a base image and an overlay slot address (R174). In Tether the unused part reads
zero. -/
def csImage (d : Dev) (tether : Bool) (ovl : Option Nat) : List (Nat × Byte) :=
  let base := memRange d (baseAddr tether) csSize
  let base := if tether then base.filter fun x => !(0xE000 ≤ x.1 && x.1 < 0x10000) else base
  match ovl with
  | none => base
  | some o =>
    let kept := base.filter fun x => !inOvl tether x.1
    mergeTab kept ((ovlParts tether).flatMap fun (a, b, n) => (memRange d (o + b) n).map fun x => (a + x.1, x.2))

/-- Whether a golden range holds an uncorrectable cell. -/
def rangeBad (d : Dev) (a n : Nat) : Bool := d.myc.ecc.any fun x => a ≤ x.1 && x.1 < a + n && 2 ≤ x.2

/-- The overlay slot a pen's load uses, if its fold has an active one for the personality (R174, R176). -/
def activeOvl (d : Dev) (f : Nat) (tether : Bool) : Option Nat :=
  if lget d.golden.active false (ovlSlot f tether) then some (ovlAddr f tether) else none

/-- The array offset that a golden address is loaded to, if a load of the personality with the overlay slot reads it (R174). -/
def loadedTo (tether : Bool) (ovl : Option Nat) (x : Nat) : Option Nat :=
  let off := x - baseAddr tether
  if baseAddr tether ≤ x && off < csSize && goldenAddr tether ovl off == x then some off
  else match ovl with
    | none => none
    | some o => (ovlParts tether).findSome? fun (a, b, n) => if o + b ≤ x && x < o + b + n then some (a + (x - (o + b))) else none

/-- The first array offset whose golden beat a load cannot read. -/
def loadBad (d : Dev) (tether : Bool) (ovl : Option Nat) : Option Nat :=
  (d.myc.ecc.filterMap fun x => if 2 ≤ x.2 then loadedTo tether ovl x.1 else none).min?

/-- The event and report of an uncorrectable golden beat (R183); the image stays unusable until it is reloaded. -/
def goldenError (d : Dev) (tether : Bool) (ovl : Option Nat) (off : Nat) (u : UnitId) : Dev :=
  let a := goldenAddr tether (ovl.map fun f => ovlAddr f tether) off
  let d := setEcc d a 3
  let slot := match ovl with
    | none => persName tether
    | some f => "fold" ++ toString f ++ " " ++ persName tether
  let g := d.golden
  let g := match ovl with
    | none => { g with baseBad := lset g.baseBad (if tether then 1 else 0) true }
    | some f => { g with ovlBad := lset g.ovlBad (ovlSlot f tether) true }
  let d := mcheckReport { d with golden := g } u 0x11 (toWord off) 0 (toWord a)
  emit d (some .state) none ("!UCODE GOLDEN " ++ slot ++ " 0x" ++ hexDigits (off / 0x10000) 1 ++ "_" ++ hexDigits off 4)

/-- The activation of the staged overlay (R176); the slot no longer holds what the boot image has for it (R183). -/
def ucodeCommit (d : Dev) : Dev :=
  match d.golden.staged with
  | none => d
  | some s =>
    let a := ovlAddr s.fold s.tether
    let d := d.clearRange a 0x4800
    let d := if s.empty then d else { d with mem := mergeTab d.mem ((memRange d stagingAddr 0x4800).map fun x => (a + x.1, x.2)) }
    let d := d.clearRange stagingAddr 0x4800
    let i := ovlSlot s.fold s.tether
    let d := { d with
      golden := { d.golden with active := lset d.golden.active i (!s.empty), ovlBad := lset d.golden.ovlBad i false, staged := none },
      boot := { d.boot with img := d.boot.img.map fun k => { k with ovls := tdel k.ovls i } } }
    emit d (some .state) (some (foldU s.fold)) ("!UCODE COMMIT fold" ++ toString s.fold ++ " " ++ persName s.tether)

/-- The beats of a load, in blocks of one target port each: array offset, address, beats; 256 bytes of the base image, 64 of an overlay
slot. -/
def loadBeats (tether : Bool) (ovl : Option Nat) : List (Nat × Nat × Nat) :=
  let base := ((List.range 264).map (· * 256)).filter fun o => ovl.isNone || !inOvl tether o
  base.map (fun o => (o, baseAddr tether + o, 16)) ++
  (match ovl with
  | none => []
  | some s => (ovlParts tether).flatMap fun (a, b, n) => (List.range (n / 64)).map fun i => (a + 64 * i, s + b + 64 * i, 4))

/-- Charges the beats of a load to the pen's fold, in BULK (spec/04 R80, spec/13 R272, R276). -/
def chargeLoad (d : Dev) (f : Nat) (l : List (Nat × Nat × Nat)) : Dev :=
  (List.range 4).foldl (fun d p =>
    charge d (some f) ((l.filter fun x => x.2.1 / 256 % 4 == p).map (·.2.2)).sum .bulk (0x10000000 + 256 * p)) d

/-- Loads a pen's control store for the personality selected, by a reset at its quiesce step (R158), from the golden copy (R142, R144, R174, R183, R184). The load is abandoned, and the pen fenced, where
it meets an uncorrectable error. -/
def csLoad (d : Dev) (p : Nat) : Dev :=
  let k := d.pen p
  let tether := k.persLoad.getD k.persNext
  let k := { k with persLoad := none }
  let ovl := activeOvl d k.fold tether
  if !lget d.golden.baseHeld false (if tether then 1 else 0) then d.setPen p k
  else
    match loadBad d tether ovl with
    | some off =>
      let d := chargeLoad d k.fold ((loadBeats tether ovl).filter (·.1 ≤ off))
      let d := d.setPen p { k with cs := { k.cs with loaded := false, scrub := false } }
      let d := goldenError d tether (if ovl.isSome && inOvl tether off then some k.fold else none) off (penU p)
      fence d (penU p) .mcheck
    | none =>
      let d := chargeLoad d k.fold (loadBeats tether ovl)
      let changed := match k.pers with
        | some t => t != tether
        | none => false
      let cs : CStore := { CStore.reset with
        data := csImage d tether ovl, loaded := true, ovl := ovl.isSome, scrub := true }
      let d := d.setPen p { k with pers := some tether, cs := cs }
      if changed then emit d (some .state) (some (penU p)) ("!PERS pen" ++ toString p ++ " " ++ persName tether) else d

/-- The 16-bit word of the array at an offset. -/
def csHalf (c : CStore) (off : Nat) : Nat := (tget c.data 0 off).toNat + (tget c.data 0 (off + 1)).toNat * 256

/-- `n` bytes of the array as a number. -/
def csNat (c : CStore) (off n : Nat) : Nat :=
  match n with
  | 0 => 0
  | n + 1 => (tget c.data 0 off).toNat + 256 * csNat c (off + 1) n

end Sys2Proof.Machine
end

