-- ==== Sys2Proof/Machine/Access.lean ====
section
/-! DEFINITION. Register accesses: who makes them, at what privilege, and how a write ends (spec/00 R2, R7 to R9, spec/04 R69 to
R73). -/
namespace Sys2Proof.Machine

/-- A requester: its privilege, its fold (none: no fold restricts it), its name in the arbiter's log, its core. -/
structure Req where
  priv : Priv
  fold : Option Nat
  src : String
  core : Option Nat
deriving DecidableEq, Repr

/-- The rank of a privilege. -/
def privNum (p : Priv) : Nat := match p with | .u => 0 | .f => 1 | .k => 2 | .m => 3

/-- The privilege of a number. -/
def privOf (n : Nat) : Priv := match n % 4 with | 0 => .u | 1 => .f | 2 => .k | _ => .m

/-- The name of a management port. -/
def portName (p : MgPort) : String := match p with | .mga => "MGA" | .mgb => "MGB"

/-- The requester behind an agent: a DMA channel acts at F of its fold (spec/14 R316), a session at K, or at M where it is a machine
session (spec/03 R65; log 11). -/
def reqOf (d : Dev) (a : Agent) : Req :=
  match a with
  | .core c l => { priv := l, fold := some (d.foldOfCore c.val), src := "core" ++ toString c.val, core := some c.val }
  | .bw => { priv := .m, fold := none, src := "bw", core := none }
  | .dma c => { priv := .f, fold := (d.chan c.val).own, src := "dma" ++ toString c.val, core := none }
  | .mg p => { priv := if (d.mg p).role == .machine then .m else .k, fold := none, src := portName p, core := none }

/-- The Bellwether as requester. -/
def bwReq : Req := { priv := .m, fold := none, src := "bw", core := none }

/-- Whether a requester has at least a privilege. -/
def atLeast (q : Req) (p : Priv) : Bool := privNum p ≤ privNum q.priv

/-- Whether a requester is at K or M. -/
def isK (q : Req) : Bool := atLeast q .k

/-- Whether a requester may act as F of a fold: F code of that fold, or K and M. -/
def isF (q : Req) (f : Option Nat) : Bool := isK q || (q.priv == .f && f.isSome && q.fold == f)

/-- How a register write ends. -/
inductive WRes where
  | done
  | refused (c : RCode)
  | exc (code : Byte)
deriving DecidableEq, Repr

/-- A write to a state-bearing register of a unit: through the arbiter; `onRef` is what a refusal leaves (spec/04 R69 to R73). -/
def stWrite (d : Dev) (q : Req) (u : UnitId) (gen : Option Nat) (onRef : Dev → Dev) (f : Dev → Except RCode Dev) : Dev × WRes :=
  let (d, c) := regRequest d q.src u gen f
  match c with
  | .ok => (d, .done)
  | .fenced => (d, .exc 0x09)
  | .absent => (d, .exc 0x0D)
  | c => (onRef d, .refused c)

/-- A write to a register of a unit that is not state-bearing: discarded with 0x09 on a fenced unit (spec/04 R73). -/
def plWrite (d : Dev) (u : UnitId) (f : Dev → Dev) : Dev × WRes :=
  match (d.unit u).st with
  | .absent => (d, .exc 0x0D)
  | .fenced => (d, .exc 0x09)
  | _ => (f d, .done)

/-- A write that a level may not make. -/
def denied (d : Dev) : Dev × WRes := (d, .exc 0x08)

/-- A write under an access rule. -/
def guardW (ok : Bool) (d : Dev) (f : Dev × WRes) : Dev × WRes := if ok then f else denied d

/-- A write that completes without an effect (spec/00 R7, R9). -/
def ignored (d : Dev) : Dev × WRes := (d, .done)

/-- The result of a read. -/
abbrev RRes := Except Byte Word

/-- A read of a value under an access rule. -/
def guardR (ok : Bool) (d : Dev) (v : Word) : Dev × RRes := (d, if ok then .ok v else .error 0x08)

/-- Holds a posted error at a core, or counts it as lost (spec/13 R282). -/
def postError (d : Dev) (c : Nat) (e : PostErr) : Dev :=
  d.updCore c fun k => match k.perr with
    | none => { k with perr := some e }
    | some _ => { k with plost := satInc k.plost 255 }

/-- What a refused write leaves with the agent that made it: a posted error at a core for 0x09 (spec/13 R282), an exception due at its
next boundary for the other codes (spec/05 R103); a DMA channel meets it in its own burst, a session in its own command. -/
def agentError (d : Dev) (a : Agent) (code : Byte) (addr : Word) : Dev :=
  match a with
  | .core c _ =>
    let k := d.core c.val
    if code == 0x09 then postError d c.val { pc := k.pc, addr := addr, lvl := k.lvl, slot := k.slot.getD 0, ecc := false }
    else d.updCore c.val fun k => k.hold ⟨code, 0, addr⟩
  | _ => d

/-- A register-write command: the write, and what its failure leaves with the agent. -/
def writeRow (a : Agent) (addr : Word) (r : Dev × WRes) : Dev :=
  match r with
  | (d, .exc code) => agentError d a code addr
  | (d, _) => d

end Sys2Proof.Machine
end

