-- ==== Sys2Proof/Machine/PortCore.lean ====
section
/-! DEFINITION. The buffer pool, the partner table and the queues of the field ports (spec/16). -/
namespace Sys2Proof.Machine

/-! The pool (R349 to R352). -/

/-- The number of a requester of buffers, R350. -/
def reqIdNum (r : ReqId) : Nat := match r with | .port u => portId u | .dma c => 32 + c.val | .fold f => 96 + f.val

/-- The address of a buffer, R349. -/
def bufAddr (b : Nat) : Nat := 0x18000000 + 256 * b

/-- The floor of a requester at device reset (R369); absent ports read 0. -/
def floorReset (d : Dev) (r : Nat) : Nat :=
  if r < 18 then
    match allPorts.find? fun u => portId u == r with
    | none => 0
    | some u =>
      if !unitPresent d.variant (portUnit u) then 0
      else match portClass r with | 0 => 16 | 1 => 8 | 2 => 32 | _ => 4
  else 0

/-- The floor of a requester. -/
def floorOf (d : Dev) (r : Nat) : Nat := tget d.pool.floors (floorReset d r) r

/-- The buffers a requester has in use. -/
def inUse (d : Dev) (r : Nat) : Nat := (d.pool.tags.filter fun x => x.2.req == r).length

/-- Every requester: ports, DMA channels, cores by fold (R350). -/
def allReqs : List Nat := List.range 18 ++ (List.range 64).map (32 + ·) ++ (List.range 8).map (96 + ·)

/-- The outstanding reserve RES, R350. -/
def poolRes (d : Dev) : Nat := (allReqs.map fun r => floorOf d r - inUse d r).sum

/-- Whether a buffer is available to a requester, R351. -/
def bufAvail (d : Dev) (r : Nat) : Bool :=
  0 < poolFreeCount d.pool && (inUse d r < floorOf d r || poolRes d < poolFreeCount d.pool)

/-- Whether a requester is halter-designated, R350. -/
def designated (d : Dev) (r : Nat) : Bool :=
  let h (i : Nat) : Word := lget d.pool.hdes 0 i
  if r < 18 then bitOf (h 0) r
  else if 32 ≤ r && r < 64 then bitOf (h 1) (r - 32)
  else if 64 ≤ r && r < 96 then bitOf (h 2) (r - 64)
  else bitOf (h 3) (r - 96)

/-- The rank of a requester, lower first: designated requesters, then ports, DMA channels and cores by number (R351). -/
def reqRank (d : Dev) (r : Nat) : Nat := if designated d r then r else 128 + r

/-- The first buffer that is free. -/
def freeBuf (d : Dev) : Option Nat :=
  (List.range 1024).find? fun b => (tfind d.pool.tags b).isNone && !d.pool.retired.contains b

/-- Takes a buffer for a requester, tagged with a fold. -/
def bufTake (d : Dev) (r f : Nat) : Dev × Option Nat :=
  match freeBuf d with
  | none => (d, none)
  | some b => (poolWatch { d with pool := { d.pool with tags := tput d.pool.tags b ⟨f, r⟩ } }, some b)

/-- One request for a buffer that meets no other in its cycle: granted where one is available (R351). An injected NOBUF answers the
request of a port (R371). -/
def bufRequest (d : Dev) (r f : Nat) : Dev × Option Nat :=
  if r < 18 && (d.port r).injNobuf then (d.updPort r fun k => { k with injNobuf := false }, none)
  else if bufAvail d r then bufTake d r f else (d, none)

/-- A free of a buffer by an agent of a fold, or of K or M (none): refused where the address names no allocated buffer of the fold
(R349). -/
def bufFree (d : Dev) (f : Option Nat) (a : Nat) : Dev :=
  let b := (a - 0x18000000) / 256
  let bad := { d with pool := { d.pool with badFree := true } }
  if a < 0x18000000 || 0x18040000 ≤ a || a % 256 != 0 then bad
  else
    match tfind d.pool.tags b with
    | none => bad
    | some t => if f.isNone || f == some t.fold then poolReturn d b else bad

/-! The partner table (R361 to R365). -/

/-- The name of a port by its ID. -/
def portIdName (i : Nat) : String :=
  match allPorts.find? fun u => portId u == i with
  | some u => unitName (portUnit u)
  | none => ""

/-- The unit of a port by its ID. -/
def portIdUnit (i : Nat) : Option UnitId := (allPorts.find? fun u => portId u == i).map portUnit

/-- A partner key as `!PARTNER` shows it: hexadecimal in groups of four. -/
def keyText (i key : Nat) : String :=
  match portClass i with
  | 0 | 2 => "0x" ++ hexDigits (key >>> 32) 4 ++ "_" ++ hexDigits (key >>> 16) 4 ++ "_" ++ hexDigits key 4
  | 1 => hex32 (toWord key)
  | _ => "0x" ++ hexDigits key 4

/-- The names of the leave causes (R365). -/
def leaveName (c : Nat) : String :=
  match c with | 0 => "AGED" | 1 => "MOVED" | 2 => "DELETED" | 3 => "PORT" | _ => "ERROR"

/-- An empty partner queue. -/
def PartnerQ.reset : PartnerQ := { recs := [], lost := 0, fullTick := false }

/-- Changes the partner queue of a fold. -/
def updPq (d : Dev) (f : Nat) (g : PartnerQ → PartnerQ) : Dev :=
  { d with ptab := { d.ptab with queues := lset d.ptab.queues f (g (lget d.ptab.queues PartnerQ.reset f)) } }

/-- Places a partner record in a fold's queue and fires its source (R365). -/
def partnerRec (d : Dev) (f idx kind cause port key : Nat) : Dev :=
  let q := lget d.ptab.queues PartnerQ.reset f
  if 64 ≤ q.recs.length then updPq d f fun q => { q with lost := satInc q.lost 0xFFFFFFFF }
  else
    let cell0 := toWord (idx + put kind 12 + put cause 16 + put port 24 + put 1 31)
    let d := updPq d f fun q => { q with recs := q.recs ++ [(cell0, toWord key)] }
    fireSource d (332 + f)

/-- The event of a join. -/
def joinEvent (d : Dev) (i port key f : Nat) : Dev :=
  emit d (some .partner) (some (foldU f))
    ("!PARTNER JOIN " ++ portIdName port ++ " " ++ keyText port key ++ " fold" ++ toString f ++ " idx " ++ toString i)

/-- The event of a leave. -/
def leaveEvent (d : Dev) (port key f cause : Nat) : Dev :=
  emit d (some .partner) (some (foldU f))
    ("!PARTNER LEAVE " ++ portIdName port ++ " " ++ keyText port key ++ " fold" ++ toString f ++ " " ++ leaveName cause)

/-- Frees an entry with a LEAVE record (R363, R368). -/
def partnerLeave (d : Dev) (i cause : Nat) : Dev :=
  match tfind d.ptab.entries i with
  | none => d
  | some e =>
    let d := { d with ptab := { d.ptab with entries := tdel d.ptab.entries i } }
    leaveEvent (partnerRec d e.fold i 2 cause e.port e.key) e.port e.key e.fold cause

/-- The entry of a port and key. -/
def partnerFind (d : Dev) (port key : Nat) : Option (Nat × Partner) :=
  d.ptab.entries.find? fun x => x.2.port == port && x.2.key == key

/-- The first free entry. -/
def partnerFree (d : Dev) : Option Nat := (List.range 1024).find? fun i => (tfind d.ptab.entries i).isNone

/-- Writes an entry. -/
def setPartner (d : Dev) (i : Nat) (e : Partner) : Dev :=
  { d with ptab := { d.ptab with entries := tput d.ptab.entries i e } }

/-- The lookup at the end of an accepted frame (R362, R364, R366): known key, fold change, join, or a full table. The result is
the entry named in the frame's records. -/
def partnerLookup (d : Dev) (port key f nid : Nat) : Dev × Option Nat :=
  match partnerFind d port key with
  | some (i, e) =>
    let e' := { e with idle := 0, frames := e.frames + 1, nid := if nid == 255 then e.nid else nid, fold := f }
    let d := setPartner d i e'
    if e.fold == f then (d, some i)
    else
      let d := leaveEvent (partnerRec d e.fold i 2 1 port key) port key e.fold 1
      let d := joinEvent (partnerRec d f i 1 0 port key) i port key f
      (d, some i)
  | none =>
    match partnerFree d with
    | some i =>
      let d := setPartner d i { stat := false, port := port, fold := f, nid := nid, key := key, idle := 0, frames := 1 }
      (joinEvent (partnerRec d f i 1 0 port key) i port key f, some i)
    | none =>
      let d := { d with ptab := { d.ptab with fullCnt := satInc d.ptab.fullCnt 0xFFFF } }
      let q := lget d.ptab.queues PartnerQ.reset f
      let d := if q.fullTick then d else
        updPq (partnerRec d f 0 3 0 port key) f fun q => { q with fullTick := true }
      (emit d (some .partner) (portIdUnit port) ("!PARTNER FULL " ++ portIdName port), none)

/-- Adds a static entry with a JOIN (R363, R370); false where the table is full or the key is there already. -/
def partnerAdd (d : Dev) (port key f : Nat) : Dev × Bool :=
  match partnerFind d port key, partnerFree d with
  | none, some i =>
    let d := setPartner d i { stat := true, port := port, fold := f, nid := 255, key := key, idle := 0, frames := 0 }
    (joinEvent (partnerRec d f i 1 0 port key) i port key f, true)
  | _, _ => (d, false)

/-- Frees every entry of a port with cause PORT (R369). -/
def partnerPortLeave (d : Dev) (port : Nat) : Dev :=
  (List.range 1024).foldl (fun d i =>
    match tfind d.ptab.entries i with
    | some e => if e.port == port then partnerLeave d i 3 else d
    | none => d) d

/-! Sub-queues (R347). -/

/-- The sub-queue of a fold at a port. -/
def subQ (k : Port) (f : Nat) : SubQ := tget k.subs SubQ.reset f

/-- Changes the sub-queue of a fold at a port. -/
def updSub (d : Dev) (i f : Nat) (g : SubQ → SubQ) : Dev :=
  d.updPort i fun k => { k with subs := tset k.subs SubQ.reset f (g (subQ k f)) }

/-- The buffer named by an address. -/
def bufOfAddr (a : Word) : Nat := (a.toNat - 0x18000000) / 256

/-- The source of a port's event `k`: 0 RX, 1 TX, 2 PLCA or FRAME, 3 ERR (R234). -/
def portSource (i k : Nat) : Nat :=
  match portClass i with
  | 0 => 232 + 4 * i + k
  | 1 => 256 + 4 * (i - 4) + k
  | 2 => 248 + 4 * (i - 8) + k
  | _ => 272 + 4 * (i - 10) + k

/-- A port's reset: records, queues and frames discarded with their buffers, partners leave; OWN, NIDk and filters stay (R369). -/
def portReset (d : Dev) (i : Nat) : Dev :=
  let k := d.port i
  let bufs := k.subs.flatMap (fun x => x.2.recs.map fun r => bufOfAddr r.addr) ++ k.txq.map (fun r => bufOfAddr r.addr) ++
    k.rxWait.flatMap (·.bufs) ++ k.held ++ k.txFrame.map (fun r => bufOfAddr r.addr)
  let d := poolReturnAll d (bufs.filter fun b => (tfind d.pool.tags b).isSome)
  let d := partnerPortLeave d i
  d.updPort i fun k => { Port.reset (portClass i) with own := k.own, sent := k.sent }

end Sys2Proof.Machine
end

