-- ==== Sys2Proof/Machine/RawRegs.lean ====
section
/-! DEFINITION. The state-bearing registers of each unit as bits: read and written without any rule, by offset from the unit's
base (spec/04 R69, R77 and the register tables of each chapter). The families apply their rules before they write here. -/
namespace Sys2Proof.Machine

/-- OWN registers: a fold and a valid bit. -/
def ownWord (o : Option Nat) : Word := match o with | none => 0 | some f => toWord (f + 128)

/-- The owner a written OWN names. -/
def ownOf (v : Word) : Option Nat := if bitOf v 7 then some (fld v 0 3) else none

/-- Changes the account of a pen. -/
def updRat (d : Dev) (p : Nat) (f : Rat → Rat) : Dev := d.updPen p fun k => { k with rat := f k.rat }

/-- A binding entry of a pen. -/
def bindOf (k : Pen) (l : Nat) : Bind := tget k.binds Bind.reset l

/-- Changes the PMU. -/
def updPmu (d : Dev) (f : Pmu → Pmu) : Dev := { d with pmu := f d.pmu }

/-- Changes the line entry `l` of fold `f`. -/
def updLine (d : Dev) (f l : Nat) (g : LineCfg → LineCfg) : Dev :=
  d.updSlice f fun s => { s with lines := tset s.lines LineCfg.reset l (g (tget s.lines LineCfg.reset l)) }

/-- Changes a map entry. -/
def updMap (d : Dev) (n : Nat) (m : SrcMap) : Dev := { d with evr := { d.evr with maps := tset d.evr.maps SrcMap.reset n m } }

/-- A map entry as a register (spec/11 R258). -/
def mapWord (m : SrcMap) : Word := toWord (m.fold + put m.line 3 + put m.mode 9 + putB m.en 15 + putB m.open_ 16)

/-- A register as a map entry. -/
def mapOf (v : Word) : SrcMap :=
  { fold := fld v 0 3, line := fld v 3 6, mode := fld v 9 2, en := bitOf v 15, open_ := bitOf v 16 }

/-- A line entry as a register (spec/11 R258). -/
def lineWord (c : LineCfg) : Word := toWord (c.prio + putB c.oneshot 4 + putB c.en 7 + put c.pens.toNat 8)

/-- A register as a line entry. -/
def lineOf (v : Word) : LineCfg :=
  { prio := fld v 0 3, oneshot := bitOf v 4, en := bitOf v 7, pens := BitVec.ofNat 8 (fld v 8 8) }

/-- A halter entry as a register (spec/11 R258). -/
def haltMapWord (m : HaltMap) : Word := toWord (m.ins.toNat + putB m.safe 8 + putB m.latch 9 + putB m.arm 10)

/-- A register as a halter entry. -/
def haltMapOf (v : Word) : HaltMap :=
  { ins := v.setWidth 8, safe := bitOf v 8, latch := bitOf v 9, arm := bitOf v 10 }

/-- HALT.INCFG. -/
def incfgWord (h : Halter) : Word :=
  toWord (h.pol.toNat + ((List.range 8).map fun i => put (lget h.flt 2 i) (8 + 2 * i)).sum)

/-- Joins fields of `n` bits each into a register, the first lowest. -/
def packList (l : List Nat) (n : Nat) : Word :=
  toWord (l.foldr (fun x acc => x % 2 ^ n + acc * 2 ^ n) 0)

/-- Splits a register into `m` fields of `n` bits. -/
def unpackList (v : Word) (n m : Nat) : List Nat := (List.range m).map fun i => fld v (n * i) n

/-- DMA.CHc.CTL. -/
def chanCtl (k : Channel) : Word :=
  toWord (k.prio + put k.cls 4 + put k.retry 8 + put k.backoff 12 + put k.movers 16)

/-- SLOT.CTL without the bits that show the slot's state. -/
def slotCtlBits (s : Slot) : Nat := s.pri + put s.cls 5 + putB s.valid 7

/-- A slice of a 64-bit vector as a register. -/
def half64 (x : BitVec 64) (hi : Bool) : Word := if hi then (x >>> 32).setWidth 32 else x.setWidth 32

/-- A 64-bit vector with one half replaced. -/
def setHalf64 (x : BitVec 64) (hi : Bool) (v : Word) : BitVec 64 :=
  if hi then (x &&& 0xFFFFFFFF) ||| (v.setWidth 64 <<< 32) else (x &&& 0xFFFFFFFF00000000) ||| v.setWidth 64

/-- The owners of eight GPIO pins as a register. -/
def gpioOwnWord (g : Gpio) (i : Nat) : Word :=
  packList ((List.range 8).map fun j => match lget g.own none (8 * i + j) with | none => 0 | some f => f + 8) 4

/-- An offset inside a register array: its index, if it lies there. -/
def idx (off base stride n : Nat) : Option Nat :=
  if base ≤ off && (off - base) % stride == 0 && (off - base) / stride < n then some ((off - base) / stride) else none

/-- PWMn.OWN, CFG and DITH. -/
def pwmOwnWord (k : Pwm) : Word := ownWord k.own + toWord (putB k.safe 8 + putB k.oe 9)
def pwmCfgWord (k : Pwm) : Word :=
  toWord (k.pre + putB k.polLow 4 + putB k.pev 5 + putB k.foldsafe 6 + putB k.hen 7 + put k.hlink 8)

/-- The account registers of a pen by offset. -/
def ratGet (k : Pen) (off : Nat) : Word :=
  let r := k.rat
  if off == 0x1000 then toWord (putB r.run 0 + put r.slice 4)
  else if off == 0x1008 then toWord r.rate
  else if off == 0x100C then toWord r.cap
  else if off == 0x1010 then toWord r.floor
  else if off == 0x1014 then toWord r.thr1
  else if off == 0x1018 then toWord r.thr2
  else if off == 0x101C then toWord r.thr3
  else if off == 0x1060 then toWord r.scale
  else if off == 0x106C then r.boot
  else match idx off 0x1020 4 8, idx off 0x1040 4 8, idx off 0x3000 4 64 with
    | some i, _, _ => let e := lget r.derate ⟨0, 0, false⟩ i; toWord (e.tj + put e.factor 8 + putB e.en 15)
    | _, some i, _ => toWord (lget r.coef 0 i)
    | _, _, some l => let b := bindOf k l; toWord (b.slot + putB b.en 15)
    | _, _, _ =>
      if 0x2000 ≤ off && off < 0x3000 then
        let s := slotGet k ((off - 0x2000) / 16)
        match off % 16 with
        | 0 => toWord (slotCtlBits s)
        | 4 => s.tsb
        | 8 => toWord s.cost
        | _ => 0
      else 0
where slotGet (k : Pen) (s : Nat) : Slot := tget k.slots Slot.reset s

/-- Writes an account register, slot register or binding of a pen. -/
def ratSet (k : Pen) (off : Nat) (v : Word) : Pen :=
  let r := k.rat
  if off == 0x1000 then { k with rat := { r with run := bitOf v 0, slice := fld v 4 4 } }
  else if off == 0x1008 then { k with rat := { r with rate := fld v 0 16 } }
  else if off == 0x100C then { k with rat := { r with cap := fld v 0 20 } }
  else if off == 0x1010 then { k with rat := { r with floor := fld v 0 20 } }
  else if off == 0x1014 then { k with rat := { r with thr1 := fld v 0 20 } }
  else if off == 0x1018 then { k with rat := { r with thr2 := fld v 0 20 } }
  else if off == 0x101C then { k with rat := { r with thr3 := fld v 0 20 } }
  else if off == 0x1060 then { k with rat := { r with scale := fld v 0 10 } }
  else if off == 0x106C then { k with rat := { r with boot := v &&& 0xFFFFFF81 } }
  else match idx off 0x1020 4 8, idx off 0x1040 4 8, idx off 0x3000 4 64 with
    | some i, _, _ => { k with rat := { r with derate := lset r.derate i ⟨fld v 0 8, fld v 8 5, bitOf v 15⟩ } }
    | _, some i, _ => { k with rat := { r with coef := lset r.coef i (fld v 0 16) } }
    | _, _, some l => { k with binds := tset k.binds Bind.reset l ⟨fld v 0 8, bitOf v 15, false⟩ }
    | _, _, _ =>
      if 0x2000 ≤ off && off < 0x3000 then
        let s := (off - 0x2000) / 16
        let x := tget k.slots Slot.reset s
        let x' := match off % 16 with
          | 0 => { x with pri := fld v 0 5, cls := fld v 5 2, valid := bitOf v 7 }
          | 4 => { x with tsb := v &&& 0xFFFFFF80 }
          | 8 => { x with cost := fld v 0 20 }
          | _ => x
        { k with slots := tset k.slots Slot.reset s x' }
      else k

/-- The value of a state-bearing register of a unit. -/
def regGet (d : Dev) (u : UnitId) (off : Nat) : Word :=
  match u with
  | .pmu =>
    let m := d.pmu
    match off with
    | 0x08 => toWord (match m.wakeTarget with | .slow => 1 | .idle => 2 | _ => 0)
    | 0x0C => m.wakeEn.setWidth 32
    | 0x20 => m.lwatch
    | 0x24 => m.keepAfe
    | 0x28 => m.keepPort
    | 0x2C => m.keepDmaLo
    | 0x30 => m.keepDmaHi
    | 0x34 => m.s5base
    | 0x38 => m.s5len
    | _ => 0
  | .core c => if off == 0xD4 then toWord (d.core c.val).lmguard else 0
  | .pen p =>
    let k := d.pen p.val
    match off with
    | 0x04 => toWord (putB k.persNext 0)
    | 0x08 => k.tvec
    | 0x0C => k.gtb
    | 0x10 => k.exv
    | 0x14 => toWord k.exctl
    | _ => ratGet k off
  | .tile t =>
    let e := (d.pen t.val).te
    if off == 4 then toWord (e.doneEv.toNat + put e.trapEv.toNat 4)
    else match idx off 0x20 4 4 with | some c => lget e.ttxb 0 c | none => 0
  | .fold f =>
    let m := d.foldMem f.val
    match off with
    | 0x80 => toWord (putB m.spare 0)
    | 0x84 => toWord m.share
    | 0x88 => toWord m.burst
    | _ =>
      let w := lget m.wins ⟨0, 0⟩ (off / 8)
      if off % 8 == 0 then w.base else w.lim
  | .evr f =>
    let s := d.slice f.val
    match off with
    | 0 => toWord (s.maxpri + put s.exempt 4)
    | 4 => toWord s.rate
    | 8 => toWord s.depth
    | _ => match idx off 0x100 4 64, idx off 0x4000 4 512 with
      | some l, _ => lineWord (lineCfg d f.val l)
      | _, some n => mapWord (srcMap d n)
      | _, _ => 0
  | .dma c =>
    let k := d.chan c.val
    match off with
    | 0x00 => ownWord k.own
    | 0x04 => chanCtl k
    | 0x08 => toWord k.src
    | 0x0C => toWord (k.high + put k.low 16)
    | 0x10 => k.rbase
    | 0x14 => toWord k.rsize
    | 0x18 => toWord k.head
    | _ => 0
  | .t1s p => portGet p.val off
  | .can p => portGet (4 + p.val) off
  | .gbe p => portGet (8 + p.val) off
  | .uart p => portGet (10 + p.val) off
  | .mg p =>
    let k := d.mg p
    match off with | 0 => k.cfg | 8 => k.evMask.setWidth 32 | _ => 0
  | .afe =>
    let a := d.afe
    match off with
    | 0 => toWord (a.rate + putB a.frev 8)
    | 4 => ownWord a.own
    | _ =>
      let c := lget a.chans AfeCh.reset ((off - 0x200) / 16)
      match off % 16 with
      | 0 => toWord (c.mode + put c.fcnt 4)
      | 4 => c.lo.setWidth 32
      | 8 => c.hi.setWidth 32
      | _ => 0
  | .pwm n =>
    let k := d.pwm n.val
    match off with
    | 0 => pwmOwnWord k
    | 4 => pwmCfgWord k
    | 8 => toWord k.per
    | 0x14 => toWord (k.damp + put k.dhalf 16)
    | _ => 0
  | .gpio =>
    let g := d.gpio
    match off with
    | 0x20 => half64 g.dir false
    | 0x24 => half64 g.dir true
    | 0x28 => half64 g.odrn false
    | 0x2C => half64 g.odrn true
    | 0x80 => toWord (putB g.snapEn 0 + putB g.snapBank 1 + put g.snapPer 16)
    | _ => match idx off 0x30 4 4, idx off 0x40 4 8 with
      | some i, _ => packList ((List.range 16).map fun j => lget g.pull 0 (16 * i + j)) 2
      | _, some i => gpioOwnWord g i
      | _, _ => 0
  | .halt =>
    let h := d.halter
    if off == 4 then incfgWord h
    else match idx off 0x20 4 8 with
      | some j => haltMapWord (lget h.maps ⟨0, false, true, false⟩ j)
      | none => 0
  | .ptab => match idx off 0x10 4 18, idx off 0x6100 4 104, idx off 0x600C 4 3 with
    | some i, _, _ => toWord (lget d.ptab.ages 5000 i)
    | _, some r, _ => toWord (floorOf d r)
    | _, _, some i => lget d.pool.hdes 0 i
    | _, _, _ => if off == 0x601C then lget d.pool.hdes 0 3 else if off == 0x6018 then toWord d.pool.lowmark
                 else if off == 4 then d.ptab.addLo else 0
where
  /-- The configuration registers of a port. -/
  portGet (i off : Nat) : Word :=
    let k := d.port i
    match off with
    | 0x0 => k.cfg
    | 0x4 => k.tmr
    | 0x8 => k.dbt
    | 0xC => ownWord k.own
    | _ =>
      if i < 4 then match idx off 0x400 4 255 with | some n => toWord (tget d.nid 0 (i * 256 + n)) | none => 0
      else if 0x200 ≤ off && off < 0x300 then
        let x := tget d.filts ⟨0, 0⟩ ((i - 4) * 32 + (off - 0x200) / 8)
        if off % 8 == 0 then x.a else x.b
      else 0

/-- The unit with a state-bearing register set, whatever the rules of the register. -/
def regSet (d : Dev) (u : UnitId) (off : Nat) (v : Word) : Dev :=
  match u with
  | .pmu => updPmu d fun m =>
    match off with
    | 0x08 => { m with wakeTarget := match fld v 0 2 with | 1 => .slow | 2 => .idle | _ => .run }
    | 0x0C => { m with wakeEn := v.setWidth 27 }
    | 0x20 => { m with lwatch := v &&& 0x87 }
    | 0x24 => { m with keepAfe := v &&& 0xFFFFFF }
    | 0x28 => { m with keepPort := v &&& 0xF0F }
    | 0x2C => { m with keepDmaLo := v }
    | 0x30 => { m with keepDmaHi := v }
    | 0x34 => { m with s5base := v &&& 0xFFFFFF00 }
    | 0x38 => { m with s5len := v &&& 0x3F }
    | _ => m
  | .core c => if off == 0xD4 then d.updCore c.val fun k => { k with lmguard := fld v 0 5 } else d
  | .pen p => d.updPen p.val fun k =>
    match off with
    | 0x04 => { k with persNext := bitOf v 0 }
    | 0x08 => { k with tvec := v &&& 0xFFFFFFE0 }
    | 0x0C => { k with gtb := v &&& 0xFFFFFFC0 }
    | 0x10 => { k with exv := v &&& 0xFFFFFFFE }
    | 0x14 => { k with exctl := fld v 0 6 }
    | _ => ratSet k off v
  | .tile t => d.updPen t.val fun k =>
    let e := k.te
    if off == 4 then { k with te := { e with doneEv := v.setWidth 4, trapEv := (v >>> 4).setWidth 4 } }
    else match idx off 0x20 4 4 with
      | some c => { k with te := { e with ttxb := lset e.ttxb c (v &&& 0xFFFFFC01) } }
      | none => k
  | .fold f => d.updFoldMem f.val fun m =>
    match off with
    | 0x80 => { m with spare := bitOf v 0 }
    | 0x84 => { m with share := fld v 0 11 }
    | 0x88 => { m with burst := fld v 0 12 }
    | _ =>
      let w := lget m.wins ⟨0, 0⟩ (off / 8)
      let w := if off % 8 == 0 then { w with base := v &&& 0xFFFFF001 } else { w with lim := v &&& 0xFFFFF03F }
      { m with wins := lset m.wins (off / 8) w }
  | .evr f =>
    match off with
    | 0 => d.updSlice f.val fun s => { s with maxpri := fld v 0 3, exempt := fld v 4 4 }
    | 4 => d.updSlice f.val fun s => { s with rate := fld v 0 16 }
    | 8 => d.updSlice f.val fun s => { s with depth := fld v 0 12, tokens := min s.tokens (fld v 0 12) }
    | _ => match idx off 0x100 4 64, idx off 0x4000 4 512 with
      | some l, _ => updLine d f.val l fun _ => lineOf v
      | _, some n => updMap d n (mapOf v)
      | _, _ => d
  | .dma c => d.updChan c.val fun k =>
    match off with
    | 0x00 => { k with own := ownOf v }
    | 0x04 => { k with prio := fld v 0 2, cls := fld v 4 2, retry := fld v 8 3, backoff := fld v 12 4, movers := fld v 16 4 }
    | 0x08 => { k with src := fld v 0 7 }
    | 0x0C => { k with high := fld v 0 12, low := fld v 16 12 }
    | 0x10 => { k with rbase := v &&& 0xFFFFFFE0 }
    | 0x14 => { k with rsize := fld v 0 8 }
    | 0x18 => { k with head := fld v 0 8 }
    | _ => k
  | .t1s p => portSet p.val off
  | .can p => portSet (4 + p.val) off
  | .gbe p => portSet (8 + p.val) off
  | .uart p => portSet (10 + p.val) off
  | .mg p => d.updMg p fun k =>
    match off with
    | 0 => { k with cfg := v &&& 0x7FFFF }
    | 8 => { k with evMask := v.setWidth 10 }
    | _ => k
  | .afe =>
    let a := d.afe
    match off with
    | 0 => { d with afe := { a with rate := fld v 0 3, frev := bitOf v 8 } }
    | 4 => { d with afe := { a with own := ownOf v } }
    | _ =>
      let i := (off - 0x200) / 16
      let c := lget a.chans AfeCh.reset i
      let c := match off % 16 with
        | 0 => { c with mode := fld v 0 2, fcnt := fld v 4 4 }
        | 4 => { c with lo := v.setWidth 24 }
        | 8 => { c with hi := v.setWidth 24 }
        | _ => c
      { d with afe := { a with chans := lset a.chans i c } }
  | .pwm n => d.updPwm n.val fun k =>
    match off with
    | 0 => { k with own := ownOf v, safe := bitOf v 8, oe := bitOf v 9 }
    | 4 => { k with pre := fld v 0 4, polLow := bitOf v 4, pev := bitOf v 5, foldsafe := bitOf v 6, hen := bitOf v 7,
                    hlink := fld v 8 3 }
    | 8 => { k with per := fld v 0 16 }
    | 0x14 => { k with damp := fld v 0 16, dhalf := fld v 16 8, dpos := 0 }
    | _ => k
  | .gpio =>
    let g := d.gpio
    let g := match off with
      | 0x20 => { g with dir := setHalf64 g.dir false v }
      | 0x24 => { g with dir := setHalf64 g.dir true v }
      | 0x28 => { g with odrn := setHalf64 g.odrn false v }
      | 0x2C => { g with odrn := setHalf64 g.odrn true v }
      | 0x80 => { g with snapEn := bitOf v 0, snapBank := bitOf v 1, snapPer := fld v 16 16 }
      | _ => match idx off 0x30 4 4, idx off 0x40 4 8 with
        | some i, _ => { g with pull := ((unpackList v 2 16).zipIdx.foldl (fun l x => lset l (16 * i + x.2) x.1) g.pull) }
        | _, some i => { g with own := ((unpackList v 4 8).zipIdx.foldl (fun l x =>
            lset l (8 * i + x.2) (if 8 ≤ x.1 then some (x.1 - 8) else none)) g.own) }
        | _, _ => g
    { d with gpio := g }
  | .halt =>
    let h := d.halter
    if off == 4 then { d with halter := { h with pol := v.setWidth 8, flt := unpackList (v >>> 8) 2 8 } }
    else match idx off 0x20 4 8 with
      | some j => { d with halter := { h with maps := lset h.maps j (haltMapOf v) } }
      | none => d
  | .ptab =>
    match idx off 0x10 4 18, idx off 0x6100 4 104, idx off 0x600C 4 3 with
    | some i, _, _ => { d with ptab := { d.ptab with ages := lset d.ptab.ages i (fld v 0 16) } }
    | _, some r, _ => { d with pool := { d.pool with floors := tset d.pool.floors (floorReset d r) r (fld v 0 7) } }
    | _, _, some i => { d with pool := { d.pool with hdes := lset d.pool.hdes i v } }
    | _, _, _ =>
      if off == 0x601C then { d with pool := { d.pool with hdes := lset d.pool.hdes 3 (v &&& 0xFF) } }
      else if off == 0x6018 then { d with pool := { d.pool with lowmark := fld v 0 11 } }
      else if off == 4 then { d with ptab := { d.ptab with addLo := v } } else d
where
  /-- Sets a configuration register of a port. -/
  portSet (i off : Nat) : Dev :=
    match off with
    | 0x0 => d.updPort i fun k => { k with cfg := v }
    | 0x4 => d.updPort i fun k => { k with tmr := v }
    | 0x8 => d.updPort i fun k => { k with dbt := v }
    | 0xC => d.updPort i fun k => { k with own := ownOf v }
    | _ =>
      if i < 4 then
        match idx off 0x400 4 255 with
        | some n => { d with nid := tset d.nid 0 (i * 256 + n) (v &&& 0x87).toNat }
        | none => d
      else if 0x200 ≤ off && off < 0x300 then
        let key := (i - 4) * 32 + (off - 0x200) / 8
        let x := tget d.filts ⟨0, 0⟩ key
        let x := if off % 8 == 0 then { x with a := v } else { x with b := v }
        { d with filts := tset d.filts ⟨0, 0⟩ key x }
      else d

end Sys2Proof.Machine
end

