-- ==== Sys2Proof/Machine/HaltMap.lean ====
section
/-! DEFINITION. The halter map: what its inputs and outputs are, and how trips are made and end (spec/11 R248, R249, R254, R257). -/
namespace Sys2Proof.Machine

/-- The halter map works: it is powered in every state but OFF and the resets of R34. -/
def haltLive (d : Dev) : Bool :=
  d.pmu.cur != .off && (match d.phase with | .reset .por | .reset .bor | .reset .ovr | .reset .otr => false | _ => true)

/-- Changes the halter map. -/
def updHalt (d : Dev) (f : Halter → Halter) : Dev := { d with halter := f d.halter }

/-- The inputs as the map sees them: active by the polarity of the filtered level; a simulated value takes its place (R257). -/
def haltInputs (h : Halter) : BitVec 8 :=
  (List.range 8).foldl (fun (m : BitVec 8) i =>
    setBit m i (match lget h.sims none i with | some b => b | none => h.level.getLsbD i != h.pol.getLsbD i)) 0

/-- The entry of an output. -/
def haltMap (h : Halter) (j : Nat) : HaltMap := lget h.maps ⟨0, false, true, false⟩ j

/-- The active inputs of an output. -/
def haltActive (h : Halter) (j : Nat) : BitVec 8 := (haltMap h j).ins &&& haltInputs h

/-- Whether an output drives the opposite of SAFE (R248). -/
def haltRuns (h : Halter) (j : Nat) : Bool :=
  h.driven && (haltMap h j).arm && !h.trip.getLsbD j && haltActive h j == 0

/-- The level of an output while it is driven. -/
def haltLevel (h : Halter) (j : Nat) : Bool := if haltRuns h j then !(haltMap h j).safe else (haltMap h j).safe

/-- An output is marked as tripped: the PWM channels linked to it are to be held (spec/17 R382). -/
def tripMark (d : Dev) (j : Nat) : Dev :=
  (List.range 16).foldl (fun d n =>
    d.updPwm n fun k => if k.hen && k.hlink == j then { k with due := true } else k)
    (updHalt d fun h => { h with trip := setBit h.trip j true })

/-- The report of a trip. -/
def tripEvent (d : Dev) (j : Nat) : Dev :=
  emit d (some .evr) (some .halt) ("!HALT TRIP out" ++ toString j ++ " in " ++ hex8 (haltActive d.halter j).toNat)

/-- Outputs trip at one time: those already tripped stay so, the sources of the others fire in one cycle (R245), and each is reported. -/
def haltTrips (d : Dev) (js : List Nat) : Dev :=
  let new := js.filter fun j => !d.halter.trip.getLsbD j
  new.foldl tripEvent (fireSources (new.foldl tripMark d) (new.map (372 + ·)))

/-- One output trips. -/
def haltTrip (d : Dev) (j : Nat) : Dev := haltTrips d [j]

/-- Trips that no input holds any more end, where LATCH is 0 and FORCE did not make them (R248, R254). -/
def haltSettle (d : Dev) : Dev :=
  updHalt d fun h => (List.range 8).foldl (fun (h : Halter) j =>
    if h.trip.getLsbD j && !(haltMap h j).latch && !h.forced.getLsbD j && !h.bad.getLsbD j && haltActive h j == 0 then
      { h with trip := setBit h.trip j false }
    else h) h

/-- The outputs that inputs trip by becoming active. -/
def haltRisen (h : Halter) (new : BitVec 8) : List Nat := (List.range 8).filter fun j => (haltMap h j).ins &&& new != 0

/-- The inputs the map saw have changed from `old`: newly active ones trip, then trips that nothing holds end. -/
def haltFollow (old : BitVec 8) (d : Dev) : Dev :=
  haltSettle (haltTrips d (haltRisen d.halter (haltInputs d.halter &&& ~~~old)))

/-- A change of the halter map that may change the inputs it sees. -/
def haltChange (d : Dev) (f : Halter → Halter) : Dev := haltFollow (haltInputs d.halter) (updHalt d f)

end Sys2Proof.Machine
end

