-- ==== Sys2Proof/Machine/Units.lean ====
section
/-! DEFINITION. Requests to units and the reset of each class of unit (spec/04 R68, R77 to R85, R435). -/
namespace Sys2Proof.Machine

/-! Slots of the ration scheduler as other chapters reach them. -/

/-- Slot `s` of a pen. -/
def slotOf (k : Pen) (s : Nat) : Slot := tget k.slots Slot.reset s

/-- Changes a slot of a pen. -/
def updSlot (d : Dev) (p s : Nat) (f : Slot → Slot) : Dev :=
  d.updPen p fun k => { k with slots := tset k.slots Slot.reset s (f (slotOf k s)) }

/-- Saturates a balance at the ends of its 22 bits (spec/10 R212, R213). -/
def clampBal (b : Int) : Int := if b < -1048576 then -1048576 else if 1048575 < b then 1048575 else b

/-- One RU in the units of the charges, 2^-24 RU (log 25). -/
def ruFine : Nat := 16777216

/-- Debits an account in units of 2^-24 RU, the fraction carried on (spec/10 R213, R214). -/
def debitFine (r : Rat) (x : Int) : Rat :=
  let t := (r.accFrac : Int) + x
  { r with bal := clampBal (r.bal - t / (ruFine : Int)), accFrac := (t % (ruFine : Int)).toNat }

/-- The unused part of a slot's reservation returns to B (spec/10 R221). -/
def slotSettle (d : Dev) (p s : Nat) : Dev :=
  let left := (slotOf (d.pen p) s).reserved
  updRat (updSlot d p s fun x => { x with reserved := 0 }) p fun r => debitFine r (-(left : Int))

/-- The running task gives up its core: the unused part of its reservation returns to B (spec/10 R221). -/
def slotRelease (d : Dev) (p s : Nat) (ready : Bool) : Dev :=
  slotSettle (updSlot d p s fun x => { x with run := false, ready := ready, core := 0, woke := false }) p s

/-! Containment. -/

/-- The unit that contains a unit (spec/04 R75). -/
def containerOf (d : Dev) (u : UnitId) : Option UnitId :=
  match u with
  | .core n => some (penU (penOf n.val))
  | .tile n => some (.pen n)
  | .fold _ => none
  | u => (d.owner u).bind fun f => if (contents d (foldU f)).contains u then some (foldU f) else none

/-- Whether the container of a unit, or its container, is being reset. -/
def containerResetting (d : Dev) (u : UnitId) : Bool :=
  match containerOf d u with
  | none => false
  | some c => (d.unit c).resetting || (match containerOf d c with | none => false | some e => (d.unit e).resetting)

/-- Whether a fold reset is under way (spec/04 R80, R83). -/
def foldResetRunning (d : Dev) : Bool := (List.finRange 8).any fun f => (d.unit (.fold f)).resetting

/-! What a reset of each class clears (spec/04 R78, R79). -/

/-- A core stops: its unissued stores are discarded and counted, the slot of a Drove task that runs, and of one
that has been handed over, returns not ready with its reservation (R79, spec/10 R221, R230). -/
def coreStop (d : Dev) (c : Nat) : Dev :=
  let k := d.core c
  let lost := (k.sb.filter fun e => !e.issued).length
  let d := tileCutoff d c
  let d := match k.slot with
    | some s => slotRelease d (penOf c) s false
    | none => d
  let d := match k.next with
    | some t => slotRelease d (penOf c) t.slot false
    | none => d
  let d := d.updCore c fun k =>
    { k with sb := k.sb.filter (·.issued), sblost := lost, loads := [], tileWait := none, slot := none, next := none,
             waiting := false }
  let r := d.unit (coreU c)
  d.setUnit (coreU c) { r with sb := lost }

/-- The content of a core after its reset: in Drove no window is resident (spec/05 R120, spec/07 R160). -/
def coreFresh (k : Core) (tether : Bool) (scope : Nat) : Core :=
  { Core.reset with
    banks := List.replicate 8 (if tether then Bank.empty else { Bank.empty with wn := 0 }),
    sb := k.sb, sblost := k.sblost, rstScope := scope, rstRead := true, keeper := k.keeper, race := k.race, lost := k.lost,
    newRec := k.newRec, mask := k.mask, cnt := k.cnt }

/-- A core starts in Tether from cell 0 of its vector table; a refused vector fetch is a machine check (spec/07 R159, R160). -/
def tetherStart (d : Dev) (c : Nat) : Dev :=
  let a := absAddr c (d.pen (penOf c)).tvec.toNat
  let f := d.foldOfCore c
  match memCheck d c (d.core c).priv f a 4 .r with
  | some _ => causesCheck d (coreU c) 0 (toWord a)
  | none =>
    match hwCell d a ("core" ++ toString c) (coreU c) with
    | (d, none) => causesCheck d (coreU c) 0 (toWord a)
    | (d, some v) => if bitOf v 0 then causesCheck d (coreU c) 0 (toWord a) else d.updCore c fun k => { k with pc := v }

/-- The state a core's reset ends in: Tether runs, Drove waits for dispatch, a pen without a personality stays OFF. -/
def coreEndState (d : Dev) (c : Nat) : UState :=
  match (d.pen (penOf c)).pers with
  | none => .off
  | some true => .active
  | some false => .idle

/-- The owner of a core's tile context: the Tether level, one for all levels where no areas are set, or the Drove slot
(spec/15 R332, R333). -/
def tileOwner (d : Dev) (c : Nat) : Option Nat :=
  let k := d.core c
  match (d.pen (penOf c)).pers with
  | some true => some (if bitOf (lget (d.pen (penOf c)).te.ttxb 0 (c % 4)) 0 then k.lvl else 0)
  | some false => k.slot
  | none => none

/-- A reset of a tile engine (spec/15 R340). -/
def tileReset (d : Dev) (t : Nat) : Dev :=
  let d := (List.range 4).foldl (fun d i => tileCutoff d (4 * t + i)) d
  let d := (List.range 4).foldl (fun d i =>
    d.updCore (4 * t + i) fun k => { k with banks := k.banks.map fun b => { b with tflg := 0 } }) d
  let ctxs := (List.range 4).map fun i => { TileCtx.reset with holder := tileOwner d (4 * t + i) }
  d.updPen t fun k => { k with te := { Tile.reset with ctxs := ctxs } }

/-- Slot 0 as BOOT creates it (spec/10 R230). -/
def bootSlot (tsb : Word) : Slot :=
  { Slot.reset with pri := 31, cls := 0, valid := true, ready := true, cost := 0, tsb := tsb }

/-- Slots and bindings invalid; with BOOT.EN slot 0 is created and the dispatcher starts (spec/10 R230). -/
def ratReset (k : Pen) : Pen :=
  let en := bitOf k.rat.boot 0 && k.pers == some false
  { k with
    slots := if en then tset [] Slot.reset 0 (bootSlot (k.rat.boot &&& 0xFFFFFF80)) else [], binds := [],
    rr := List.replicate 32 0,
    rat := { k.rat with run := en, slice := 0, refused := false, overflows := 0, faults := 0 } }

/-- What of a pen's own registers its reset clears (spec/08 R184, spec/09 R208, spec/10 R230, spec/11 R255). -/
def penClear (d : Dev) (p : Nat) : Dev :=
  let d := (List.range 4).foldl (fun d i =>
    d.updCore (4 * p + i) fun k => { k with race := 0, lost := 0, newRec := 0, mask := 0, cnt := List.replicate 8 0 }) d
  d.updPen p fun k =>
    ratReset { k with gtb := 0, exv := 0, exctl := 0, excTotal := 0, excDf := 0, excLast := 0, pend := 0, deliv := 0, mask := 0,
                      persRefused := false, released := true, cs := { k.cs with repairs := 0, usepar := 0, weak := 0 } }

/-- A reset of a fold's slice of the event router; it ends a storm (spec/11 R246, R255). -/
def sliceReset (d : Dev) (f : Nat) : Dev :=
  let d := d.updSlice f fun s =>
    { s with held := 0, refused := false, cnt := 0, hcnt := 0, drop := 0, tokens := s.depth }
  let d := calmCheck d f
  (List.range 8).foldl (fun d p =>
    if unitPresent d.variant (penU p) && (d.pen p).fold == f then
      let d := d.updPen p fun k => { k with pend := 0, deliv := 0, mask := 0 }
      (List.range 4).foldl (fun d i => d.updCore (4 * p + i) fun k => { k with mask := 0, newRec := 0 }) d
    else d) d

/-- A reset of a DMA channel: OWN is kept, the residue counted as lost (spec/14 R313). -/
def chanReset (d : Dev) (c : Nat) : Dev :=
  let k := d.chan c
  let d := match k.buf with
    | some b => if (tfind d.pool.tags b).isSome then poolReturn d b else d
    | none => d
  let lost := satAdd k.cntReslost k.resid.length 255
  (dmaCutoff d c).updChan c fun k => { Channel.reset with own := k.own, cntReslost := lost }

/-- A reset of a management port: 115200 8N1, no session (spec/03 R57, R60, R63). -/
def mgReset (d : Dev) (p : MgPort) : Dev :=
  d.updMg p fun k => { Console.reset with ready := k.ready, tx := k.tx, evq := k.evq, evCount := k.evCount, lostPend := k.lostPend }

/-- What stops at once when a reset of one unit begins. -/
def unitStop (d : Dev) (u : UnitId) : Dev :=
  match u with
  | .core n => coreStop d n.val
  | .tile n => tileStop d n.val
  | .dma n => dmaQuiesce d n.val
  | .fold n =>
    let d := match d.golden.staged with
      | some s => if s.fold == n.val then ucodeCommit d else d
      | none => d
    pwmFoldHold (poolReturnFold d n.val) n.val
  | .t1s n => portAbandon d n.val
  | .can n => portAbandon d (4 + n.val)
  | .gbe n => portAbandon d (8 + n.val)
  | .uart n => portAbandon d (10 + n.val)
  | _ => d

/-- What a reset of one unit clears, at its end. -/
def unitClear (d : Dev) (u : UnitId) (scope : Nat) : Dev :=
  match u with
  | .core n => d.updCore n.val fun k => coreFresh k (d.tether n.val) scope
  | .pen n => penClear d n.val
  | .fold _ => d
  | .tile n => tileReset d n.val
  | .dma n => chanReset d n.val
  | .t1s n => portReset d n.val
  | .can n => portReset d (4 + n.val)
  | .gbe n => portReset d (8 + n.val)
  | .uart n => portReset d (10 + n.val)
  | .mg p => mgReset d p
  | .afe => { d with afe := { Afe.reset with own := d.afe.own } }
  | .pwm n => d.updPwm n.val fun k => { Pwm.reset with own := k.own, safe := k.safe, oe := k.oe }
  | .gpio => { d with gpio := { Gpio.reset with own := d.gpio.own } }
  | .ptab => { d with ptab := Ptab.reset }
  | .evr n => sliceReset d n.val
  | .pmu | .halt => d

/-- The state a reset of a unit ends in (spec/04 R79). Of a fold without a configured pen R79 gives none: it returns to the state it was
in (DESIGN CHOICE, log 93). -/
def resetEndState (d : Dev) (u : UnitId) : UState :=
  match u with
  | .core n => coreEndState d n.val
  | .pen n => if (d.pen n.val).pers.isNone then .off else if busyInside d u then .active else .idle
  | .fold n =>
    if busyInside d u then .active
    else if (List.finRange 8).any fun p => (d.pen p.val).fold == n.val && (d.unit (.pen p)).st == .idle then .idle
    else (d.unit (.fold n)).prior
  | .tile _ | .gpio | .ptab | .evr _ | .mg _ => .idle
  | .pmu | .halt => .idle
  | _ => .off

/-- The causes a reset leaves: SHED, and CLOCK while the fallback lasts (R74). -/
def keptCauses (d : Dev) (r : UnitRec) : BitVec 6 :=
  r.fcause &&& (causeBit .shed ||| (if d.pmu.fallback then causeBit .clock else 0))

/-- The end of the reset of one unit: its registers, its state, its generation (R74, R78, R79). -/
def resetOne (d : Dev) (u : UnitId) (scope : Nat) : Dev :=
  if (d.unit u).st == .absent then d else
  let d := unitClear d u scope
  let r := d.unit u
  let e := resetEndState d u
  let kept := keptCauses d r
  let s := if kept == 0 then e else .fenced
  let d := { d with disOrder := d.disOrder.filter (· != unitCode u) }
  let d := d.setUnit u { r with
    st := s, prior := e, fcause := kept, gen := r.gen + 1, sh := s, shBad := false, regDiff := [], dis := false, disMgmt := none,
    disCfg := false, resetting := false, held := [] }
  let d := match u with
    | .core n => if s == .active then tetherStart d n.val else d
    | _ => d
  followUp d u

/-- The scope number of CORE.RSTINFO (spec/04 R85). -/
def scopeOf (u : UnitId) : Nat := match u with | .core _ => 0 | .pen _ => 1 | .fold _ => 2 | _ => 0

/-- The units a reset of `u` works through at its end: pens with their cores and tile engine, other contents, then the unit. A pen's
control store is loaded before its cores start. -/
def resetOrder (d : Dev) (u : UnitId) : List UnitId :=
  (contents d u).flatMap (fun c => contents d c ++ [c]) ++ [u]

/-- The discarded store-buffer entries summed over the cores a reset reaches (R78); none where it reaches no core class. -/
def resetSb (d : Dev) (u : UnitId) : Option Nat :=
  match u with
  | .core _ | .pen _ | .fold _ =>
    some ((withContents d u).map fun x => match x with | .core n => (d.core n.val).sblost | _ => 0).sum
  | _ => none

/-- The pens a reset reloads. -/
def resetPens (d : Dev) (u : UnitId) : List Nat :=
  (withContents d u).filterMap fun x => match x with | .pen n => some n.val | _ => none

/-- A reset of a unit begins: it and its contents stop and take no request (R78, R80, R82). -/
def resetStart (d : Dev) (u : UnitId) : Dev :=
  let d := (resetPens d u).foldl (fun d p => d.updPen p fun k => { k with persLoad := some k.persNext }) d
  (withContents d u).foldl (fun d x =>
    if (d.unit x).st == .absent then d
    else
      let d := unitStop d x
      d.setUnit x { d.unit x with resetting := true }) d

/-- A reset of a unit completes: control stores reload, registers and states are set, `!RESET` is raised, held fences apply
(R78 to R83). -/
def resetFinish (d : Dev) (u : UnitId) : Dev :=
  let all := resetOrder d u
  let sb := resetSb d u
  let d := (resetPens d u).foldl csLoad d
  let held := all.filterMap fun x => let h := (d.unit x).held; if h.isEmpty then none else some (x, h)
  let d := all.foldl (fun d x => resetOne d x (scopeOf u)) d
  let d := emit d (some .state) (some u) ("!RESET " ++ unitName u ++ " gen " ++ toString (d.unit u).gen.toNat ++
    (match sb with | some n => " sb " ++ toString n | none => ""))
  held.foldl (fun d x => x.2.foldl (fun d h => fenceHeld d x.1 h) d) d

/-! Requests (R435, R77, R82 to R84). -/

/-- What keeps a unit from being turned on: a port, channel or AFE that no fold owns (spec/14 R293, spec/16 R345, spec/17 R373). -/
def onGuard (d : Dev) (u : UnitId) : Bool :=
  match u with
  | .dma _ | .t1s _ | .gbe _ | .can _ | .uart _ | .afe => (d.owner u).isSome
  | _ => true

/-- Whether a port is able to carry frames (spec/16 R346), and an AFE has a channel that converts. -/
def portAble (d : Dev) (u : UnitId) : Bool :=
  match u with
  | .t1s n => let k := d.port n.val; !bitOf k.cfg 0 || k.plcaOk
  | .can n => let k := d.port (4 + n.val); k.integrated && k.errState != 2
  | .gbe n => let k := d.port (8 + n.val); k.link && !k.hdx
  | .uart _ => true
  | .afe => d.afe.chans.any fun c => c.mode != 0
  | _ => false

/-- A port or AFE that is on follows its ability as part of a request that has its own generation step (R68, R69; spec/16 R346). -/
def quietMove (d : Dev) (u : UnitId) : Dev :=
  let r := d.unit u
  let s : UState := if portAble d u then .active else .idle
  if r.st == .idle || r.st == .active then d.setUnit u { r with st := s, prior := s, sh := s } else d

/-- A unit that has been turned on becomes ACTIVE at once where it has work. -/
def startWork (d : Dev) (u : UnitId) : Dev :=
  match u with
  | .t1s _ | .can _ | .gbe _ | .uart _ | .afe => quietMove d u
  | _ => d

/-- What a unit's own state forgets when it is turned on (spec/16 R354, R357; spec/17 R375, R390). -/
def onClear (d : Dev) (u : UnitId) : Dev :=
  match u with
  | .can n => d.updPort (4 + n.val) fun k => { k with integrated := false, errState := 0, tec := 0, rec_ := 0 }
  | .t1s n => d.updPort n.val fun k => { k with plcaOk := false }
  | .afe => { d with afe := { d.afe with chans := d.afe.chans.map fun c => { c with discard := 4, old := none } } }
  | .pwm n => d.updPwm n.val fun k => { k with ballf := false, mism := 0, running := false }
  | _ => d

/-- REQ ON and `unit <u> on`. -/
def reqOn (u : UnitId) (d : Dev) : Dev × RCode :=
  match (d.unit u).st with
  | .absent => (d, .absent)
  | .fenced => (d, .fenced)
  | .idle | .active => (d, .ok)
  | .fault => (d, .invalid)
  | .off =>
    if onGuard d u then
      let d := onClear d u
      (startWork (setUState d u .idle) u, .ok)
    else (d, .invalid)

/-- REQ OFF and `unit <u> off`. -/
def reqOff (u : UnitId) (d : Dev) : Dev × RCode :=
  match (d.unit u).st with
  | .absent => (d, .absent)
  | .fenced => (d, .fenced)
  | .off => (d, .ok)
  | .active => (d, .busy)
  | .idle | .fault => (setUState d u .off, .ok)

/-- REQ FENCE and `fence <u>`; a unit that is shed takes no command (R27). -/
def reqFence (u : UnitId) (d : Dev) : Dev × RCode := if hasCause (d.unit u) .shed then (d, .fenced) else (fence d u .cmd, .ok)

/-- REQ UNFENCE and `unfence <u>`. -/
def reqUnfence (u : UnitId) (d : Dev) : Dev × RCode :=
  if hasCause (d.unit u) .cmd then (unfence d u .cmd, .ok) else (d, .invalid)

/-- Whether a reset of a pen or fold would use a base image that waits for its reload (spec/08 R183). -/
def resetImageBad (d : Dev) (u : UnitId) : Bool :=
  (resetPens d u).any fun p =>
    let k := d.pen p
    lget d.golden.baseBad false (if k.persNext then 1 else 0) ||
    (lget d.golden.active false (ovlSlot k.fold k.persNext) && lget d.golden.ovlBad false (ovlSlot k.fold k.persNext))

/-- REQ RESET and `reset <u>`: refused for the PMU and the halter map, where it would reach a shed unit, and while a golden image
waits for its reload (R27, R79, R83, spec/08 R183). -/
def reqReset (u : UnitId) (d : Dev) : Dev × RCode :=
  match u with
  | .pmu | .halt => (d, .invalid)
  | _ =>
    if (withContents d u).any fun x => hasCause (d.unit x) .shed then (d, .power)
    else if resetImageBad d u then (d, .busy)
    else if (withContents d u).any fun x => (d.unit x).resetting then (d, .busy)
    else (resetStart d u, .ok)

/-- REQ ADOPT: the state and, for `mgmt`, each register that differs take the shadow's values; DISAGREE is cleared (R77, R84). -/
def adoptWith (u : UnitId) (mgmt : Bool) (d : Dev) : Dev × RCode :=
  let r := d.unit u
  if hasCause r .shed then (d, .power)
  else if !r.dis then (d, .invalid)
  else if mgmt && r.disMgmt.isNone then (d, .invalid)
  else
    let chosen := if mgmt then r.disMgmt.getD r.disData else r.disData
    let prior := if chosen == .fenced || chosen == .absent then r.prior else chosen
    let left := r.fcause &&& ~~~(causeBit .disagree)
    let s := if left == 0 then prior else .fenced
    let d := { d with disOrder := d.disOrder.filter (· != unitCode u) }
    let d := if mgmt then r.regDiff.foldl (fun d x => regSet d u x.1.toNat x.2) d else d
    let d := d.setUnit u { d.unit u with
      dis := false, disMgmt := none, disCfg := false, regDiff := [], shBad := false, fcause := left, prior := prior, st := s, sh := s,
      gen := r.gen + 1 }
    if left != 0 then (d, .ok)
    else
      let d := emit d (some .fence) (some u) ("!UNFENCE " ++ unitName u)
      let d := match u with
        | .pen p => redeliver d p.val
        | _ => d
      let d := (contents d u).foldl (fun d c => if hasCause (d.unit c) .parent then unfenceN 3 d c (causeBit .parent) else d) d
      (followUp (settle d u) u, .ok)

/-- The requests of STATE.REQ.OP. -/
inductive UOp where
  | on | off | fence | unfence | reset | adoptMgmt | adoptData
deriving DecidableEq, Repr

/-- The name of a request in the arbiter's log. -/
def uopName (o : UOp) : String :=
  match o with
  | .on => "ON" | .off => "OFF" | .fence => "FENCE" | .unfence => "UNFENCE" | .reset => "RESET" | .adoptMgmt => "ADOPT MGMT"
  | .adoptData => "ADOPT DATA"

/-- The effect of a request that the arbiter has let through. -/
def uopRun (o : UOp) (u : UnitId) (d : Dev) : Dev × RCode :=
  match o with
  | .on => reqOn u d
  | .off => reqOff u d
  | .fence => reqFence u d
  | .unfence => reqUnfence u d
  | .reset => reqReset u d
  | .adoptMgmt => adoptWith u true d
  | .adoptData => adoptWith u false d

/-- A request to a unit, from any source (R70). -/
def unitRequest (d : Dev) (src : String) (u : UnitId) (o : UOp) (gen : Option Nat) : Dev × RCode :=
  request d src u (uopName o) gen (uopRun o u)

/-! STATE (R88). -/

/-- STATE.RESULT after a decision. -/
def resultWord (d : Dev) (u : UnitId) (c : RCode) : Word := toWord (rcodeNum c + put 1 4 + put (d.unit u).gen.toNat 16)

/-- The bank of STATE.RESULT of a requester: each core its own, one for the Bellwether (and for sessions, log 11). -/
def resultBank (q : Req) : Nat := q.core.getD 32

/-- Stores a result in the requester's bank. -/
def setResult (d : Dev) (q : Req) (v : Word) : Dev :=
  { d with stateResult := tset d.stateResult 0 (resultBank q) v }

/-- Sets the REFUSED bit of a unit that has one (R71; of a pen PERSSEL.REFUSED, log 94). -/
def setRefused (d : Dev) (u : UnitId) : Dev :=
  let port (i : Nat) : Dev := d.updPort i fun k => { k with refused := true }
  match u with
  | .pmu => { d with pmu := { d.pmu with refused := true } }
  | .pen p => d.updPen p.val fun k => { k with persRefused := true }
  | .dma _ => { d with dma := { d.dma with refused := true } }
  | .fold _ => { d with myc := { d.myc with refused := true } }
  | .evr f => d.updSlice f.val fun s => { s with refused := true }
  | .halt => { d with halter := { d.halter with refused := true } }
  | .t1s n => port n.val
  | .can n => port (4 + n.val)
  | .gbe n => port (8 + n.val)
  | .uart n => port (10 + n.val)
  | .afe => { d with afe := { d.afe with refused := true } }
  | .pwm n => d.updPwm n.val fun k => { k with refused := true }
  | _ => d

/-- A write to STATE.REQ for a unit that is named: F code of the owning fold, K and M (R88). -/
def stateReq (d : Dev) (q : Req) (u : UnitId) (o : UOp) (gen : Option Nat) : Dev × WRes :=
  if q.priv == .u then denied d
  else if !isK q && (d.owner u).isNone || !isK q && d.owner u != q.fold then
    (setResult d q (resultWord d u .scope), .refused .scope)
  else
    let (d, c) := unitRequest d q.src u o gen
    let d := if c == .stale then setRefused d u else d
    (setResult d q (resultWord d u c), if c == .ok then .done else .refused c)

/-- The code of a request in STATE.REQ.OP. -/
def uopOfCode (n : Nat) : Option UOp :=
  match n with
  | 1 => some .on | 2 => some .off | 3 => some .fence | 4 => some .unfence | 5 => some .reset | 6 => some .adoptMgmt
  | 7 => some .adoptData | _ => none

/-- A write of a word to STATE.REQ; a unit ID that names no unit is absent. -/
def stateReqWord (d : Dev) (q : Req) (v : Word) : Dev × WRes :=
  if q.priv == .u then denied d else
  match uopOfCode (fld v 12 3) with
  | none => ignored d
  | some o =>
    match unitOfCode (fld v 0 12) with
    | none => (setResult d q (toWord (rcodeNum .absent + put 1 4)), .refused .absent)
    | some u => stateReq d q u o (if bitOf v 15 then none else some (fld v 16 16))

/-- STATE.CUR of a unit. -/
def stateCur (d : Dev) (u : UnitId) : Word :=
  let r := d.unit u
  toWord (stateCode (d.unit u).st + put r.fcause.toNat 8 + put r.gen.toNat 16)

/-- STATE.DIS of a unit. -/
def stateDis (d : Dev) (u : UnitId) : Word :=
  let r := d.unit u
  if r.dis then
    toWord ((match r.disMgmt with | none => 7 | some s => stateCode s) + put (stateCode r.disData) 4 + putB r.disCfg 7 + putB true 8)
  else 0

/-- A read of the STATE unit: any level (R88). -/
def stateRead (d : Dev) (q : Req) (off : Nat) : Dev × RRes :=
  let sel := unitOfCode d.stateSel
  let v : Word := match off with
    | 0x0 => toWord d.stateSel
    | 0x4 => match sel with | some u => stateCur d u | none => 0
    | 0xC => tget d.stateResult 0 (resultBank q)
    | 0x10 => match sel with | some u => stateDis d u | none => 0
    | 0x14 => toWord (min d.disOrder.length 255 + put (d.disOrder.headD 0) 16)
    | _ => 0
  (d, .ok v)

/-- A write to the STATE unit. -/
def stateWrite (d : Dev) (q : Req) (off : Nat) (v : Word) : Dev × WRes :=
  if q.priv == .u then denied d
  else match off with
    | 0x0 => ({ d with stateSel := fld v 0 12 }, .done)
    | 0x8 => stateReqWord d q v
    | _ => ignored d

end Sys2Proof.Machine
end

