-- ==== Sys2Proof/Machine/PmuCore.lean ====
section
/-! DEFINITION. Device resets, the shedding ladder, power states, wakes and clock failures (spec/02, spec/13 R284, R285, spec/19
R419, R439). Voltages are in hundredths of a volt, temperatures in quarters of a degree. -/
namespace Sys2Proof.Machine

/-! Where the device stands. -/

/-- The clocks of the fabric and the ports run (spec/02 R23). -/
def Dev.clocked (d : Dev) : Bool :=
  (match d.phase with | .reset _ => false | _ => true) && (d.pmu.cur == .run || d.pmu.cur == .slow || d.pmu.cur == .idle)

/-- The core clocks run. -/
def Dev.coresClocked (d : Dev) : Bool := d.clocked && d.pmu.cur != .idle

/-- Whether a step is applied. -/
def stepApplied (d : Dev) (k : Fin 5) : Bool := d.pmu.applied.getLsbD k.val

/-- The falling threshold of a step (R26). -/
def shedThreshold (k : Fin 5) : Nat :=
  match k with | 0 => 720 | 1 => 640 | 2 => 560 | 3 => 500 | 4 => 450

/-- The restore level of a step (R26). -/
def restoreLevel (k : Fin 5) : Nat :=
  match k with | 0 => 750 | 1 => 670 | 2 => 590 | 3 => 530 | 4 => 480

/-- The name of a step. -/
def stepName (k : Fin 5) : String := "S" ++ toString (k.val + 1)

/-- The name of a power state. -/
def pstateName (s : PState) : String :=
  match s with
  | .run => "run" | .slow => "slow" | .idle => "idle" | .retain => "retain" | .spore => "spore" | .off => "off"

/-- The code of a power state (R438). -/
def pstateCode (s : PState) : Nat :=
  match s with | .run => 0 | .slow => 1 | .idle => 2 | .retain => 3 | .spore => 4 | .off => 5

/-- The highest real sensor reading. -/
def realTj (d : Dev) : Int := d.pmu.temps.foldl (fun m t => max m t.toInt) (-2048)

/-- The sensor maximum as warning, trip and eligibility see it (R42). -/
def seenTj (d : Dev) : Int := match d.pmu.thermSim with | some t => t.toInt | none => realTj d

/-- Whether a step has a cause. -/
def hasShedCause (m : Pmu) (k : Fin 5) (c : ShedCause) : Bool :=
  match c with
  | .vin => m.vcause.getLsbD k.val | .therm => m.tcause.getLsbD k.val | .sim => m.scause.getLsbD k.val

/-- Whether every cause of a step is clear at a voltage and temperature (R28). -/
def causesClear (d : Dev) (k : Fin 5) (vin : Nat) (tj : Int) : Bool :=
  (!hasShedCause d.pmu k .vin || restoreLevel k ≤ vin) && (!hasShedCause d.pmu k .therm || tj ≤ 560) && !hasShedCause d.pmu k .sim

/-- A step whose cause stands again is no longer eligible: VIN has not stayed at its restore level, or Tj at 140 degrees (R28). -/
def eligWatch (d : Dev) : Dev :=
  updPmu d fun m => { m with elig := (List.finRange 5).foldl (fun e k =>
    if causesClear d k m.vinNow.toNat (seenTj d) then e else setBit e k.val false) m.elig }

/-- Records a reading of VIN. -/
def setVin (d : Dev) (vin : Nat) : Dev :=
  let v : Half := BitVec.ofNat 16 (min vin 65535)
  eligWatch (updPmu d fun m => { m with vinNow := v, vinLow := if v.toNat < m.vinLow.toNat then v else m.vinLow })

/-- Follows Tj in PEAK, and where it stands below a level of R32 in the level's flag. -/
def notePeak (d : Dev) : Dev :=
  let t := seenTj d
  eligWatch (updPmu d fun m =>
    { m with peak := if m.peak.toInt < t then BitVec.ofInt 12 t else m.peak, atWarn := m.atWarn && 540 ≤ t, atTrip := m.atTrip && 600 ≤ t })

/-- Records the reading of one sensor. -/
def setTemp (d : Dev) (k : Nat) (t : Int) : Dev :=
  notePeak (updPmu d fun m => { m with temps := lset m.temps k (BitVec.ofInt 12 t) })

/-- Every sensor has come down to a temperature or below. -/
def coolTo (d : Dev) (t : Int) : Dev :=
  notePeak (updPmu d fun m => { m with temps := m.temps.map fun x => if t < x.toInt then BitVec.ofInt 12 t else x })

/-! Device resets (R22, R34, R40, R436; spec/11 R247, R249; spec/13 R289). -/

/-- The halter map through a reset (spec/11 R249, R257, R34). -/
def halterAtReset (h : Halter) (c : RstCause) : Halter :=
  let driven := match c with | .pin | .cmd | .spore => true | _ => false
  match c with
  | .spore => { h with sims := List.replicate 8 none, driven := driven }
  | _ => { Halter.reset with level := h.level, driven := driven }

/-- The bits of some steps. -/
def stepBits (ks : List (Fin 5)) : BitVec 5 := ks.foldl (fun a k => setBit a k.val true) 0

/-- The PMU through a reset (R40, R436); the steps recorded in SPORE stay recorded until the clocks return (R37). -/
def pmuAtReset (m : Pmu) (c : RstCause) : Pmu :=
  let por := c == .por
  let rec_ : BitVec 5 := if c == .spore then stepBits m.deferred else 0
  { Pmu.reset with
    wakeTarget := if c == .spore then m.wakeTarget else .run, vinNow := m.vinNow, vinLow := if por then m.vinNow else m.vinLow,
    temps := m.temps, peak := m.peak, rtcSec := if por then 0 else m.rtcSec, log := if por then [] else m.log, rstCause := c,
    retValid := !por, fallback := m.fallback && c == .spore, refOk := m.refOk, vio := m.vio, stopOv := m.stopOv, stopOt := m.stopOt,
    deferred := if c == .spore then m.deferred else [], applied := rec_, elig := m.elig &&& rec_, vcause := m.vcause &&& rec_,
    tcause := m.tcause &&& rec_ }

/-- What of memory a device reset leaves: retention RAM while its content is valid (R40, spec/13 R289). -/
def memAtReset (mem : List Host.Cell) (c : RstCause) : List Host.Cell :=
  if c == .por then [] else mem.filter fun x => 0x19000000 ≤ x.1 && x.1 < 0x19004000

/-- The flipped check bits a device reset leaves: those of the retention RAM it does not write (spec/13 R289). -/
def eccAtReset (ecc : List (Nat × Nat)) (c : RstCause) : List (Nat × Nat) :=
  if c == .por then [] else ecc.filter fun x => 0x19000000 ≤ x.1 && x.1 < 0x19004000

/-- A device reset of a cause: everything takes its reset value but for what R40, R436, spec/11 R247, R249 and spec/18 R397 keep. The
simulated inputs of the halter map end, and it follows its balls (spec/11 R257). -/
def deviceReset (d : Dev) (c : RstCause) : Dev :=
  let r := { Dev.reset with
    variant := d.variant, step := d.step, phase := .reset c, free := d.free, jtag := d.jtag && c != .por && c != .bor,
    mem := memAtReset d.mem c, myc := { Myc.reset with ecc := eccAtReset d.myc.ecc c }, flash := d.flash, cs1 := d.cs1, pmu := pmuAtReset d.pmu c,
    mga := { Console.reset with tx := d.mga.tx }, mgb := { Console.reset with tx := d.mgb.tx },
    halter := halterAtReset d.halter c, pins := d.pins,
    evr := { Evr.reset with latch := if c == .spore then d.evr.latch else 0 } }
  let r := if c == .spore then haltFollow (haltInputs d.halter) r else r
  if c == .por then r else
  pmuLog r ("RESET " ++ (match c with
    | .por => "POR" | .bor => "BOR" | .ovr => "OVR" | .otr => "OTR" | .pin => "PIN" | .spore => "SPORE" | .cmd => "CMD"))

/-! Units that a step sheds (R26, R30, R39). -/

/-- Whether the last-watch pen is `p`. -/
def isLastWatch (d : Dev) (p : Nat) : Bool := bitOf d.pmu.lwatch 7 && fld d.pmu.lwatch 0 3 == p

/-- Whether DMA channel `c` is kept. -/
def dmaKept (d : Dev) (c : Nat) : Bool := if c < 32 then bitOf d.pmu.keepDmaLo c else bitOf d.pmu.keepDmaHi (c - 32)

/-- The personality of a pen as a step sees it: of a pen whose reset loads it again, the one it loads (spec/08 R180). -/
def persSeen (d : Dev) (p : Nat) : Option Bool :=
  let k := d.pen p
  if (d.unit (penU p)).resetting && k.pers.isSome then some (k.persLoad.getD k.persNext) else k.pers

/-- The loaded Drove pens. -/
def drovePens (d : Dev) : List Nat := (List.range 8).filter fun p => persSeen d p == some false

/-- The units of this variant that a step sheds; at S5 every unit but those R26 keeps. -/
def shedTargets (d : Dev) (k : Fin 5) : List UnitId :=
  let all := allUnits.filter fun u => unitPresent d.variant u
  all.filter fun u =>
    match k, u with
    | 0, .tile _ | 0, .gbe _ => true
    | 1, .pen p => persSeen d p.val == some false
    | 2, .afe => d.pmu.keepAfe == 0
    | 2, .can n => !bitOf d.pmu.keepPort n.val
    | 2, .t1s n => !bitOf d.pmu.keepPort (8 + n.val)
    | 3, .pen p => persSeen d p.val == some true && !isLastWatch d p.val
    | 3, .dma c => !dmaKept d c.val
    | 3, .uart _ | 3, .mg .mgb => true
    | 4, .halt | 4, .pmu | 4, .mg .mga => false
    | 4, _ => true
    | _, _ => false

/-- Sheds one unit for a step: fenced with cause SHED (R27), which stands until every step that shed the unit is restored. -/
def shedUnit (k : Fin 5) (d : Dev) (u : UnitId) : Dev :=
  if d.pmu.shedUnits.contains (k, u) then d
  else
    let d := if d.pmu.shedUnits.any (·.2 == u) then d else fence d u .shed
    updPmu d fun m => { m with shedUnits := m.shedUnits ++ [(k, u)] }

/-- Sheds the units of a step; S2 freezes the schedulers of Drove pens, S3 the AFE channels that are not kept (R26, spec/10 R228). -/
def shedUnits (d : Dev) (k : Fin 5) : Dev :=
  let d := (shedTargets d k).foldl (shedUnit k) d
  match k with
  | 1 => (drovePens d).foldl (fun d p => updRat d p fun r => { r with frozen := true, paused := true }) d
  | 2 => updPmu d fun m => { m with afeShed := ~~~(m.keepAfe.setWidth 24) }
  | _ => d

/-- A pen that has just been loaded and whose step is applied already is shed at once (R39). -/
def shedAtLoad (d : Dev) (p : Nat) : Dev :=
  match (d.pen p).pers with
  | some false =>
    if stepApplied d 1 then updRat (shedUnit 1 d (penU p)) p fun r => { r with frozen := true, paused := true } else d
  | some true => if stepApplied d 3 && !isLastWatch d p then shedUnit 3 d (penU p) else d
  | none => d

/-! The action of a step (R26, R37, R285). -/

/-- The cores a step halts while it drains: those of Drove pens at S2, of the last-watch pen at S5. -/
def stepCores (d : Dev) (k : Fin 5) : List Nat :=
  match k with
  | 1 => (drovePens d).flatMap fun p => (List.range 4).map (4 * p + ·)
  | 4 => ((List.range 8).filter (isLastWatch d)).flatMap fun p => (List.range 4).map (4 * p + ·)
  | _ => []

/-- Whether every buffer of some cores is empty. -/
def drained (d : Dev) (cs : List Nat) : Bool := cs.all fun c => (d.core c).sb.isEmpty

/-- Copies the S5 save region to retention RAM (R31). -/
def s5Copy (d : Dev) : Dev :=
  let n := fld d.pmu.s5len 0 6 * 256
  d.setByteList 0x19002000 (d.bytes d.pmu.s5base.toNat n)

/-- A step that waits for its action is over: its units are shed and it is applied. -/
def finishStep (d : Dev) (k : Fin 5) : Dev :=
  let d := shedUnits d k
  updPmu d fun m => { m with applied := setBit m.applied k.val true, step := none }

/-- A step's drain is over: S5 goes on to its copy, the others are applied. -/
def stepDrained (d : Dev) (k : Fin 5) : Dev :=
  if k == 4 && fld d.pmu.s5len 0 6 != 0 then updPmu d fun m => { m with step := some (k, .copy) } else finishStep d k

/-- The cores a step sheds that no step holds shed yet: their counts of discarded stores begin anew (spec/13 R292). -/
def newlyShed (d : Dev) (k : Fin 5) : List Nat :=
  (List.range 32).filter fun c =>
    (shedTargets d k).contains (penU (penOf c)) && !d.pmu.shedUnits.any (·.2 == penU (penOf c))

/-- The action of a step begins: the commit window of S1, the drains of S2 and S5 (with the kept units shed inside the drain of S5),
the others at once. -/
def startStep (d : Dev) (k : Fin 5) : Dev :=
  let d := updPmu d fun m => { m with step := some (k, .drain) }
  let d := (newlyShed d k).foldl (fun d c => d.updCore c fun n => { n with shedlost := 0 }) d
  match k with
  | 0 =>
    if (List.range 8).any fun p => (d.pen p).te.op.isSome then updPmu d fun m => { m with step := some (k, .window) }
    else finishStep d k
  | 4 =>
    let kept := (shedTargets d 4).filter fun u =>
      match u with | .afe | .can _ | .t1s _ | .dma _ => true | _ => false
    let d := kept.foldl (shedUnit 4) d
    if drained d (stepCores d k) then stepDrained d k else d
  | _ => if drained d (stepCores d k) then finishStep d k else d

/-- Steps that are due and wait start when nothing holds them back; `n` bounds how many. -/
def runDue (n : Nat) (d : Dev) : Dev :=
  match n with
  | 0 => d
  | n + 1 =>
    if d.pmu.step.isSome || d.pmu.trans.isSome || !d.clocked then d
    else
      match d.pmu.due with
      | [] => d
      | k :: r => runDue n (startStep (updPmu d fun m => { m with due := r }) k)

/-- Whether no tile engine has an operation under way. -/
def noTileOps (d : Dev) : Bool := (List.range 8).all fun p => (d.pen p).te.op.isNone

/-- What goes on when a buffer empties or an operation commits: the step under way, then the steps that wait. -/
def stepProgress (d : Dev) : Dev :=
  let d := match d.pmu.step with
    | some (0, .window) => if noTileOps d then finishStep d 0 else d
    | some (k, .drain) => if drained d (stepCores d k) then stepDrained d k else d
    | _ => d
  runDue 5 d

/-- The name of a cause of a step. -/
def shedCauseName (c : ShedCause) : String := match c with | .vin => "VIN" | .therm => "THERM" | .sim => "SIM"

/-- Records a cause of a step; the step is no longer eligible. -/
def addShedCause (m : Pmu) (k : Fin 5) (c : ShedCause) : Pmu :=
  let m := { m with elig := setBit m.elig k.val false }
  match c with
  | .vin => { m with vcause := setBit m.vcause k.val true }
  | .therm => { m with tcause := setBit m.tcause k.val true }
  | .sim => { m with scause := setBit m.scause k.val true }

/-! The consoles' side of a transition. -/

/-- The port of a command's origin. -/
def viaPort (o : Via) : Option MgPort := match o with | .typed p => some p | .gen p _ => some p | .script => none

/-- The CRC-16/CCITT-FALSE of a list of characters (spec/03 R48). -/
def crc16Step (crc : BitVec 16) (b : Byte) : BitVec 16 :=
  (List.range 8).foldl (fun c _ => if c.getLsbD 15 then (c <<< 1) ^^^ 0x1021 else c <<< 1) (crc ^^^ (b.setWidth 16 <<< 8))
def crc16 (l : List Byte) : BitVec 16 := l.foldl crc16Step 0xFFFF

/-- The bytes of a text. -/
def textBytes (s : String) : List Byte := s.toList.map fun c => BitVec.ofNat 8 c.toNat

/-- A line of a response or event with its CRC (spec/03 R49). -/
def withCrc (s : String) : String := s ++ ";" ++ hexDigits (crc16 (textBytes (s ++ ";"))).toNat 4

/-- The words of a status line (spec/00 R12). -/
def erWord (code : Nat) : String :=
  match code with
  | 10 => "syntax" | 20 => "authorisation" | 30 => "stale generation" | 40 => "busy" | 44 => "absent" | 50 => "fenced"
  | 60 => "power state" | _ => "checksum"

/-- A status: code 0 is ok. -/
structure Status where
  code : Nat
  detail : String
deriving DecidableEq, Repr

/-- The status `ok`. -/
def okS : Status := { code := 0, detail := "" }

/-- An error status. -/
def er (code : Nat) (detail : String := "") : Status := { code := code, detail := detail }

/-- The text of a status line. -/
def statusText (s : Status) : String :=
  if s.code == 0 then "ok"
  else "er " ++ toString s.code ++ " " ++ erWord s.code ++ (if s.detail == "" then "" else ": " ++ s.detail)

/-- The lines of a response in the form of its command (spec/03 R49, R51). -/
def responseLines (o : Via) (data : List String) (s : Status) : List String :=
  match o with
  | .gen _ q =>
    data.map (fun x => withCrc ("#" ++ toString q ++ ":" ++ x)) ++ [withCrc ("#" ++ toString q ++ " " ++ statusText s)]
  | _ => data ++ [statusText s]

/-- Sends lines on a port; a prompt follows a typed command's status line (spec/03 R45). -/
def sendLines (d : Dev) (o : Via) (ls : List String) : Dev :=
  match o with
  | .typed p => d.updMg p fun k => { k with tx := k.tx ++ ls.map .line ++ [.prompt] }
  | .gen p _ => d.updMg p fun k => { k with tx := k.tx ++ ls.map .line }
  | .script => d

/-- Sends the status of a command that waited, and frees its port; a generated command's response is kept (spec/03 R50). -/
def lateStatus (d : Dev) (o : Via) (s : Status) : Dev :=
  let ls := responseLines o [] s
  let d := sendLines d o ls
  match o with
  | .typed p => d.updMg p fun k => { k with busy := none }
  | .gen p q => d.updMg p fun k =>
    { k with busy := none, kept := match k.kept with
      | some (n, t, old) => if n == q then some (n, t, old ++ ls) else some (n, t, old)
      | none => none }
  | .script => d

/-- A transition is abandoned before its entry: its command is answered (R37, R284). -/
def abandonTrans (d : Dev) (code : Nat) : Dev :=
  match d.pmu.trans with
  | none => d
  | some t =>
    let d := updPmu d fun m => { m with trans := none, refused := true }
    match t.origin with
    | .via o => lateStatus d o (er code)
    | .reg => d

/-! A step becomes due (R26, R37). -/

/-- A cause of a step falls due: `!SHED` for the cause; the step is applied, waits for what is under way, or is recorded where the
clocks stand still. -/
def shedDue (c : ShedCause) (d : Dev) (k : Fin 5) : Dev :=
  if hasShedCause d.pmu k c then updPmu d fun m => { m with elig := setBit m.elig k.val false }
  else
    let known := stepApplied d k || d.pmu.due.contains k || (match d.pmu.step with | some (j, _) => j == k | none => false)
    let d := updPmu d fun m => addShedCause m k c
    let d := emit d (some .pwr) none ("!SHED " ++ stepName k ++ " " ++ shedCauseName c)
    let d := pmuLog (fireSource d 356) ("SHED " ++ stepName k ++ " " ++ shedCauseName c)
    if known then d
    else if d.pmu.cur == .retain || d.pmu.cur == .spore then
      let d := updPmu d fun m => { m with applied := setBit m.applied k.val true, deferred := m.deferred ++ [k] }
      if d.pmu.cur == .retain && k == 4 && fld d.pmu.s5len 0 6 != 0 then updPmu d fun m => { m with step := some (k, .copy) } else d
    else
      let d := match d.pmu.trans with
        | some t => if t.stage == .drain then abandonTrans d 60 else d
        | none => d
      runDue 5 (updPmu d fun m => { m with due := m.due ++ [k] })

/-- The steps up to one, in order. -/
def stepsUpTo (k : Fin 5) : List (Fin 5) := (List.finRange 5).filter fun j => j.val ≤ k.val

/-! Restore (R28, R29). -/

/-- A step becomes eligible. -/
def makeEligible (d : Dev) (k : Fin 5) : Dev :=
  if d.pmu.elig.getLsbD k.val || !stepApplied d k then d
  else
    let d := updPmu d fun m => { m with elig := setBit m.elig k.val true }
    let d := fireSource d 357
    emit (pmuLog d ("ELIG " ++ stepName k)) (some .pwr) none ("!ELIG " ++ stepName k)

/-- A pen that was loaded starts as at the release step of boot: its Tether cores from their vectors, its Drove dispatcher where BOOT.EN is
set (spec/10 R230, spec/18 R396). -/
def penRelease (d : Dev) (p : Nat) : Dev :=
  let d := d.updPen p fun k => { k with released := true }
  match (d.pen p).pers with
  | some true =>
    (List.range 4).foldl (fun d i =>
      let c := 4 * p + i
      if (d.unit (coreU c)).st == .idle then
        let d := setUState d (coreU c) .active
        tetherStart d c
      else d) d
  | some false =>
    d.updPen p fun k => if bitOf k.rat.boot 0 then
      { k with slots := tset k.slots Slot.reset 0 (bootSlot (k.rat.boot &&& 0xFFFFFF80)), rat := { k.rat with run := true } } else k
  | none => d

/-- What a restored unit does differently from before it was shed (R29, R39): a port that was ACTIVE is IDLE until it carries frames again,
and a pen that the release step passed over starts as it would have started there. -/
def restoredUnit (d : Dev) (u : UnitId) : Dev :=
  match u with
  | .gbe n => quietMove (d.updPort (8 + n.val) fun k => { k with link := false }) u
  | .can n => quietMove (d.updPort (4 + n.val) fun k => { k with integrated := false }) u
  | .t1s n => if bitOf (d.port n.val).cfg 0 then quietMove (d.updPort n.val fun k => { k with plcaOk := false }) u else d
  | .afe => { d with afe := { d.afe with chans := d.afe.chans.map fun c => { c with discard := 4 } } }
  | .pen p => if (d.pen p.val).released || !d.boot.released || (d.pen p.val).pers.isNone then d else penRelease d p.val
  | _ => d

/-- Discards the first four conversions of some AFE channels (R29). -/
def afeDiscard (d : Dev) (mask : BitVec 24) : Dev :=
  { d with afe := { d.afe with
    chans := d.afe.chans.zipIdx.map fun x => if mask.getLsbD x.2 then { x.1 with discard := 4 } else x.1 } }

/-- Restores one step. -/
def restoreStep (d : Dev) (k : Fin 5) : Dev :=
  let us := d.pmu.shedUnits.filter (·.1 == k)
  let d := updPmu d fun m =>
    { m with applied := setBit m.applied k.val false, elig := setBit m.elig k.val false, vcause := setBit m.vcause k.val false,
             tcause := setBit m.tcause k.val false, scause := setBit m.scause k.val false,
             deferred := m.deferred.filter (· != k), shedUnits := m.shedUnits.filter (·.1 != k) }
  let d := us.foldl (fun d x =>
    if d.pmu.shedUnits.any (·.2 == x.2) then d
    else
      let d := unfenceAs d x.2 .shed
      if (d.unit x.2).st == .fenced then d else restoredUnit d x.2) d
  match k with
  | 1 => (List.range 8).foldl (fun d p => updRat d p fun r => { r with frozen := false }) d
  | 2 => updPmu (afeDiscard d d.pmu.afeShed) fun m => { m with afeShed := 0 }
  | _ => d

/-- The applied steps, deepest first. -/
def appliedDeep (d : Dev) : List (Fin 5) := (List.finRange 5).reverse.filter (stepApplied d)

/-- The steps a restore takes: from the deepest, while they are eligible, down to the shallowest named. -/
def restorable (d : Dev) (upto : Fin 5) : List (Fin 5) :=
  ((appliedDeep d).takeWhile fun k => d.pmu.elig.getLsbD k.val).filter fun k => upto.val ≤ k.val

/-- A restore (R29): refused where the deepest applied step is not eligible; one that restores a step advances the PMU's generation, one
without effect does not (spec/04 R69). -/
def restore (upto : Fin 5) (d : Dev) : Dev × RCode :=
  match appliedDeep d with
  | [] => (d, .ok)
  | k :: _ =>
    if !d.pmu.elig.getLsbD k.val then (d, .busy)
    else
      let ks := restorable d upto
      if ks.isEmpty then (d, .ok)
      else
        let d := ks.foldl restoreStep d
        let d := pmuLog (fireSource d 358) ("RESTORE " ++ joinSp (ks.map stepName))
        (bumpGen (emit d (some .pwr) none ("!RESTORE " ++ joinSp (ks.map stepName))) .pmu, .ok)

/-! Clocks (R38). -/

/-- The units a clock failure fences. -/
def clockUnits (d : Dev) : List UnitId :=
  (allUnits.filter fun u => match u with | .can _ | .gbe _ | .t1s _ | .uart _ | .afe => true | _ => false).filter fun u =>
    unitPresent d.variant u

/-- The part of a clock failure that needs the clocks: units fenced, the event. -/
def clockFence (d : Dev) : Dev :=
  let d := (clockUnits d).foldl (fun d u => fence d u .clock) d
  let d := pmuLog (fireSource d 361) "CLK FAIL"
  emit (updPmu d fun m => { m with clkFailPend := false }) (some .pwr) none "!CLK FAIL"

/-- The clocks as the PMU finds them at a wake from RETAIN or a release: the fallback where the reference is missing or the PLL does not
lock, or the reference was lost while the clocks stood still. -/
def clocksReturn (d : Dev) (pll : PllState) : Dev :=
  match pll with
  | .locked =>
    let d := updPmu d fun m => { m with lock := true, refOk := true }
    if d.pmu.fallback then clockFence d else d
  | .noRef => clockFence (updPmu d fun m => { m with lock := false, refOk := false, fallback := true })
  | .noLock => clockFence (updPmu d fun m => { m with lock := false, refOk := true, fallback := true })

/-! Wakes (R22 to R25, R41). -/

/-- The bit of a source in WAKEEN and WAKECAUSE (R438). -/
def armBit (a : ArmSrc) : Nat :=
  match a with
  | .wake n => n.val | .halt n => 16 + n.val | .rtc => 24 | .brk .mga => 25 | .brk .mgb => 26

/-- The bit of a wake in WAKECAUSE. -/
def wakeBit (w : WakeSrc) : Nat := match w with | .arm a => armBit a | .line .mga => 27 | .line .mgb => 28 | .evr => 29

/-- The name of a source in `pwr arm` and `!WAKE`. -/
def armName (a : ArmSrc) : String :=
  match a with
  | .wake n => "wake" ++ toString n.val
  | .halt n => "halt" ++ toString n.val
  | .rtc => "rtc"
  | .brk .mga => "mgabrk"
  | .brk .mgb => "mgbbrk"

/-- The name of a wake. -/
def wakeName (w : WakeSrc) : String :=
  match w with | .arm a => armName a | .line .mga => "mga" | .line .mgb => "mgb" | .evr => "evr"

/-- Whether a source is armed. -/
def armed (d : Dev) (a : ArmSrc) : Bool := d.pmu.wakeEn.getLsbD (armBit a)

/-- Whether some pen has a pending unmasked line of priority 7 (spec/11 R247). -/
def urgentPending (d : Dev) : Bool :=
  (List.range 8).any fun p =>
    let k := d.pen p
    k.pers.isSome && (List.range 64).any fun l =>
      (lineCfg d k.fold l).prio == 7 &&
      (if k.pers == some true then k.pend.getLsbD l && (List.range 4).any fun i => (d.core (4 * p + i)).mask.getLsbD l
       else k.deliv.getLsbD l || (k.pend.getLsbD l && k.mask.getLsbD l))

/-- Whether a source can wake the device from IDLE (R23). -/
def wakesIdle (d : Dev) (w : WakeSrc) : Bool := match w with | .arm a => armed d a | .line _ => true | .evr => urgentPending d

/-- Records the source of a wake. -/
def noteWake (d : Dev) (w : WakeSrc) : Dev :=
  let d := updPmu d fun m => { m with wakeCause := setBit m.wakeCause (wakeBit w) true, wakeLatched := none }
  emit (pmuLog d ("WAKE " ++ wakeName w)) (some .pwr) none ("!WAKE " ++ wakeName w)

/-- The state a wake from IDLE ends in (R24). -/
def idleTarget (d : Dev) : PState := match d.pmu.wakeTarget with | .slow => .slow | _ => .run

/-- A wake from IDLE. -/
def wakeIdle (d : Dev) (w : WakeSrc) : Dev := noteWake (updPmu d fun m => { m with cur := idleTarget d }) w

/-- A wake that arrives in IDLE wakes the device; during the entry into IDLE, RETAIN or SPORE it is latched (R23, R37). -/
def wakeArrives (d : Dev) (w : WakeSrc) : Dev :=
  match d.pmu.trans with
  | some t =>
    let counts := match t.target, w with
      | .idle, _ => wakesIdle d w
      | .retain, .arm a | .spore, .arm a => armed d a
      | _, _ => false
    if t.stage != .drain && counts && d.pmu.wakeLatched.isNone then updPmu d fun m => { m with wakeLatched := some w } else d
  | none => if d.pmu.cur == .idle && wakesIdle d w then wakeIdle d w else d

/-- The sources held while the clocks stood still fire in ascending order, each once (spec/11 R247). -/
def presentHeld (d : Dev) : Dev :=
  let latched := (List.range 24).filter fun i => d.evr.latch.getLsbD i
  let held := (List.range 512).filter fun n => d.pmu.heldSrc.contains n
  let d := { updPmu d fun m => { m with heldSrc := [] } with evr := { d.evr with latch := 0 } }
  (latched ++ held).foldl fireSource d

/-- The units of steps recorded while the clocks stood still are shed (R37); a copy of S5 that was under way goes on. -/
def shedDeferred (d : Dev) : Dev :=
  let ks := d.pmu.deferred
  ks.foldl shedUnits (updPmu d fun m => { m with deferred := [] })

/-- A wake from RETAIN (R23, R24, R37, R38). -/
def wakeRetain (d : Dev) (w : WakeSrc) (pll : PllState) : Dev :=
  let d := updPmu d fun m => { m with cur := m.wakeTarget }
  let d := clocksReturn d pll
  let d := noteWake d w
  runDue 5 (presentHeld (shedDeferred d))

/-- A wake from SPORE is a device reset (R25). -/
def wakeSpore (d : Dev) (w : WakeSrc) : Dev := noteWake (deviceReset d .spore) w

/-! Commanded transitions (R22 to R24, R284). -/

/-- Whether any wake source is armed. -/
def anyArmed (d : Dev) : Bool := d.pmu.wakeEn != 0

/-- What the PMU answers to a command for a state: accepted, already there, or refused with a code (R22, R24, R37, spec/04 R83). -/
inductive PwrAns where
  | accepted | same | refused (code : Nat)
deriving DecidableEq, Repr

/-- The PMU's answer to a command (R22, R24, R37). That a command for another state waits for the action of a shedding step, `er 40`, is the
model's (log 95). -/
def pwrAnswer (d : Dev) (t : PState) : PwrAns :=
  if d.pmu.trans.isSome || foldResetRunning d then .refused 40
  else if t == d.pmu.cur then .same
  else if d.pmu.step.isSome then .refused 40
  else if t == .spore && d.pmu.wakeTarget == .idle then .refused 60
  else if (t == .spore || t == .retain) && !anyArmed d then .refused 60
  else .accepted

/-- A command for a state that the PMU accepts starts its drain; the PMU's generation advances (spec/04 R69). REFUSED tells of the last
power command, so an accepted one clears it (DESIGN CHOICE, log 96). -/
def pwrStart (d : Dev) (t : PState) (o : CmdOrigin) : Dev :=
  let d := bumpGen d .pmu
  let d := updPmu d fun m => { m with trans := some { target := t, origin := o, stage := .drain }, refused := false }
  match o with
  | .via v => match viaPort v with | some p => d.updMg p fun k => { k with busy := some v } | none => d
  | .reg => d

/-- Whether what the drain of a transition waits for is over: every store buffer empty and, for the deep states, no burst under way. -/
def transDrained (d : Dev) (t : PState) : Bool :=
  drained d (List.range 32) &&
  (match t with | .retain | .spore | .off => d.dma.movers.all fun m => !m.busy | _ => true)

/-- A transition is complete: the new state, its log record, the answer where one is due. -/
def transDone (d : Dev) (t : PState) : Dev :=
  let d := updPmu d fun m => { m with cur := t, trans := none, lock := m.lock && t != .retain && t != .spore && t != .off }
  let d := if t == .off then { d with halter := { d.halter with driven := false } } else d
  pmuLog d ("STATE " ++ pstateName t)

/-- The drain of a transition has ended (R284). -/
def drainComplete (d : Dev) : Dev :=
  match d.pmu.trans with
  | none => d
  | some t =>
    if t.stage != .drain || !transDrained d t.target then d
    else
      match t.target with
      | .run | .slow =>
        let d := transDone d t.target
        let d := match t.origin with | .via o => lateStatus d o okS | .reg => d
        runDue 5 d
      | _ =>
        match t.origin with
        | .via o =>
          match viaPort o with
          | some p =>
            let d := lateStatus d o okS
            let d := d.updMg p fun k => { k with deferred := some .power }
            updPmu d fun m => { m with trans := some { t with stage := .wait p } }
          | none => updPmu d fun m => { m with trans := some { t with stage := .entry } }
        | .reg => updPmu d fun m => { m with trans := some { t with stage := .entry } }

/-- The drain of a transition has taken too long (R284). -/
def drainTimeout (d : Dev) : Dev :=
  match d.pmu.trans with
  | none => d
  | some t => if t.stage == .drain && !transDrained d t.target then runDue 5 (abandonTrans d 40) else d

/-- The entry of a transition is complete; a latched wake follows at once where the state can be left so, and steps that waited apply
(R37). -/
def entryComplete (d : Dev) : Dev :=
  match d.pmu.trans with
  | none => d
  | some t =>
    if t.stage != .entry then d
    else
      let due := d.pmu.due
      let d := transDone d t.target
      match t.target with
      | .idle =>
        let d := runDue 5 d
        match d.pmu.wakeLatched with | some w => wakeIdle d w | none => d
      | .retain | .spore =>
        let d := updPmu d fun m =>
          { m with due := [], applied := due.foldl (fun a k => setBit a k.val true) m.applied, deferred := m.deferred ++ due }
        if t.target == .retain && due.contains 4 && fld d.pmu.s5len 0 6 != 0 then updPmu d fun m => { m with step := some (4, .copy) }
        else d
      | _ => updPmu d fun m => { m with due := [] }

/-- A core is held at its next boundary by a transition or by a step that drains it (R26, R284). -/
def coreHeld (d : Dev) (c : Nat) : Bool :=
  d.pmu.trans.isSome || (match d.pmu.step with | some (k, _) => (stepCores d k).contains c | none => false)

/-! The reading and writing of the PMU registers (R438). -/

/-- The number of set bits. -/
def popNat (n w : Nat) : Nat := (bitsOf n w).length

/-- Whether a designation may be changed now: its step is not applied (R30). -/
def designFree (d : Dev) (k : Fin 5) : Bool :=
  !stepApplied d k && (match d.pmu.step with | some (j, _) => j != k | none => true) && !d.pmu.due.contains k

/-- The rule of a designation of the last-watch pen: a present Tether pen, or none (R30). -/
def lwatchOk (d : Dev) (v : Word) : Bool :=
  !bitOf v 7 || (unitPresent d.variant (penU (fld v 0 3)) && (d.pen (fld v 0 3)).pers == some true)

/-- Whether every channel of a mask belongs to the fold of the last-watch pen (R30). -/
def keepDmaOk (d : Dev) (base : Nat) (v : Word) : Bool :=
  (bitsOf v.toNat 32).all fun i =>
    bitOf d.pmu.lwatch 7 && (d.chan (base + i)).own == some (d.pen (fld d.pmu.lwatch 0 3)).fold

/-- The value a designation register takes from a write, or the refusal (R30, R31). A base outside shared SRAM is taken as written (DESIGN
CHOICE, log 97). -/
def designate (d : Dev) (off : Nat) (v : Word) : Except RCode Dev :=
  let set := regSet d .pmu off v
  match off with
  | 0x20 => if !designFree d 3 then .error .busy else if lwatchOk d v then .ok set else .error .invalid
  | 0x24 => if !designFree d 2 then .error .busy else if popNat v.toNat 24 ≤ 4 then .ok set else .error .invalid
  | 0x28 =>
    if !designFree d 2 then .error .busy
    else if popNat v.toNat 4 ≤ 2 && popNat (v.toNat / 256) 4 ≤ 1 then .ok set else .error .invalid
  | 0x2C => if !designFree d 3 then .error .busy else if keepDmaOk d 0 v then .ok set else .error .invalid
  | 0x30 => if !designFree d 3 then .error .busy else if keepDmaOk d 32 v then .ok set else .error .invalid
  | 0x34 => if designFree d 4 then .ok set else .error .busy
  | _ => if !designFree d 4 then .error .busy else if v.toNat ≤ 32 then .ok set else .error .invalid

/-- What a refusal leaves in PMU.STATE. -/
def pmuRefuse (d : Dev) : Dev := updPmu d fun m => { m with refused := true }

/-- A write to PMU.CMD (R22, R24, R438). -/
def pmuCmdWrite (d : Dev) (q : Req) (v : Word) : Dev × WRes :=
  let gen := fld v 16 16
  let (d, c) := arbGate d .pmu (some gen)
  let (d, c) := if c != .ok then (pmuRefuse d, c) else
    match fld v 0 3 with
    | 6 | 7 => (pmuRefuse d, .invalid)
    | n =>
      let t : PState := match n with | 0 => .run | 1 => .slow | 2 => .idle | 3 => .retain | 4 => .spore | _ => .off
      match pwrAnswer d t with
      | .same => (d, .ok)
      | .refused 60 => (pmuRefuse d, .power)
      | .refused _ => (pmuRefuse d, .busy)
      | .accepted => (pwrStart d t .reg, .ok)
  let d := arbLog d q.src .pmu "write" c
  (d, if c == .ok then .done else .refused c)

/-- The shallowest step a write to PMU.RESTORE names (R438). -/
def restoreStepOf (v : Word) : Option (Fin 5) := (List.finRange 5).find? fun k => fld v 0 5 == 2 ^ k.val

/-- The alarm of the RTC (R41, R438): its source fires and the device wakes where it is armed. -/
def rtcAlarmCheck (d : Dev) : Dev :=
  if d.pmu.rtcSec == d.pmu.rtcAlm && d.pmu.rtcAlm != 0xFFFFFFFF then
    let d := fireSource d 362
    if armed d .rtc then
      if d.pmu.cur == .retain || d.pmu.cur == .spore then updPmu d fun m => { m with wakeLatched := some (.arm .rtc) }
      else wakeArrives d (.arm .rtc)
    else d
  else d

/-- PMU.TEMP. -/
def tempWord (d : Dev) : Word :=
  let t := seenTj d
  let k := (d.pmu.temps.zipIdx.foldl (fun (b : Int × Nat) x => if b.1 < x.1.toInt then (x.1.toInt, x.2) else b) (-3000, 0)).2
  toWord ((BitVec.ofInt 12 t).toNat + put k 12 + put d.pmu.peak.toNat 16)

/-- PMU.RSTCAUSE. -/
def rstcauseWord (m : Pmu) : Word :=
  toWord ((match m.rstCause with
    | .por => 1 | .bor => 2 | .ovr => 4 | .otr => 8 | .pin => 16 | .spore => 32 | .cmd => 64) + putB m.retValid 8)

/-- A read of the PMU: F and above. -/
def pmuRead (d : Dev) (q : Req) (off : Nat) : Dev × RRes :=
  let m := d.pmu
  let v : Word := match off with
    | 0x00 => toWord (pstateCode m.cur + putB m.trans.isSome 8 + putB m.refused 9)
    | 0x10 => m.wakeCause.setWidth 32
    | 0x14 => toWord (m.vinNow.toNat + put m.vinLow.toNat 16)
    | 0x18 => toWord (m.applied.toNat + put m.elig.toNat 8 + put m.vcause.toNat 16 + put (m.tcause.toNat % 4) 24 +
        put m.scause.toNat 27)
    | 0x3C => tempWord d
    | 0x40 => toWord (putB m.warn 0 + putB m.trip 1)
    | 0x44 => toWord (putB m.lock 0 + putB m.refOk 1 + putB m.fallback 2 + putB (m.cur == .slow) 3)
    | 0x48 => rstcauseWord m
    | 0x4C => m.rtcSec
    | 0x50 => m.rtcAlm
    | 0x54 => (d.unit .pmu).gen.setWidth 32
    | _ => match idx off 0x60 4 10 with
      | some k => (lget m.temps 0 k).setWidth 32
      | none => regGet d .pmu off
  guardR (q.priv != .u) d v

/-- A write to the PMU: K and M (R438). -/
def pmuWrite (d : Dev) (q : Req) (off : Nat) (v : Word) : Dev × WRes :=
  guardW (isK q) d <|
  match off with
  | 0x00 => plWrite d .pmu fun d => if bitOf v 9 then updPmu d fun m => { m with refused := false } else d
  | 0x04 => pmuCmdWrite d q v
  | 0x08 => stWrite d q .pmu none pmuRefuse fun d => if fld v 0 2 == 3 then .error .invalid else .ok (regSet d .pmu 0x08 v)
  | 0x0C => stWrite d q .pmu none pmuRefuse fun d => .ok (regSet d .pmu 0x0C v)
  | 0x10 => plWrite d .pmu fun d => updPmu d fun m => { m with wakeCause := m.wakeCause &&& ~~~(v.setWidth 30) }
  | 0x14 => plWrite d .pmu fun d => if bitOf v 16 then updPmu d fun m => { m with vinLow := m.vinNow } else d
  | 0x1C =>
    match restoreStepOf v with
    | none => ignored d
    | some k =>
      let r := request d q.src .pmu "write" none (restore k)
      if r.2 == .ok then (r.1, .done) else (pmuRefuse r.1, .refused r.2)
  | 0x3C => plWrite d .pmu fun d => if bitOf v 16 then updPmu d fun m => { m with peak := BitVec.ofInt 12 (seenTj d) } else d
  | 0x40 => plWrite d .pmu fun d => updPmu d fun m => { m with warn := m.warn && !bitOf v 0, trip := m.trip && !bitOf v 1 }
  | 0x4C => plWrite d .pmu fun d => rtcAlarmCheck (updPmu d fun m => { m with rtcSec := v })
  | 0x50 => plWrite d .pmu fun d => rtcAlarmCheck (updPmu d fun m => { m with rtcAlm := v })
  | _ =>
    if 0x20 ≤ off && off ≤ 0x38 then stWrite d q .pmu none pmuRefuse fun d => designate d off v
    else ignored d

/-! The thermal warning and trip (R32). -/

/-- Raises the warning and the trip that a temperature reaches, once while it stays there. -/
def thermEval (d : Dev) : Dev :=
  let t := seenTj d
  let d := notePeak d
  let d := if 540 ≤ t && !d.pmu.atWarn then
      let d := updPmu d fun m => { m with warn := true, atWarn := true }
      emit (pmuLog (fireSource d 359) "THERM WARN") (some .pwr) none "!THERM WARN"
    else d
  if 600 ≤ t && !d.pmu.atTrip then
    let d := updPmu d fun m => { m with trip := true, atTrip := true }
    let d := emit (pmuLog (fireSource d 360) "THERM TRIP") (some .pwr) none "!THERM TRIP"
    [0, 1].foldl (shedDue .therm) d
  else d

end Sys2Proof.Machine
end

