-- ==== Sys2Proof/Machine/Verb.lean ====
section
/-! DEFINITION. How a Brenex command is let through and answered, whichever verb it is (spec/03 R49 to R60). -/
namespace Sys2Proof.Machine

/-! The port a command comes from. -/

/-- A port carries commands: it has sent `!READY`, its unit works, and no command of its own is still unanswered (spec/03 R58,
R60, R63; spec/02 R27). -/
def portOpen (d : Dev) (p : MgPort) : Bool :=
  let r := d.unit (.mg p)
  (d.mg p).ready && (r.st == .idle || r.st == .active) && !r.resetting && d.clocked && (d.mg p).busy.isNone &&
  (d.mg p).deferred.isNone

/-- A command line has come in: it is counted, the session is not idle, events take its form (spec/03 R52, R66), and it wakes the
device from IDLE (spec/02 R23). -/
def lineArrives (d : Dev) (p : MgPort) (gen : Bool) : Dev :=
  let d := if d.pmu.cur == .idle then wakeArrives d (.line p) else d
  d.updMg p fun k => { k with cntLines := satInc k.cntLines 0xFFFF, idle := 0, genForm := gen, cut := false }

/-- A verb's row: the command is received on its port, or read from the start-up script, and executed; a port that carries no
commands receives nothing (log 3). -/
def row (o : Via) (f : Dev → Dev) (d : Dev) : Dev :=
  match o with
  | .typed p => if portOpen d p then f (lineArrives d p false) else d
  | .gen p _ => if portOpen d p then f (lineArrives d p true) else d
  | .script => if d.boot.inScript then f d else d

/-- The same for a verb that reaches the OTP. -/
def rowS (o : Via) (f : State → State) (s : State) : State :=
  match o with
  | .typed p => if portOpen s.dev p then f { s with dev := lineArrives s.dev p false } else s
  | .gen p _ => if portOpen s.dev p then f { s with dev := lineArrives s.dev p true } else s
  | .script => if s.dev.boot.inScript then f s else s

/-! Roles, locks and scopes (spec/03 R54, R55, R60; spec/00 R2). -/

/-- The rank of a role. -/
def roleNum (r : Role) : Nat := match r with | .observe => 0 | .operate => 1 | .engineer => 2 | .machine => 3

/-- The role a command runs under; the script's is machine (spec/18 R401). -/
def viaRole (d : Dev) (o : Via) : Role := match viaPort o with | some p => (d.mg p).role | none => .machine

/-- The scope of a command's session. -/
def viaScope (d : Dev) (o : Via) : Option (Fin 8) := match viaPort o with | some p => (d.mg p).scope | none => none

/-- The source of a command in the arbiter's log. -/
def viaSrc (o : Via) : String := match viaPort o with | some p => portName p | none => "script"

/-- Whether a scoped session may name a unit. -/
def scopeHas (d : Dev) (o : Via) (u : UnitId) : Bool :=
  match viaScope d o with
  | none => true
  | some f => d.owner u == some f.val

/-- What stops a command before its own rules: role, the other port's lock, an absent unit, a unit outside the scope. -/
def gate (d : Dev) (o : Via) (role : Role) (us : List UnitId) : Option Status :=
  let locked : Bool := match viaPort o with
    | some p => (d.mg (otherPort p)).lock && role != .observe
    | none => false
  if roleNum (viaRole d o) < roleNum role then some (er 20)
  else if locked then some (er 40 ("locked by " ++ (match viaPort o with | some p => portName (otherPort p) | none => "")))
  else if us.any fun u => !unitPresent d.variant u then some (er 44)
  else if us.any fun u => !scopeHas d o u then some (er 20)
  else none

/-! Answers. -/

/-- What a verb leaves: the device and its answer, data lines and a status; `none` where the status comes later. -/
abbrev VRes := Dev × Option (List String × Status)

/-- Answered `ok`. -/
def vOk (d : Dev) : VRes := (d, some ([], okS))

/-- Answered with data lines and `ok`. -/
def vData (d : Dev) (ls : List String) : VRes := (d, some (ls, okS))

/-- Answered with an error. -/
def vEr (d : Dev) (code : Nat) (detail : String := "") : VRes := (d, some ([], er code detail))

/-- The detail of `er 30`: a unit with its state and generation (spec/03 R51). -/
def staleText (d : Dev) (u : UnitId) : String :=
  unitName u ++ " " ++ stateName (d.unit u).st ++ " gen " ++ toString (d.unit u).gen.toNat

/-- The status of an arbiter's decision (spec/04 R70, R88). -/
def codeStatus (d : Dev) (u : UnitId) (c : RCode) : Status :=
  match c with
  | .ok => okS
  | .stale => er 30 (staleText d u)
  | .busy => er 40
  | .absent => er 44
  | .fenced => er 50
  | .power => er 60
  | .scope => er 20
  | .invalid => er 10

/-- A decision as an answer. -/
def vCode (u : UnitId) (r : Dev × RCode) : VRes := (r.1, some ([], codeStatus r.1 u r.2))

/-- The end of a register write as an answer. -/
def vWrite (u : UnitId) (r : Dev × WRes) : VRes :=
  match r.2 with
  | .done => vOk r.1
  | .refused c => (r.1, some ([], codeStatus r.1 u c))
  | .exc 0x08 => vEr r.1 20
  | .exc 0x0D => vEr r.1 44
  | .exc 0x09 => vEr r.1 50
  | .exc _ => vEr r.1 10

/-- The data lines of a response that a Ctrl-C stops: how many have been sent is a free value (spec/03 R45; log 99). -/
def cutLines (d : Dev) (data : List String) : Dev × List String :=
  ({ d with free := d.free + 1 }, data.take ((Config.freeCell d.free).toNat % (data.length + 1)))

/-- Sends an answer on its port; a Ctrl-C stops the remaining data lines (spec/03 R45). In the script a failed line ends the script (spec/18
R401). -/
def reply (o : Via) (r : VRes) : Dev :=
  match r with
  | (d, none) => d
  | (d, some (data, s)) =>
    match viaPort o with
    | none => if s.code == 0 then d else
        { d with boot := { d.boot with scriptEnd := some (d.boot.scriptLines + 1, s.code), script := [] } }
    | some p =>
      let (d, data) := if (d.mg p).cut then cutLines d data else (d, data)
      sendLines (d.updMg p fun k => { k with cut := false }) o (responseLines o data s)

/-- A verb: the gate, then its effect and its answer. -/
def verb (o : Via) (role : Role) (us : List UnitId) (f : Dev → VRes) (d : Dev) : Dev :=
  match gate d o role us with
  | some s => reply o (d, some ([], s))
  | none => reply o (f d)

/-- A verb that writes state-bearing registers of a unit through the arbiter (spec/04 R69). -/
def vReg (o : Via) (u : UnitId) (g : Option Nat) (f : Dev → Except RCode Dev) (d : Dev) : VRes :=
  vCode u (regRequest d (viaSrc o) u g f)

/-- A verb that sets state of the management port it comes from, or of both for the start-up script, through the arbiter (spec/03 R66,
spec/18 R401). -/
def vPorts (o : Via) (f : MgPort → Dev → Dev) (d : Dev) : VRes :=
  match viaPort o with
  | some p => vReg o (.mg p) none (fun d => .ok (f p d)) d
  | none =>
    match regRequest d (viaSrc o) (.mg .mga) none fun d => .ok (f .mga d) with
    | (d, .ok) => vReg o (.mg .mgb) none (fun d => .ok (f .mgb d)) d
    | r => vCode (.mg .mga) r

/-- The longest text of a data line: with the number, `:` and the CRC of the generated form around it a line stays within 255 characters
(spec/03 R44, R49). -/
def maxText : Nat := 240

/-- A line of a report as it may be sent: printable, within the length of a line, and not beginning as a prompt, a generated line, an
event or a status line begins (spec/03 R44, R51). -/
def reportLine (s : String) : String :=
  let l := s.toList.filter fun c => 0x20 ≤ c.toNat && c.toNat ≤ 0x7E
  let reserved : Bool := match l with
    | '>' :: _ | '#' :: _ | '!' :: _ | 'o' :: 'k' :: _ | 'e' :: 'r' :: _ => true
    | _ => false
  String.ofList ((if reserved then ' ' :: l else l).take maxText)

/-- The lines that show the fields of a report (log 8). -/
def reportLines (name : String) (fields : List (String × String)) : List String := (Config.reportText name fields).map reportLine

/-- A verb that reads: its data lines show the fields. -/
def vShow (name : String) (fields : Dev → List (String × String)) (d : Dev) : VRes :=
  vData d (reportLines name (fields d))

/-- A verb that is refused with `er 60` outside RUN and SLOW. -/
def runOrSlow (d : Dev) (f : Dev → VRes) : VRes :=
  if d.pmu.cur == .run || d.pmu.cur == .slow then f d else vEr d 60

/-- On or off in a report. -/
def onOff (b : Bool) : String := if b then "on" else "off"

/-- A fold or none in a report. -/
def foldText (f : Option Nat) : String := match f with | none => "none" | some f => "fold" ++ toString f

/-- A list of numbers in a report. -/
def numsText (l : List Nat) : String := joinSp (l.map toString)

/-- The Bellwether acts as requester of a session's register access, at machine or at K (log 11). -/
def viaReq (d : Dev) (o : Via) : Req :=
  match viaPort o with
  | some p => reqOf d (.mg p)
  | none => { bwReq with src := "script" }

end Sys2Proof.Machine
end

