-- ==== Sys2Proof/Machine/Grant.lean ====
section
/-! DEFINITION. Which request a Mycelium port grants next: classes, credit and the round over folds (spec/13 R272, R273, R276, R277). -/
namespace Sys2Proof.Machine

/-- A request waiting at a target port, with the fold that is charged for it, if any. -/
structure PortReq where
  port : Nat
  cls : MClass
  fold : Option Nat
deriving DecidableEq, Repr

/-- A class raised by one, never above TETHER (R273). -/
def raiseClass (c : MClass) : MClass := match c with | .bulk => .drove | .drove => .tether | c => c

/-- A class raised as often as its request has waited 256 fabric clocks. -/
def raisedBy (n : Nat) (c : MClass) : MClass := match n with | 0 => c | 1 => raiseClass c | _ => raiseClass (raiseClass c)

/-- The class of a channel's requests (spec/14 R293). -/
def chanClass (k : Channel) : MClass := match k.cls with | 1 => .tether | 2 => .drove | _ => .bulk

/-- Whether a core's requests go on: clocks, and neither fenced nor being reset. -/
def coreMoves (d : Dev) (c : Nat) : Bool :=
  let r := d.unit (coreU c)
  d.coresClocked && (r.st == .active || r.st == .idle) && !r.resetting

/-- The requests a core has waiting: the oldest store that is not issued, and the loads whose data is still to come. -/
def coreReqs (d : Dev) (c : Nat) : List PortReq :=
  let k := d.core c
  let f := some (d.foldOfCore c)
  ((k.sb.find? fun e => !e.issued).map fun e => ⟨targetPort e.addr, e.cls, f⟩).toList ++
  if coreMoves d c then (k.loads.filter fun x => x.2.err.isNone).map fun x => ⟨targetPort x.2.addr, x.2.cls, f⟩ else []

/-- The requests of a mover's burst, one at each port it goes to. -/
def moverReqs (d : Dev) (m : Mover) : List PortReq :=
  let k := d.chan m.ch
  if m.busy && m.cut.isNone then m.ports.map fun p => ⟨p, raisedBy m.prom (chanClass k), k.own⟩ else []

/-- All requests that wait. -/
def waitingReqs (d : Dev) : List PortReq := (List.range 32).flatMap (coreReqs d) ++ d.dma.movers.flatMap (moverReqs d)

/-- Whether a class needs credit. -/
def needsCredit (c : MClass) : Bool := c == .drove || c == .bulk

/-- Whether a request needs no credit or its fold has some; one charged to no fold needs none (R276). -/
def credited (d : Dev) (r : PortReq) : Bool :=
  !needsCredit r.cls || match r.fold with | none => true | some f => 0 < (d.foldMem f).credit

/-- Whether a request may go beside those that wait at its port: without credit only as SPARE, and not while a fold with credit has a DROVE or
BULK request there (R276, R277). -/
def mayGo (d : Dev) (l : List PortReq) (r : PortReq) : Bool :=
  credited d r ||
  (r.fold.all fun f => (d.foldMem f).spare) && !l.any fun o => needsCredit o.cls && o.fold.isSome && credited d o

/-- The fold that comes first in the round after the one last granted. -/
def roundFold (last : Nat) (l : List Nat) : Option Nat := ((List.range 8).map fun j => (last + 1 + j) % 8).find? l.contains

/-- Whether the port grants a request now: no waiting request of a higher class may go, and within DROVE and BULK the folds take turns (R273). -/
def grantOk (d : Dev) (r : PortReq) : Bool :=
  let l := (waitingReqs d).filter fun o => o.port == r.port
  let go := l.filter (mayGo d l)
  mayGo d l r && !(go.any fun o => classNum o.cls < classNum r.cls) &&
  (!needsCredit r.cls || match r.fold with
    | none => true
    | some f =>
      let peers := (go.filter fun o => o.cls == r.cls && credited d o == credited d r).filterMap (·.fold)
      roundFold (tget d.myc.rr 7 (4 * r.port + classNum r.cls)) (f :: peers) == some f)

/-- Whether every port of a request that goes to several grants it. -/
def portsGrant (d : Dev) (ports : List Nat) (c : MClass) (f : Option Nat) : Bool := ports.all fun p => grantOk d ⟨p, c, f⟩

/-- A request that its ports do not grant yet waits: each port that keeps it waiting counts it (spec/13 R291; log 119). -/
def portWait (d : Dev) (ports : List Nat) (c : MClass) (f : Option Nat) : Dev :=
  let busy := ports.filter fun p => !grantOk d ⟨p, c, f⟩
  { d with myc := { d.myc with waits := busy.foldl (fun t p => tset t 0 (4 * p + classNum c) (tget t 0 (4 * p + classNum c) + 1)) d.myc.waits } }

/-- A request goes on where all its ports grant it, and waits otherwise (R273). -/
def whenGranted (d : Dev) (ports : List Nat) (c : MClass) (f : Option Nat) (go : Dev) : Dev :=
  if portsGrant d ports c f then go else portWait d ports c f

end Sys2Proof.Machine
end

