-- ==== Sys2Proof/Machine/Ration.lean ====
section
/-! DEFINITION. The ration accounts, the task slots and the dispatch decision (spec/10). -/
namespace Sys2Proof.Machine

/-! The account (R212 to R215, R224, R231). -/

/-- The scheduler of a pen takes part: not frozen, its pen not fenced, its clock running (R228). -/
def ratLive (d : Dev) (p : Nat) : Bool :=
  d.clocked && !(d.pen p).rat.frozen && (d.unit (penU p)).st != .fenced && unitPresent d.variant (penU p)

/-- Raises `!RATION LOW`, `!RATION OK` and, in a Tether pen, `!RATION OVER` as B moves (R224, R231). -/
def ratLevels (d : Dev) (p : Nat) : Dev :=
  let r := (d.pen p).rat
  let low : Bool := r.bal < r.floorEff
  let d := updRat d p fun r => { r with lowState := low }
  let d := if low && !r.lowState then
      emit (fireSource d (364 + p)) (some .state) (some (penU p)) ("!RATION LOW pen" ++ toString p)
    else if !low && r.lowState then emit d (some .state) (some (penU p)) ("!RATION OK pen" ++ toString p)
    else d
  if (d.pen p).pers == some true then
    if r.bal < 0 && r.overArmed then
      emit (updRat d p fun r => { r with overArmed := false }) (some .state) (some (penU p)) ("!RATION OVER pen" ++ toString p)
    else if !low then updRat d p fun r => { r with overArmed := true }
    else d
  else d

/-- The factor of the enabled entry with the highest threshold at or below the pen's sensor (R215). -/
def derateFactor (l : List Derate) (temp : Int) : Nat :=
  (l.foldl (fun (b : Option (Nat × Nat)) e =>
    if e.en && (4 * e.tj : Int) ≤ temp then
      match b with
      | some (t, _) => if t < e.tj then some (e.tj, e.factor) else b
      | none => some (e.tj, e.factor)
    else b) none).elim 16 (·.2)

/-- One tick of an account, in the order of R213; the figures written since the last tick take effect, and a pause ends (R228). -/
def tickRat (r : Rat) (temp : Int) : Rat :=
  let static := r.scale * lget r.coef 0 7 * 256
  let r := { r with rateEff := r.rate, capEff := r.cap, floorEff := r.floor, thrEff := [r.thr1, r.thr2, r.thr3],
                    factor := derateFactor r.derate temp, est := r.est + static, paused := false }
  let r := debitFine { r with acc := 0 } ((r.acc + static : Nat) : Int)
  let tot := r.rateEff * r.factor + r.frac
  let b := clampBal (r.bal + (tot / 16 : Nat))
  let r := { r with bal := b, frac := tot % 16 }
  if (r.capEff : Int) < b then { r with bal := r.capEff, overflows := min 255 (r.overflows + (b - r.capEff).toNat) } else r

/-- A tick of the scheduler of a pen (R213, R222). -/
def mRationTick (p : Fin 8) (d : Dev) : Dev :=
  if ratLive d p.val then
    let temp := (lget d.pmu.temps 0 p.val).toInt
    let d := updRat d p.val fun r => tickRat r temp
    let d := (List.range 4).foldl (fun d i =>
      d.updCore (4 * p.val + i) fun k => if k.slot.isSome then { k with slotTicks := k.slotTicks + 1 } else k) d
    ratLevels d p.val
  else d

/-- The threshold of a class above FLOOR (R220). -/
def classThr (r : Rat) (c : Nat) : Nat := if c == 0 then 0 else lget r.thrEff 0 (c - 1)

/-- A core's activity estimate: its charge goes to the task's reservation and beyond it to B, idle cycles and a core without a task to the
account; a task of class 1 to 3 that its charges bring too low is pre-empted (R214, R221). `tile` and `idle` are the cycles of the terms
TILE and IDLE in the period. -/
def mEstimateUpdate (c : Fin 32) (tile idle : Nat) (d : Dev) : Dev :=
  let p := penOf c.val
  if !ratLive d p || (d.pen p).rat.paused then d
  else
    let k := d.core c.val
    let r := (d.pen p).rat
    let n (i : Nat) : Nat := lget r.coef 0 i * (if i == 5 then tile else lget k.cnt 0 i)
    let task := r.scale * ((List.range 6).map n).sum
    let idleE := r.scale * (lget r.coef 0 6 * idle)
    let d := d.updCore c.val fun k => { k with cnt := List.replicate 8 0 }
    let d := updRat d p fun r => { r with est := r.est + task + idleE, acc := r.acc + idleE }
    let d := match k.slot, d.tether c.val with
      | some s, false =>
        let x := slotOf (d.pen p) s
        let use := min x.reserved task
        let d := updSlot d p s fun x => { x with used := x.used + task, reserved := x.reserved - use }
        if task ≤ use then d
        else
          let d := updRat d p fun r => debitFine r ((task - use : Nat) : Int)
          let r := (d.pen p).rat
          if x.cls != 0 && r.bal < ((r.floorEff + classThr r x.cls : Nat) : Int) then
            d.updCore c.val fun k => if k.preempt.isNone then { k with preempt := some 2 } else k
          else d
      | _, _ => updRat d p fun r => { r with acc := r.acc + task }
    ratLevels d p

/-! Slots (R216 to R219, R226, R229). -/

/-- Whether a slot can never be afforded, by the figures in effect (R213, R226). -/
def slotNever (r : Rat) (x : Slot) : Bool := x.cls != 0 && x.valid && r.capEff < x.cost + r.floorEff + classThr r x.cls

/-- SLOT.CTL as it reads. -/
def slotCtl (r : Rat) (x : Slot) : Word :=
  toWord (slotCtlBits x + putB x.ready 8 + putB x.run 9 + putB x.fault 10 + putB (slotNever r x) 11 + putB x.stop 12 + put x.core 16)

/-- Marks a slot faulted and raises `!TASK FAULT` (R229). -/
def slotFault (d : Dev) (p s : Nat) (cause : String) : Dev :=
  let d := updSlot d p s fun x => { x with fault := true, ready := false }
  let d := updRat d p fun r => { r with faults := satInc r.faults 255 }
  emit d (some .state) (some (penU p)) ("!TASK FAULT pen" ++ toString p ++ " slot" ++ toString s ++ " " ++ cause)

/-- A wake of a slot: a waiting slot becomes ready, and a running one whose task is stopped in WAIT; inside a gate or a handler the task goes
on; any other running slot is marked (R218, R219, spec/09 R199). -/
def wakeSlot (d : Dev) (p s : Nat) : Dev :=
  let x := slotOf (d.pen p) s
  if (d.pen p).pers != some false || !x.valid || x.fault then d
  else if x.run then
    let c := 4 * p + x.core
    let k := d.core c
    if k.waiting && k.slot == some s && k.gdep != 0 then d.updCore c fun k => { k with waiting := false }
    else if k.waiting && k.slot == some s then updSlot d p s fun x => { x with ready := true }
    else updSlot d p s fun x => { x with woke := true }
  else updSlot d p s fun x => { x with ready := true }

/-- A binding entry with a parity error is disabled, and `!TASK FAULT` names no slot (R229). -/
def bindFault (d : Dev) (p l : Nat) : Dev :=
  let d := d.updPen p fun k => { k with binds := tset k.binds Bind.reset l { bindOf k l with en := false, parity := false } }
  let d := updRat d p fun r => { r with faults := satInc r.faults 255 }
  emit d (some .state) (some (penU p)) ("!TASK FAULT pen" ++ toString p ++ " slot- parity")

/-- A line delivered to the binding table acts on the slot its enabled entry names (R218). -/
def mBindingWake (p : Fin 8) (l : Fin 64) (d : Dev) : Dev :=
  let k := d.pen p.val
  if k.deliv.getLsbD l.val then
    let d := d.updPen p.val fun k => { k with deliv := setBit k.deliv l.val false }
    let b := bindOf k l.val
    if b.parity then bindFault d p.val l.val else if b.en then wakeSlot d p.val b.slot else d
  else d

/-! The decision (R220 to R223). -/

/-- Whether a slot is affordable (R220). -/
def affordable (r : Rat) (x : Slot) : Bool :=
  x.cls == 0 || ((r.floorEff + classThr r x.cls : Nat) : Int) ≤ r.bal - (x.cost : Int)

/-- Whether a slot can be dispatched: one that can never be afforded is not, even while B is above CAP (R226). -/
def slotCandidate (k : Pen) (x : Slot) : Bool :=
  x.valid && x.ready && !x.run && !x.fault && !x.stop && affordable k.rat x && !slotNever k.rat x

/-- The affordable ready slots of a pen. -/
def candidates (k : Pen) : List (Nat × Slot) := k.slots.filter fun x => slotCandidate k x.2

/-- The highest priority among slots. -/
def topPri (l : List (Nat × Slot)) : Nat := l.foldl (fun m x => max m x.2.pri) 0

/-- The slot a decision picks: the highest priority, ties by the round-robin pointer. -/
def pickSlot (k : Pen) : Option (Nat × Slot) :=
  let l := candidates k
  let top := topPri l
  let l := l.filter fun x => x.2.pri == top
  match l.find? fun x => lget k.rr 0 top ≤ x.1 with
  | some x => some x
  | none => l.head?

/-- The pen's dispatcher makes decisions; after a restore or an unfence not before the next tick (R228). -/
def decides (d : Dev) (p : Nat) : Bool :=
  ratLive d p && !(d.pen p).rat.paused && d.coresClocked && (d.pen p).pers == some false && (d.pen p).rat.run && !(d.unit (penU p)).resetting

/-- A core can take a task. -/
def coreServes (d : Dev) (c : Nat) : Bool :=
  let r := d.unit (coreU c)
  (r.st == .idle || r.st == .active) && !r.resetting && (d.core c).next.isNone && !coreHeld d c

/-- The reason for which a core's task gives up its core, if it does: stopped 1, ration 2, WAIT 0; not inside a gate or a handler (R147,
R217, R219, R221, spec/09 R199). -/
def givesUp (d : Dev) (c : Nat) : Option Nat :=
  let k := d.core c
  match k.slot with
  | none => none
  | some s => if k.gdep != 0 then none else if (slotOf (d.pen (penOf c)) s).stop then some 1 else k.preempt

/-- The unused part of its reservation is returned where the task of a core gives up its core (R221). -/
def settleCore (d : Dev) (p c : Nat) : Dev :=
  match (d.core c).slot with
  | some s => if (givesUp d c).isSome then slotSettle d p s else d
  | none => d

/-- The reserve and hand-over steps of a decision for a core (R221, R223). A slot with a parity error is faulted and the decision
starts again; `n` bounds how often. -/
def decideFor (n : Nat) (d : Dev) (p c reason : Nat) : Dev :=
  match n with
  | 0 => d
  | n + 1 =>
    match pickSlot (d.pen p) with
    | none => d
    | some (s, x) =>
      if x.parity then decideFor n (slotFault d p s "parity") p c reason
      else
        let d := updSlot d p s fun x => { x with ready := false, run := true, core := c % 4, reserved := x.cost * ruFine, woke := false }
        let d := updRat d p fun r => { r with bal := clampBal (r.bal - (x.cost : Int)) }
        let d := d.updPen p fun k => { k with rr := lset k.rr x.pri ((s + 1) % 256) }
        let d := d.updCore c fun k => { k with next := some { slot := s, tsb := x.tsb, reason := reason } }
        ratLevels d p

/-- The core a decision is for: a core without a task or with one stopped in WAIT, then a core whose task is pre-empted, by number; then the
core with the lowest-priority task, of those the highest-numbered, where a slot of higher priority is ready (R222). -/
def decisionCore (d : Dev) (p : Nat) : Option (Nat × Nat) :=
  let cs := ((List.range 4).map (4 * p + ·)).filter (coreServes d)
  match cs.find? fun c => (d.core c).slot.isNone || givesUp d c == some 0 with
  | some c => some (c, 0)
  | none =>
    match cs.find? fun c => (givesUp d c).isSome with
    | some c => some (c, (givesUp d c).getD 0)
    | none =>
      let pri (c : Nat) : Nat := match (d.core c).slot with | some s => (slotOf (d.pen p) s).pri | none => 0
      match cs with
      | [] => none
      | c0 :: _ =>
        let v := cs.foldl (fun b c => if pri c ≤ pri b then c else b) c0
        if (candidates (d.pen p)).any fun x => pri v < x.2.pri then some (v, 1) else none

def mDispatchDecision (p : Fin 8) (d : Dev) : Dev :=
  if decides d p.val then
    match decisionCore d p.val with
    | some (c, r) => decideFor 257 (settleCore d p.val c) p.val c r
    | none => d
  else d

/-- A task has run for SLICE ticks while an affordable ready slot of its priority exists: a decision for its core, behind an idle core's and
those of lower-numbered cores (R222). -/
def mSliceExpiry (c : Fin 32) (d : Dev) : Dev :=
  let p := penOf c.val
  let k := d.core c.val
  let r := (d.pen p).rat
  match k.slot with
  | some s =>
    let pri := (slotOf (d.pen p) s).pri
    if decides d p && coreServes d c.val && r.slice != 0 && r.slice ≤ k.slotTicks &&
        (candidates (d.pen p)).any fun x => x.2.pri == pri then
      let (n, reason) := match decisionCore d p with
        | some (n, reason) => if reason == 0 || n < c.val then (n, reason) else (c.val, 1)
        | none => (c.val, 1)
      decideFor 257 (settleCore d p n) p n reason
    else d
  | none => d

/-! The registers (R225, R233). -/

/-- A refusal of a scheduler register. -/
def ratRefuse (p : Nat) (d : Dev) : Dev := updRat d p fun r => { r with refused := true }

/-- A write to SLOT.CTL (R217, R229): VALID creates or invalidates the slot; with VALID, a 1 in FAULT clears the fault of a valid slot. -/
def slotCtlWrite (d : Dev) (p s : Nat) (v : Word) : Except RCode Dev :=
  let x := slotOf (d.pen p) s
  if bitOf v 10 && bitOf v 7 && x.fault && x.valid then .ok (updSlot d p s fun x => { x with fault := false })
  else if bitOf v 7 then
    if x.valid then .error .invalid
    else .ok (updSlot d p s fun x =>
      { x with pri := fld v 0 5, cls := fld v 5 2, valid := true, ready := false, run := false, stop := false, fault := false, woke := false })
  else if x.run then .ok (updSlot d p s fun x => { x with pri := fld v 0 5, cls := fld v 5 2, stop := true })
  else .ok (updSlot d p s fun x =>
    { x with pri := fld v 0 5, cls := fld v 5 2, valid := false, ready := false, fault := false })

/-- A write to RAT.XFER (R225, R227). -/
def xferWrite (d : Dev) (p : Nat) (v : Word) : Except RCode Dev :=
  let n := fld v 0 16
  let q := fld v 16 3
  let a := (d.pen p).rat
  let b := (d.pen q).rat
  if a.rate < n || !unitPresent d.variant (penU q) || (d.pen q).fold != (d.pen p).fold || (p != q && 0xFFFF < b.rate + n) then .error .invalid
  else if p == q then .ok d
  else .ok (updRat (updRat d p fun r => { r with rate := r.rate - n }) q fun r => { r with rate := r.rate + n })

/-- Whether an offset of the pen block is a slot or binding register. -/
def isSlotReg (off : Nat) : Bool := (0x2000 ≤ off && off < 0x3000) || (0x3000 ≤ off && off < 0x3100)

/-- A read of a scheduler register: F of the owning fold and above. -/
def ratRead (d : Dev) (q : Req) (p off : Nat) : Dev × RRes :=
  let k := d.pen p
  let r := k.rat
  let v : Word :=
    if isSlotReg off && k.pers == some true then 0
    else match off with
      | 0x1000 => ratGet k off + toWord (putB (r.bal < r.floorEff) 1 + putB r.frozen 2)
      | 0x1004 => (BitVec.ofInt 22 r.bal).setWidth 32
      | 0x1064 | 0x1068 => 0
      | 0x1070 => toWord (putB r.refused 0 + put r.overflows 8 + put r.faults 16 + put r.factor 24)
      | 0x1074 => toWord (r.est / ruFine)
      | _ =>
        if 0x2000 ≤ off && off < 0x3000 then
          let x := slotOf k ((off - 0x2000) / 16)
          match off % 16 with
          | 0 => slotCtl r x
          | 0xC => toWord (x.used / ruFine)
          | _ => ratGet k off
        else ratGet k off
  guardR (isF q (some k.fold)) d v

/-- A write to a scheduler register: F of the owning fold for CTL, WAKE, XFER, slots and bindings, K and M for the others (R225, R233). -/
def ratWrite (d : Dev) (q : Req) (p off : Nat) (v : Word) : Dev × WRes :=
  let u := penU p
  let k := d.pen p
  let st (f : Dev → Except RCode Dev) : Dev × WRes := stWrite d q u none (ratRefuse p) f
  let fOk := isF q (some k.fold)
  let km (f : Dev × WRes) : Dev × WRes := guardW (isK q) d f
  let set : Dev × WRes := st fun d => .ok (regSet d u off v)
  if off == 0x1000 then guardW fOk d set
  else if off == 0x1064 then guardW fOk d (st fun d => xferWrite d p v)
  else if off == 0x1068 then guardW fOk d (plWrite d u fun d => wakeSlot d p (fld v 0 8))
  else if off == 0x1070 then
    guardW fOk d (plWrite d u fun d => if bitOf v 0 then updRat d p fun r => { r with refused := false } else d)
  else if off == 0x1060 then km (if 128 ≤ fld v 0 10 && fld v 0 10 ≤ 512 then set else ignored d)
  else if (idx off 0x1020 4 8).isSome then
    km (if fld v 8 5 ≤ 16 then set else st fun d => .ok (regSet d u off (maskWrite (regGet d u off) v 0xFFFFE0FF)))
  else if (0x1008 ≤ off && off ≤ 0x101C) || (idx off 0x1040 4 8).isSome || off == 0x106C then km set
  else if isSlotReg off then
    guardW fOk d (
      if k.pers == some true then ignored d
      else if 0x3000 ≤ off then set
      else match off % 16 with
        | 0 => st fun d => slotCtlWrite d p ((off - 0x2000) / 16) v
        | 0xC => ignored d
        | _ => set)
  else if off == 0x1004 || off == 0x1074 then denied d
  else guardW fOk d (ignored d)

/-- The base of a pen's register block. -/
def penBlock (p : Nat) : Nat := 0x500F0000 + p * 0x100000

/-- A write to a pen's scheduler register by an agent; an absent pen gives 0x0D. -/
def ratRow (a : Agent) (p off : Nat) (v : Word) (d : Dev) : Dev :=
  writeRow a (toWord (penBlock p + off))
    (if unitPresent d.variant (penU p) then ratWrite d (reqOf d a) p off v else (d, .exc 0x0D))

def mRatWakeWrite (a : Agent) (p : Fin 8) (v : Word) (d : Dev) : Dev := ratRow a p.val 0x1068 v d
def mSlotCtlWrite (a : Agent) (p : Fin 8) (n : Fin 256) (v : Word) (d : Dev) : Dev := ratRow a p.val (0x2000 + 16 * n.val) v d
def mRatXferWrite (a : Agent) (p : Fin 8) (v : Word) (d : Dev) : Dev := ratRow a p.val 0x1064 v d
def mRatCtlWrite (a : Agent) (p : Fin 8) (v : Word) (d : Dev) : Dev := ratRow a p.val 0x1000 v d

/-! The verbs (R231, R232). The figures of the commands are in sixteenths of a point, as R231 rounds what is typed. -/

/-- The slots of a pen that run. -/
def runningText (k : Pen) : String := numsText ((k.slots.filter (·.2.run)).map (·.1))

/-- A figure in points, of which one has 16 RU (R212, R231). -/
def ptsText (v : Int) : String :=
  let n := v.natAbs
  let f := n % 16 * 625
  let frac := if f == 0 then "" else "." ++ toString (f / 1000) ++ toString (f / 100 % 10) ++ toString (f / 10 % 10) ++ toString (f % 10)
  (if v < 0 then "-" else "") ++ toString (n / 16) ++ frac

/-- The figures of one account. -/
def ratFields (d : Dev) (p : Nat) : List (String × String) :=
  let r := (d.pen p).rat
  [("pen", toString p), ("b", ptsText r.bal), ("rate", ptsText r.rate), ("factor", toString r.factor), ("cap", ptsText r.cap),
   ("floor", ptsText r.floor), ("low", onOff (r.bal < r.floorEff)), ("run", runningText (d.pen p))]

/-- The pens of a fold that the variant has. -/
def foldPens (d : Dev) (f : Nat) : List Nat :=
  (List.range 8).filter fun p => unitPresent d.variant (penU p) && (d.pen p).fold == f

/-- A fold's budget (R225). -/
def foldBudget (d : Dev) (f : Nat) : Nat := ((foldPens d f).map fun p => (d.pen p).rat.rate).sum

def vRation (o : Via) (d : Dev) : Dev :=
  verb o .observe [] (vShow "ration" fun d =>
    ((List.range 8).filter fun p => unitPresent d.variant (penU p)).flatMap (ratFields d) ++
    (List.range 8).map fun f => ("fold" ++ toString f, ptsText (foldBudget d f))) d

def vRationPen (o : Via) (p : Fin 8) (d : Dev) : Dev :=
  verb o .observe [.pen p] (vShow "ration pen" fun d =>
    let r := (d.pen p.val).rat
    ratFields d p.val ++ [("thr", ptsText r.thr1 ++ " " ++ ptsText r.thr2 ++ " " ++ ptsText r.thr3), ("overflows", ptsText r.overflows),
      ("est", ptsText ((r.est / ruFine % 2 ^ 32 : Nat) : Int))] ++
    r.derate.map fun e => ("derate", numsText [e.tj, e.factor] ++ " " ++ onOff e.en)) d

/-- A verb that writes a scheduler register; a figure that does not fit is answered `er 10`. -/
def ratVerb (o : Via) (role : Role) (p : Fin 8) (ok : Bool) (off : Nat) (v : Dev → Word) (d : Dev) : Dev :=
  verb o role [.pen p] (fun d => if ok then vWrite (.pen p) (ratWrite d (viaReq d o) p.val off (v d)) else vEr d 10) d

def vRationPenSet (o : Via) (p : Fin 8) (w : RatFigure) (pts : Nat) (d : Dev) : Dev :=
  match w with
  | .rate => ratVerb o .engineer p (pts < 65536) 0x1008 (fun _ => toWord pts) d
  | .cap => ratVerb o .engineer p (pts < 1048576) 0x100C (fun _ => toWord pts) d
  | .floor => ratVerb o .engineer p (pts < 1048576) 0x1010 (fun _ => toWord pts) d

def vRationPenThr (o : Via) (p : Fin 8) (w : Nat) (pts : Nat) (d : Dev) : Dev :=
  ratVerb o .engineer p (1 ≤ w && w ≤ 3 && pts < 1048576) (0x1010 + 4 * w) (fun _ => toWord pts) d

/-- The rates a fold's pens take for a budget: in proportion, or shared equally if all are 0, the remainder to the lowest-numbered. -/
def shareRates (l : List (Nat × Nat)) (pts : Nat) : List (Nat × Nat) :=
  let sum := (l.map (·.2)).sum
  let base := l.map fun x => (x.1, if sum == 0 then pts / l.length else x.2 * pts / sum)
  let rest := pts - (base.map (·.2)).sum
  match base with
  | [] => []
  | x :: r => (x.1, x.2 + rest) :: r

def vRationFoldRate (o : Via) (f : Fin 8) (pts : Nat) (d : Dev) : Dev :=
  verb o .engineer [.fold f] (fun d =>
    let l := shareRates ((foldPens d f.val).map fun p => (p, (d.pen p).rat.rate)) pts
    if l.isEmpty || l.any fun x => 65535 < x.2 then vEr d 10
    else
      match l.find? fun x => (d.unit (penU x.1)).st == .fenced || (d.unit (penU x.1)).resetting with
      | some x => vEr d (if (d.unit (penU x.1)).resetting then 40 else 50)
      | none =>
        let r := l.foldl (fun (r : VRes) x =>
          let w := vWrite (penU x.1) (ratWrite r.1 (viaReq r.1 o) x.1 0x1008 (toWord x.2))
          (w.1, if (r.2.map (·.2)) == some okS then w.2 else r.2)) (vOk d)
        r) d

def vRationMove (o : Via) (p : Fin 8) (q : Fin 8) (pts : Nat) (d : Dev) : Dev :=
  verb o .operate [.pen p, .pen q] (fun d =>
    if pts < 65536 then vWrite (.pen p) (ratWrite d (viaReq d o) p.val 0x1064 (toWord (pts + put q.val 16))) else vEr d 10) d

/-- The state of a slot in `task`. -/
def slotStateName (x : Slot) : String :=
  if x.fault then "faulted" else if x.run then "running" else if x.ready then "ready" else "waiting"

def vTask (o : Via) (p : Fin 8) (d : Dev) : Dev :=
  verb o .observe [.pen p] (vShow "task" fun d =>
    let k := d.pen p.val
    (k.slots.filter (·.2.valid)).map fun x =>
      (toString x.1, numsText [x.2.pri, x.2.cls] ++ " " ++ ptsText x.2.cost ++ " " ++ slotStateName x.2 ++
        (if slotNever k.rat x.2 then " never" else ""))) d

def vTaskWake (o : Via) (p : Fin 8) (n : Nat) (d : Dev) : Dev := ratVerb o .operate p (n < 256) 0x1068 (fun _ => toWord n) d

def vTaskStop (o : Via) (p : Fin 8) (n : Nat) (d : Dev) : Dev :=
  ratVerb o .operate p (n < 256) (0x2000 + 16 * n)
    (fun d => let x := slotOf (d.pen p.val) n; toWord (x.pri + put x.cls 5)) d

def vTaskClear (o : Via) (p : Fin 8) (n : Nat) (d : Dev) : Dev :=
  verb o .operate [.pen p] (fun d =>
    if 256 ≤ n then vEr d 10
    else if (slotOf (d.pen p.val) n).fault && (slotOf (d.pen p.val) n).valid then
      vWrite (.pen p) (ratWrite d (viaReq d o) p.val (0x2000 + 16 * n) (toWord 0x480))
    else vOk d) d

def vXRationCoef (o : Via) (p : Fin 8) (x : Option (Nat × Nat)) (d : Dev) : Dev :=
  match x with
  | none => verb o .engineer [.pen p] (vShow "x ration coef" fun d => [("coef", numsText (d.pen p.val).rat.coef)]) d
  | some (k, v) => ratVerb o .engineer p (k < 8 && v < 65536) (0x1040 + 4 * k) (fun _ => toWord v) d

def vXRationScale (o : Via) (p : Fin 8) (n : Nat) (d : Dev) : Dev :=
  ratVerb o .engineer p (128 ≤ n && n ≤ 512) 0x1060 (fun _ => toWord n) d

def vXRationDerate (o : Via) (p : Fin 8) (e : Nat) (x : Option (Nat × Nat)) (d : Dev) : Dev :=
  match x with
  | none => ratVerb o .engineer p (e < 8) (0x1020 + 4 * e) (fun d => regGet d (.pen p) (0x1020 + 4 * e) &&& 0x7FFF) d
  | some (t, f) => ratVerb o .engineer p (e < 8 && t < 256 && f ≤ 16) (0x1020 + 4 * e) (fun _ => toWord (t + put f 8 + 0x8000)) d

def vXRationRun (o : Via) (p : Fin 8) (on : Bool) (slice : Option Nat) (d : Dev) : Dev :=
  ratVerb o .engineer p (slice.getD 0 < 16) 0x1000
    (fun d => toWord (putB on 0 + put (slice.getD (d.pen p.val).rat.slice) 4)) d

def vXRationBoot (o : Via) (p : Fin 8) (x : Option Nat) (d : Dev) : Dev :=
  match x with
  | none => ratVerb o .engineer p true 0x106C (fun _ => 0) d
  | some a => ratVerb o .engineer p (a < 2 ^ 32 && a % 128 == 0) 0x106C (fun _ => toWord (a + 1)) d

/-- `x task … set` writes TSB, COST and CTL of a slot, in that order. -/
def vXTaskSet (o : Via) (p : Fin 8) (n : Nat) (x : TaskSet) (d : Dev) : Dev :=
  verb o .engineer [.pen p] (fun d =>
    if 256 ≤ n || 32 ≤ x.pri || 4 ≤ x.cls || 1048576 ≤ x.cost || 2 ^ 32 ≤ x.tsb || x.tsb % 128 != 0 then vEr d 10
    else
      let a := 0x2000 + 16 * n
      let w (d : Dev) (off : Nat) (v : Nat) : Dev × WRes := ratWrite d (viaReq d o) p.val off (toWord v)
      if (slotOf (d.pen p.val) n).valid && (d.pen p.val).pers != some true then
        vWrite (.pen p) (w d a (x.pri + put x.cls 5 + 0x80))
      else
        match w d (a + 4) x.tsb with
        | (d, .done) => match w d (a + 8) x.cost with
          | (d, .done) => vWrite (.pen p) (w d a (x.pri + put x.cls 5 + 0x80))
          | r => vWrite (.pen p) r
        | r => vWrite (.pen p) r) d

def vXRationBind (o : Via) (p : Fin 8) (l : Nat) (x : Option Nat) (d : Dev) : Dev :=
  ratVerb o .engineer p (l < 64 && x.getD 0 < 256) (0x3000 + 4 * l)
    (fun _ => match x with | some s => toWord (s + 0x8000) | none => 0) d

/-! The rows of the table. -/

/-- `DISPATCH_DECISION`: The pen picks the highest-priority affordable ready slot in 8 cycles and reserves its COST (R223). -/
def execDispatchDecision (p : Fin 8) (s : State) : Host.Outcome State Fault Refusal :=
  lift (mDispatchDecision p) s

/-- `RATION_TICK`: Every 10 µs each account is debited, refilled under derating and clamped to CAP (R213). -/
def execRationTick (p : Fin 8) (s : State) : Host.Outcome State Fault Refusal :=
  lift (mRationTick p) s

/-- `ESTIMATE_UPDATE`: Every 256 CLK_CORE cycles a core's activity estimate is charged to its account and task (R214). -/
def execEstimateUpdate (c : Fin 32) (tile : Nat) (idle : Nat) (s : State) : Host.Outcome State Fault Refusal :=
  lift (mEstimateUpdate c tile idle) s

/-- `SLICE_EXPIRY`: A task that has run for SLICE ticks while an equal-priority affordable slot is ready requests a decision (R222). -/
def execSliceExpiry (c : Fin 32) (s : State) : Host.Outcome State Fault Refusal :=
  lift (mSliceExpiry c) s

/-- `BINDING_WAKE`: Two cycles after a line is delivered, the slot named by its binding entry becomes ready (R218). -/
def execBindingWake (p : Fin 8) (l : Fin 64) (s : State) : Host.Outcome State Fault Refusal :=
  lift (mBindingWake p l) s

/-- `RAT_WAKE_WRITE`: A write to PENn.RAT.WAKE wakes the slot (R218). -/
def execRatWakeWrite (a : Agent) (p : Fin 8) (v : Word) (s : State) : Host.Outcome State Fault Refusal :=
  lift (mRatWakeWrite a p v) s

/-- `SLOT_CTL_WRITE`: A write to PENn.SLOTs.CTL creates, invalidates or stops a slot (R217). -/
def execSlotCtlWrite (a : Agent) (p : Fin 8) (n : Fin 256) (v : Word) (s : State) : Host.Outcome State Fault Refusal :=
  lift (mSlotCtlWrite a p n v) s

/-- `RAT_XFER_WRITE`: A write to PENn.RAT.XFER moves rate between pens of one fold (R225). -/
def execRatXferWrite (a : Agent) (p : Fin 8) (v : Word) (s : State) : Host.Outcome State Fault Refusal :=
  lift (mRatXferWrite a p v) s

/-- `RAT_CTL_WRITE`: A write to PENn.RAT.CTL starts or stops the dispatcher and sets SLICE (R230). -/
def execRatCtlWrite (a : Agent) (p : Fin 8) (v : Word) (s : State) : Host.Outcome State Fault Refusal :=
  lift (mRatCtlWrite a p v) s

/-- `RATION`: Brenex ration shows the accounts per pen and the budgets per fold (R231). -/
def execRation (o : Via) (s : State) : Host.Outcome State Fault Refusal :=
  lift (row o (vRation o)) s

/-- `RATION_PEN`: Brenex ration followed by a pen shows its full account (R231). -/
def execRationPen (o : Via) (p : Fin 8) (s : State) : Host.Outcome State Fault Refusal :=
  lift (row o (vRationPen o p)) s

/-- `RATION_PEN_SET`: Brenex ration pen rate, cap or floor sets that figure (R231). -/
def execRationPenSet (o : Via) (p : Fin 8) (w : RatFigure) (pts : Nat) (s : State) : Host.Outcome State Fault Refusal :=
  lift (row o (vRationPenSet o p w pts)) s

/-- `RATION_PEN_THR`: Brenex ration pen thr sets a class threshold (R231). -/
def execRationPenThr (o : Via) (p : Fin 8) (w : Nat) (pts : Nat) (s : State) : Host.Outcome State Fault Refusal :=
  lift (row o (vRationPenThr o p w pts)) s

/-- `RATION_FOLD_RATE`: Brenex ration fold rate sets the fold budget and scales its pens' rates (R231). -/
def execRationFoldRate (o : Via) (f : Fin 8) (pts : Nat) (s : State) : Host.Outcome State Fault Refusal :=
  lift (row o (vRationFoldRate o f pts)) s

/-- `RATION_MOVE`: Brenex ration move moves rate between pens (R231). -/
def execRationMove (o : Via) (p : Fin 8) (q : Fin 8) (pts : Nat) (s : State) : Host.Outcome State Fault Refusal :=
  lift (row o (vRationMove o p q pts)) s

/-- `TASK`: Brenex task lists a pen's valid slots (R231). -/
def execTask (o : Via) (p : Fin 8) (s : State) : Host.Outcome State Fault Refusal :=
  lift (row o (vTask o p)) s

/-- `TASK_WAKE`: Brenex task wake wakes a slot (R231). -/
def execTaskWake (o : Via) (p : Fin 8) (n : Nat) (s : State) : Host.Outcome State Fault Refusal :=
  lift (row o (vTaskWake o p n)) s

/-- `TASK_STOP`: Brenex task stop stops a slot (R217). -/
def execTaskStop (o : Via) (p : Fin 8) (n : Nat) (s : State) : Host.Outcome State Fault Refusal :=
  lift (row o (vTaskStop o p n)) s

/-- `TASK_CLEAR`: Brenex task clear clears a slot's FAULT (R229). -/
def execTaskClear (o : Via) (p : Fin 8) (n : Nat) (s : State) : Host.Outcome State Fault Refusal :=
  lift (row o (vTaskClear o p n)) s

/-- `X_RATION_COEF`: Brenex x ration coef shows or sets a coefficient (R232). -/
def execXRationCoef (o : Via) (p : Fin 8) (x : Option (Nat × Nat)) (s : State) : Host.Outcome State Fault Refusal :=
  lift (row o (vXRationCoef o p x)) s

/-- `X_RATION_SCALE`: Brenex x ration scale sets SCALE (R232). -/
def execXRationScale (o : Via) (p : Fin 8) (n : Nat) (s : State) : Host.Outcome State Fault Refusal :=
  lift (row o (vXRationScale o p n)) s

/-- `X_RATION_DERATE`: Brenex x ration derate sets or disables a derating entry (R232). -/
def execXRationDerate (o : Via) (p : Fin 8) (e : Nat) (x : Option (Nat × Nat)) (s : State) : Host.Outcome State Fault Refusal :=
  lift (row o (vXRationDerate o p e x)) s

/-- `X_RATION_RUN`: Brenex x ration run starts or stops the dispatcher (R232). -/
def execXRationRun (o : Via) (p : Fin 8) (on : Bool) (slice : Option Nat) (s : State) : Host.Outcome State Fault Refusal :=
  lift (row o (vXRationRun o p on slice)) s

/-- `X_RATION_BOOT`: Brenex x ration boot sets PENn.RAT.BOOT (R232). -/
def execXRationBoot (o : Via) (p : Fin 8) (x : Option Nat) (s : State) : Host.Outcome State Fault Refusal :=
  lift (row o (vXRationBoot o p x)) s

/-- `X_TASK_SET`: Brenex x task set writes the slot registers (R232). -/
def execXTaskSet (o : Via) (p : Fin 8) (n : Nat) (x : TaskSet) (s : State) : Host.Outcome State Fault Refusal :=
  lift (row o (vXTaskSet o p n x)) s

/-- `X_RATION_BIND`: Brenex x ration bind writes a binding entry (R232). -/
def execXRationBind (o : Via) (p : Fin 8) (l : Nat) (x : Option Nat) (s : State) : Host.Outcome State Fault Refusal :=
  lift (row o (vXRationBind o p l x)) s

end Sys2Proof.Machine
end

