-- ==== Sys2Proof/Machine/Router.lean ====
section
/-! DEFINITION. The event router: pins, lines, the limiter, pen-local event registers, the asynchronous latches, and the verbs
(spec/11 R234 to R247, R252 to R258). The halter map is in Halter.lean. -/
namespace Sys2Proof.Machine

/-! Pins (R235, R247). -/

/-- The source of an input ball. -/
def pinSource (i : PinId) : Nat := match i with | .wake n => n.val | .halt n => 16 + n.val | .gpio n => 24 + n.val

/-- The level of a source's ball. -/
def pinLevel (d : Dev) (n : Nat) : Bool :=
  if n < 16 then d.pins.wake.getLsbD n else if n < 24 then d.pins.halt.getLsbD (n - 16) else d.pins.gpio.getLsbD (n - 24)

/-- Sets the level of a ball. -/
def setPin (d : Dev) (n : Nat) (b : Bool) : Dev :=
  let q := d.pins
  { d with pins :=
    if n < 16 then { q with wake := setBit q.wake n b }
    else if n < 24 then { q with halt := setBit q.halt (n - 16) b }
    else { q with gpio := setBit q.gpio (n - 24) b } }

/-- Whether a change to a level is an edge that MODE selects; level-high selects rising. -/
def modeEdge (mode : Nat) (level : Bool) : Bool := match mode with | 2 => !level | 3 => true | _ => level

/-- The wake source of a WAKE or HALT input. -/
def pinArm (n : Nat) : Option ArmSrc :=
  if n < 16 then some (.wake (Fin.ofNat 16 n)) else if n < 24 then some (.halt (Fin.ofNat 8 (n - 16))) else none

/-- In RETAIN and SPORE the latch of a WAKE or HALT input captures an edge (R247). -/
def latchEdge (d : Dev) (n : Nat) (level : Bool) : Dev :=
  if (d.pmu.cur == .retain || d.pmu.cur == .spore) && n < 24 && modeEdge (srcMap d n).mode level then
    { d with evr := { d.evr with latch := setBit d.evr.latch n true } }
  else d

/-- An input ball changes: its source fires under MODE, and an armed input wakes the device; with the clocks stopped the latch
captures the edge. -/
def mPinInputEdge (i : PinId) (level : Bool) (d : Dev) : Dev :=
  let n := pinSource i
  if pinLevel d n == level then d
  else
    let d := setPin d n level
    if d.pmu.cur == .retain || d.pmu.cur == .spore then latchEdge d n level
    else if modeEdge (srcMap d n).mode level then
      let d := fireSource d n
      match pinArm n with
      | some a => wakeArrives d (.arm a)
      | none => d
    else d

def mAsyncLatchCapture (i : Fin 24) (level : Bool) (d : Dev) : Dev :=
  if pinLevel d i.val == level then d else latchEdge (setPin d i.val level) i.val level

/-- One source event (R234, R237); a pin fires by itself only while it is high in level-high mode. -/
def mPendingSet (n : Fin 512) (d : Dev) : Dev :=
  if n.val < 88 && !(pinLevel d n.val && (srcMap d n.val).mode == 0) then d else fireSource d n.val

/-! The limiter (R245, R246). -/

/-- Releases held lines, one for each of `n` tokens; what is left goes into the bucket. -/
def releaseHeld (d : Dev) (f n : Nat) (ls : List Nat) : Dev :=
  match ls, n with
  | l :: r, n + 1 =>
    releaseHeld (passLine (d.updSlice f fun s => { s with held := setBit s.held l false, cnt := s.cnt + 1 }) f l) f n r
  | _, n => d.updSlice f fun s => { s with tokens := min s.depth (s.tokens + n) }

def mLimiterTick (f : Fin 8) (d : Dev) : Dev :=
  let r := d.unit (.evr f)
  if !d.clocked || r.st == .fenced || r.st == .off || r.resetting then d
  else
    let s := d.slice f.val
    calmCheck (releaseHeld d f.val s.rate (lineOrder d f.val (bitsOf s.held.toNat 64))) f.val

/-! Registers of the EVR unit (R235 to R237, R247, R258). -/

/-- A refusal of a map or doorbell write. -/
def evrRefuse (d : Dev) : Dev := { d with evr := { d.evr with refused := true } }

/-- A refusal of a line write. -/
def sliceRefuse (f : Nat) (d : Dev) : Dev := d.updSlice f fun s => { s with refused := true }

/-- Whether a source may be mapped to a fold (R235). -/
def mapAllowed (d : Dev) (n f : Nat) : Bool :=
  !sourceReserved n &&
  (match sourceUnit n with
   | none => true
   | some u =>
     unitPresent d.variant u &&
     (match d.owner u with | some g => g == f | none => true)) &&
  (if 332 ≤ n && n < 340 then n - 332 == f else true)

/-- A map entry as it reads: zero for a source of an absent unit. -/
def mapRead (d : Dev) (n : Nat) : Word :=
  match sourceUnit n with
  | some u => if unitPresent d.variant u then mapWord (srcMap d n) else 0
  | none => mapWord (srcMap d n)

/-- A bit latched in SPORE is presented when its entry is first enabled (R247). -/
def presentLatched (d : Dev) (n : Nat) : Dev :=
  if n < 24 && d.evr.latch.getLsbD n && (srcMap d n).en && d.clocked then
    fireSource { d with evr := { d.evr with latch := setBit d.evr.latch n false } } n
  else d

/-- A write to a map entry: a request to the slice of the fold it names (R235, R253). -/
def mapWrite (d : Dev) (q : Req) (n : Nat) (v : Word) : Dev × WRes :=
  let f := fld v 0 3
  stWrite d q (evrU f) none evrRefuse fun d =>
    if mapAllowed d n f then .ok (presentLatched (regSet d (evrU f) (0x4000 + 4 * n) v) n) else .error .invalid

/-- A write to EVR.DOOR (R236). -/
def doorWrite (d : Dev) (q : Req) (v : Word) : Dev × WRes :=
  let n := 384 + fld v 0 7
  let m := srcMap d n
  if q.priv == .u then denied d
  else if isK q || m.open_ || q.fold == some m.fold then (fireSource d n, .done)
  else (evrRefuse d, .refused .scope)

/-- A read of the EVR unit: F and above. -/
def evrRead (d : Dev) (q : Req) (off : Nat) : Dev × RRes :=
  let v : Word :=
    if off < 0x800 then mapRead d (off / 4)
    else if off == 0x800 then d.evr.latch.setWidth 32
    else if off == 0x844 then toWord (putB d.evr.refused 0)
    else match idx off 0x810 4 11 with
      | some k => lget d.evr.flt 0 k
      | none =>
        if 0x1000 ≤ off && off < 0x3000 then
          let f := (off - 0x1000) / 0x400
          let s := d.slice f
          match (off - 0x1000) % 0x400 with
          | 0x00 => regGet d (evrU f) 0
          | 0x04 => regGet d (evrU f) 4
          | 0x08 => regGet d (evrU f) 8
          | 0x0C => toWord s.tokens
          | 0x10 => half64 s.held false
          | 0x14 => half64 s.held true
          | 0x20 => toWord (putB (s.held != 0) 0 + putB s.refused 1)
          | 0x24 => s.cnt
          | 0x28 => toWord s.hcnt
          | 0x2C => toWord s.drop
          | o => match idx o 0x100 4 64 with
            | some l => lineWord (lineCfg d f l)
            | none => 0
        else 0
  guardR (atLeast q .f) d v

/-- A write to the registers of a fold slice, by offset from its base. -/
def sliceWrite (d : Dev) (q : Req) (f o : Nat) (v : Word) : Dev × WRes :=
  let u := evrU f
  let st (f' : Dev → Except RCode Dev) : Dev × WRes := stWrite d q u none (sliceRefuse f) f'
  let fOk := isF q (some f)
  let setLines (hi : Bool) : Dev × WRes := guardW fOk d (plWrite d u fun d =>
    fireLines d f ((bitsOf v.toNat 32).map fun l => if hi then l + 32 else l))
  match o with
  | 0x00 | 0x04 => guardW (isK q) d (st fun d => .ok (regSet d u o v))
  | 0x08 => guardW (isK q) d (if fld v 0 12 == 0 then ignored d else st fun d => .ok (calmCheck (regSet d u o v) f))
  | 0x18 => setLines false
  | 0x1C => setLines true
  | 0x20 => guardW fOk d (plWrite d u fun d => if bitOf v 1 then d.updSlice f fun s => { s with refused := false } else d)
  | 0x0C | 0x10 | 0x14 | 0x24 | 0x28 | 0x2C => denied d
  | o =>
    if (idx o 0x100 4 64).isSome then
      guardW fOk d (st fun d => if (d.slice f).maxpri < fld v 0 3 then .error .invalid else .ok (regSet d u o v))
    else guardW (isK q) d (ignored d)

/-- A write to the EVR unit (R258). -/
def evrWrite (d : Dev) (q : Req) (off : Nat) (v : Word) : Dev × WRes :=
  if off < 0x800 then guardW (isK q) d (mapWrite d q (off / 4) v)
  else if off == 0x800 then
    guardW (isK q) d ({ d with evr := { d.evr with latch := d.evr.latch &&& ~~~(v.setWidth 24) } }, .done)
  else if off == 0x840 then doorWrite d q v
  else if off == 0x844 then
    guardW (isK q) d ({ d with evr := { d.evr with refused := d.evr.refused && !bitOf v 0 } }, .done)
  else match idx off 0x810 4 11 with
    | some k => guardW (isK q) d ({ d with evr := { d.evr with flt := lset d.evr.flt k v } }, .done)
    | none =>
      if 0x1000 ≤ off && off < 0x3000 then sliceWrite d q ((off - 0x1000) / 0x400) ((off - 0x1000) % 0x400) v
      else guardW (isK q) d (ignored d)

/-- A write to the EVR unit by an agent. -/
def evrRow (a : Agent) (off : Nat) (v : Word) (d : Dev) : Dev :=
  writeRow a (toWord (0x40020000 + off)) (evrWrite d (reqOf d a) off v)

def mEvrDoorWrite (a : Agent) (v : Word) (d : Dev) : Dev := evrRow a 0x840 v d
def mEvrSetWrite (a : Agent) (f : Fin 8) (hi : Bool) (v : Word) (d : Dev) : Dev :=
  evrRow a (0x1000 + f.val * 0x400 + (if hi then 0x1C else 0x18)) v d
def mEvrMapWrite (a : Agent) (n : Fin 512) (v : Word) (d : Dev) : Dev := evrRow a (4 * n.val) v d
def mEvrLineWrite (a : Agent) (f : Fin 8) (l : Fin 64) (v : Word) (d : Dev) : Dev := evrRow a (0x1100 + f.val * 0x400 + 4 * l.val) v d

/-! Pen-local registers (R239 to R242). -/

/-- The lines of a half that are set in a word. -/
def halfLines (hi : Bool) (v : Word) : List Nat := (bitsOf v.toNat 32).map fun l => if hi then l + 32 else l

/-- A half of a vector kept, the other half zero. -/
def onHalf (hi : Bool) (v : Word) : BitVec 64 := setHalf64 0 hi v

/-- The record of new bits of a core is cleared for a half it has read (R242). -/
def pendReadBy (d : Dev) (c : Nat) (hi : Bool) : Dev :=
  d.updCore c fun k => { k with newRec := setHalf64 k.newRec hi 0 }

/-- Drove: the bits lost by a write of core `c` to a PEND register (R242). -/
def lostBits (d : Dev) (p c : Nat) (hi : Bool) (v : Word) : BitVec 64 :=
  (d.core c).newRec &&& (d.pen p).pend &&& onHalf hi (~~~v)

/-- Records and reports lost lines. -/
def raceReport (d : Dev) (p c : Nat) (lost : BitVec 64) : Dev :=
  if lost == 0 then d
  else
    let d := d.updCore c fun k => { k with race := k.race ||| lost, lost := satAdd k.lost (bitsOf lost.toNat 64).length 0xFFFF }
    emit d (some .evr) (some (penU p))
      ("!EVR RACE pen" ++ toString p ++ " core" ++ toString c ++ " lines " ++ hex64 lost.toNat)

/-- Drove: a write to PEND0 or PEND1 (R241, R242). -/
def pendWrite (d : Dev) (p : Nat) (core : Option Nat) (hi : Bool) (v : Word) : Dev :=
  let d := match core with
    | some c => if penOf c == p then raceReport d p c (lostBits d p c hi v) else d
    | none => d
  let d := d.updPen p fun k => { k with pend := k.pend &&& ~~~(onHalf hi (~~~v)) }
  (halfLines hi v).foldl (fun d l => setPending d p l) d

/-- Drove: a write to MASK0 or MASK1 delivers the lines it uncovers (R241). -/
def maskWriteD (d : Dev) (p : Nat) (hi : Bool) (v : Word) : Dev :=
  let old := (d.pen p).mask
  let d := d.updPen p fun k => { k with mask := setHalf64 k.mask hi v }
  (halfLines hi v).foldl (fun d l =>
    if !old.getLsbD l && (d.pen p).pend.getLsbD l && penServed d p then deliver d p l else d) d

/-- A read of a pen-local event register by offset: F of the owning fold and above; a core's read of PEND clears its record. A set or clear
address reads as what it sets or clears (spec/00 R7). -/
def penEvRead (d : Dev) (q : Req) (p off : Nat) : Dev × RRes :=
  let k := d.pen p
  let drove := k.pers != some true
  if !isF q (some k.fold) then (d, .error 0x08)
  else if off == 0x600 || off == 0x604 then
    let v := half64 k.pend (off == 0x604)
    (match q.core with
      | some c => if drove && penOf c == p then pendReadBy d c (off == 0x604) else d
      | none => d, .ok v)
  else
    let v : Word :=
      if off == 0x608 || off == 0x60C then (if drove then half64 k.mask (off == 0x60C) else 0)
      else if 0x610 ≤ off && off < 0x620 then (if drove then 0 else half64 k.pend (off % 8 == 4))
      else if 0x640 ≤ off && off < 0x6C0 then
        let x := d.core (4 * p + (off - 0x640) / 0x20)
        if drove then 0 else match (off - 0x640) % 0x20 with
          | 0 | 8 | 0x10 => half64 x.mask false
          | 4 | 0xC | 0x14 => half64 x.mask true
          | _ => 0
      else if 0x700 ≤ off && off < 0x740 then
        let x := d.core (4 * p + (off - 0x700) / 0x10)
        if !drove then 0 else match off % 0x10 with
          | 0 => half64 x.race false
          | 4 => half64 x.race true
          | 8 => toWord x.lost
          | _ => 0
      else 0
    (d, .ok v)

/-- A write to a pen-local event register. -/
def penEvWrite (d : Dev) (q : Req) (p off : Nat) (v : Word) : Dev × WRes :=
  let k := d.pen p
  let drove := k.pers != some true
  let w (ok : Bool) (f : Dev → Dev) : Dev × WRes := plWrite d (penU p) fun d => if ok then f d else d
  let upd (c : Nat) (f : Core → Core) (d : Dev) : Dev := d.updCore (4 * p + c) f
  guardW (isF q (some k.fold)) d <|
    if off == 0x600 || off == 0x604 then w drove fun d => pendWrite d p q.core (off == 0x604) v
    else if off == 0x608 || off == 0x60C then w drove fun d => maskWriteD d p (off == 0x60C) v
    else if off == 0x610 || off == 0x614 then
      w (!drove) fun d => (halfLines (off == 0x614) v).foldl (fun d l => setPending d p l) d
    else if off == 0x618 || off == 0x61C then
      w (!drove) fun d => d.updPen p fun k => { k with pend := k.pend &&& ~~~(onHalf (off == 0x61C) v) }
    else if 0x640 ≤ off && off < 0x6C0 then
      let c := (off - 0x640) / 0x20
      match (off - 0x640) % 0x20 with
      | 0x8 => w (!drove) (upd c fun k => { k with mask := k.mask ||| onHalf false v })
      | 0xC => w (!drove) (upd c fun k => { k with mask := k.mask ||| onHalf true v })
      | 0x10 => w (!drove) (upd c fun k => { k with mask := k.mask &&& ~~~(onHalf false v) })
      | 0x14 => w (!drove) (upd c fun k => { k with mask := k.mask &&& ~~~(onHalf true v) })
      | _ => ignored d
    else if 0x700 ≤ off && off < 0x740 then
      let c := (off - 0x700) / 0x10
      match off % 0x10 with
      | 0 => w drove (upd c fun k => { k with race := k.race &&& ~~~(onHalf false v) })
      | 4 => w drove (upd c fun k => { k with race := k.race &&& ~~~(onHalf true v) })
      | _ => ignored d
    else ignored d

/-- A write to a pen-local event register by an agent. -/
def penEvRow (a : Agent) (p off : Nat) (v : Word) (d : Dev) : Dev :=
  writeRow a (toWord (penBlock p + off))
    (if unitPresent d.variant (penU p) then penEvWrite d (reqOf d a) p off v else (d, .exc 0x0D))

/-- The offset of the second register of a pair. -/
def hiOff (hi : Bool) : Nat := if hi then 4 else 0

def mPsetWrite (a : Agent) (p : Fin 8) (hi : Bool) (v : Word) (d : Dev) : Dev := penEvRow a p.val (0x610 + hiOff hi) v d
def mPclrWrite (a : Agent) (p : Fin 8) (hi : Bool) (v : Word) (d : Dev) : Dev := penEvRow a p.val (0x618 + hiOff hi) v d
def mMsetWrite (a : Agent) (c : Fin 32) (hi : Bool) (v : Word) (d : Dev) : Dev :=
  penEvRow a (penOf c.val) (0x648 + c.val % 4 * 0x20 + hiOff hi) v d
def mMclrWrite (a : Agent) (c : Fin 32) (hi : Bool) (v : Word) (d : Dev) : Dev :=
  penEvRow a (penOf c.val) (0x650 + c.val % 4 * 0x20 + hiOff hi) v d
def mPendWrite (a : Agent) (p : Fin 8) (hi : Bool) (v : Word) (d : Dev) : Dev := penEvRow a p.val (0x600 + hiOff hi) v d
def mMaskWrite (a : Agent) (p : Fin 8) (hi : Bool) (v : Word) (d : Dev) : Dev := penEvRow a p.val (0x608 + hiOff hi) v d

/-! The verbs (R256, R257). -/

/-- The figures of one slice. -/
def sliceFields (d : Dev) (f : Nat) : List (String × String) :=
  let s := d.slice f
  [("fold" ++ toString f, numsText [s.tokens, s.rate, s.depth, s.cnt.toNat, s.hcnt, s.drop] ++ " " ++ hex64 s.held.toNat ++ " " ++
    onOff (s.held != 0))]

def vEvr (o : Via) (d : Dev) : Dev := verb o .observe [] (vShow "evr" fun d => (List.range 8).flatMap (sliceFields d)) d

def vEvrFold (o : Via) (f : Fin 8) (d : Dev) : Dev :=
  verb o .observe [.fold f] (vShow "evr fold" fun d =>
    ((List.range 64).map fun l => ("line" ++ toString l, hex32 (lineWord (lineCfg d f.val l)))) ++
    (foldPens d f.val).flatMap fun p =>
      [("pen" ++ toString p, hex64 (d.pen p).pend.toNat ++ " " ++ hex64 (d.pen p).mask.toNat)] ++
      (List.range 4).map fun i => ("core" ++ toString (4 * p + i), hex64 (d.core (4 * p + i)).mask.toNat)) d

def vEvrSrc (o : Via) (n : Nat) (d : Dev) : Dev :=
  verb o .observe [] (fun d => if 512 ≤ n then vEr d 10 else vShow "evr src" (fun d => [("map", hex32 (mapRead d n))]) d) d

/-- A verb that writes an EVR register; `u` is the unit named in a stale answer. -/
def evrVerb (o : Via) (role : Role) (us : List UnitId) (u : UnitId) (ok : Bool) (off : Nat) (v : Dev → Word) (d : Dev) : Dev :=
  verb o role us (fun d => if ok then vWrite u (evrWrite d (viaReq d o) off (v d)) else vEr d 10) d

/-- `evr map` names a fold, and the source's unit must be there. -/
def vEvrMap (o : Via) (n : Nat) (f : Fin 8) (l : Nat) (mode : Option (Fin 4)) (open_ : Bool) (d : Dev) : Dev :=
  let us := match sourceUnit n with | some u => [UnitId.fold f, u] | none => [UnitId.fold f]
  evrVerb o .engineer us (.evr f) (n < 512 && l < 64) (4 * n)
    (fun d => mapWord { fold := f.val, line := l, mode := match mode with | some m => m.val | none => (srcMap d n).mode,
                        en := true, open_ := open_ }) d

def vEvrUnmap (o : Via) (n : Nat) (d : Dev) : Dev :=
  verb o .engineer (match sourceUnit n with | some u => [u] | none => []) (fun d =>
    let m := srcMap d n
    if 512 ≤ n then vEr d 10
    else vWrite (evrU m.fold) (evrWrite d (viaReq d o) (4 * n) (mapWord { m with en := false }))) d

/-- `evr line`: figures that are not given stay as they are. -/
def vEvrLine (o : Via) (f : Fin 8) (l : Nat) (x : LineSet) (d : Dev) : Dev :=
  evrVerb o .operate (.fold f :: (x.pens.getD []).filterMap fun p => if h : p < 8 then some (.pen ⟨p, h⟩) else none) (.evr f)
    (l < 64 && x.prio < 8 && (x.pens.getD []).all fun p => p < 8) (0x1100 + f.val * 0x400 + 4 * l)
    (fun d =>
      let c := lineCfg d f.val l
      lineWord { prio := x.prio, oneshot := x.oneshot.getD c.oneshot, en := x.en.getD c.en,
                 pens := match x.pens with | some ps => BitVec.ofNat 8 (maskBits ps) | none => c.pens }) d
where
  /-- The mask of a list of numbers. -/
  maskBits (ns : List Nat) : Nat := ns.foldl (fun m n => m ||| 1 <<< n) 0

/-- `evr limit` writes RATE and DEPTH, and CTL where it is named. -/
def vEvrLimit (o : Via) (f : Fin 8) (rate : Nat) (depth : Nat) (exempt : Option Nat) (maxpri : Option Nat) (d : Dev) : Dev :=
  verb o .engineer [.fold f] (fun d =>
    if 65536 ≤ rate || depth == 0 || 4096 ≤ depth || 8 < exempt.getD 0 || 7 < maxpri.getD 0 then vEr d 10
    else
      vReg o (.evr f) none (fun d =>
        let u := UnitId.evr f
        let s := d.slice f.val
        let d := regSet (regSet d u 4 (toWord rate)) u 8 (toWord depth)
        .ok (regSet (calmCheck d f.val) u 0 (toWord (maxpri.getD s.maxpri + put (exempt.getD s.exempt) 4)))) d) d

def vEvrFilter (o : Via) (n : Nat) (cyc : Nat) (d : Dev) : Dev :=
  evrVerb o .engineer [] .pmu (n < 88 && cyc < 16) (0x810 + 4 * (n / 8))
    (fun d => maskWrite (lget d.evr.flt 0 (n / 8)) (toWord (put cyc (4 * (n % 8)))) (toWord (put 15 (4 * (n % 8))))) d

def vEvrSet (o : Via) (f : Fin 8) (l : Nat) (d : Dev) : Dev :=
  evrVerb o .operate [.fold f] (.evr f) (l < 64) (0x1000 + f.val * 0x400 + (if l < 32 then 0x18 else 0x1C))
    (fun _ => toWord (put 1 (l % 32))) d

def vXEvrRaise (o : Via) (n : Nat) (d : Dev) : Dev :=
  verb o .engineer (match sourceUnit n with | some u => [u] | none => [])
    (fun d => if 512 ≤ n || sourceReserved n then vEr d 10 else vOk (fireSource d n)) d

def vXEvrRace (o : Via) (p : Fin 8) (d : Dev) : Dev :=
  verb o .engineer [.pen p] (vShow "x evr race" fun d =>
    (List.range 4).map fun i =>
      let k := d.core (4 * p.val + i)
      ("core" ++ toString (4 * p.val + i), hex64 k.race.toNat ++ " " ++ toString k.lost)) d

def vXEvrRaceClear (o : Via) (p : Fin 8) (d : Dev) : Dev :=
  verb o .engineer [.pen p] (fun d =>
    vOk ((List.range 4).foldl (fun d i => d.updCore (4 * p.val + i) fun k => { k with race := 0, lost := 0 }) d)) d

def vXEvrLatch (o : Via) (n : Option Nat) (d : Dev) : Dev :=
  match n with
  | none => verb o .engineer [] (vShow "x evr latch" fun d => [("latch", hex32 (d.evr.latch.setWidth 32))]) d
  | some n =>
    verb o .engineer [] (fun d =>
      if 24 ≤ n then vEr d 10 else vOk { d with evr := { d.evr with latch := setBit d.evr.latch n false } }) d

/-! The rows of the table. -/

/-- `PIN_INPUT_EDGE`: A WAKE, HALT or GPIO input changes and fires its source under MODE after the filter and synchroniser (R235). -/
def execPinInputEdge (n : PinId) (level : Bool) (s : State) : Host.Outcome State Fault Refusal :=
  lift (mPinInputEdge n level) s

/-- `PENDING_SET`: A source event passes the map and the rate limiter and sets the line's pending bit in the target pens (R237). -/
def execPendingSet (n : Fin 512) (s : State) : Host.Outcome State Fault Refusal :=
  lift (mPendingSet n) s

/-- `LIMITER_TICK`: Every 100 µs RATE tokens are added to the fold's bucket (R245). -/
def execLimiterTick (f : Fin 8) (s : State) : Host.Outcome State Fault Refusal :=
  lift (mLimiterTick f) s

/-- `EVR_DOOR_WRITE`: A write to EVR.DOOR rings a doorbell if the writer's fold may (R236). -/
def execEvrDoorWrite (a : Agent) (v : Word) (s : State) : Host.Outcome State Fault Refusal :=
  lift (mEvrDoorWrite a v) s

/-- `EVR_SET_WRITE`: A write to EVR.Ff.SET0 or SET1 fires lines directly (R236). -/
def execEvrSetWrite (a : Agent) (f : Fin 8) (hi : Bool) (v : Word) (s : State) : Host.Outcome State Fault Refusal :=
  lift (mEvrSetWrite a f hi v) s

/-- `EVR_MAP_WRITE`: A write to EVR.SRCn.MAP maps a source to a fold line, refused for foreign, absent or reserved sources (R235). -/
def execEvrMapWrite (a : Agent) (n : Fin 512) (v : Word) (s : State) : Host.Outcome State Fault Refusal :=
  lift (mEvrMapWrite a n v) s

/-- `EVR_LINE_WRITE`: A write to a line entry sets PRIO, PENS, ONESHOT and EN, refused above MAXPRI (R237). -/
def execEvrLineWrite (a : Agent) (f : Fin 8) (l : Fin 64) (v : Word) (s : State) : Host.Outcome State Fault Refusal :=
  lift (mEvrLineWrite a f l v) s

/-- `PSET_WRITE`: A write to PSET0 or PSET1 sets Tether pending bits (R240). -/
def execPsetWrite (a : Agent) (p : Fin 8) (hi : Bool) (v : Word) (s : State) : Host.Outcome State Fault Refusal :=
  lift (mPsetWrite a p hi v) s

/-- `PCLR_WRITE`: A write to PCLR0 or PCLR1 clears Tether pending bits (R240). -/
def execPclrWrite (a : Agent) (p : Fin 8) (hi : Bool) (v : Word) (s : State) : Host.Outcome State Fault Refusal :=
  lift (mPclrWrite a p hi v) s

/-- `MSET_WRITE`: A write to MSET0 or MSET1 unmasks lines on a Tether core (R240). -/
def execMsetWrite (a : Agent) (c : Fin 32) (hi : Bool) (v : Word) (s : State) : Host.Outcome State Fault Refusal :=
  lift (mMsetWrite a c hi v) s

/-- `MCLR_WRITE`: A write to MCLR0 or MCLR1 masks lines on a Tether core (R240). -/
def execMclrWrite (a : Agent) (c : Fin 32) (hi : Bool) (v : Word) (s : State) : Host.Outcome State Fault Refusal :=
  lift (mMclrWrite a c hi v) s

/-- `PEND_WRITE`: A Drove write to PEND stores the value, and any newly pending bit written 0 is lost and recorded (R242). -/
def execPendWrite (a : Agent) (p : Fin 8) (hi : Bool) (v : Word) (s : State) : Host.Outcome State Fault Refusal :=
  lift (mPendWrite a p hi v) s

/-- `MASK_WRITE`: A write to a Drove MASK register stores the mask and may deliver pending lines (R241). -/
def execMaskWrite (a : Agent) (p : Fin 8) (hi : Bool) (v : Word) (s : State) : Host.Outcome State Fault Refusal :=
  lift (mMaskWrite a p hi v) s

/-- `ASYNC_LATCH_CAPTURE`: In RETAIN or SPORE a WAKE or HALT edge is captured in EVR.LATCH (R247). -/
def execAsyncLatchCapture (n : Fin 24) (level : Bool) (s : State) : Host.Outcome State Fault Refusal :=
  lift (mAsyncLatchCapture n level) s

/-- `EVR`: Brenex evr shows the bucket and counters of each fold (R256). -/
def execEvr (o : Via) (s : State) : Host.Outcome State Fault Refusal :=
  lift (row o (vEvr o)) s

/-- `EVR_FOLD`: Brenex evr fold shows a fold's lines, pending bits and masks (R256). -/
def execEvrFold (o : Via) (f : Fin 8) (s : State) : Host.Outcome State Fault Refusal :=
  lift (row o (vEvrFold o f)) s

/-- `EVR_SRC`: Brenex evr src shows a source's map entry (R256). -/
def execEvrSrc (o : Via) (n : Nat) (s : State) : Host.Outcome State Fault Refusal :=
  lift (row o (vEvrSrc o n)) s

/-- `EVR_MAP`: Brenex evr map writes a map entry and enables it (R256). -/
def execEvrMap (o : Via) (n : Nat) (f : Fin 8) (l : Nat) (mode : Option (Fin 4)) (open_ : Bool) (s : State) : Host.Outcome State Fault Refusal :=
  lift (row o (vEvrMap o n f l mode open_)) s

/-- `EVR_UNMAP`: Brenex evr unmap clears EN (R256). -/
def execEvrUnmap (o : Via) (n : Nat) (s : State) : Host.Outcome State Fault Refusal :=
  lift (row o (vEvrUnmap o n)) s

/-- `EVR_LINE`: Brenex evr line writes a line entry (R256). -/
def execEvrLine (o : Via) (f : Fin 8) (l : Nat) (x : LineSet) (s : State) : Host.Outcome State Fault Refusal :=
  lift (row o (vEvrLine o f l x)) s

/-- `EVR_LIMIT`: Brenex evr limit writes the bucket and priority figures (R256). -/
def execEvrLimit (o : Via) (f : Fin 8) (rate : Nat) (depth : Nat) (exempt : Option Nat) (maxpri : Option Nat) (s : State) : Host.Outcome State Fault Refusal :=
  lift (row o (vEvrLimit o f rate depth exempt maxpri)) s

/-- `EVR_FILTER`: Brenex evr filter sets a pin's input filter (R256). -/
def execEvrFilter (o : Via) (n : Nat) (cyc : Nat) (s : State) : Host.Outcome State Fault Refusal :=
  lift (row o (vEvrFilter o n cyc)) s

/-- `EVR_SET`: Brenex evr set fires a line (R256). -/
def execEvrSet (o : Via) (f : Fin 8) (l : Nat) (s : State) : Host.Outcome State Fault Refusal :=
  lift (row o (vEvrSet o f l)) s

/-- `X_EVR_RAISE`: Brenex x evr raise fires a source once (R257). -/
def execXEvrRaise (o : Via) (n : Nat) (s : State) : Host.Outcome State Fault Refusal :=
  lift (row o (vXEvrRaise o n)) s

/-- `X_EVR_RACE`: Brenex x evr race shows RACE and LOST per core (R257). -/
def execXEvrRace (o : Via) (p : Fin 8) (s : State) : Host.Outcome State Fault Refusal :=
  lift (row o (vXEvrRace o p)) s

/-- `X_EVR_RACE_CLEAR`: Brenex x evr race clear clears them (R257). -/
def execXEvrRaceClear (o : Via) (p : Fin 8) (s : State) : Host.Outcome State Fault Refusal :=
  lift (row o (vXEvrRaceClear o p)) s

/-- `X_EVR_LATCH`: Brenex x evr latch shows EVR.LATCH or clears one bit (R257). -/
def execXEvrLatch (o : Via) (n : Option Nat) (s : State) : Host.Outcome State Fault Refusal :=
  lift (row o (vXEvrLatch o n)) s

end Sys2Proof.Machine
end

