-- ==== Sys2Proof/Machine/Halter.lean ====
section
/-! DEFINITION. The halter map (spec/11 R248 to R250, R254, R256 to R258). -/
namespace Sys2Proof.Machine

/-- The filtered level of an input at which its polarity calls it active, or the other (R248; log 105). -/
def haltLevelSet (i : Nat) (active : Bool) (h : Halter) : Halter := { h with level := setBit h.level i (active != h.pol.getLsbD i) }

/-- An input changes behind its glitch filter. The event router sees the ball through a filter of its own (PIN_INPUT_EDGE, log 105). -/
def haltInput (i : Nat) (active : Bool) (d : Dev) : Dev :=
  if haltLive d then haltChange d (haltLevelSet i active) else updHalt d (haltLevelSet i active)

def mHaltInputActive (i : Fin 8) (d : Dev) : Dev := haltInput i.val true d
def mHaltInputInactive (i : Fin 8) (d : Dev) : Dev := haltInput i.val false d

/-- The copies of an output's entry differ (R254). -/
def mHaltCfgMismatch (j : Fin 8) (d : Dev) : Dev :=
  if !haltLive d || d.halter.bad.getLsbD j.val then d
  else
    let d := updHalt d fun h => { h with bad := setBit h.bad j.val true }
    let d := haltTrip d j.val
    let d := emit d (some .evr) (some .halt) ("!HALT CFG out" ++ toString j.val)
    bwRecord d 2 .halt 0x12 0 0 0

/-- Forces outputs: the trip is held until HALT.CLR (R248). -/
def haltForce (d : Dev) (m : Nat) : Dev :=
  haltTrips (updHalt d fun h => { h with forced := h.forced ||| BitVec.ofNat 8 m }) (bitsOf m 8)

/-- Clears the trip of an output, unless an INS input is active or its copies differ. -/
def haltClear (d : Dev) (j : Nat) : Dev :=
  let h := d.halter
  if h.trip.getLsbD j && haltActive h j == 0 && !h.bad.getLsbD j then
    emit (updHalt d fun h => { h with trip := setBit h.trip j false, forced := setBit h.forced j false }) (some .evr) (some .halt)
      ("!HALT CLEAR out" ++ toString j)
  else d

/-- What a refused write leaves. -/
def haltRefuse (d : Dev) : Dev := updHalt d fun h => { h with refused := true }

/-- The configuration written: a new polarity is seen at once, a new entry is held in three equal copies (R248, R254). -/
def haltCfgWrite (d : Dev) (off : Nat) (v : Word) : Dev :=
  if off == 4 then haltFollow (haltInputs d.halter) (regSet d .halt off v)
  else
    let d := regSet d .halt off v
    haltSettle (updHalt d fun h => { h with bad := setBit h.bad ((off - 0x20) / 4) false })

/-- A read of the HALT unit: F and above. -/
def haltRead (d : Dev) (q : Req) (off : Nat) : Dev × RRes :=
  let h := d.halter
  let v : Word := match off with
    | 0x0 => toWord (putB h.lock 0)
    | 0x8 => toWord ((haltInputs h).toNat + put h.trip.toNat 8 +
        ((List.range 8).map fun j => putB (haltRuns h j) (16 + j)).sum + putB h.refused 31)
    | 0xC | 0x10 => 0
    | _ => regGet d .halt off
  guardR (atLeast q .f) d v

/-- A write to the HALT unit: K and M, FORCE also at F (R250, R258). -/
def haltWrite (d : Dev) (q : Req) (off : Nat) (v : Word) : Dev × WRes :=
  if off == 0xC then guardW (atLeast q .f) d (plWrite d .halt fun d => haltForce d (fld v 0 8))
  else
    guardW (isK q) d <|
      match off with
      | 0x0 => plWrite d .halt fun d => if bitOf v 0 then updHalt d fun h => { h with lock := true } else d
      | 0x8 => plWrite d .halt fun d => if bitOf v 31 then updHalt d fun h => { h with refused := false } else d
      | 0x10 => plWrite d .halt fun d => (bitsOf v.toNat 8).foldl haltClear d
      | _ =>
        if off == 4 || (idx off 0x20 4 8).isSome then
          stWrite d q .halt none haltRefuse fun d => if d.halter.lock then .error .power else .ok (haltCfgWrite d off v)
        else ignored d

/-- A write to the HALT unit by an agent. -/
def haltRow (a : Agent) (off : Nat) (v : Word) (d : Dev) : Dev :=
  writeRow a (toWord (0x40360000 + off)) (haltWrite d (reqOf d a) off v)

def mHaltForceWrite (a : Agent) (v : Word) (d : Dev) : Dev := haltRow a 0xC v d
def mHaltClrWrite (a : Agent) (v : Word) (d : Dev) : Dev := haltRow a 0x10 v d
def mHaltLockWrite (a : Agent) (v : Word) (d : Dev) : Dev := haltRow a 0 v d

/-! The verbs (R256, R257). -/

def vHalt (o : Via) (d : Dev) : Dev :=
  verb o .observe [] (vShow "halt" fun d =>
    let h := d.halter
    [("in", hex8 (haltInputs h).toNat), ("incfg", hex32 (incfgWord h)), ("trip", hex8 h.trip.toNat), ("lock", onOff h.lock)] ++
    (List.range 8).map fun j => ("out" ++ toString j, hex32 (haltMapWord (haltMap h j)) ++ " " ++ onOff (haltRuns h j))) d

/-- A verb that writes the halter configuration; locked, it is answered `er 60`. -/
def haltVerb (o : Via) (ok : Bool) (off : Nat) (v : Dev → Word) (d : Dev) : Dev :=
  verb o .engineer [] (fun d =>
    if !ok then vEr d 10
    else if d.halter.lock then vEr d 60
    else vWrite .halt (haltWrite d (viaReq d o) off (v d))) d

def vHaltMap (o : Via) (j : Nat) (ins : Nat) (safe : Option Bool) (latch : Option Bool) (d : Dev) : Dev :=
  haltVerb o (j < 8 && ins < 256) (0x20 + 4 * j)
    (fun d =>
      let m := haltMap d.halter j
      haltMapWord { m with ins := BitVec.ofNat 8 ins, safe := safe.getD m.safe, latch := latch.getD m.latch }) d

/-- `halt input`: the filter is named in nanoseconds. -/
def vHaltInput (o : Via) (i : Nat) (low : Bool) (flt : Option Nat) (d : Dev) : Dev :=
  haltVerb o (i < 8 && flt.getD 0 % 10 == 0 && flt.getD 0 ≤ 30) 4
    (fun d =>
      let h := d.halter
      incfgWord { h with pol := setBit h.pol i low, flt := match flt with | some n => lset h.flt i (n / 10) | none => h.flt }) d

/-- ARM of an output set or cleared. -/
def haltArmVerb (o : Via) (j : Nat) (on : Bool) (d : Dev) : Dev :=
  haltVerb o (j < 8) (0x20 + 4 * j) (fun d => haltMapWord { haltMap d.halter j with arm := on }) d

def vHaltArm (o : Via) (j : Nat) (d : Dev) : Dev := haltArmVerb o j true d
def vHaltDisarm (o : Via) (j : Nat) (d : Dev) : Dev := haltArmVerb o j false d

/-- `halt force`: a scoped session may trip an output whose source is mapped to its fold (R256; log 29). -/
def vHaltForce (o : Via) (j : Nat) (d : Dev) : Dev :=
  verb o .operate [] (fun d =>
    let m := srcMap d (372 + j)
    if 8 ≤ j then vEr d 10
    else if (viaScope d o).any fun f => !(m.en && m.fold == f.val) then vEr d 20
    else vWrite .halt (haltWrite d (viaReq d o) 0xC (toWord (1 <<< j)))) d

def vHaltClear (o : Via) (j : Nat) (d : Dev) : Dev :=
  verb o .operate [] (fun d =>
    if 8 ≤ j then vEr d 10
    else if haltActive d.halter j != 0 || d.halter.bad.getLsbD j then vEr d 40
    else vWrite .halt (haltWrite d (viaReq d o) 0x10 (toWord (1 <<< j)))) d

def vHaltLock (o : Via) (d : Dev) : Dev :=
  verb o .engineer [] (fun d =>
    if d.halter.lock then vEr d 60 else vWrite .halt (haltWrite d (viaReq d o) 0 1)) d

/-- `x halt sim`: the simulated value of an input holds until a device reset. -/
def vXHaltSim (o : Via) (i : Nat) (on : Bool) (d : Dev) : Dev :=
  verb o .engineer [] (fun d =>
    if 8 ≤ i then vEr d 10
    else if d.halter.lock then vEr d 60
    else vOk (haltChange d fun h => { h with sims := lset h.sims i (some on) })) d

/-! The rows of the table. -/

/-- `HALT_INPUT_ACTIVE`: A HALT input becoming active trips the outputs whose INS include it, which drive SAFE, fire their sources and raise !HALT TRIP (R248). -/
def execHaltInputActive (n : Fin 8) (s : State) : Host.Outcome State Fault Refusal :=
  lift (mHaltInputActive n) s

/-- `HALT_INPUT_INACTIVE`: The last active INS input becoming inactive ends a non-latched, input-made trip (R248). -/
def execHaltInputInactive (n : Fin 8) (s : State) : Host.Outcome State Fault Refusal :=
  lift (mHaltInputInactive n) s

/-- `HALT_FORCE_WRITE`: A write of 1 to a bit of HALT.FORCE trips that output (R248). -/
def execHaltForceWrite (a : Agent) (v : Word) (s : State) : Host.Outcome State Fault Refusal :=
  lift (mHaltForceWrite a v) s

/-- `HALT_CLR_WRITE`: A write of 1 to a bit of HALT.CLR ends a latched or forced trip, unless an INS input is active, and raises !HALT CLEAR (R248). -/
def execHaltClrWrite (a : Agent) (v : Word) (s : State) : Host.Outcome State Fault Refusal :=
  lift (mHaltClrWrite a v) s

/-- `HALT_LOCK_WRITE`: A write to HALT.CTL.LOCK freezes INCFG and the map entries (R250). -/
def execHaltLockWrite (a : Agent) (v : Word) (s : State) : Host.Outcome State Fault Refusal :=
  lift (mHaltLockWrite a v) s

/-- `HALT_CFG_MISMATCH`: Differing copies of an output's entry trip it and raise !HALT CFG (R254). -/
def execHaltCfgMismatch (j : Fin 8) (s : State) : Host.Outcome State Fault Refusal :=
  lift (mHaltCfgMismatch j) s

/-- `HALT`: Brenex halt shows the halter map (R256). -/
def execHalt (o : Via) (s : State) : Host.Outcome State Fault Refusal :=
  lift (row o (vHalt o)) s

/-- `HALT_MAP`: Brenex halt map writes HALT.MAPj (R256). -/
def execHaltMap (o : Via) (j : Nat) (ins : Nat) (safe : Option Bool) (latch : Option Bool) (s : State) : Host.Outcome State Fault Refusal :=
  lift (row o (vHaltMap o j ins safe latch)) s

/-- `HALT_INPUT`: Brenex halt input writes the polarity and filter (R256). -/
def execHaltInput (o : Via) (n : Nat) (low : Bool) (flt : Option Nat) (s : State) : Host.Outcome State Fault Refusal :=
  lift (row o (vHaltInput o n low flt)) s

/-- `HALT_ARM`: Brenex halt arm sets ARM (R256). -/
def execHaltArm (o : Via) (j : Nat) (s : State) : Host.Outcome State Fault Refusal :=
  lift (row o (vHaltArm o j)) s

/-- `HALT_DISARM`: Brenex halt disarm clears ARM (R256). -/
def execHaltDisarm (o : Via) (j : Nat) (s : State) : Host.Outcome State Fault Refusal :=
  lift (row o (vHaltDisarm o j)) s

/-- `HALT_FORCE`: Brenex halt force trips an output (R256). -/
def execHaltForce (o : Via) (j : Nat) (s : State) : Host.Outcome State Fault Refusal :=
  lift (row o (vHaltForce o j)) s

/-- `HALT_CLEAR`: Brenex halt clear clears a trip (R256). -/
def execHaltClear (o : Via) (j : Nat) (s : State) : Host.Outcome State Fault Refusal :=
  lift (row o (vHaltClear o j)) s

/-- `HALT_LOCK`: Brenex halt lock sets LOCK (R256). -/
def execHaltLock (o : Via) (s : State) : Host.Outcome State Fault Refusal :=
  lift (row o (vHaltLock o)) s

/-- `X_HALT_SIM`: Brenex x halt sim drives a simulated input value inside the map (R257). -/
def execXHaltSim (o : Via) (n : Nat) (on : Bool) (s : State) : Host.Outcome State Fault Refusal :=
  lift (row o (vXHaltSim o n on)) s

end Sys2Proof.Machine
end

