-- ==== Sys2Proof/Machine/Io.lean ====
section
/-! DEFINITION. The analog front end, the PWM channels and the GPIO unit (spec/17). -/
namespace Sys2Proof.Machine

/-! The analog front end (R373 to R377, R388 to R390). -/

/-- Changes the AFE. -/
def updAfe (d : Dev) (f : Afe → Afe) : Dev := { d with afe := f d.afe }

/-- Channel `k` of the AFE. -/
def afeCh (d : Dev) (k : Nat) : AfeCh := lget d.afe.chans AfeCh.reset k

/-- Changes channel `k` of the AFE. -/
def updAfeCh (d : Dev) (k : Nat) (f : AfeCh → AfeCh) : Dev :=
  updAfe d fun a => { a with chans := lset a.chans k (f (lget a.chans AfeCh.reset k)) }

/-- A code held in 24 bits. -/
def afeClip (x : Int) : Int × Bool :=
  if x < -8388608 then (-8388608, true) else if 8388607 < x then (8388607, true) else (x, false)

/-- The code a channel converts: the input's, or a proof test's (R377, R393). -/
def afeCode (c : AfeCh) (x : Int) : Int :=
  match c.test with
  | none => x
  | some false => c.lo.toInt - 1
  | some true => c.hi.toInt + 1

/-- Where a code lies: 0 within range, 1 below LO, 2 above HI. -/
def afeDir (c : AfeCh) (x : Int) : Nat := if x < c.lo.toInt then 1 else if c.hi.toInt < x then 2 else 0

/-- One valid conversion as the loop-fault logic counts it (R377). -/
def afeCount (c : AfeCh) (x : Int) : AfeCh :=
  let dir := afeDir c x
  let run := if dir == c.runDir then satInc c.run 15 else 1
  { c with runDir := dir, run := run, fault := if c.fcnt ≤ run then dir else c.fault }

/-- What a change of a channel's loop fault raises (R377). -/
def afeLoopEvent (d : Dev) (k was : Nat) : Dev :=
  let now := (afeCh d k).fault
  let text := "!AFE LOOP ch" ++ toString k
  if now == was then d
  else if now == 0 then emit d (some .afe) (some .afe) (text ++ " ok")
  else emit (fireSource d (304 + k)) (some .afe) (some .afe) (text ++ (if now == 1 then " low" else " high"))

/-- The cell of a channel. -/
def afeCell (c : AfeCh) (code : Int) (sat invalid : Bool) (seq : Nat) : Word :=
  toWord (((BitVec.ofInt 24 code).toNat) + putB (c.fault == 1) 24 + putB (c.fault == 2) 25 + putB sat 26 + putB invalid 27 + put seq 28)

/-- One channel at the end of a conversion period (R375 to R377). -/
def afeConvert (d : Dev) (k : Nat) (x : Int) : Dev :=
  let c := afeCh d k
  let mode := c.old.getD c.mode
  let seq := d.afe.seq
  let valid := mode != 0 && c.discard == 0 && !d.pmu.afeShed.getLsbD k && (d.unit .afe).st != .fault
  let changed : AfeCh → AfeCh := fun c => if c.old.isSome then { c with old := none, discard := 4 } else c
  if valid then
    let (code, sat) := afeClip (afeCode c x)
    let d := updAfeCh d k fun c => afeCount c code
    let d := updAfeCh d k fun c => changed { c with last := afeCell c code sat false seq }
    afeLoopEvent d k c.fault
  else
    updAfeCh d k fun c =>
      changed { c with last := afeCell c 0 false true seq, discard := if mode == 0 then c.discard else c.discard - 1 }

/-- A built frame enters the queue, or is discarded whole; an overrun is reported at most once per 1 ms (R376, R388). -/
def afeQueue (d : Dev) : Dev :=
  let cells := d.afe.chans.map (·.last)
  let d := updAfe d fun a => { a with seq := (a.seq + 1) % 16, frames := (a.frames + 1) % 65536, ovrWait := a.ovrWait - 1 }
  if d.afe.queue.length + 24 ≤ 384 then
    let d := updAfe d fun a => { a with queue := a.queue ++ cells, dry := false }
    if d.afe.frev then fireSource d 328 else d
  else
    let d := fireSource (updAfe d fun a => { a with ovr := satInc a.ovr 0xFFFF }) 329
    if d.afe.ovrWait == 0 then
      emit (updAfe d fun a => { a with ovrWait := max 1 (4 >>> a.rate) }) (some .afe) (some .afe) "!AFE OVERRUN"
    else d

/-- The end of a conversion period; an AFE in FAULT goes on with INVALID cells (R390). `xs` are the codes of the inputs. -/
def mAfeConversionPeriod (xs : List Int) (d : Dev) : Dev :=
  let r := d.unit .afe
  if d.clocked && !r.resetting && (r.st == .active || r.st == .fault) && xs.length == 24 then
    afeQueue (xs.zipIdx.foldl (fun d x => afeConvert d x.2 x.1) d)
  else d

def mAfeReferenceCheck (ok : Bool) (d : Dev) : Dev :=
  let r := d.unit .afe
  if !ok && d.clocked && !r.resetting && (r.st == .active || r.st == .idle) then
    let d := hwMove (updAfe d fun a => { a with refok := false }) .afe .fault
    emit d (some .afe) (some .afe) "!AFE FAULT ref"
  else d

/-- Whether a requester may read the frame queue: a core or DMA channel of the owning fold (R376). -/
def frameqReader (d : Dev) (q : Req) : Bool := d.afe.own.isSome && q.fold == d.afe.own

/-- A value the spec does not state. -/
def freeWord (d : Dev) : Dev × Word := ({ d with free := d.free + 1 }, Config.freeCell d.free)

/-- A read of an empty queue: the reset value 0 while nothing has entered the queue since its reset, later a value the spec does not state
(R394; log 22). -/
def emptyRead (d : Dev) (dry : Bool) : Dev × RRes := if dry then (d, .ok 0) else let (d, v) := freeWord d; (d, .ok v)

/-- A read of an AFE register. -/
def afeRead (d : Dev) (q : Req) (off : Nat) (side : Bool) : Dev × RRes :=
  let a := d.afe
  if off == 0x40 then
    if !frameqReader d q then (d, .error 0x08)
    else match a.queue with
      | [] => emptyRead d a.dry
      | w :: t => (if side then d else updAfe d fun a => { a with queue := t }, .ok w)
  else
    let v : Word :=
      if side then 0
      else match off with
        | 8 => toWord (putB a.refok 0 + put a.seq 4 + putB a.refused 31)
        | 0xC => toWord ((a.chans.zipIdx.map fun x => putB (x.1.fault != 0) x.2).sum)
        | 0x10 => toWord (a.ovr + put a.frames 16)
        | 0x44 => toWord (4 * a.queue.length)
        | _ => if 0x200 ≤ off && off % 16 == 0xC then (afeCh d ((off - 0x200) / 16)).last else regGet d .afe off
    guardR (isF q a.own) d v

/-- A refused write of the AFE. -/
def afeRefuse (d : Dev) : Dev := updAfe d fun a => { a with refused := true }

/-- A channel whose mode or rate changes completes the period under way as it was (R375, R389). -/
def afeChange (d : Dev) (f : AfeCh → AfeCh) (k : Nat) : Dev :=
  let st := (d.unit .afe).st
  updAfeCh d k fun c =>
    let c' := f c
    if st == .active then { c' with old := some (c.old.getD c.mode) } else { c' with discard := 4 }

/-- A write of a configuration register of the AFE (R375, R377, R389). -/
def afeSet (d : Dev) (off : Nat) (v : Word) : Dev :=
  if off == 0 then
    let d' := regSet d .afe 0 v
    if fld v 0 3 == d.afe.rate then d' else (List.range 24).foldl (fun d k => afeChange d id k) d'
  else
    let k := (off - 0x200) / 16
    let run0 (d : Dev) : Dev := updAfeCh d k fun c => { c with run := 0, runDir := 0 }
    match off % 16 with
    | 0 =>
      let c := afeCh d k
      let fcnt := if fld v 4 4 == 0 then c.fcnt else fld v 4 4
      let d := if fcnt == c.fcnt then d else run0 (updAfeCh d k fun c => { c with fcnt := fcnt })
      if fld v 0 2 == c.mode then d else quietMove (afeChange d (fun c => { c with mode := fld v 0 2 }) k) .afe
    | 0xC => d
    | _ => run0 (regSet d .afe off v)

/-- A write of AFE.OWN: the AFE must be OFF (R373). -/
def afeOwnSet (v : Word) (d : Dev) : Except RCode Dev :=
  if (d.unit .afe).st == .off then .ok (regSet d .afe 4 v) else .error .busy

/-- A write to an AFE register. -/
def afeWrite (d : Dev) (q : Req) (off : Nat) (v : Word) : Dev × WRes :=
  let fOk := isF q d.afe.own
  let st (f : Dev → Except RCode Dev) : Dev × WRes := stWrite d q .afe none afeRefuse f
  if off == 4 then guardW (isK q) d (st (afeOwnSet v))
  else if off == 8 then guardW fOk d (st fun d => .ok (if bitOf v 31 then updAfe d fun a => { a with refused := false } else d))
  else if off == 0 || (0x200 ≤ off && off < 0x380 && off % 16 != 0xC) then guardW fOk d (st fun d => .ok (afeSet d off v))
  else if off == 0xC || off == 0x10 || off == 0x40 || off == 0x44 || (0x200 ≤ off && off < 0x380) then denied d
  else guardW fOk d (ignored d)

def mAfeOwnWrite (a : Agent) (v : Word) (d : Dev) : Dev :=
  writeRow a 0x40300004 (if unitPresent d.variant .afe then afeWrite d (reqOf d a) 4 v else (d, .exc 0x0D))

/-! The PWM channels (R378 to R382, R390). -/

/-- Whether a linked trip, or a fence or reset of the owning fold, is in force (R382). -/
def pwmTripped (d : Dev) (n : Nat) : Bool :=
  let k := d.pwm n
  (k.hen && d.halter.trip.getLsbD k.hlink) ||
  (k.foldsafe && (match k.own with
    | some f => (d.unit (foldU f)).st == .fenced || (d.unit (foldU f)).resetting
    | none => false))

/-- The effective set-point: SP with the dither of the period, clamped (R379, R380). -/
def pwmEff (k : Pwm) : Nat :=
  if k.dhalf == 0 then k.sp
  else if k.dpos < k.dhalf then min (k.sp + k.damp) 0xFFFF else k.sp - k.damp

/-- A period start of a channel: the oldest queued set-point, its dither, its active counts (R379 to R381). -/
def pwmStart (k : Pwm) : Pwm :=
  let k := match k.spq with | [] => k | s :: t => { k with sp := s, spq := t }
  let s := pwmEff k
  let t := s * k.per + k.acc
  let (h, acc) := if s == 0 then (0, 0) else if s == 0xFFFF then (k.per, 0) else (t / 65536, t % 65536)
  { k with h := h, acc := acc, running := true, dpos := if k.dhalf == 0 then 0 else (k.dpos + 1) % (2 * k.dhalf) }

/-- The channel drives SAFE and is held. -/
def pwmHold (d : Dev) (n : Nat) : Dev := d.updPwm n fun k => { k with held := true, running := false, due := false }

/-- A period starts; where the period before it carried the waveform its end fires with PEV. A trip that falls due with it wins (R381,
R389). -/
def mPwmPeriodStart (n : Fin 16) (d : Dev) : Dev :=
  let r := d.unit (.pwm n)
  let k := d.pwm n.val
  if !d.clocked || r.st != .active || r.resetting then d
  else
    let d := if k.running && k.pev then fireSource d (88 + n.val) else d
    if k.due then pwmHold d n.val else if k.held then d else d.updPwm n.val pwmStart

/-- A linked trip or a fold fence reaches the channel (R382). -/
def mPwmHalterHold (n : Fin 16) (d : Dev) : Dev :=
  if ((d.pwm n.val).due || pwmTripped d n.val) && !(d.unit (.pwm n)).resetting then pwmHold d n.val else d

/-- The ball sampled in a phase: three mismatches in a row put the channel in FAULT (R390). -/
def mPwmBallSample (n : Fin 16) (ok : Bool) (d : Dev) : Dev :=
  let r := d.unit (.pwm n)
  let k := d.pwm n.val
  if !d.clocked || r.st != .active || r.resetting || !k.running then d
  else if ok then d.updPwm n.val fun k => { k with mism := 0 }
  else if k.mism < 2 then d.updPwm n.val fun k => { k with mism := k.mism + 1 }
  else
    let d := hwMove (d.updPwm n.val fun k => { k with mism := 0, ballf := true, running := false }) (.pwm n) .fault
    let d := fireSource d (88 + n.val)
    emit d (some .state) (some (.pwm n)) ("!PWM FAULT pwm" ++ toString n.val)

/-- STAT of a channel. -/
def pwmStat (k : Pwm) : Word :=
  toWord (putB k.held 0 + putB k.ballf 1 + put k.spq.length 8 + put k.qdrop 16 + putB k.refused 31)

/-- A read of a PWM register; `side` is the view at + 0x4000. -/
def pwmRead (d : Dev) (q : Req) (n : Nat) (off : Nat) (side : Bool) : Dev × RRes :=
  let k := d.pwm n
  let v : Word :=
    if side then (if off == 0x10 then k.lastSpq.setWidth 32 else 0)
    else match off with
      | 0xC => toWord k.sp
      | 0x18 => pwmStat k
      | 0x10 | 0x1C => 0
      | _ => regGet d (pwmU n) off
  guardR (isF q k.own) d v

/-- A refused write of a channel. -/
def pwmRefuse (n : Nat) (d : Dev) : Dev := d.updPwm n fun k => { k with refused := true }

/-- The first set-point makes an IDLE channel ACTIVE (R381). -/
def pwmWake (d : Dev) (n : Nat) : Dev := if (d.unit (pwmU n)).st == .idle then hwMove d (pwmU n) .active else d

/-- A write of SP discards what is queued (R389). -/
def pwmSpSet (n : Nat) (v : Word) (d : Dev) : Dev :=
  pwmWake (d.updPwm n fun k => { k with sp := fld v 0 16, qdrop := satAdd k.qdrop k.spq.length 255, spq := [] }) n

/-- A write of SPQ. -/
def pwmSpqSet (n : Nat) (v : Word) (d : Dev) : Dev :=
  pwmWake (d.updPwm n fun k => { k with spq := k.spq ++ [fld v 0 16], lastSpq := v.setWidth 16 }) n

/-- RESUME (R382). -/
def pwmResume (n : Nat) (d : Dev) : Dev := if pwmTripped d n || (d.pwm n).due then d else d.updPwm n fun k => { k with held := false }

/-- Whether a period is long enough (R378). -/
def perOk (pre per : Nat) : Bool := 4000 ≤ (pre + 1) * per

/-- A write to a PWM register. -/
def pwmWrite (d : Dev) (q : Req) (n : Nat) (off : Nat) (v : Word) : Dev × WRes :=
  let u := pwmU n
  let k := d.pwm n
  let fOk := isF q k.own
  let st (f : Dev → Except RCode Dev) : Dev × WRes := stWrite d q u none (pwmRefuse n) f
  match off with
  | 0x0 => guardW (isK q) d (st fun d => if (d.unit u).st == .off then .ok (regSet d u 0 v) else .error .busy)
  | 0x4 => guardW fOk d (st fun d => if perOk (fld v 0 4) (d.pwm n).per then .ok (regSet d u 4 v) else .error .invalid)
  | 0x8 => guardW fOk d (st fun d => if perOk (d.pwm n).pre (fld v 0 16) then .ok (regSet d u 8 v) else .error .invalid)
  | 0xC => guardW fOk d (plWrite d u (pwmSpSet n v))
  | 0x10 => guardW fOk d (if 8 ≤ k.spq.length then (d, .exc 0x09) else plWrite d u (pwmSpqSet n v))
  | 0x14 => guardW fOk d (st fun d => .ok (regSet d u 0x14 v))
  | 0x18 => guardW fOk d (st fun d => .ok (if bitOf v 31 then d.updPwm n fun k => { k with refused := false } else d))
  | 0x1C => guardW fOk d (plWrite d u fun d => if bitOf v 0 then pwmResume n d else d)
  | _ => guardW fOk d (ignored d)

/-- A write to a PWM register by an agent. -/
def pwmRow (a : Agent) (n : Fin 16) (off : Nat) (v : Word) (d : Dev) : Dev :=
  writeRow a (toWord (0x40350000 + n.val * 0x40 + off)) (pwmWrite d (reqOf d a) n.val off v)

def mPwmSpWrite (a : Agent) (n : Fin 16) (v : Word) (d : Dev) : Dev := pwmRow a n 0xC v d
def mPwmSpqWrite (a : Agent) (n : Fin 16) (v : Word) (d : Dev) : Dev := pwmRow a n 0x10 v d
def mPwmCmdResume (a : Agent) (n : Fin 16) (d : Dev) : Dev := pwmRow a n 0x1C 1 d
def mPwmOwnWrite (a : Agent) (n : Fin 16) (v : Word) (d : Dev) : Dev := pwmRow a n 0 v d
def mPwmPeriodWrite (a : Agent) (n : Fin 16) (per : Bool) (v : Word) (d : Dev) : Dev := pwmRow a n (if per then 8 else 4) v d

/-- What a channel's ball does (R381, R382, R387, R390): high-impedance, SAFE, or the waveform. -/
inductive PwmBall where
  | highZ
  | level (b : Bool)
  | wave
deriving DecidableEq, Repr

/-- The ball of a channel. -/
def pwmBall (d : Dev) (n : Nat) : PwmBall :=
  let r := d.unit (pwmU n)
  let k := d.pwm n
  if !d.clocked || !k.oe then .highZ
  else if r.st == .active && !k.held && k.running then .wave
  else .level k.safe

/-! GPIO (R383 to R386, R390). -/

/-- Changes the GPIO unit. -/
def updGpio (d : Dev) (f : Gpio → Gpio) : Dev := { d with gpio := f d.gpio }

/-- Whether a pin drives its ball: an output, and not a released open drain. -/
def gpioDrives (g : Gpio) (i : Nat) : Bool := g.dir.getLsbD i && !(g.odrn.getLsbD i && g.out.getLsbD i)

/-- The level of a pin's ball: what the pin drives, else what the board drives. -/
def gpioBall (d : Dev) (i : Nat) : Bool := if gpioDrives d.gpio i then d.gpio.out.getLsbD i else d.pins.gpio.getLsbD i

/-- The levels of a bank of 32 pins. -/
def gpioIn (d : Dev) (hi : Bool) : Word :=
  toWord ((List.range 32).map fun i => putB (gpioBall d (if hi then i + 32 else i)) i).sum

/-- The pins of a bank that a writer reaches: at F its fold's own, at K and M every pin (R383). -/
def gpioReach (d : Dev) (q : Req) (hi : Bool) : Word :=
  if isK q then 0xFFFFFFFF
  else toWord ((List.range 32).map fun i =>
    putB (q.fold.isSome && lget d.gpio.own none (if hi then i + 32 else i) == q.fold) i).sum

/-- The pins of a PULL register that a writer reaches, two bits per pin. -/
def pullReach (d : Dev) (q : Req) (i : Nat) : Word :=
  if isK q then 0xFFFFFFFF
  else toWord ((List.range 16).map fun j =>
    put (if q.fold.isSome && lget d.gpio.own none (16 * i + j) == q.fold then 3 else 0) (2 * j)).sum

/-- Sets half of OUT. -/
def gpioOut (d : Dev) (hi : Bool) (v : Word) : Dev := updGpio d fun g => { g with out := setHalf64 g.out hi v }

/-- The levels HALT_OUT balls show: the map's, but for a ball found different; in boundary scan they are the tester's (R386). -/
def hoLevels (d : Dev) : Dev × Nat :=
  if d.jtag then let (d, v) := freeWord d; (d, fld v 0 8)
  else (d, ((List.range 8).map fun j => putB (haltLevel d.halter j != d.gpio.hoMism.getLsbD j) j).sum)

/-- A read of a GPIO register: F and above; SNAPQ pops. -/
def gpioRead (d : Dev) (q : Req) (off : Nat) (side : Bool) : Dev × RRes :=
  let g := d.gpio
  if !atLeast q .f then (d, .error 0x08)
  else if off == 0x84 then
    match g.snapq with
    | [] => emptyRead d g.dry
    | w :: t => (if side then d else updGpio d fun g => { g with snapq := t }, .ok w)
  else if side then (d, .ok 0)
  else if off == 0x6C then
    let (d, l) := hoLevels d
    (d, .ok (toWord (l + put g.hoMism.toNat 8)))
  else
    (d, .ok (match off with
      | 0x0 => gpioIn d false
      | 0x4 => gpioIn d true
      | 0x8 => half64 g.out false
      | 0xC => half64 g.out true
      | 0x60 => half64 g.mism false
      | 0x64 => half64 g.mism true
      | 0x68 => d.pins.wake.setWidth 32
      | 0x88 => toWord (4 * g.snapq.length)
      | 0x8C => toWord g.ovr
      | 0x10 | 0x18 => half64 g.out false
      | 0x14 | 0x1C => half64 g.out true
      | _ => regGet d .gpio off))

/-- A write of SNAP.CTL: periods below 100 are ignored (R384). -/
def snapSet (v : Word) (d : Dev) : Dev :=
  regSet d .gpio 0x80 (if fld v 16 16 < 100 then maskWrite v (toWord (put d.gpio.snapPer 16)) 0xFFFF0000 else v)

/-- A write to a GPIO register. -/
def gpioWrite (d : Dev) (q : Req) (off : Nat) (v : Word) : Dev × WRes :=
  let hi := off % 8 == 4
  let m := gpioReach d q hi
  let fOk := atLeast q .f
  let pl (f : Dev → Dev) : Dev × WRes := guardW fOk d (plWrite d .gpio f)
  let st (f : Dev → Dev) : Dev × WRes := guardW fOk d (stWrite d q .gpio none id fun d => .ok (f d))
  match off with
  | 0x8 | 0xC => pl fun d => gpioOut d hi (maskWrite (half64 d.gpio.out hi) v m)
  | 0x10 | 0x14 => pl fun d => gpioOut d hi (half64 d.gpio.out hi ||| (v &&& m))
  | 0x18 | 0x1C => pl fun d => gpioOut d hi (half64 d.gpio.out hi &&& ~~~(v &&& m))
  | 0x20 | 0x24 | 0x28 | 0x2C => st fun d => regSet d .gpio off (maskWrite (regGet d .gpio off) v m)
  | 0x60 | 0x64 => st fun d => updGpio d fun g => { g with mism := setHalf64 g.mism hi (half64 g.mism hi &&& ~~~(v &&& m)) }
  | 0x6C => st fun d => updGpio d fun g => { g with hoMism := g.hoMism &&& ~~~((v >>> 8).setWidth 8) }
  | 0x80 => st (snapSet v)
  | 0x0 | 0x4 | 0x68 | 0x84 | 0x88 | 0x8C => denied d
  | _ =>
    match idx off 0x30 4 4, idx off 0x40 4 8 with
    | some i, _ => st fun d => regSet d .gpio off (maskWrite (regGet d .gpio off) v (pullReach d q i))
    | _, some _ => guardW (isK q) d (st fun d => regSet d .gpio off v)
    | _, _ => guardW fOk d (ignored d)

/-- A write to a GPIO register by an agent. -/
def gpioRow (a : Agent) (off : Nat) (v : Word) (d : Dev) : Dev := writeRow a (toWord (0x40340000 + off)) (gpioWrite d (reqOf d a) off v)

def mGpioOutWrite (a : Agent) (hi : Bool) (v : Word) (d : Dev) : Dev := gpioRow a (if hi then 0xC else 8) v d
def mGpioOsetWrite (a : Agent) (hi : Bool) (v : Word) (d : Dev) : Dev := gpioRow a (if hi then 0x14 else 0x10) v d
def mGpioOclrWrite (a : Agent) (hi : Bool) (v : Word) (d : Dev) : Dev := gpioRow a (if hi then 0x1C else 0x18) v d

/-- The GPIO unit works: powered, not fenced (R387, R390). -/
def gpioLive (d : Dev) : Bool := d.clocked && (d.unit .gpio).st != .fenced && !(d.unit .gpio).resetting

/-- The inputs of a bank are captured (R384). -/
def mGpioSnapshot (d : Dev) : Dev :=
  let g := d.gpio
  if !gpioLive d || !g.snapEn then d
  else if 32 ≤ g.snapq.length then updGpio d fun g => { g with ovr := satInc g.ovr 0xFFFF }
  else updGpio d fun g => { g with snapq := g.snapq ++ [gpioIn d g.snapBank], dry := false }

/-- An output ball has differed from OUT for more than 1 µs; reported at most once in an RTC second per pin (R390). -/
def mGpioMismatch (i : Fin 64) (d : Dev) : Dev :=
  if !gpioLive d || !gpioDrives d.gpio i.val then d
  else
    let d := updGpio d fun g => { g with mism := setBit g.mism i.val true }
    if tfind d.gpio.mismSec i.val == some d.pmu.rtcSec then d
    else
      let d := updGpio d fun g => { g with mismSec := tput g.mismSec i.val d.pmu.rtcSec }
      emit d (some .state) (some .gpio) ("!GPIO MISMATCH " ++ toString i.val)

/-- A HALT_OUT ball has differed from the level of the map for more than 1 µs (R386). -/
def mHaltBallMismatch (j : Fin 8) (d : Dev) : Dev :=
  if !haltLive d || !d.halter.driven || !d.clocked || d.jtag then d
  else
    let d := updGpio d fun g => { g with hoMism := setBit g.hoMism j.val true }
    emit d (some .evr) (some .halt) ("!HALT BALL out" ++ toString j.val)

/-! Verbs (R392, R393). -/

/-- The word of an OWN register. -/
def foldArg (f : Option (Fin 8)) : Word := match f with | none => 0 | some f => toWord (f.val + 0x80)

/-- What the reports show of a channel of the AFE. -/
def afeFields (d : Dev) (k : Nat) : List (String × String) :=
  let c := afeCh d k
  [("ch", toString k), ("mode", match c.mode with | 1 => "current" | 2 => "voltage" | _ => "off"), ("last", hex32 c.last),
   ("loop", match c.fault with | 1 => "low" | 2 => "high" | _ => "ok")]

def vAfe (o : Via) (d : Dev) : Dev :=
  verb o .observe [.afe] (vShow "afe" fun d =>
    [("state", stateName (d.unit .afe).st), ("rate", toString d.afe.rate), ("ovr", toString d.afe.ovr)] ++
    (List.range 24).flatMap (afeFields d)) d

/-- A verb that writes AFE registers as one request. -/
def afeVerb (o : Via) (role : Role) (ok : Bool) (f : Dev → Except RCode Dev) (d : Dev) : Dev :=
  verb o role [.afe] (fun d => if !ok then vEr d 10 else vWrite .afe (stWrite d (viaReq d o) .afe none afeRefuse f)) d

def vAfeOwn (o : Via) (f : Option (Fin 8)) (d : Dev) : Dev := afeVerb o .engineer true (afeOwnSet (foldArg f)) d

/-- The RATE code of a conversion rate (R375). -/
def rateCode (n : Nat) : Option Nat := [4000, 2000, 1000, 500, 250, 100, 50, 10].idxOf? n

def vAfeRate (o : Via) (sps : Nat) (d : Dev) : Dev :=
  afeVerb o .operate (rateCode sps).isSome (fun d =>
    .ok (afeSet d 0 (maskWrite (regGet d .afe 0) (toWord ((rateCode sps).getD 0)) 7))) d

/-- A list of channels as a verb names it. -/
def chansOk (ns : List Nat) : Bool := !ns.isEmpty && ns.all (· < 24)

def vAfeCh (o : Via) (ns : List Nat) (mode : Fin 3) (d : Dev) : Dev :=
  afeVerb o .operate (chansOk ns) (fun d =>
    .ok (ns.foldl (fun d k => afeSet d (0x200 + 16 * k) (maskWrite (regGet d .afe (0x200 + 16 * k)) (toWord mode.val) 3)) d)) d

/-- A code that a threshold can hold. -/
def codeOk (x : Int) : Bool := -8388608 ≤ x && x ≤ 8388607

def vAfeLoopSet (o : Via) (ns : List Nat) (lo hi : Int) (count : Option Nat) (d : Dev) : Dev :=
  let ok : Bool := chansOk ns && codeOk lo && codeOk hi && (match count with | none => true | some n => 1 ≤ n && n ≤ 15)
  afeVerb o .operate ok (fun d =>
    .ok (ns.foldl (fun d k =>
      let a := 0x200 + 16 * k
      let d := afeSet d (a + 4) ((BitVec.ofInt 24 lo).setWidth 32)
      let d := afeSet d (a + 8) ((BitVec.ofInt 24 hi).setWidth 32)
      match count with
      | none => d
      | some n => afeSet d a (maskWrite (regGet d .afe a) (toWord (put n 4)) 0xF0)) d)) d

/-- A frame cell by its fields (R376). -/
def cellFields (w : Word) : List (String × String) :=
  [("sample", toString (w.setWidth 24).toInt), ("low", onOff (bitOf w 24)), ("high", onOff (bitOf w 25)), ("sat", onOff (bitOf w 26)),
   ("invalid", onOff (bitOf w 27)), ("seq", toString (fld w 28 4))]

def vXAfeLast (o : Via) (d : Dev) : Dev :=
  verb o .engineer [.afe] (vShow "x afe last" fun d => (List.range 24).flatMap fun k => ("ch", toString k) :: cellFields (afeCh d k).last) d

def vXAfeTest (o : Via) (ch : Nat) (x : Option Bool) (d : Dev) : Dev :=
  verb o .engineer [.afe] (fun d => runOrSlow d fun d =>
    if ch < 24 then vOk (updAfeCh d ch fun c => { c with test := x }) else vEr d 10) d

/-- What the reports show of a PWM channel. -/
def pwmFields (d : Dev) (n : Nat) : List (String × String) :=
  let k := d.pwm n
  [("pwm", toString n), ("state", stateName (d.unit (pwmU n)).st), ("owner", foldText k.own), ("own", hex32 (pwmOwnWord k)),
   ("cfg", hex32 (pwmCfgWord k)), ("period", toString ((k.pre + 1) * k.per)), ("sp", toString k.sp), ("dither", numsText [k.damp, k.dhalf]),
   ("held", onOff k.held), ("queue", toString k.spq.length), ("status", hex32 (pwmStat k)),
   ("ball", match pwmBall d n with | .highZ => "z" | .wave => "wave" | .level b => if b then "high" else "low")]

def vPwm (o : Via) (n : Option (Fin 16)) (d : Dev) : Dev :=
  verb o .observe (match n with | some n => [.pwm n] | none => []) (vShow "pwm" fun d =>
    match n with | some n => pwmFields d n.val | none => (List.range 16).flatMap (pwmFields d)) d

/-- A verb that writes a register of a PWM channel. -/
def pwmVerb (o : Via) (role : Role) (n : Fin 16) (ok : Bool) (off : Nat) (v : Dev → Word) (d : Dev) : Dev :=
  verb o role [.pwm n] (fun d => if ok then vWrite (.pwm n) (pwmWrite d (viaReq d o) n.val off (v d)) else vEr d 10) d

def vPwmOwn (o : Via) (n : Fin 16) (f : Option (Fin 8)) (d : Dev) : Dev :=
  pwmVerb o .engineer n true 0 (fun d => maskWrite (pwmOwnWord (d.pwm n.val)) (foldArg f) 0xFF) d

def vPwmSafe (o : Via) (n : Fin 16) (high : Bool) (oe : Option Bool) (d : Dev) : Dev :=
  pwmVerb o .engineer n true 0 (fun d =>
    let w := maskWrite (pwmOwnWord (d.pwm n.val)) (toWord (putB high 8)) 0x100
    match oe with | none => w | some b => maskWrite w (toWord (putB b 9)) 0x200) d

def vPwmCfg (o : Via) (n : Fin 16) (x : PwmCfg) (d : Dev) : Dev :=
  let ok : Bool := x.pre < 16 && x.per < 65536 && (match x.halter with | some (some j) => j < 8 | _ => true)
  verb o .operate [.pwm n] (fun d =>
    if !ok then vEr d 10
    else vWrite (.pwm n) (stWrite d (viaReq d o) (.pwm n) none (pwmRefuse n.val) fun d =>
      if !perOk x.pre x.per then .error .invalid
      else
        let w := maskWrite (pwmCfgWord (d.pwm n.val)) (toWord x.pre) 0xF
        let w := match x.polHigh with | none => w | some b => maskWrite w (toWord (putB (!b) 4)) 0x10
        let w := match x.pev with | none => w | some b => maskWrite w (toWord (putB b 5)) 0x20
        let w := match x.foldsafe with | none => w | some b => maskWrite w (toWord (putB b 6)) 0x40
        let w := match x.halter with
          | none => w
          | some none => w &&& 0xFFFFFF7F
          | some (some j) => maskWrite w (toWord (0x80 + put j 8)) 0x780
        .ok (regSet (regSet d (.pwm n) 4 w) (.pwm n) 8 (toWord x.per)))) d

def vPwmSet (o : Via) (n : Fin 16) (sp : Nat) (d : Dev) : Dev := pwmVerb o .operate n (sp < 65536) 0xC (fun _ => toWord sp) d

def vPwmDither (o : Via) (n : Fin 16) (x : Option (Nat × Nat)) (d : Dev) : Dev :=
  let ok : Bool := match x with | none => true | some (a, h) => a < 65536 && 1 ≤ h && h ≤ 255
  pwmVerb o .operate n ok 0x14 (fun _ => match x with | none => 0 | some (a, h) => toWord (a + put h 16)) d

def vPwmResume (o : Via) (n : Fin 16) (d : Dev) : Dev :=
  verb o .operate [.pwm n] (fun d =>
    if (d.unit (.pwm n)).st != .fenced && (pwmTripped d n.val || (d.pwm n.val).due) then vEr d 40
    else vWrite (.pwm n) (pwmWrite d (viaReq d o) n.val 0x1C 1)) d

def vXPwmRegs (o : Via) (n : Fin 16) (d : Dev) : Dev := verb o .engineer [.pwm n] (vShow "x pwm regs" fun d => pwmFields d n.val) d

def vGpio (o : Via) (d : Dev) : Dev :=
  verb o .observe [] (fun d =>
    let (d, l) := hoLevels d
    vShow "gpio" (fun d =>
      ((List.range 64).map fun i =>
        ("gpio" ++ toString i, joinSp [foldText (lget d.gpio.own none i), onOff (d.gpio.dir.getLsbD i), onOff (d.gpio.out.getLsbD i),
          onOff (gpioBall d i), onOff (d.gpio.mism.getLsbD i)])) ++
      [("wake", toString d.pins.wake.toNat), ("hoball", toString l)]) d) d

/-- A verb on GPIO pins: in a scoped session the pins of its fold only (R392; log 39). -/
def gpioVerb (o : Via) (role : Role) (ns : List Nat) (f : Dev → VRes) (d : Dev) : Dev :=
  verb o role [] (fun d =>
    let mine : Bool := match viaScope d o with
      | none => true
      | some s => ns.all fun i => lget d.gpio.own none i == some s.val
    if ns.isEmpty || !ns.all (· < 64) then vEr d 10 else if mine then f d else vEr d 20) d

/-- A verb that writes state-bearing registers of the GPIO unit. -/
def gpioSt (o : Via) (d : Dev) (f : Dev → Dev) : VRes := vWrite .gpio (stWrite d (viaReq d o) .gpio none id fun d => .ok (f d))

/-- A verb that writes outputs. -/
def gpioPl (d : Dev) (f : Dev → Dev) : VRes := vWrite .gpio (plWrite d .gpio f)

def vGpioOwn (o : Via) (ns : List Nat) (f : Option (Fin 8)) (d : Dev) : Dev :=
  gpioVerb o .engineer ns (fun d => gpioSt o d fun d =>
    updGpio d fun g => { g with own := ns.foldl (fun l i => lset l i (f.map (·.val))) g.own }) d

def vGpioDir (o : Via) (ns : List Nat) (out od : Bool) (pull : Option (Fin 3)) (d : Dev) : Dev :=
  gpioVerb o .operate ns (fun d => gpioSt o d fun d => updGpio d fun g => ns.foldl (fun g i =>
    { g with
      dir := setBit g.dir i out, odrn := setBit g.odrn i od,
      pull := match pull with | none => g.pull | some p => lset g.pull i p.val }) g) d

def vGpioSet (o : Via) (ns : List Nat) (d : Dev) : Dev :=
  gpioVerb o .operate ns (fun d => gpioPl d fun d => updGpio d fun g => { g with out := ns.foldl (fun x i => setBit x i true) g.out }) d

def vGpioClr (o : Via) (ns : List Nat) (d : Dev) : Dev :=
  gpioVerb o .operate ns (fun d => gpioPl d fun d => updGpio d fun g => { g with out := ns.foldl (fun x i => setBit x i false) g.out }) d

def vGpioSnap (o : Via) (x : Option (Nat × Nat)) (d : Dev) : Dev :=
  verb o .operate [.gpio] (fun d =>
    match x with
    | none => gpioSt o d fun d => updGpio d fun g => { g with snapEn := false }
    | some (b, n) =>
      if b < 2 && 100 ≤ n && n ≤ 65535 then
        gpioSt o d fun d => updGpio d fun g => { g with snapEn := true, snapBank := b == 1, snapPer := n }
      else vEr d 10) d

def vXGpioMism (o : Via) (clear : Bool) (d : Dev) : Dev :=
  verb o .engineer [.gpio] (fun d =>
    if clear then gpioSt o d fun d => updGpio d fun g => { g with mism := 0, hoMism := 0 }
    else vShow "x gpio mism" (fun d => [("mism", toString d.gpio.mism.toNat), ("hoball", toString d.gpio.hoMism.toNat)]) d) d

/-! The rows of the table. -/

/-- `AFE_CONVERSION_PERIOD`: At each conversion period the AFE builds a 24-cell frame, updates the loop faults and queues the frame (R376). -/
def execAfeConversionPeriod (xs : List Int) (s : State) : Host.Outcome State Fault Refusal :=
  lift (mAfeConversionPeriod xs) s

/-- `AFE_REFERENCE_CHECK`: Every 1 ms the internal reference is checked, and a deviation puts the AFE in FAULT (R390). -/
def execAfeReferenceCheck (ok : Bool) (s : State) : Host.Outcome State Fault Refusal :=
  lift (mAfeReferenceCheck ok) s

/-- `AFE_OWN_WRITE`: A write to AFE.OWN sets the owner, and is refused unless the AFE is OFF (R373). -/
def execAfeOwnWrite (a : Agent) (v : Word) (s : State) : Host.Outcome State Fault Refusal :=
  lift (mAfeOwnWrite a v) s

/-- `PWM_PERIOD_START`: A PWM period starts, takes the next queued set-point, applies dither and sets the active phase (R379). -/
def execPwmPeriodStart (n : Fin 16) (s : State) : Host.Outcome State Fault Refusal :=
  lift (mPwmPeriodStart n) s

/-- `PWM_SP_WRITE`: A write to PWMn.SP sets the set-point, discards queued entries and makes an IDLE channel ACTIVE (R379). -/
def execPwmSpWrite (a : Agent) (n : Fin 16) (v : Word) (s : State) : Host.Outcome State Fault Refusal :=
  lift (mPwmSpWrite a n v) s

/-- `PWM_SPQ_WRITE`: A write to PWMn.SPQ queues a set-point, raising 0x09 when the queue is full (R381). -/
def execPwmSpqWrite (a : Agent) (n : Fin 16) (v : Word) (s : State) : Host.Outcome State Fault Refusal :=
  lift (mPwmSpqWrite a n v) s

/-- `PWM_CMD_RESUME`: A PWMn.CMD write of RESUME clears HELD when no linked trip is in force (R382). -/
def execPwmCmdResume (a : Agent) (n : Fin 16) (s : State) : Host.Outcome State Fault Refusal :=
  lift (mPwmCmdResume a n) s

/-- `PWM_HALTER_HOLD`: Within 3 CLK_PER cycles of a linked halter trip or fold fence the channel drives SAFE and sets HELD (R382). -/
def execPwmHalterHold (n : Fin 16) (s : State) : Host.Outcome State Fault Refusal :=
  lift (mPwmHalterHold n) s

/-- `PWM_BALL_SAMPLE`: The PWM ball is sampled mid-phase, and three mismatches put the channel in FAULT with !PWM FAULT (R390). -/
def execPwmBallSample (n : Fin 16) (ok : Bool) (s : State) : Host.Outcome State Fault Refusal :=
  lift (mPwmBallSample n ok) s

/-- `PWM_OWN_WRITE`: A write to PWMn.OWN sets the owner, SAFE and OE while the channel is OFF (R378). -/
def execPwmOwnWrite (a : Agent) (n : Fin 16) (v : Word) (s : State) : Host.Outcome State Fault Refusal :=
  lift (mPwmOwnWrite a n v) s

/-- `PWM_PERIOD_WRITE`: A write to CFG.PRE or PER is refused when the period is shorter than 4000 cycles (R378). -/
def execPwmPeriodWrite (a : Agent) (n : Fin 16) (per : Bool) (v : Word) (s : State) : Host.Outcome State Fault Refusal :=
  lift (mPwmPeriodWrite a n per v) s

/-- `GPIO_OUT_WRITE`: A write to GPIO OUT changes the fold's own pins (R383). -/
def execGpioOutWrite (a : Agent) (hi : Bool) (v : Word) (s : State) : Host.Outcome State Fault Refusal :=
  lift (mGpioOutWrite a hi v) s

/-- `GPIO_OSET_WRITE`: A write to OSET sets single OUT bits (R383). -/
def execGpioOsetWrite (a : Agent) (hi : Bool) (v : Word) (s : State) : Host.Outcome State Fault Refusal :=
  lift (mGpioOsetWrite a hi v) s

/-- `GPIO_OCLR_WRITE`: A write to OCLR clears single OUT bits (R383). -/
def execGpioOclrWrite (a : Agent) (hi : Bool) (v : Word) (s : State) : Host.Outcome State Fault Refusal :=
  lift (mGpioOclrWrite a hi v) s

/-- `GPIO_SNAPSHOT`: Every PER CLK_PER cycles the 32 inputs of a bank are captured into the snapshot queue (R384). -/
def execGpioSnapshot (s : State) : Host.Outcome State Fault Refusal :=
  lift (mGpioSnapshot) s

/-- `GPIO_MISMATCH`: An output ball differing from OUT for 1 µs sets MISM and raises !GPIO MISMATCH (R390). -/
def execGpioMismatch (n : Fin 64) (s : State) : Host.Outcome State Fault Refusal :=
  lift (mGpioMismatch n) s

/-- `HALT_BALL_MISMATCH`: A HALT_OUT ball differing from the map's level for 1 µs sets HOBALL.MISM and raises !HALT BALL (R386). -/
def execHaltBallMismatch (j : Fin 8) (s : State) : Host.Outcome State Fault Refusal :=
  lift (mHaltBallMismatch j) s

/-- `AFE`: Brenex afe shows the AFE status (R392). -/
def execAfe (o : Via) (s : State) : Host.Outcome State Fault Refusal :=
  lift (row o (vAfe o)) s

/-- `AFE_OWN`: Brenex afe own writes AFE.OWN (R392). -/
def execAfeOwn (o : Via) (f : Option (Fin 8)) (s : State) : Host.Outcome State Fault Refusal :=
  lift (row o (vAfeOwn o f)) s

/-- `AFE_RATE`: Brenex afe rate sets the conversion rate (R392). -/
def execAfeRate (o : Via) (sps : Nat) (s : State) : Host.Outcome State Fault Refusal :=
  lift (row o (vAfeRate o sps)) s

/-- `AFE_CH`: Brenex afe ch sets the channel modes (R392). -/
def execAfeCh (o : Via) (ns : List Nat) (mode : Fin 3) (s : State) : Host.Outcome State Fault Refusal :=
  lift (row o (vAfeCh o ns mode)) s

/-- `AFE_LOOP_SET`: Brenex afe loop sets LO, HI and FCNT (R392). -/
def execAfeLoopSet (o : Via) (ns : List Nat) (lo : Int) (hi : Int) (count : Option Nat) (s : State) : Host.Outcome State Fault Refusal :=
  lift (row o (vAfeLoopSet o ns lo hi count)) s

/-- `PWM`: Brenex pwm shows the channels (R392). -/
def execPwm (o : Via) (n : Option (Fin 16)) (s : State) : Host.Outcome State Fault Refusal :=
  lift (row o (vPwm o n)) s

/-- `PWM_OWN`: Brenex pwm own writes the owner (R392). -/
def execPwmOwn (o : Via) (n : Fin 16) (f : Option (Fin 8)) (s : State) : Host.Outcome State Fault Refusal :=
  lift (row o (vPwmOwn o n f)) s

/-- `PWM_SAFE`: Brenex pwm safe writes SAFE and OE (R392). -/
def execPwmSafe (o : Via) (n : Fin 16) (high : Bool) (oe : Option Bool) (s : State) : Host.Outcome State Fault Refusal :=
  lift (row o (vPwmSafe o n high oe)) s

/-- `PWM_CFG`: Brenex pwm cfg writes CFG and PER (R392). -/
def execPwmCfg (o : Via) (n : Fin 16) (x : PwmCfg) (s : State) : Host.Outcome State Fault Refusal :=
  lift (row o (vPwmCfg o n x)) s

/-- `PWM_SET`: Brenex pwm set writes SP (R392). -/
def execPwmSet (o : Via) (n : Fin 16) (sp : Nat) (s : State) : Host.Outcome State Fault Refusal :=
  lift (row o (vPwmSet o n sp)) s

/-- `PWM_DITHER`: Brenex pwm dither writes DITH (R392). -/
def execPwmDither (o : Via) (n : Fin 16) (x : Option (Nat × Nat)) (s : State) : Host.Outcome State Fault Refusal :=
  lift (row o (vPwmDither o n x)) s

/-- `PWM_RESUME`: Brenex pwm resume gives RESUME (R392). -/
def execPwmResume (o : Via) (n : Fin 16) (s : State) : Host.Outcome State Fault Refusal :=
  lift (row o (vPwmResume o n)) s

/-- `GPIO`: Brenex gpio shows the pins (R392). -/
def execGpio (o : Via) (s : State) : Host.Outcome State Fault Refusal :=
  lift (row o (vGpio o)) s

/-- `GPIO_OWN`: Brenex gpio own writes OWNk (R392). -/
def execGpioOwn (o : Via) (ns : List Nat) (f : Option (Fin 8)) (s : State) : Host.Outcome State Fault Refusal :=
  lift (row o (vGpioOwn o ns f)) s

/-- `GPIO_DIR`: Brenex gpio dir writes DIR, ODRN and PULL (R392). -/
def execGpioDir (o : Via) (ns : List Nat) (out : Bool) (od : Bool) (pull : Option (Fin 3)) (s : State) : Host.Outcome State Fault Refusal :=
  lift (row o (vGpioDir o ns out od pull)) s

/-- `GPIO_SET`: Brenex gpio set sets outputs (R392). -/
def execGpioSet (o : Via) (ns : List Nat) (s : State) : Host.Outcome State Fault Refusal :=
  lift (row o (vGpioSet o ns)) s

/-- `GPIO_CLR`: Brenex gpio clr clears outputs (R392). -/
def execGpioClr (o : Via) (ns : List Nat) (s : State) : Host.Outcome State Fault Refusal :=
  lift (row o (vGpioClr o ns)) s

/-- `GPIO_SNAP`: Brenex gpio snap configures the snapshot (R392). -/
def execGpioSnap (o : Via) (x : Option (Nat × Nat)) (s : State) : Host.Outcome State Fault Refusal :=
  lift (row o (vGpioSnap o x)) s

/-- `X_AFE_LAST`: Brenex x afe last shows each channel's last cell (R393). -/
def execXAfeLast (o : Via) (s : State) : Host.Outcome State Fault Refusal :=
  lift (row o (vXAfeLast o)) s

/-- `X_AFE_TEST`: Brenex x afe test replaces a channel's codes for proof testing (R393). -/
def execXAfeTest (o : Via) (ch : Nat) (x : Option Bool) (s : State) : Host.Outcome State Fault Refusal :=
  lift (row o (vXAfeTest o ch x)) s

/-- `X_PWM_REGS`: Brenex x pwm regs decodes a channel's registers (R393). -/
def execXPwmRegs (o : Via) (n : Fin 16) (s : State) : Host.Outcome State Fault Refusal :=
  lift (row o (vXPwmRegs o n)) s

/-- `X_GPIO_MISM`: Brenex x gpio mism shows or clears the mismatch bits (R393). -/
def execXGpioMism (o : Via) (clear : Bool) (s : State) : Host.Outcome State Fault Refusal :=
  lift (row o (vXGpioMism o clear)) s

end Sys2Proof.Machine
end

