-- ==== Sys2Proof/Machine/Ports.lean ====
section
/-! DEFINITION. The field ports, their queues, the partner table and the buffer pool (spec/16). The reads that pop a queue for an
outstanding load and the allocator's cycle are in Reads.lean. -/
namespace Sys2Proof.Machine

/-! Working and able ports (R346, R368). -/

/-- A port receives and sends: it is on and able; a T1S port runs CSMA/CD while its PLCA status is not OK (R354). -/
def portLive (d : Dev) (u : FieldPort) : Bool :=
  let r := d.unit (portUnit u)
  d.clocked && !r.resetting && (r.st == .active || (portClass (portId u) == 0 && r.st == .idle))

/-- A port is switched on and not fenced. -/
def portOn (d : Dev) (u : FieldPort) : Bool :=
  let r := d.unit (portUnit u)
  d.clocked && !r.resetting && (r.st == .active || r.st == .idle)

/-- A port that is on follows its ability as an event of its own. -/
def portMove (d : Dev) (u : FieldPort) : Dev := hwMove d (portUnit u) (if portAble d (portUnit u) then .active else .idle)

/-- Advances a saturating 8-bit counter of a port. -/
def satByte (n : Nat) : Nat := satInc n 255

/-! Receiving (R347, R352, R355, R358, R362, R366). -/

/-- Whether the partner table takes part: in every state but FENCED (log 31). -/
def ptabLive (d : Dev) : Bool := (d.unit .ptab).st != .fenced && !(d.unit .ptab).resetting

/-- The lookup of a frame, if its key is tracked. -/
def rxLookup (d : Dev) (i : Nat) (key : Option Nat) (f nid : Nat) : Dev × Option Nat :=
  match key with
  | some k => if ptabLive d then partnerLookup d i k f nid else (d, none)
  | none => (d, none)

/-- Bytes written by a port to a buffer; the cells it writes have valid check bits. -/
def portStore (d : Dev) (a : Nat) (l : List Byte) : Dev :=
  let d := d.setByteList a l
  (List.range ((l.length + 3) / 4)).foldl (fun d j => setEcc d (a + 4 * j) 0) d

/-- The bytes of a frame that buffer `j` holds. -/
def chunkOf (l : List Byte) (j : Nat) : List Byte := (l.drop (256 * j)).take 256

/-- How many buffers a frame needs. -/
def bufsFor (n : Nat) : Nat := (n + 255) / 256

/-- The receive records of a frame (the table of frame records). -/
def rxRecs (fr : RxFrame) : List Rec :=
  (fr.bufs.zipIdx).map fun x =>
    let len := (chunkOf fr.bytes x.2).length
    { addr := toWord (bufAddr x.1),
      info := toWord (len + putB (x.2 == 0) 9 + putB (x.2 + 1 == fr.bufs.length) 10 + put fr.stat 11 + putB fr.pidx.isSome 15 +
        put (fr.pidx.getD 0) 16),
      fold := fr.fold }

/-- Whether a fold's sub-queue has room for a frame. -/
def rxRoom (d : Dev) (i : Nat) (fr : RxFrame) : Bool := (subQ (d.port i) fr.fold).recs.length + fr.bufs.length ≤ 32

/-- Places a frame: its bytes in its buffers, all its records in its fold's sub-queue, the RX source for the owner (R347). -/
def rxPlace (d : Dev) (i : Nat) (fr : RxFrame) : Dev :=
  let d := (fr.bufs.zipIdx).foldl (fun d x => portStore d (bufAddr x.1) (chunkOf fr.bytes x.2)) d
  let d := updSub d i fr.fold fun q => { q with recs := q.recs ++ rxRecs fr }
  let d := d.updPort i fun k => { k with rxok := (k.rxok + 1) % 65536 }
  if (d.port i).own == some fr.fold then fireSource d (portSource i 0) else d

/-- Takes the buffers a frame still needs, as long as one is available. -/
def rxTake (n : Nat) (d : Dev) (i : Nat) (fr : RxFrame) : Dev × RxFrame :=
  match n with
  | 0 => (d, fr)
  | n + 1 =>
    if bufsFor fr.bytes.length ≤ fr.bufs.length then (d, fr)
    else match bufRequest d i fr.fold with
      | (d, none) => (d, fr)
      | (d, some b) => rxTake n d i { fr with bufs := fr.bufs ++ [b] }

/-- Whether a frame has all its buffers. -/
def rxFull (fr : RxFrame) : Bool := bufsFor fr.bytes.length ≤ fr.bufs.length

/-- Buffers taken in advance are tagged with the fold the frame is attributed to (R349). -/
def retag (d : Dev) (l : List Nat) (f i : Nat) : Dev :=
  { d with pool := { d.pool with tags := l.foldl (fun t b => tput t b ⟨f, i⟩) d.pool.tags } }

/-- The buffers taken for the frame in reception go to it. -/
def useHeld (d : Dev) (i : Nat) (fr : RxFrame) : Dev × RxFrame :=
  let h := (d.port i).held
  let n := bufsFor fr.bytes.length
  let d := d.updPort i fun k => { k with held := [] }
  let d := poolReturnAll d (h.drop n)
  (retag d (h.take n) fr.fold i, { fr with bufs := h.take n })

/-- A T1S or GbE frame ends: it is dropped where no buffer is available or its sub-queue is full; else it is looked up and queued
(R352, R362, R366). -/
def frameEnd (d : Dev) (i : Nat) (f : Nat) (bytes : List Byte) (key : Nat) (nid : Nat) : Dev :=
  if (d.port i).dropNext then d.updPort i fun k => { k with dropNext := false }
  else
    let (d, fr) := useHeld d i { bytes := bytes, fold := f, stat := 0, pidx := none, bufs := [] }
    let (d, fr) := rxTake 8 d i fr
    if !rxFull fr then poolReturnAll (d.updPort i fun k => { k with nobuf := satByte k.nobuf }) fr.bufs
    else if !rxRoom d i fr then poolReturnAll (d.updPort i fun k => { k with qfull := satByte k.qfull }) fr.bufs
    else
      let (d, p) := rxLookup d i (some key) f nid
      rxPlace d i { fr with pidx := p }

/-- The frames that wait at a CAN or UART port are offered again, oldest first (R352, R366). -/
def portOffer (n : Nat) (d : Dev) (i : Nat) : Dev :=
  match n with
  | 0 => d
  | n + 1 =>
    match (d.port i).rxWait with
    | [] => d
    | fr :: r =>
      let (d, fr) := rxTake 2 d i fr
      if rxFull fr && rxRoom d i fr then
        portOffer n (rxPlace (d.updPort i fun k => { k with rxWait := r }) i fr) i
      else d.updPort i fun k => { k with rxWait := fr :: r }

/-- A frame that waits its turn at a CAN or UART port. -/
def frameWait (d : Dev) (i : Nat) (fr : RxFrame) : Dev :=
  portOffer 40 (d.updPort i fun k => { k with rxWait := k.rxWait ++ [fr] }) i

/-- The six bytes of a source address as a partner key (R361). -/
def macKey (l : List Byte) : Nat := ((l.drop 6).take 6).foldl (fun n b => n * 256 + b.toNat) 0

/-- A bad frame: discarded before lookup, ERR advances (R368). -/
def rxError (d : Dev) (i : Nat) : Dev := d.updPort i fun k => { k with err := satByte k.err }

/-- A fold that is fenced has no access to shared ports (spec/04 R75). -/
def foldShut (d : Dev) (f : Nat) : Bool := (d.unit (foldU f)).st == .fenced

/-- An injected FCS error corrupts the next frame received (R371). -/
def takeInj (d : Dev) (i : Nat) (good : Bool) : Dev × Bool :=
  if (d.port i).injFcs then (d.updPort i fun k => { k with injFcs := false }, false) else (d, good)

/-- A T1S frame ends: attributed by its node ID while the PLCA status is OK, else by its partner (R354, R355, R366; log 32). -/
def mT1sFrameReceived (p : Fin 4) (node : Byte) (bytes : List Byte) (good : Bool) (d : Dev) : Dev :=
  let i := p.val
  if !portLive d (.t1s p) then d
  else
    let (d, good) := takeInj d i good
    if !good || bytes.length < 60 || 1518 < bytes.length then rxError d i
    else
      let k := d.port i
      let key := macKey bytes
      let own := k.own.getD 0
      let slotted := bitOf k.cfg 0 && k.plcaOk && node != 255
      let e := tget d.nid 0 (i * 256 + node.toNat)
      let f := if slotted then (if 128 ≤ e then e % 8 else own)
        else match partnerFind d i key with | some (_, x) => x.fold | none => own
      let d := if slotted then d.updPort i fun k => { k with curTo := node } else d
      if foldShut d f then d
      else frameEnd d i f bytes key (if slotted then node.toNat else 255)

/-- A GbE frame ends (R356). -/
def mGbeFrameReceived (m : Fin 2) (bytes : List Byte) (good : Bool) (d : Dev) : Dev :=
  let i := 8 + m.val
  if !portLive d (.gbe m) then d
  else
    let (d, good) := takeInj d i good
    if 1518 < bytes.length then d.updPort i fun k => { k with ovf := satByte k.ovf }
    else if !good || bytes.length < 60 then rxError d i
    else frameEnd d i ((d.port i).own.getD 0) bytes (macKey bytes) 255

/-- The data length of a DLC (ISO 11898-1). -/
def dlcLen (fd : Bool) (n : Nat) : Nat :=
  if n ≤ 8 then n
  else if !fd then 8
  else match n with | 9 => 12 | 10 => 16 | 11 => 20 | 12 => 24 | 13 => 32 | 14 => 48 | _ => 64

/-- Whether a CAN frame is one that can be on a line. -/
def canWell (fr : CanFrame) : Bool :=
  (fr.ext || fr.id.toNat < 2048) && !(fr.fd && fr.rtr) &&
  fr.bytes.length == (if fr.rtr then 0 else dlcLen fr.fd fr.dlc.toNat)

/-- The ID field of a frame as filters see it: the ID with IDE in bit 29. -/
def canIdWord (fr : CanFrame) : Nat := fr.id.toNat + putB fr.ext 29

/-- Filter `n` of CAN port `p`. -/
def canFilt (d : Dev) (p n : Nat) : Filt := tget d.filts ⟨0, 0⟩ (p * 32 + n)

/-- Whether a filter fits an ID word: the same IDE, and every masked bit equal (R358). -/
def filtFits (x : Filt) (idw : Nat) : Bool :=
  bitOf x.a 29 == idw.testBit 29 && (toWord idw ^^^ x.a) &&& x.b &&& 0x1FFFFFFF == 0

/-- The fold of a filter. -/
def filtFold (x : Filt) : Nat := fld x.b 29 3

/-- The fold a received CAN frame is attributed to: the lowest-numbered RX filter that fits and whose fold is not fenced (R358). -/
def canFold (d : Dev) (p idw : Nat) : Option Nat :=
  ((List.range 32).find? fun n =>
    let x := canFilt d p n
    bitOf x.a 30 && filtFits x idw && !foldShut d (filtFold x)).map fun n => filtFold (canFilt d p n)

/-- A number as bytes, least significant first. -/
def leBytes (v n : Nat) : List Byte := (List.range n).map fun i => BitVec.ofNat 8 (v >>> (8 * i))

/-- The buffer content of a received CAN frame; the receive time is free (log 10). -/
def canBytes (d : Dev) (fr : CanFrame) : List Byte :=
  leBytes (fr.id.toNat + putB fr.ext 29 + putB fr.rtr 30 + putB fr.fd 31) 4 ++
  leBytes (fr.dlc.toNat + putB fr.brs 4 + putB fr.esi 5 + put ((Config.micros d.free).toNat % 65536) 16) 4 ++ fr.bytes

/-- A CAN frame that has ended well: filtered, looked up, queued behind those that wait (R352, R358, R362, R366). -/
def canAccept (d : Dev) (p : Nat) (fr : CanFrame) : Dev :=
  let i := 4 + p
  match canFold d p (canIdWord fr) with
  | none => d.updPort i fun k => { k with unowned := satByte k.unowned }
  | some f =>
    if 4 ≤ (d.port i).rxWait.length then d.updPort i fun k => { k with ovf := satByte k.ovf }
    else
      let bytes := canBytes d fr
      let d := { d with free := d.free + 1 }
      let (d, px) := rxLookup d i (some (canIdWord fr)) f 255
      let (d, w) := useHeld d i { bytes := bytes, fold := f, stat := 0, pidx := px, bufs := [] }
      frameWait d i w

/-- A CAN frame ends (R358). In loopback the line is not heard; without FDEN an FD frame is an error (log 33). -/
def mCanFrameReceived (p : Fin 4) (fr : CanFrame) (good : Bool) (d : Dev) : Dev :=
  let i := 4 + p.val
  let k := d.port i
  if !portLive d (.can p) || bitOf k.cfg 2 || !canWell fr then d
  else
    let (d, good) := takeInj d i good
    if !good || (fr.fd && !bitOf k.cfg 0) then rxError d i else canAccept d p.val fr

/-- The mode of a UART: 0 RAW, 1 MODBUS, 2 IEC. -/
def uartMode (k : Port) : Nat := fld k.cfg 24 2

/-- The characters that lie in a UART's receive FIFO for want of a buffer (R352). -/
def uartFifo (k : Port) : Nat :=
  ((k.rxWait.filter fun f => f.bufs.isEmpty).map fun f => f.bytes.length).sum + (if k.held.isEmpty then k.rxBuf.length else 0)

/-- The partner key of a closed UART buffer (R361). -/
def uartKey (k : Port) : Option Nat :=
  match uartMode k, k.rxBuf with
  | 1, a :: _ => some a.toNat
  | 2, _ :: a :: b :: _ => some (a.toNat * 256 + b.toNat)
  | _, _ => none

/-- Closes the receive buffer of a UART into a record and fires FRAME (R360, R362). -/
def uartClose (d : Dev) (i : Nat) : Dev :=
  let k := d.port i
  let f := k.own.getD 0
  let stat := if uartMode k == 2 && 82 < k.rxBuf.length then 3 else k.rxStat
  let (d, px) := rxLookup d i (uartKey k) f 255
  let (d, w) := useHeld d i { bytes := k.rxBuf, fold := f, stat := stat, pidx := px, bufs := [] }
  let ended := k.crSeen || uartMode k != 2
  let d := d.updPort i fun k => { k with rxBuf := [], rxStat := 0, sentence := k.sentence && !ended, crSeen := false }
  frameWait (fireSource d (portSource i 2)) i w

/-- Whether a UART's buffer is due to be closed: full, or an IEC sentence has ended (R360). -/
def uartDue (k : Port) : Bool := 256 ≤ k.rxBuf.length || (uartMode k == 2 && k.crSeen)

/-- A character arrives at a UART: heard unless DE is asserted without ECHO, kept in IEC from `$` or `!` on, discarded where the FIFO is
full (R359, R360). `bad` is a framing or parity error, `gap` a silence of more than t1.5 before it. -/
def mUartCharacterReceived (u : Fin 8) (ch : Byte) (bad gap : Bool) (d : Dev) : Dev :=
  let i := 10 + u.val
  let k := d.port i
  if !portLive d (.uart u) || (k.txBusy && bitOf k.cfg 26 && !bitOf k.cfg 27) then d
  else
    let d := if uartDue k then uartClose d i else d
    let k := d.port i
    let start := ch == 0x24 || ch == 0x21
    if uartMode k == 2 && !k.sentence && !start then d
    else if k.held.isEmpty && 32 ≤ uartFifo k then rxError d i
    else
      let d := if k.held.isEmpty then
          match bufRequest d i (k.own.getD 0) with
          | (d, some b) => d.updPort i fun k => { k with held := [b] }
          | (d, none) => d
        else d
      d.updPort i fun k =>
        let stat := if uartMode k == 1 && gap && !k.rxBuf.isEmpty then 2 else k.rxStat
        { k with
          rxStat := if bad then 1 else stat, rxBuf := k.rxBuf ++ [ch], sentence := true,
          crSeen := uartMode k == 2 && ch == 10 && k.rxBuf.getLast? == some 13 }

/-- Silence, a full buffer or the end of a sentence closes a buffer that holds characters (R360): in RAW with IDLE 0 only a full one, in
IEC a full one or a whole sentence. -/
def mUartBufferClose (u : Fin 8) (d : Dev) : Dev :=
  let i := 10 + u.val
  let k := d.port i
  let byTime := match uartMode k with | 0 => fld k.tmr 8 8 != 0 | 1 => true | _ => false
  if portLive d (.uart u) && !k.rxBuf.isEmpty && (uartDue k || byTime) then uartClose d i else d

/-! Sending (R348, R368). -/

/-- Returns the buffers of records marked FREE that are still tagged to the fold that wrote them. -/
def txReturn (d : Dev) (l : List Rec) : Dev :=
  (l.filter fun r => bitOf r.info 11).foldl (fun d r =>
    match tfind d.pool.tags (bufOfAddr r.addr) with
    | some t => if t.fold == r.fold then poolReturn d (bufOfAddr r.addr) else d
    | none => d) d

/-- A frame that is not sent: its FREE buffers return, TXREF advances, ERR fires. -/
def txRefuse (d : Dev) (i : Nat) (l : List Rec) : Dev :=
  let d := txReturn (d.updPort i fun k => { k with txref := satByte k.txref }) l
  fireSource d (portSource i 3)

/-- The bytes of the frame that records describe. -/
def txBytes (d : Dev) (l : List Rec) : List Byte := l.flatMap fun r => d.bytes r.addr.toNat (fld r.info 0 9)

/-- The checks of one record at the head of the queue, the chain apart (R348). A CAN frame of a fold that does not own the port must
match one of its TX filters (log 34). -/
def txRecOk (d : Dev) (i : Nat) (r : Rec) : Bool :=
  let a := r.addr.toNat
  let len := fld r.info 0 9
  let owner := (d.port i).own == some r.fold
  let tag : Bool := match tfind d.pool.tags (bufOfAddr r.addr) with | some t => t.fold == r.fold | none => false
  0x18000000 ≤ a && a < 0x18040000 && a % 256 == 0 && tag && 1 ≤ len && len ≤ 256 &&
  (match portClass i with
   | 0 => owner || (let e := tget d.nid 0 (i * 256 + fld r.info 16 8); 128 ≤ e && e % 8 == r.fold)
   | 1 => owner || !bitOf r.info 9 || (List.range 32).any fun n =>
       let x := canFilt d (i - 4) n
       bitOf x.a 31 && filtFold x == r.fold && filtFits x ((d.cell a).toNat % 0x40000000)
   | _ => true)

/-- The records of the refused frame that still lie in the queue: those that follow without FIRST, up to LAST. -/
def txTail (l : List Rec) (f : Nat) : List Rec :=
  match l with
  | [] => []
  | r :: t => if bitOf r.info 9 || r.fold != f then [] else if bitOf r.info 10 then [r] else r :: txTail t f

/-- A record reaches the head of the transmit queue (R348). The first record of a new frame where the frame before it has no LAST refuses
that one and stays. -/
def mTxRecordHead (u : FieldPort) (d : Dev) : Dev :=
  let i := portId u
  let k := d.port i
  if !portLive d u || k.txBusy || (portClass i == 1 && bitOf k.cfg 1) then d
  else match k.txq with
    | [] => d
    | r :: t =>
      let first := bitOf r.info 9
      let last := bitOf r.info 10
      if !k.txFrame.isEmpty && (first || k.txFrame.any fun x => x.fold != r.fold) then
        txRefuse (d.updPort i fun k => { k with txFrame := [] }) i k.txFrame
      else if (k.txFrame.isEmpty && !first) || !txRecOk d i r then
        let more := if last then [] else txTail t r.fold
        txRefuse (d.updPort i fun k => { k with txFrame := [], txq := t.drop more.length }) i (k.txFrame ++ r :: more)
      else d.updPort i fun k => { k with txFrame := k.txFrame ++ [r], txq := t, txBusy := last }

/-- The CAN frame a transmit buffer describes. -/
def canOfBytes (l : List Byte) : CanFrame :=
  let w (o : Nat) : Word := toWord ((List.range 4).map fun j => (lget l 0 (o + j)).toNat * 256 ^ j).sum
  { ext := bitOf (w 0) 29, id := (w 0).setWidth 29, rtr := bitOf (w 0) 30, fd := bitOf (w 0) 31, brs := bitOf (w 4) 4,
    esi := bitOf (w 4) 5, dlc := (w 4).setWidth 4, bytes := l.drop 8 }

/-- The last bit of a frame has been sent (R348); in loopback a CAN port receives it itself (R344; log 33). -/
def mFrameTransmitComplete (u : FieldPort) (d : Dev) : Dev :=
  let i := portId u
  let k := d.port i
  if !portLive d u || !k.txBusy then d
  else
    let bytes := txBytes d k.txFrame
    let d := txReturn (d.updPort i fun k =>
      { k with txFrame := [], txBusy := false, txok := (k.txok + 1) % 65536, sent := k.sent ++ [bytes] }) k.txFrame
    let d := fireSource d (portSource i 1)
    match u with
    | .can p =>
      let fr := canOfBytes bytes
      if bitOf k.cfg 2 && canWell fr then canAccept d p.val fr else d
    | _ => d

/-- A T1S frame has met 16 collisions, or a CAN frame is aborted by bus-off (R368). -/
def mTransmitFailure (u : FieldPort) (d : Dev) : Dev :=
  let i := portId u
  let k := d.port i
  let can : Bool := match u with | .t1s _ => portLive d u | .can _ => k.errState == 2 && (d.unit (portUnit u)).st != .fenced | _ => false
  if can && k.txBusy then txRefuse (d.updPort i fun k => { k with txFrame := [], txBusy := false }) i k.txFrame else d

/-! Line events (R354, R356, R357, R368). -/

/-- Emits a port event. -/
def portEvent (d : Dev) (u : FieldPort) (text : String) : Dev := emit d (some .port) (some (portUnit u)) text

def mPlcaLost (p : Fin 4) (d : Dev) : Dev :=
  let k := d.port p.val
  if portOn d (.t1s p) && bitOf k.cfg 0 && k.plcaOk then
    let d := d.updPort p.val fun k => { k with plcaOk := false }
    let d := fireSource d (portSource p.val 2)
    portMove (portEvent d (.t1s p) ("!PLCA t1s" ++ toString p.val ++ " LOST")) (.t1s p)
  else d

def mPlcaOk (p : Fin 4) (d : Dev) : Dev :=
  let k := d.port p.val
  if portOn d (.t1s p) && bitOf k.cfg 0 && !k.plcaOk then
    let d := d.updPort p.val fun k => { k with plcaOk := true }
    portMove (portEvent d (.t1s p) ("!PLCA t1s" ++ toString p.val ++ " OK")) (.t1s p)
  else d

def mGbeLinkDown (m : Fin 2) (d : Dev) : Dev :=
  if portOn d (.gbe m) && (d.port (8 + m.val)).link then
    let d := d.updPort (8 + m.val) fun k => { k with link := false }
    portMove (portEvent d (.gbe m) ("!PORT gbe" ++ toString m.val ++ " DOWN")) (.gbe m)
  else d

/-- The link comes up with the speed the PHY reports, 1 for 10, 2 for 100, 3 for 1000 Mb/s (R356; log 35). -/
def mGbeLinkUp (m : Fin 2) (speed : Fin 4) (hdx : Bool) (d : Dev) : Dev :=
  if portOn d (.gbe m) && !(d.port (8 + m.val)).link && speed != 0 then
    let d := d.updPort (8 + m.val) fun k => { k with link := true, hdx := hdx, speed := speed.val }
    portMove (portEvent d (.gbe m) ("!PORT gbe" ++ toString m.val ++ " UP")) (.gbe m)
  else d

/-- The MDIO transaction ends with the PHY's data, or without an answer. -/
def mMdioComplete (m : Fin 2) (x : Option (BitVec 16)) (d : Dev) : Dev :=
  d.updPort (8 + m.val) fun k =>
    if !bitOf k.mdio 11 then k
    else
      let w := k.mdio &&& 0xFFFFF7FF
      match x with
      | none => { k with mdio := w ||| 0x1000 }
      | some v => { k with mdio := if bitOf w 10 then w else maskWrite w (v.setWidth 32 <<< 16) 0xFFFF0000 }

/-- A CAN port reaches error passive: a counter is at 128 or above. -/
def mCanErrorPassive (p : Fin 4) (tec rec_ : Byte) (d : Dev) : Dev :=
  let i := 4 + p.val
  if portOn d (.can p) && (d.port i).errState == 0 && (128 ≤ tec.toNat || 128 ≤ rec_.toNat) then
    portEvent (d.updPort i fun k => { k with errState := 1, tec := tec, rec_ := rec_ }) (.can p) ("!CAN can" ++ toString p.val ++ " PASSIVE")
  else d

/-- A CAN port reaches bus-off. -/
def mCanBusOff (p : Fin 4) (d : Dev) : Dev :=
  let i := 4 + p.val
  if portOn d (.can p) && (d.port i).errState != 2 then
    let d := hwMove (d.updPort i fun k => { k with errState := 2, integrated := false }) (.can p) .fault
    portEvent d (.can p) ("!CAN can" ++ toString p.val ++ " BUSOFF")
  else d

/-- A CAN port has seen 128 times 11 recessive bits and integrates. -/
def mCanIntegrated (p : Fin 4) (d : Dev) : Dev :=
  let i := 4 + p.val
  if portOn d (.can p) && !(d.port i).integrated && (d.port i).errState != 2 then
    portMove (d.updPort i fun k => { k with integrated := true }) (.can p)
  else d

/-! The partner table's tick (R363, R364). -/

/-- One entry at a tick. -/
def agePartner (d : Dev) (i : Nat) : Dev :=
  match tfind d.ptab.entries i with
  | none => d
  | some e =>
    let age := lget d.ptab.ages 5000 e.port
    let idle := satInc e.idle 65535
    let d := setPartner d i { e with idle := idle }
    if !e.stat && age != 0 && age ≤ idle then partnerLeave d i 0 else d

def mPartnerAgeTick (d : Dev) : Dev :=
  if ptabLive d && d.clocked then
    let d := (d.ptab.entries.map (·.1)).foldl agePartner d
    (List.range 8).foldl (fun d f => updPq d f fun q => { q with fullTick := false }) d
  else d

/-! Registers of a port (R345, R347, R348, R372). -/

/-- Whether a fold owns a port or has access to it (R345). -/
def portAccess (d : Dev) (i f : Nat) : Bool :=
  (d.port i).own == some f ||
  (i < 4 && (List.range 255).any fun n => let e := tget d.nid 0 (i * 256 + n); 128 ≤ e && e % 8 == f) ||
  (4 ≤ i && i < 8 && (List.range 32).any fun n =>
    let x := canFilt d (i - 4) n
    (bitOf x.a 30 || bitOf x.a 31) && filtFold x == f)

/-- Whether a requester may read a port. -/
def portReader (d : Dev) (q : Req) (i : Nat) : Bool :=
  isK q || (q.priv == .f && (match q.fold with | some f => portAccess d i f | none => false))

/-- The bytes a sub-queue holds. -/
def subBytes (q : SubQ) : Nat := 8 * q.recs.length - (if q.half then 4 else 0)

/-- The next cell of a sub-queue. -/
def subNext (q : SubQ) : Word := match q.recs with | [] => 0 | r :: _ => if q.half then r.info else r.addr

/-- The sub-queue after a read of its next cell. -/
def subPop (q : SubQ) : SubQ :=
  match q.recs with
  | [] => q
  | _ :: t => if q.half then { q with recs := t, half := false } else { q with half := true }

/-- A read of RXQ by a fold pops a cell; a record that leaves makes room for a frame that waits. -/
def rxqPop (d : Dev) (i f : Nat) : Dev × Word :=
  let q := subQ (d.port i) f
  let d' := updSub d i f subPop
  (if q.half then portOffer 40 d' i else d', subNext q)

/-- STAT of a port. -/
def portStat (k : Port) (cls : Nat) : Word :=
  toWord (putB k.refused 31 + (match cls with
    | 0 => putB k.plcaOk 0 + put k.curTo.toNat 8
    | 1 => put k.errState 1 + put k.tec.toNat 8 + put k.rec_.toNat 16
    | 2 => putB k.link 0 + put (if fld k.cfg 0 2 == 0 then k.speed else fld k.cfg 0 2) 1 + putB k.hdx 3
    | _ => 0))

/-- A read of a register of a port; `side` is the view at + 0x4000 (R347, R348). -/
def portRead (d : Dev) (q : Req) (u : FieldPort) (off : Nat) (side : Bool) : Dev × RRes :=
  let i := portId u
  let k := d.port i
  if !portReader d q i then (d, .error 0x08)
  else if (d.unit (portUnit u)).st == .fenced && off == 0x10 && q.fold.isNone then (d, .ok 0)
  else
    match off, q.fold with
    | 0x10, some f =>
      if side then (d, .ok (subNext (subQ k f)))
      else let (d, v) := rxqPop d i f; (d, .ok v)
    | 0x14, some f => (d, .ok (toWord (subBytes (subQ k f))))
    | 0x18, some f => (d, .ok (if side then (subQ k f).last else 0))
    | _, _ =>
      if side then (d, .ok 0)
      else
        let v : Word := match off with
          | 0x10 | 0x14 | 0x18 => 0
          | 0x1C => toWord (128 - 8 * k.txq.length)
          | 0x20 => toWord (k.rxok + put k.txok 16)
          | 0x24 => toWord (k.err + put k.nobuf 8 + put k.qfull 16)
          | 0x28 => toWord (k.unowned + put k.txref 8 + put k.ovf 16)
          | 0x2C => portStat k (portClass i)
          | 0x30 => if portClass i == 2 then k.mdio else 0
          | _ => regGet d (portUnit u) off
        (d, .ok v)

/-- The bits of a configuration register of a port that exist. -/
def portMask (cls off : Nat) : Word :=
  match cls, off with
  | 0, 0 => 0xFFFFFF03 | 0, 4 => 0x0000FFFF
  | 1, 0 => 0xF | 1, 4 => 0x3FFFFFFF | 1, 8 => 0x01FFFFFF
  | 2, 0 => 0xF
  | 3, 0 => 0x0FFFFFFF | 3, 4 => 0xFFFF
  | _, _ => 0

/-- What a refused write leaves. -/
def portRefuse (i : Nat) (d : Dev) : Dev := d.updPort i fun k => { k with refused := true }

/-- A write of OWN: the port must be OFF (R345). -/
def portOwnSet (u : FieldPort) (v : Word) (d : Dev) : Except RCode Dev :=
  if (d.unit (portUnit u)).st == .off then .ok (regSet d (portUnit u) 0xC v) else .error .busy

/-- A TXQ write (R348). -/
def txqWrite (d : Dev) (q : Req) (u : FieldPort) (v : Word) : Dev × WRes :=
  let i := portId u
  match q.fold with
  | none => denied d
  | some f =>
    if q.priv == .u || !portAccess d i f then denied d
    else if (d.unit (portUnit u)).st == .fenced then (d, .exc 0x09)
    else if 16 ≤ (d.port i).txq.length then (d, .exc 0x09)
    else
      match (subQ (d.port i) f).tx0 with
      | none => (updSub d i f fun x => { x with tx0 := some v, last := v }, .done)
      | some a =>
        let d := d.updPort i fun k => { k with txq := k.txq ++ [{ addr := a, info := v, fold := f }] }
        (updSub d i f fun x => { x with tx0 := none, last := v }, .done)

/-- A write of MDIO starts a transaction with GO; while one runs a write is ignored (R356). -/
def mdioWrite (i : Nat) (v : Word) (d : Dev) : Dev :=
  d.updPort i fun k => if bitOf k.mdio 11 then k else { k with mdio := v &&& 0xFFFF0FFF }

/-- A write to a register of a port. -/
def portWrite (d : Dev) (q : Req) (u : FieldPort) (off : Nat) (v : Word) : Dev × WRes :=
  let i := portId u
  let cls := portClass i
  let pu := portUnit u
  let st (f : Dev → Except RCode Dev) : Dev × WRes := stWrite d q pu none (portRefuse i) f
  let fOk := isF q (d.port i).own
  if off == 0x18 then txqWrite d q u v
  else if off == 0xC then guardW (isK q) d (st (portOwnSet u v))
  else if off == 0x2C then
    guardW fOk d (plWrite d pu fun d => if bitOf v 31 then d.updPort i fun k => { k with refused := false } else d)
  else if off == 0x30 && cls == 2 then guardW fOk d (plWrite d pu (mdioWrite i v))
  else if cls == 0 && (idx off 0x400 4 255).isSome then guardW (isK q) d (st fun d => .ok (regSet d pu off v))
  else if cls == 1 && 0x200 ≤ off && off < 0x300 then
    guardW fOk d (st fun d =>
      .ok (regSet d pu off (if off % 8 == 4 && !isK q then maskWrite v (regGet d pu off) 0xE0000000 else v)))
  else if off < 0xC && portMask cls off != 0 then
    guardW fOk d (st fun d =>
      if cls == 1 && off != 0 && (d.unit pu).st != .off then .error .busy
      else .ok (quietMove (regSet d pu off (v &&& portMask cls off)) pu))
  else if off == 0x10 || off == 0x14 || (0x1C ≤ off && off < 0x2C) then denied d
  else guardW fOk d (ignored d)

/-- The base address of a port's registers (R372). -/
def portBase (u : FieldPort) : Nat :=
  match u with
  | .t1s n => 0x40100000 + n.val * 0x1000
  | .gbe n => 0x40140000 + n.val * 0x1000
  | .can n => 0x40180000 + n.val * 0x1000
  | .uart n => 0x40200000 + n.val * 0x800

/-- A register write to a port by an agent. -/
def portRow (a : Agent) (u : FieldPort) (off : Nat) (v : Word) (d : Dev) : Dev :=
  writeRow a (toWord (portBase u + off))
    (if unitPresent d.variant (portUnit u) then portWrite d (reqOf d a) u off v else (d, .exc 0x0D))

def mTxqWrite (a : Agent) (u : FieldPort) (v : Word) (d : Dev) : Dev := portRow a u 0x18 v d
def mPortOwnWrite (a : Agent) (u : FieldPort) (v : Word) (d : Dev) : Dev := portRow a u 0xC v d
def mMdioTransaction (a : Agent) (m : Fin 2) (v : Word) (d : Dev) : Dev := portRow a (.gbe m) 0x30 v d

/-! Registers of the partner table and the pool (R349, R350, R361, R365, R372). -/

/-- A cell of ENTRYi. -/
def partnerCell (d : Dev) (i c : Nat) : Word :=
  match tfind d.ptab.entries i with
  | none => 0
  | some e =>
    match c with
    | 0 => toWord (e.nid + put e.fold 16 + put e.port 24 + putB e.stat 30 + putB true 31)
    | 1 => toWord e.key
    | 2 => toWord (e.key / 4294967296 + put e.idle 16)
    | _ => e.frames

/-- A read of PTAB: F and above; the queue of a fold at F of that fold, K and M. -/
def ptabRead (d : Dev) (q : Req) (off : Nat) : Dev × RRes :=
  if 0x100 ≤ off && off < 0x180 then
    let f := (off - 0x100) / 16
    let pq := lget d.ptab.queues PartnerQ.reset f
    if !isF q (some f) then (d, .error 0x08)
    else match off % 16 with
      | 0 => (d, .ok ((pq.recs.head?.map (·.1)).getD 0))
      | 4 => (updPq d f fun x => { x with recs := x.recs.drop 1 }, .ok ((pq.recs.head?.map (·.2)).getD 0))
      | 8 => (d, .ok (toWord (8 * pq.recs.length)))
      | _ => (d, .ok (toWord pq.lost))
  else
    let v : Word :=
      if off == 0 then toWord (d.ptab.entries.length + put d.ptab.fullCnt 16)
      else if 0x1000 ≤ off && off < 0x5000 then partnerCell d ((off - 0x1000) / 16) (off % 16 / 4)
      else if off == 8 || off == 0xC then 0
      else regGet d .ptab off
    guardR (atLeast q .f) d v

/-- Whether a key can be one of a port (R361). -/
def keyFits (d : Dev) (port key : Nat) : Bool :=
  match portClass port with
  | 0 | 2 => key < 281474976710656
  | 1 => key < 0x40000000
  | _ => match uartMode (d.port port) with | 1 => key < 256 | 2 => key < 65536 | _ => false

/-- Adds a STATIC entry where the port exists and the key can be one of it. -/
def ptabAdd (d : Dev) (port key f : Nat) : Dev × Bool :=
  match portIdUnit port with
  | none => (d, false)
  | some u => if unitPresent d.variant u && keyFits d port key then partnerAdd d port key f else (d, false)

/-- A write to PTAB: K and M (log 36). -/
def ptabWrite (d : Dev) (q : Req) (off : Nat) (v : Word) : Dev × WRes :=
  let pl (f : Dev → Dev) : Dev × WRes := guardW (isK q) d (plWrite d .ptab f)
  if off == 8 then pl fun d => (ptabAdd d (fld v 16 5) (d.ptab.addLo.toNat + put (fld v 0 16) 32) (fld v 24 3)).1
  else if off == 0xC then pl fun d => partnerLeave d (fld v 0 10) 2
  else if off == 4 || (idx off 0x10 4 18).isSome then pl fun d => regSet d .ptab off v
  else if off == 0 || (0x100 ≤ off && off < 0x180) || (0x1000 ≤ off && off < 0x5000) then denied d
  else guardW (isK q) d (ignored d)

/-- A read of POOL; ALLOC is read at U and above and answered where no other request meets it (R351, R352). -/
def poolRead (d : Dev) (q : Req) (off : Nat) : Dev × RRes :=
  if off == 4 then
    match q.fold with
    | none => (d, .ok 0)
    | some f => match bufRequest d (96 + f) f with
      | (d, some b) => (d, .ok (toWord (bufAddr b)))
      | (d, none) => (d, .ok 0)
  else
    let v : Word :=
      if off == 0 then toWord (poolFreeCount d.pool + put (poolRes d) 12 + putB d.pool.badFree 31)
      else if off == 8 then 0
      else match idx off 0x100 4 104 with
        | some r => toWord (floorOf d r + put (inUse d r) 16)
        | none => regGet d .ptab (off + 0x6000)
    guardR (atLeast q .f) d v

/-- The fold an agent frees buffers for: none for K and M. -/
def freeFold (q : Req) : Option Nat := if isK q then none else q.fold

/-- The requesters that may have a floor, as their numbers. -/
def isReq (r : Nat) : Bool := r < 18 || (32 ≤ r && r < 104)

/-- Whether a floor may be written (R350). -/
def floorOk (d : Dev) (r n : Nat) : Bool :=
  isReq r && n ≤ 64 && ((allReqs.map fun x => if x == r then n else floorOf d x).sum ≤ 512)

/-- The requesters HDES designates. -/
def hdesCount (h : List Word) : Nat := (h.map fun w => (bitsOf w.toNat 32).length).sum

/-- The bits of HDESi that name requesters. -/
def hdesMask (i : Nat) : Word := match i with | 0 => 0x3FFFF | 3 => 0xFF | _ => 0xFFFFFFFF

/-- A write of HDESi (R350). -/
def hdesSet (i : Nat) (v : Word) (d : Dev) : Except RCode Dev :=
  let h := lset d.pool.hdes i (v &&& hdesMask i)
  if hdesCount h ≤ 8 then .ok { d with pool := { d.pool with hdes := h } } else .error .invalid

/-- A write of FLOORr. -/
def floorSet (r : Nat) (v : Word) (d : Dev) : Except RCode Dev :=
  if floorOk d r (fld v 0 7) then .ok (regSet d .ptab (0x6100 + 4 * r) v) else .error .invalid

/-- A write to POOL. -/
def poolWrite (d : Dev) (q : Req) (off : Nat) (v : Word) : Dev × WRes :=
  let st (f : Dev → Except RCode Dev) : Dev × WRes := guardW (isK q) d (stWrite d q .ptab none id f)
  if off == 8 then (bufFree d (freeFold q) v.toNat, .done)
  else if off == 4 then ignored d
  else if off == 0 then
    guardW (atLeast q .f) d (plWrite d .ptab fun d =>
      if bitOf v 31 then { d with pool := { d.pool with badFree := false } } else d)
  else if off == 0x18 then guardW (isK q) d (plWrite d .ptab fun d => poolWatch (regSet d .ptab 0x6018 v))
  else if off == 0x1C then st (hdesSet 3 v)
  else match idx off 0xC 4 3, idx off 0x100 4 104 with
    | some i, _ => st (hdesSet i v)
    | _, some r => st (floorSet r v)
    | _, _ => guardW (isK q) d (ignored d)

/-- A write to the partner table or the pool by an agent. -/
def ptabRow (a : Agent) (off : Nat) (v : Word) (d : Dev) : Dev :=
  writeRow a (toWord (0x40108000 + off))
    (if 0x6000 ≤ off then poolWrite d (reqOf d a) (off - 0x6000) v else ptabWrite d (reqOf d a) off v)

def mPtabAddWrite (a : Agent) (v : Word) (d : Dev) : Dev := ptabRow a 8 v d
def mPtabDelWrite (a : Agent) (v : Word) (d : Dev) : Dev := ptabRow a 0xC v d
def mPoolFreeWrite (a : Agent) (v : Word) (d : Dev) : Dev := ptabRow a 0x6008 v d
def mPoolFloorWrite (a : Agent) (r : ReqId) (v : Word) (d : Dev) : Dev := ptabRow a (0x6100 + 4 * reqIdNum r) v d
def mPoolHdesWrite (a : Agent) (i : Fin 4) (v : Word) (d : Dev) : Dev := ptabRow a (if i == 3 then 0x601C else 0x600C + 4 * i.val) v d

/-! Verbs (R370, R371). -/

/-- What the reports show of a port. -/
def portFields (d : Dev) (u : FieldPort) : List (String × String) :=
  let k := d.port (portId u)
  let un := portUnit u
  [("port", unitName un), ("state", stateName (d.unit un).st), ("owner", foldText k.own), ("cfg", hex32 k.cfg), ("timing", hex32 k.tmr),
   ("data timing", hex32 k.dbt), ("status", hex32 (portStat k (portClass (portId u)))),
   ("counts", numsText [k.rxok, k.txok, k.err, k.nobuf, k.qfull, k.unowned, k.txref, k.ovf])]

/-- The sub-queue levels of a port per fold. -/
def subFields (d : Dev) (u : FieldPort) : List (String × String) :=
  (List.range 8).map fun f => ("fold" ++ toString f, toString (subBytes (subQ (d.port (portId u)) f)))

/-- The ports the variant has. -/
def presentPorts (d : Dev) : List FieldPort := allPorts.filter fun u => unitPresent d.variant (portUnit u)

def vPort (o : Via) (d : Dev) : Dev := verb o .observe [] (vShow "port" fun d => (presentPorts d).flatMap (portFields d)) d

def vPortShow (o : Via) (u : FieldPort) (d : Dev) : Dev :=
  verb o .observe [portUnit u] (vShow "port" fun d => portFields d u ++ subFields d u) d

/-- The word of an OWN register. -/
def ownArg (f : Option (Fin 8)) : Word := match f with | none => 0 | some f => toWord (f.val + 0x80)

def vPortOwn (o : Via) (u : FieldPort) (f : Option (Fin 8)) (d : Dev) : Dev :=
  verb o .engineer [portUnit u] (fun d => vWrite (portUnit u) (portWrite d (viaReq d o) u 0xC (ownArg f))) d

/-- A verb that writes registers of a port together, as one request. -/
def portVerb (o : Via) (role : Role) (u : FieldPort) (ok : Bool) (f : Dev → Except RCode Dev) (d : Dev) : Dev :=
  verb o role [portUnit u] (fun d =>
    if !ok then vEr d 10
    else vWrite (portUnit u) (stWrite d (viaReq d o) (portUnit u) none (portRefuse (portId u)) f)) d

/-- The PLCA figures that a verb may name (R344). -/
def plcaOk (burst to_ : Option Nat) : Bool :=
  (match burst with | none => true | some b => b ≤ 255) && (match to_ with | none => true | some t => 20 ≤ t && t ≤ 255)

/-- Writes the PLCA configuration; arguments not given keep their fields (log 37). -/
def plcaSet (p : Fin 4) (coord : Bool) (id_ : Nat) (nodes burst to_ : Option Nat) (d : Dev) : Dev :=
  let u : UnitId := .t1s p
  let c := regGet d u 0
  let c := maskWrite c (toWord (1 + putB coord 1 + put id_ 8)) 0x0000FF03
  let c := match nodes with | some n => maskWrite c (toWord (put n 16)) 0x00FF0000 | none => c
  let c := match burst with | some n => maskWrite c (toWord (put n 24)) 0xFF000000 | none => c
  let d := regSet d u 0 c
  let d := match to_ with | some t => regSet d u 4 (maskWrite (regGet d u 4) (toWord t) 0xFF) | none => d
  quietMove d u

def vT1sPlcaCoord (o : Via) (p : Fin 4) (nodes : Nat) (burst to_ : Option Nat) (d : Dev) : Dev :=
  portVerb o .engineer (.t1s p) (1 ≤ nodes && nodes ≤ 255 && plcaOk burst to_) (fun d => .ok (plcaSet p true 0 (some nodes) burst to_ d)) d

def vT1sPlcaFollow (o : Via) (p : Fin 4) (id_ : Nat) (burst to_ : Option Nat) (d : Dev) : Dev :=
  portVerb o .engineer (.t1s p) (1 ≤ id_ && id_ ≤ 254 && plcaOk burst to_) (fun d => .ok (plcaSet p false id_ none burst to_ d)) d

def vT1sPlcaOff (o : Via) (p : Fin 4) (d : Dev) : Dev :=
  portVerb o .engineer (.t1s p) true (fun d => .ok (quietMove (regSet d (.t1s p) 0 (regGet d (.t1s p) 0 &&& 0xFFFFFFFE)) (.t1s p))) d

def vT1sNode (o : Via) (p : Fin 4) (ns : List Nat) (f : Option (Fin 8)) (d : Dev) : Dev :=
  portVerb o .engineer (.t1s p) (!ns.isEmpty && ns.all (· ≤ 254))
    (fun d => .ok (ns.foldl (fun d n => regSet d (.t1s p) (0x400 + 4 * n) (ownArg f)) d)) d

def vGbeSpeed (o : Via) (m : Fin 2) (speed : Fin 4) (tx rx : Option Bool) (d : Dev) : Dev :=
  portVerb o .operate (.gbe m) true (fun d =>
    let c := maskWrite (regGet d (.gbe m) 0) (toWord speed.val) 3
    let c := match tx with | some b => maskWrite c (toWord (putB b 2)) 4 | none => c
    let c := match rx with | some b => maskWrite c (toWord (putB b 3)) 8 | none => c
    .ok (regSet d (.gbe m) 0 c)) d

/-- Whether a CAN timing lies in the ranges of R357. -/
def timingOk (t : CanTiming) (brp s1 s2 sjw : Nat) : Bool :=
  1 ≤ t.brp && t.brp ≤ brp && (if s1 == 256 then 2 else 1) ≤ t.tseg1 && t.tseg1 ≤ s1 && 1 ≤ t.tseg2 && t.tseg2 ≤ s2 && 1 ≤ t.sjw &&
  t.sjw ≤ sjw

def vCanRate (o : Via) (p : Fin 4) (nom : CanTiming) (dat : Option CanTiming) (listen : Option Bool) (d : Dev) : Dev :=
  let ok := timingOk nom 256 256 128 128 && (match dat with | none => true | some t => timingOk t 32 32 16 16)
  portVerb o .operate (.can p) ok (fun d =>
    if (d.unit (.can p)).st != .off then .error .busy
    else
      let d := regSet d (.can p) 4
        (toWord (nom.brp - 1 + put (nom.tseg1 - 1) 8 + put (nom.tseg2 - 1) 16 + put (nom.sjw - 1) 23))
      let d := match dat with
        | none => d
        | some t => regSet d (.can p) 8 (maskWrite (regGet d (.can p) 8)
            (toWord (t.brp - 1 + put (t.tseg1 - 1) 5 + put (t.tseg2 - 1) 10 + put (t.sjw - 1) 14)) 0x3FFFF)
      .ok (match listen with
        | none => d
        | some b => regSet d (.can p) 0 (maskWrite (regGet d (.can p) 0) (toWord (putB b 1)) 2))) d

def vCanFilter (o : Via) (p : Fin 4) (n : Nat) (x : Option CanFilt) (d : Dev) : Dev :=
  let ok : Bool := n < 32 && (match x with
    | none => true
    | some x => x.id < (if x.ext then 0x20000000 else 2048) && x.mask < 0x20000000)
  portVerb o .engineer (.can p) ok (fun d =>
    let a := 0x200 + 8 * n
    .ok (match x with
      | none => regSet d (.can p) a (regGet d (.can p) a &&& 0x3FFFFFFF)
      | some x =>
        let d := regSet d (.can p) a (toWord (x.id + putB x.ext 29 + putB x.rx 30 + putB x.tx 31))
        regSet d (.can p) (a + 4) (toWord (x.mask + put x.fold.val 29)))) d

def vUartCfg (o : Via) (u : Fin 8) (x : UartSet) (d : Dev) : Dev :=
  let ok : Bool := 300 ≤ x.baud && x.baud ≤ 3000000 && (match x.rs485 with | none => true | some (l, t) => l ≤ 15 && t ≤ 15) &&
    (match x.idle with | none => true | some n => n ≤ 255)
  portVerb o .operate (.uart u) ok (fun d =>
    let c := maskWrite (regGet d (.uart u) 0) (toWord (x.baud + put x.mode.val 24 + putB x.rs485.isSome 26))
      (if x.rs485.isSome then 0x073FFFFF else 0x033FFFFF)
    let c := match x.fmt with | some f => maskWrite c (toWord (put f.val 22)) 0x00C00000 | none => c
    let d := regSet d (.uart u) 0 c
    let e := regGet d (.uart u) 4
    let e := match x.rs485 with | some (l, t) => maskWrite e (toWord (l + put t 4)) 0xFF | none => e
    let e := match x.idle with | some n => maskWrite e (toWord (put n 8)) 0xFF00 | none => e
    .ok (regSet d (.uart u) 4 e)) d

/-- What the reports show of an entry. -/
def partnerFields (x : Nat × Partner) : List (String × String) :=
  [("idx", toString x.1), ("port", portIdName x.2.port), ("key", keyText x.2.port x.2.key), ("fold", toString x.2.fold),
   ("node", toString x.2.nid), ("idle", toString x.2.idle)]

def vPtab (o : Via) (u : Option FieldPort) (d : Dev) : Dev :=
  verb o .observe (match u with | some u => [portUnit u] | none => []) (vShow "ptab" fun d =>
    (d.ptab.entries.filter fun x => match u with | some u => x.2.port == portId u | none => true).flatMap partnerFields) d

/-- A verb on the partner table; a fenced table answers `er 50`. -/
def ptabVerb (o : Via) (role : Role) (us : List UnitId) (f : Dev → VRes) (d : Dev) : Dev :=
  verb o role us (fun d => if (d.unit .ptab).st == .fenced then vEr d 50 else f d) d

def vPtabAge (o : Via) (u : FieldPort) (ms : Nat) (d : Dev) : Dev :=
  ptabVerb o .operate [portUnit u] (fun d =>
    if ms < 65536 then vOk (regSet d .ptab (0x10 + 4 * portId u) (toWord ms)) else vEr d 10) d

def vPtabAdd (o : Via) (u : FieldPort) (key : Nat) (f : Fin 8) (d : Dev) : Dev :=
  ptabVerb o .engineer [portUnit u] (fun d =>
    let (d, ok) := ptabAdd d (portId u) key f.val
    if ok then vOk d else vEr d 10) d

def vPtabDel (o : Via) (i : Nat) (d : Dev) : Dev :=
  ptabVerb o .operate [] (fun d =>
    match tfind d.ptab.entries i with
    | none => vEr d 10
    | some e =>
      match viaScope d o with
      | some f => if e.fold == f.val then vOk (partnerLeave d i 2) else vEr d 20
      | none => vOk (partnerLeave d i 2)) d

/-- The name of a requester of buffers. -/
def reqName (r : Nat) : String :=
  if r < 18 then portIdName r else if r < 96 then "dma" ++ toString (r - 32) else "fold" ++ toString (r - 96)

def vPool (o : Via) (d : Dev) : Dev :=
  verb o .observe [] (vShow "pool" fun d =>
    [("free", toString (poolFreeCount d.pool)), ("res", toString (poolRes d))] ++
    (allReqs.filter fun r => floorOf d r != 0 || inUse d r != 0 || designated d r).map fun r =>
      (reqName r, numsText [inUse d r, floorOf d r, if designated d r then 1 else 0])) d

/-- The units a requester's name stands for, as the checks of a command see them. -/
def reqUnits (r : ReqId) : List UnitId :=
  match r with | .port u => [portUnit u] | .dma c => [.dma c] | .fold f => [.fold f]

/-- A verb that writes the pool's state-bearing registers. -/
def poolVerb (o : Via) (us : List UnitId) (f : Dev → Except RCode Dev) (d : Dev) : Dev :=
  verb o .engineer us (fun d => vWrite .ptab (stWrite d (viaReq d o) .ptab none id f)) d

def vPoolFloor (o : Via) (r : ReqId) (n : Nat) (d : Dev) : Dev :=
  poolVerb o (reqUnits r) (fun d => if n ≤ 64 then floorSet (reqIdNum r) (toWord n) d else .error .invalid) d

/-- HDES for a list of requesters. -/
def hdesOf (rs : List ReqId) : List Word :=
  rs.foldl (fun h r =>
    let n := reqIdNum r
    let (i, b) := if n < 18 then (0, n) else if n < 64 then (1, n - 32) else if n < 96 then (2, n - 64) else (3, n - 96)
    lset h i (lget h 0 i ||| toWord (1 <<< b))) [0, 0, 0, 0]

def vPoolHalter (o : Via) (rs : List ReqId) (d : Dev) : Dev :=
  poolVerb o (rs.flatMap reqUnits) (fun d =>
    if hdesCount (hdesOf rs) ≤ 8 then .ok { d with pool := { d.pool with hdes := hdesOf rs } } else .error .invalid) d

/-- The fields of a register by their names, lowest bit and width. -/
def fieldText (w : Word) (l : List (String × Nat × Nat)) : List (String × String) := l.map fun x => (x.1, toString (fld w x.2.1 x.2.2))

/-- The configuration of a port by its fields (R372). -/
def portCfgFields (d : Dev) (u : FieldPort) : List (String × String) :=
  let i := portId u
  let k := d.port i
  match u with
  | .t1s p =>
    fieldText k.cfg [("PLCAEN", 0, 1), ("COORD", 1, 1), ("LOCALID", 8, 8), ("NODECNT", 16, 8), ("MAXBURST", 24, 8)] ++
    fieldText k.tmr [("TOTMR", 0, 8), ("BURSTTMR", 8, 8)] ++
    ((List.range 255).map fun n => ("NID" ++ toString n, hex32 (regGet d (.t1s p) (0x400 + 4 * n))))
  | .gbe _ =>
    fieldText k.cfg [("SPEED", 0, 2), ("TXDLY", 2, 1), ("RXDLY", 3, 1)] ++
    fieldText k.mdio [("REG", 0, 5), ("PHYAD", 5, 5), ("WRITE", 10, 1), ("GO", 11, 1), ("ERR", 12, 1), ("DATA", 16, 16)]
  | .can p =>
    fieldText k.cfg [("FDEN", 0, 1), ("LISTEN", 1, 1), ("LOOP", 2, 1), ("TDCEN", 3, 1)] ++
    fieldText k.tmr [("NBT BRP-1", 0, 8), ("TSEG1-1", 8, 8), ("TSEG2-1", 16, 7), ("SJW-1", 23, 7)] ++
    fieldText k.dbt [("DBT BRP-1", 0, 5), ("TSEG1-1", 5, 5), ("TSEG2-1", 10, 4), ("SJW-1", 14, 4), ("TDCO", 18, 7)] ++
    ((List.range 32).map fun n => ("FILT" ++ toString n, hex32 (canFilt d p.val n).a ++ " " ++ hex32 (canFilt d p.val n).b))
  | .uart _ =>
    fieldText k.cfg [("RATE", 0, 22), ("FMT", 22, 2), ("MODE", 24, 2), ("RS485", 26, 1), ("ECHO", 27, 1)] ++
    fieldText k.tmr [("LEAD", 0, 4), ("TAIL", 4, 4), ("IDLE", 8, 8)]

def vXPortRegs (o : Via) (u : FieldPort) (d : Dev) : Dev :=
  verb o .engineer [portUnit u] (vShow "x port regs" fun d =>
    portFields d u ++ subFields d u ++ ("TXLVL", toString (128 - 8 * (d.port (portId u)).txq.length)) :: portCfgFields d u) d

def vXPtabDump (o : Via) (x : Option (Nat × Nat)) (d : Dev) : Dev :=
  let ok : Bool := match x with | none => true | some (a, n) => a < 1024 && 1 ≤ n && n ≤ 64
  verb o .engineer [] (fun d => if !ok then vEr d 10 else
    vShow "x ptab dump" (fun d =>
      let (a, n) := x.getD (0, 64)
      ((List.range n).filter fun j => a + j < 1024).map fun j =>
        (toString (a + j), joinSp ((List.range 4).map fun c => hex32 (partnerCell d (a + j) c)))) d) d

def vXPoolMap (o : Via) (d : Dev) : Dev :=
  verb o .engineer [] (vShow "x pool map" fun d =>
    d.pool.tags.map fun x => (hex32 (toWord (bufAddr x.1)), "fold" ++ toString x.2.fold ++ " " ++ reqName x.2.req)) d

def vXPortInject (o : Via) (u : FieldPort) (nobuf : Bool) (d : Dev) : Dev :=
  verb o .engineer [portUnit u] (fun d => runOrSlow d fun d =>
    vOk (d.updPort (portId u) fun k => if nobuf then { k with injNobuf := true } else { k with injFcs := true })) d

/-! The rows of the table. -/

/-- `T1S_FRAME_RECEIVED`: A T1S frame ends, is attributed by node ID, looked up in the partner table and queued to its fold (R355). -/
def execT1sFrameReceived (p : Fin 4) (node : Byte) (bytes : List Byte) (good : Bool) (s : State) : Host.Outcome State Fault Refusal :=
  lift (mT1sFrameReceived p node bytes good) s

/-- `GBE_FRAME_RECEIVED`: A GbE frame ends and is looked up and queued to the owning fold (R356). -/
def execGbeFrameReceived (m : Fin 2) (bytes : List Byte) (good : Bool) (s : State) : Host.Outcome State Fault Refusal :=
  lift (mGbeFrameReceived m bytes good) s

/-- `CAN_FRAME_RECEIVED`: A CAN frame ends, is attributed by ID filter, looked up and queued (R358). -/
def execCanFrameReceived (p : Fin 4) (fr : CanFrame) (good : Bool) (s : State) : Host.Outcome State Fault Refusal :=
  lift (mCanFrameReceived p fr good) s

/-- `UART_CHARACTER_RECEIVED`: A UART character enters the receive FIFO, or is discarded when the FIFO is full (R360). -/
def execUartCharacterReceived (u : Fin 8) (ch : Byte) (bad : Bool) (gap : Bool) (s : State) : Host.Outcome State Fault Refusal :=
  lift (mUartCharacterReceived u ch bad gap) s

/-- `UART_BUFFER_CLOSE`: Silence, a full buffer or a sentence end closes a UART receive buffer into a record and fires FRAME (R360). -/
def execUartBufferClose (u : Fin 8) (s : State) : Host.Outcome State Fault Refusal :=
  lift (mUartBufferClose u) s

/-- `POOL_FREE_WRITE`: A write to POOL.FREE returns a buffer, refused as BADFREE when invalid (R349). -/
def execPoolFreeWrite (a : Agent) (v : Word) (s : State) : Host.Outcome State Fault Refusal :=
  lift (mPoolFreeWrite a v) s

/-- `TXQ_WRITE`: A write to TXQ assembles a fold's record pair and enqueues it (R348). -/
def execTxqWrite (a : Agent) (u : FieldPort) (v : Word) (s : State) : Host.Outcome State Fault Refusal :=
  lift (mTxqWrite a u v) s

/-- `TX_RECORD_HEAD`: A record reaching the head of the transmit queue is checked and sent, or refused (R348). -/
def execTxRecordHead (u : FieldPort) (s : State) : Host.Outcome State Fault Refusal :=
  lift (mTxRecordHead u) s

/-- `FRAME_TRANSMIT_COMPLETE`: A sent frame's last bit returns its FREE buffers and fires TX (R348). -/
def execFrameTransmitComplete (u : FieldPort) (s : State) : Host.Outcome State Fault Refusal :=
  lift (mFrameTransmitComplete u) s

/-- `TRANSMIT_FAILURE`: 16 collisions or bus-off discard the frame, return its buffers and fire ERR (R368). -/
def execTransmitFailure (u : FieldPort) (s : State) : Host.Outcome State Fault Refusal :=
  lift (mTransmitFailure u) s

/-- `PARTNER_AGE_TICK`: Every 1 ms each entry's IDLE advances, and entries reaching AGE are freed with LEAVE AGED (R363). -/
def execPartnerAgeTick (s : State) : Host.Outcome State Fault Refusal :=
  lift (mPartnerAgeTick) s

/-- `PTAB_ADD_WRITE`: A write to PTAB.ADDHI adds a STATIC entry (R361). -/
def execPtabAddWrite (a : Agent) (v : Word) (s : State) : Host.Outcome State Fault Refusal :=
  lift (mPtabAddWrite a v) s

/-- `PTAB_DEL_WRITE`: A write to PTAB.DEL frees an entry with LEAVE DELETED (R361). -/
def execPtabDelWrite (a : Agent) (v : Word) (s : State) : Host.Outcome State Fault Refusal :=
  lift (mPtabDelWrite a v) s

/-- `PORT_OWN_WRITE`: A write to a port's OWN sets the owner, and is refused unless the port is OFF (R345). -/
def execPortOwnWrite (a : Agent) (u : FieldPort) (v : Word) (s : State) : Host.Outcome State Fault Refusal :=
  lift (mPortOwnWrite a u v) s

/-- `POOL_FLOOR_WRITE`: A write to FLOORr is refused when the sum of floors would exceed 512 (R350). -/
def execPoolFloorWrite (a : Agent) (r : ReqId) (v : Word) (s : State) : Host.Outcome State Fault Refusal :=
  lift (mPoolFloorWrite a r v) s

/-- `POOL_HDES_WRITE`: A write to HDES is refused when more than 8 requesters would be designated (R350). -/
def execPoolHdesWrite (a : Agent) (n : Fin 4) (v : Word) (s : State) : Host.Outcome State Fault Refusal :=
  lift (mPoolHdesWrite a n v) s

/-- `PLCA_LOST`: Loss of the beacon switches the port to CSMA/CD and raises !PLCA LOST (R354). -/
def execPlcaLost (p : Fin 4) (s : State) : Host.Outcome State Fault Refusal :=
  lift (mPlcaLost p) s

/-- `PLCA_OK`: The beacon's return raises !PLCA OK (R354). -/
def execPlcaOk (p : Fin 4) (s : State) : Host.Outcome State Fault Refusal :=
  lift (mPlcaOk p) s

/-- `GBE_LINK_DOWN`: Link loss makes the MAC IDLE and raises !PORT DOWN (R368). -/
def execGbeLinkDown (m : Fin 2) (s : State) : Host.Outcome State Fault Refusal :=
  lift (mGbeLinkDown m) s

/-- `GBE_LINK_UP`: Link up raises !PORT UP, and the MAC goes ACTIVE at full duplex (R368). -/
def execGbeLinkUp (m : Fin 2) (speed : Fin 4) (hdx : Bool) (s : State) : Host.Outcome State Fault Refusal :=
  lift (mGbeLinkUp m speed hdx) s

/-- `MDIO_TRANSACTION`: A write of GO to GbE MDIO starts a Clause 22 transaction (R356). -/
def execMdioTransaction (a : Agent) (m : Fin 2) (v : Word) (s : State) : Host.Outcome State Fault Refusal :=
  lift (mMdioTransaction a m v) s

/-- `MDIO_COMPLETE`: The MDIO transaction completes or sets ERR, and GO clears (R356). -/
def execMdioComplete (m : Fin 2) (x : Option (BitVec 16)) (s : State) : Host.Outcome State Fault Refusal :=
  lift (mMdioComplete m x) s

/-- `CAN_ERROR_PASSIVE`: A CAN port reaching error passive raises !CAN PASSIVE (R357). -/
def execCanErrorPassive (p : Fin 4) (tec : Byte) (rec_ : Byte) (s : State) : Host.Outcome State Fault Refusal :=
  lift (mCanErrorPassive p tec rec_) s

/-- `CAN_BUS_OFF`: A CAN port reaching bus-off enters FAULT and raises !CAN BUSOFF (R357). -/
def execCanBusOff (p : Fin 4) (s : State) : Host.Outcome State Fault Refusal :=
  lift (mCanBusOff p) s

/-- `CAN_INTEGRATED`: After 128 occurrences of 11 recessive bits the CAN port integrates and becomes ACTIVE (R357). -/
def execCanIntegrated (p : Fin 4) (s : State) : Host.Outcome State Fault Refusal :=
  lift (mCanIntegrated p) s

/-- `PORT`: Brenex port shows every port (R370). -/
def execPort (o : Via) (s : State) : Host.Outcome State Fault Refusal :=
  lift (row o (vPort o)) s

/-- `PORT_SHOW`: Brenex port followed by a port name shows it in full (R370). -/
def execPortShow (o : Via) (u : FieldPort) (s : State) : Host.Outcome State Fault Refusal :=
  lift (row o (vPortShow o u)) s

/-- `PORT_OWN`: Brenex port own writes OWN (R370). -/
def execPortOwn (o : Via) (u : FieldPort) (f : Option (Fin 8)) (s : State) : Host.Outcome State Fault Refusal :=
  lift (row o (vPortOwn o u f)) s

/-- `T1S_PLCA_COORD`: Brenex t1s plca coord sets coordinator mode (R370). -/
def execT1sPlcaCoord (o : Via) (p : Fin 4) (nodes : Nat) (burst : Option Nat) (to_ : Option Nat) (s : State) : Host.Outcome State Fault Refusal :=
  lift (row o (vT1sPlcaCoord o p nodes burst to_)) s

/-- `T1S_PLCA_FOLLOW`: Brenex t1s plca follow sets follower mode (R370). -/
def execT1sPlcaFollow (o : Via) (p : Fin 4) (id_ : Nat) (burst : Option Nat) (to_ : Option Nat) (s : State) : Host.Outcome State Fault Refusal :=
  lift (row o (vT1sPlcaFollow o p id_ burst to_)) s

/-- `T1S_PLCA_OFF`: Brenex t1s plca off disables PLCA (R370). -/
def execT1sPlcaOff (o : Via) (p : Fin 4) (s : State) : Host.Outcome State Fault Refusal :=
  lift (row o (vT1sPlcaOff o p)) s

/-- `T1S_NODE`: Brenex t1s node writes NIDk (R370). -/
def execT1sNode (o : Via) (p : Fin 4) (ns : List Nat) (f : Option (Fin 8)) (s : State) : Host.Outcome State Fault Refusal :=
  lift (row o (vT1sNode o p ns f)) s

/-- `GBE_SPEED`: Brenex gbe speed writes the GbE CFG (R370). -/
def execGbeSpeed (o : Via) (m : Fin 2) (speed : Fin 4) (tx : Option Bool) (rx : Option Bool) (s : State) : Host.Outcome State Fault Refusal :=
  lift (row o (vGbeSpeed o m speed tx rx)) s

/-- `CAN_RATE`: Brenex can rate writes the bit timing (R370). -/
def execCanRate (o : Via) (p : Fin 4) (nom : CanTiming) (dat : Option CanTiming) (listen : Option Bool) (s : State) : Host.Outcome State Fault Refusal :=
  lift (row o (vCanRate o p nom dat listen)) s

/-- `CAN_FILTER`: Brenex can filter writes a filter (R370). -/
def execCanFilter (o : Via) (p : Fin 4) (n : Nat) (x : Option CanFilt) (s : State) : Host.Outcome State Fault Refusal :=
  lift (row o (vCanFilter o p n x)) s

/-- `UART_CFG`: Brenex uart writes the UART CFG and DE (R370). -/
def execUartCfg (o : Via) (u : Fin 8) (x : UartSet) (s : State) : Host.Outcome State Fault Refusal :=
  lift (row o (vUartCfg o u x)) s

/-- `PTAB`: Brenex ptab lists the partner entries (R370). -/
def execPtab (o : Via) (u : Option FieldPort) (s : State) : Host.Outcome State Fault Refusal :=
  lift (row o (vPtab o u)) s

/-- `PTAB_AGE`: Brenex ptab age writes AGE (R370). -/
def execPtabAge (o : Via) (u : FieldPort) (ms : Nat) (s : State) : Host.Outcome State Fault Refusal :=
  lift (row o (vPtabAge o u ms)) s

/-- `PTAB_ADD`: Brenex ptab add adds a STATIC entry and places a JOIN (R370). -/
def execPtabAdd (o : Via) (u : FieldPort) (key : Nat) (f : Fin 8) (s : State) : Host.Outcome State Fault Refusal :=
  lift (row o (vPtabAdd o u key f)) s

/-- `PTAB_DEL`: Brenex ptab del frees an entry (R370). -/
def execPtabDel (o : Via) (n : Nat) (s : State) : Host.Outcome State Fault Refusal :=
  lift (row o (vPtabDel o n)) s

/-- `POOL`: Brenex pool shows the pool state (R370). -/
def execPool (o : Via) (s : State) : Host.Outcome State Fault Refusal :=
  lift (row o (vPool o)) s

/-- `POOL_FLOOR`: Brenex pool floor writes a floor (R370). -/
def execPoolFloor (o : Via) (r : ReqId) (n : Nat) (s : State) : Host.Outcome State Fault Refusal :=
  lift (row o (vPoolFloor o r n)) s

/-- `POOL_HALTER`: Brenex pool halter writes HDES (R370). -/
def execPoolHalter (o : Via) (rs : List ReqId) (s : State) : Host.Outcome State Fault Refusal :=
  lift (row o (vPoolHalter o rs)) s

/-- `X_PORT_REGS`: Brenex x port regs decodes a port's registers (R371). -/
def execXPortRegs (o : Via) (u : FieldPort) (s : State) : Host.Outcome State Fault Refusal :=
  lift (row o (vXPortRegs o u)) s

/-- `X_PTAB_DUMP`: Brenex x ptab dump shows raw entries (R371). -/
def execXPtabDump (o : Via) (x : Option (Nat × Nat)) (s : State) : Host.Outcome State Fault Refusal :=
  lift (row o (vXPtabDump o x)) s

/-- `X_POOL_MAP`: Brenex x pool map shows every allocated buffer (R371). -/
def execXPoolMap (o : Via) (s : State) : Host.Outcome State Fault Refusal :=
  lift (row o (vXPoolMap o)) s

/-- `X_PORT_INJECT`: Brenex x port inject corrupts an FCS or forces a NOBUF (R371). -/
def execXPortInject (o : Via) (u : FieldPort) (nobuf : Bool) (s : State) : Host.Outcome State Fault Refusal :=
  lift (row o (vXPortInject o u nobuf)) s

end Sys2Proof.Machine
end

