-- ==== Sys2Proof/Machine/Unit.lean ====
section
/-! DEFINITION. The commands of the state arbiter: unit verbs, STATE.REQ, the sweep, the ends of resets (spec/04). -/
namespace Sys2Proof.Machine

/-! The sweep (R76, R84). -/

/-- What an upset does to a unit: its hardware state, its shadow, or one of its registers changes behind the arbiter. -/
def applyUpset (d : Dev) (u : UnitId) (x : Upset) : Dev :=
  let r := d.unit u
  match x with
  | .none => d
  | .hwState s => if s.val == 0 then d else d.setUnit u { r with st := stateOfCode s.val }
  | .shadowState s => d.setUnit u { r with sh := stateOfCode s.val }
  | .parity => d.setUnit u { r with shBad := true }
  | .reg off v =>
    let o := off.toNat
    let old := regGet d u o
    let d := regSet d u o v
    if regGet d u o == old || r.regDiff.any (·.1 == off) then d
    else d.setUnit u { d.unit u with regDiff := r.regDiff ++ [(off, old)] }

/-- The sweep visits a unit, after an upset if there is one. A hardware state that reads as ABSENT differs from any shadow. -/
def mShadowSweep (u : UnitId) (x : Upset) (d : Dev) : Dev :=
  if !unitPresent d.variant u || !d.clocked then d
  else
    match x with
    | .hwState 0 => if (d.unit u).dis then d else followUp (disagreeAs d u .absent) u
    | _ => disagree (applyUpset d u x) u

/-! Ends of resets (R78 to R83). -/

/-- Whether a reset of this unit itself is under way. -/
def resetRoot (d : Dev) (u : UnitId) : Bool := (d.unit u).resetting && !containerResetting d u

/-- Whether issued beats of a channel that the reset reaches are still to complete (R79). -/
def beatsLeft (d : Dev) (u : UnitId) : Bool :=
  d.dma.movers.any fun (m : Mover) => m.busy && m.cut.isSome && (withContents d u).contains (dmaU m.ch)

/-- The completion of a reset; a pen that has been loaded under a step that sheds it is shed at once (R39, spec/08 R180). -/
def mUnitResetComplete (u : UnitId) (d : Dev) : Dev :=
  if resetRoot d u && !beatsLeft d u then (resetPens d u).foldl shedAtLoad (resetFinish d u) else d

/-- A reset that has not completed within 100 us is abandoned: its units take requests again, the unit is fenced with MCHECK, held fences
apply, and the Bellwether records it; which step did not complete is open (log 23). -/
def mResetTimeout (u : UnitId) (d : Dev) : Dev :=
  if resetRoot d u then
    let all := resetOrder d u
    let held := all.filterMap fun x => let h := (d.unit x).held; if h.isEmpty then none else some (x, h)
    let d := all.foldl (fun d x => d.setUnit x { d.unit x with resetting := false, held := [] }) d
    let d := fence d u .mcheck
    let detail := Config.freeCell d.free
    let d := bwRecord { d with free := d.free + 1 } 6 u 0x12 detail 0 0
    held.foldl (fun d x => x.2.foldl (fun d h => fenceHeld d x.1 h) d) d
  else d

/-! Requests through STATE.REQ (R71, R88). -/

/-- A write to STATE.REQ that names a unit, an operation and perhaps a generation. -/
def stateReqRow (a : Agent) (u : UnitId) (o : UOp) (g : Option (BitVec 16)) (d : Dev) : Dev :=
  writeRow a 0x40010008 (stateReq d (reqOf d a) u o (g.map (·.toNat)))

def mStateReqOn (a : Agent) (u : UnitId) (g : Option (BitVec 16)) (d : Dev) : Dev := stateReqRow a u .on g d
def mStateReqOff (a : Agent) (u : UnitId) (g : Option (BitVec 16)) (d : Dev) : Dev := stateReqRow a u .off g d
def mStateReqFence (a : Agent) (u : UnitId) (g : Option (BitVec 16)) (d : Dev) : Dev := stateReqRow a u .fence g d
def mStateReqUnfence (a : Agent) (u : UnitId) (g : Option (BitVec 16)) (d : Dev) : Dev := stateReqRow a u .unfence g d
def mStateReqReset (a : Agent) (u : UnitId) (g : Option (BitVec 16)) (d : Dev) : Dev := stateReqRow a u .reset g d
def mStateReqAdoptMgmt (a : Agent) (u : UnitId) (g : Option (BitVec 16)) (d : Dev) : Dev := stateReqRow a u .adoptMgmt g d
def mStateReqAdoptData (a : Agent) (u : UnitId) (g : Option (BitVec 16)) (d : Dev) : Dev := stateReqRow a u .adoptData g d

/-! The verbs (R86, R87). -/

/-- The causes of a fence, by name. -/
def causesText (r : UnitRec) : String :=
  joinSp (([FCause.cmd, .mcheck, .disagree, .shed, .clock, .parent].filter (hasCause r)).map causeName)

/-- A unit's line, as `unit <u>` shows it. -/
def unitLine (d : Dev) (u : UnitId) : String :=
  let r := d.unit u
  unitName u ++ " " ++ stateName (d.unit u).st ++ (if r.fcause == 0 then "" else " " ++ causesText r) ++ " gen " ++
    toString r.gen.toNat ++ (match d.owner u with | some f => " fold " ++ toString f | none => "")

/-- The two states of a unit that disagrees. -/
def disLines (d : Dev) (u : UnitId) : List String :=
  let r := d.unit u
  if r.dis then
    ["mgmt " ++ mgmtName r.disMgmt ++ " data " ++ stateName r.disData ++ " cfg " ++ (if r.disCfg then "differs" else "same")]
  else []

/-- CORE.RSTINFO (R85). -/
def rstinfoWord (k : Core) : Word := toWord (k.sblost + put k.rstScope 4 + putB k.rstRead 7)

def vUnitList (o : Via) (d : Dev) : Dev := verb o .observe [] (fun d => vData d (allUnits.map (unitLine d))) d

def vUnitShow (o : Via) (u : UnitId) (d : Dev) : Dev :=
  verb o .observe [u] (fun d =>
    vData d ([unitLine d u] ++ disLines d u ++
      (match u with | .core c => reportLines "unit core" [("rstinfo", hex32 (rstinfoWord (d.core c.val)))] | _ => []))) d

/-- A verb that makes a request to a unit. -/
def unitVerb (o : Via) (role : Role) (u : UnitId) (op : UOp) (g : Option Nat) (d : Dev) : Dev :=
  verb o role [u] (fun d => vCode u (unitRequest d (viaSrc o) u op g)) d

def vUnitOn (o : Via) (u : UnitId) (g : Option Nat) (d : Dev) : Dev := unitVerb o .operate u .on g d
def vUnitOff (o : Via) (u : UnitId) (g : Option Nat) (d : Dev) : Dev := unitVerb o .operate u .off g d
def vFence (o : Via) (u : UnitId) (g : Option Nat) (d : Dev) : Dev := unitVerb o .operate u .fence g d
def vUnfence (o : Via) (u : UnitId) (g : Option Nat) (d : Dev) : Dev := unitVerb o .operate u .unfence g d
def vUnitAdoptMgmt (o : Via) (u : UnitId) (g : Option Nat) (d : Dev) : Dev := unitVerb o .engineer u .adoptMgmt g d
def vUnitAdoptData (o : Via) (u : UnitId) (g : Option Nat) (d : Dev) : Dev := unitVerb o .engineer u .adoptData g d

/-- `reset <u>`; the reset of the port the command came from begins once its `ok` has been sent (spec/03 R60). -/
def vResetUnit (o : Via) (u : UnitId) (g : Option Nat) (d : Dev) : Dev :=
  let role : Role := if u == .fold 0 then .engineer else .operate
  let own : Bool := match viaPort o with | some p => u == UnitId.mg p | none => false
  if own then
    verb o role [u] (fun d =>
      let ok := reqReset u d
      vCode u (request d (viaSrc o) u (uopName .reset) g fun d =>
        if ok.2 == .ok then (match viaPort o with
          | some p => d.updMg p fun k => { k with deferred := some .resetPort }
          | none => d, RCode.ok)
        else (d, ok.2))) d
  else unitVerb o role u .reset g d

/-- `reset device`: the reset follows its `ok` (spec/19 R439); the script may not give it (spec/18 R401). It is for a machine session, or an
engineer's while the Bellwether is halted (spec/09 R207). -/
def vResetDevice (o : Via) (d : Dev) : Dev :=
  verb o (if d.bw.halt then .engineer else .machine) [] (fun d =>
    match viaPort o with
    | some p => vOk (d.updMg p fun k => { k with deferred := some .resetDevice })
    | none => vEr d 60) d

/-- The offsets of the state-bearing registers of a unit. -/
def stateRegs (u : UnitId) : List Nat :=
  let arr (base stride n : Nat) : List Nat := (List.range n).map fun i => base + stride * i
  match u with
  | .pmu => [0x08, 0x0C] ++ arr 0x20 4 7
  | .core _ => [0xD4]
  | .pen _ => [0x04, 0x08, 0x0C, 0x10, 0x14, 0x1000] ++ arr 0x1008 4 6 ++ arr 0x1020 4 8 ++ arr 0x1040 4 8 ++ [0x1060, 0x106C] ++
    (arr 0x2000 16 256).flatMap (fun a => [a, a + 4, a + 8]) ++ arr 0x3000 4 64
  | .tile _ => [4] ++ arr 0x20 4 4
  | .fold _ => arr 0 4 32 ++ [0x80, 0x84, 0x88]
  | .evr _ => [0, 4, 8] ++ arr 0x100 4 64
  | .dma _ => arr 0 4 7
  | .t1s _ => arr 0 4 4 ++ arr 0x400 4 255
  | .can _ => arr 0 4 4 ++ arr 0x200 4 64
  | .gbe _ | .uart _ => arr 0 4 4
  | .mg _ => [0, 8]
  | .afe => [0, 4] ++ (arr 0x200 16 24).flatMap fun a => [a, a + 4, a + 8]
  | .pwm _ => [0, 4, 8, 0x14]
  | .gpio => arr 0x20 4 16 ++ [0x80]
  | .halt => [4] ++ arr 0x20 4 8
  | .ptab => arr 0x10 4 18 ++ arr 0x600C 4 3 ++ [0x6018, 0x601C] ++ arr 0x6100 4 104

/-- `x state <u>`: shadow and hardware side by side. -/
def vXState (o : Via) (u : UnitId) (d : Dev) : Dev :=
  verb o .engineer [u] (vShow "x state" fun d =>
    let r := d.unit u
    [("state", mgmtName (if r.shBad then none else some r.sh) ++ " " ++ stateName r.st)] ++
    (stateRegs u).map fun off =>
      let hw := regGet d u off
      let sh := match r.regDiff.find? (fun x => x.1.toNat == off) with | some x => x.2 | none => hw
      (hexDigits off 4, hex32 sh ++ " " ++ hex32 hw)) d

def vXStateLog (o : Via) (d : Dev) : Dev :=
  verb o .engineer [] (vShow "x state log" fun d => d.arbLog.map fun e =>
    (e.source, numsText [e.unit, e.gen, e.code] ++ " " ++ e.req)) d

/-- `x state sim disagree`: the shadow takes some other state, which one the spec leaves open (log 24), and the compare finds it. -/
def vXStateSimDisagree (o : Via) (u : UnitId) (d : Dev) : Dev :=
  verb o .engineer [u] (fun d => runOrSlow d fun d =>
    let r := d.unit u
    if r.st == .fenced then vEr d 50
    else if r.resetting then vEr d 40
    else
      let s := stateOfCode ((stateCode r.st + 1 + (Config.freeCell d.free).toNat % 5) % 6)
      let d := { d with free := d.free + 1 }
      vOk (disagree (d.setUnit u { r with sh := s }) u)) d

/-! The rows of the table. -/

/-- `UNIT_LIST`: Brenex unit lists every unit with its state, generation and fence causes (R86). -/
def execUnitList (o : Via) (s : State) : Host.Outcome State Fault Refusal :=
  lift (row o (vUnitList o)) s

/-- `UNIT_SHOW`: Brenex unit followed by a unit name shows that unit's state, generation, causes and fold (R86). -/
def execUnitShow (o : Via) (u : UnitId) (s : State) : Host.Outcome State Fault Refusal :=
  lift (row o (vUnitShow o u)) s

/-- `UNIT_ON`: Brenex unit on moves a unit from OFF to IDLE (R68). -/
def execUnitOn (o : Via) (u : UnitId) (g : Option Nat) (s : State) : Host.Outcome State Fault Refusal :=
  lift (row o (vUnitOn o u g)) s

/-- `UNIT_OFF`: Brenex unit off moves a unit from IDLE or FAULT to OFF (R68). -/
def execUnitOff (o : Via) (u : UnitId) (g : Option Nat) (s : State) : Host.Outcome State Fault Refusal :=
  lift (row o (vUnitOff o u g)) s

/-- `FENCE`: Brenex fence applies fence cause CMD to a unit and its contents (R73). -/
def execFence (o : Via) (u : UnitId) (g : Option Nat) (s : State) : Host.Outcome State Fault Refusal :=
  lift (row o (vFence o u g)) s

/-- `UNFENCE`: Brenex unfence clears cause CMD, and raises !UNFENCE when no cause remains (R74). -/
def execUnfence (o : Via) (u : UnitId) (g : Option Nat) (s : State) : Host.Outcome State Fault Refusal :=
  lift (row o (vUnfence o u g)) s

/-- `RESET_UNIT`: Brenex reset resets one unit and its contents (R78). -/
def execResetUnit (o : Via) (u : UnitId) (g : Option Nat) (s : State) : Host.Outcome State Fault Refusal :=
  lift (row o (vResetUnit o u g)) s

/-- `RESET_DEVICE`: Brenex reset device causes a device reset with cause CMD after the ok line (R86). -/
def execResetDevice (o : Via) (s : State) : Host.Outcome State Fault Refusal :=
  lift (row o (vResetDevice o)) s

/-- `UNIT_ADOPT_MGMT`: Brenex unit adopt mgmt rewrites the hardware from the shadow and clears DISAGREE (R77). -/
def execUnitAdoptMgmt (o : Via) (u : UnitId) (g : Option Nat) (s : State) : Host.Outcome State Fault Refusal :=
  lift (row o (vUnitAdoptMgmt o u g)) s

/-- `UNIT_ADOPT_DATA`: Brenex unit adopt data rewrites the shadow from the hardware and clears DISAGREE (R77). -/
def execUnitAdoptData (o : Via) (u : UnitId) (g : Option Nat) (s : State) : Host.Outcome State Fault Refusal :=
  lift (row o (vUnitAdoptData o u g)) s

/-- `X_STATE`: Brenex x state shows the shadow and hardware copies of a unit's registers (R87). -/
def execXState (o : Via) (u : UnitId) (s : State) : Host.Outcome State Fault Refusal :=
  lift (row o (vXState o u)) s

/-- `X_STATE_LOG`: Brenex x state log lists the last 32 arbiter decisions (R87). -/
def execXStateLog (o : Via) (s : State) : Host.Outcome State Fault Refusal :=
  lift (row o (vXStateLog o)) s

/-- `X_STATE_SIM_DISAGREE`: Brenex x state sim disagree corrupts a unit's shadow state, to test disagreement handling (R87). -/
def execXStateSimDisagree (o : Via) (u : UnitId) (s : State) : Host.Outcome State Fault Refusal :=
  lift (row o (vXStateSimDisagree o u)) s

/-- `STATE_REQ_ON`: A STATE.REQ write with OP ON requests OFF to IDLE through the arbiter (R88). -/
def execStateReqOn (a : Agent) (u : UnitId) (g : Option (BitVec 16)) (s : State) : Host.Outcome State Fault Refusal :=
  lift (mStateReqOn a u g) s

/-- `STATE_REQ_OFF`: A STATE.REQ write with OP OFF requests the move to OFF (R88). -/
def execStateReqOff (a : Agent) (u : UnitId) (g : Option (BitVec 16)) (s : State) : Host.Outcome State Fault Refusal :=
  lift (mStateReqOff a u g) s

/-- `STATE_REQ_FENCE`: A STATE.REQ write with OP FENCE applies cause CMD (R88). -/
def execStateReqFence (a : Agent) (u : UnitId) (g : Option (BitVec 16)) (s : State) : Host.Outcome State Fault Refusal :=
  lift (mStateReqFence a u g) s

/-- `STATE_REQ_UNFENCE`: A STATE.REQ write with OP UNFENCE clears cause CMD (R88). -/
def execStateReqUnfence (a : Agent) (u : UnitId) (g : Option (BitVec 16)) (s : State) : Host.Outcome State Fault Refusal :=
  lift (mStateReqUnfence a u g) s

/-- `STATE_REQ_RESET`: A STATE.REQ write with OP RESET resets the unit (R88). -/
def execStateReqReset (a : Agent) (u : UnitId) (g : Option (BitVec 16)) (s : State) : Host.Outcome State Fault Refusal :=
  lift (mStateReqReset a u g) s

/-- `STATE_REQ_ADOPT_MGMT`: A STATE.REQ write with OP ADOPT MGMT adopts the shadow (R88). -/
def execStateReqAdoptMgmt (a : Agent) (u : UnitId) (g : Option (BitVec 16)) (s : State) : Host.Outcome State Fault Refusal :=
  lift (mStateReqAdoptMgmt a u g) s

/-- `STATE_REQ_ADOPT_DATA`: A STATE.REQ write with OP ADOPT DATA adopts the hardware state (R88). -/
def execStateReqAdoptData (a : Agent) (u : UnitId) (g : Option (BitVec 16)) (s : State) : Host.Outcome State Fault Refusal :=
  lift (mStateReqAdoptData a u g) s

/-- `SHADOW_SWEEP`: The arbiter sweep compares one unit's shadow with its hardware each CLK_FAB cycle (R76). -/
def execShadowSweep (u : UnitId) (x : Upset) (s : State) : Host.Outcome State Fault Refusal :=
  lift (mShadowSweep u x) s

/-- `UNIT_RESET_COMPLETE`: A running unit, pen or fold reset completes, raises !RESET and applies the fences held during it (R78). -/
def execUnitResetComplete (u : UnitId) (s : State) : Host.Outcome State Fault Refusal :=
  lift (mUnitResetComplete u) s

/-- `RESET_TIMEOUT`: A reset not complete within 100 µs is abandoned, and the unit is fenced with cause MCHECK (R82). -/
def execResetTimeout (u : UnitId) (s : State) : Host.Outcome State Fault Refusal :=
  lift (mResetTimeout u) s

end Sys2Proof.Machine
end

