-- ==== Sys2Proof/Machine/DmaRegs.lean ====
section
/-! DEFINITION. The registers and verbs of the DMA engine, and its request queues (spec/14 R293 to R299, R309 to R316). -/
namespace Sys2Proof.Machine

/-! Request queues (R299). -/

/-- The port behind a request queue, and whether it is a transmit queue. -/
def queuePort (s : Nat) : Option (FieldPort × Bool) :=
  if 0x01 ≤ s && s ≤ 0x08 then some (.uart (Fin.ofNat 8 (s - 0x01)), false)
  else if 0x09 ≤ s && s ≤ 0x10 then some (.uart (Fin.ofNat 8 (s - 0x09)), true)
  else if 0x11 ≤ s && s ≤ 0x14 then some (.can (Fin.ofNat 4 (s - 0x11)), false)
  else if 0x15 ≤ s && s ≤ 0x18 then some (.can (Fin.ofNat 4 (s - 0x15)), true)
  else if 0x19 ≤ s && s ≤ 0x1C then some (.t1s (Fin.ofNat 4 (s - 0x19)), false)
  else if 0x1D ≤ s && s ≤ 0x20 then some (.t1s (Fin.ofNat 4 (s - 0x1D)), true)
  else if 0x21 ≤ s && s ≤ 0x22 then some (.gbe (Fin.ofNat 2 (s - 0x21)), false)
  else if 0x23 ≤ s && s ≤ 0x24 then some (.gbe (Fin.ofNat 2 (s - 0x23)), true)
  else none

/-- The unit of a request queue. -/
def queueUnit (s : Nat) : Option UnitId :=
  match queuePort s with
  | some (u, _) => some (portUnit u)
  | none =>
    if s == 0x25 then some .afe
    else if 0x26 ≤ s && s ≤ 0x35 then some (pwmU (s - 0x26))
    else if s == 0x36 then some .gpio
    else none

/-- Whether a fold owns a unit or has access to it; every fold reads the GPIO unit (R299, R304, R384). -/
def foldReaches (d : Dev) (f : Nat) (u : UnitId) : Bool :=
  unitPresent d.variant u &&
  match u with
  | .gpio => true
  | .t1s n => portAccess d n.val f
  | .can n => portAccess d (4 + n.val) f
  | .gbe n => portAccess d (8 + n.val) f
  | .uart n => portAccess d (10 + n.val) f
  | u => d.owner u == some f

/-- Whether SRC may name a queue. -/
def srcAllowed (d : Dev) (c s : Nat) : Bool :=
  s == 0 ||
  match queueUnit s, (d.chan c).own with
  | some u, some f => foldReaches d f u
  | _, _ => false

/-- The level of a queue for a fold: bytes held, or bytes free. -/
def queueLevel (d : Dev) (f s : Nat) : Nat :=
  match queuePort s with
  | some (u, true) => 128 - 8 * (d.port (portId u)).txq.length
  | some (u, false) => subBytes (subQ (d.port (portId u)) f)
  | none =>
    if s == 0x25 then 4 * d.afe.queue.length
    else if s == 0x36 then 4 * d.gpio.snapq.length
    else if 0x26 ≤ s then 4 * (8 - (d.pwm (s - 0x26)).spq.length)
    else 0

/-- The level a channel is paced by. -/
def chanLevel (d : Dev) (c : Nat) : Nat := let k := d.chan c; queueLevel d (k.own.getD 0) k.src

/-- Whether the unit of a channel's queue is IDLE or ACTIVE. -/
def queueUp (d : Dev) (s : Nat) : Bool :=
  match queueUnit s with
  | none => true
  | some u => let r := d.unit u; (r.st == .idle || r.st == .active) && !r.resetting

/-! Registers (R316). -/

/-- The mover that serves a channel. -/
def moverOf (d : Dev) (c : Nat) : Option Nat := (List.range 4).find? fun i =>
  let m : Mover := lget d.dma.movers Mover.reset i; m.busy && m.ch == c

/-- What a refused write leaves. -/
def dmaRefuse (d : Dev) : Dev := { d with dma := { d.dma with refused := true } }

/-- Whether a channel's registers may be written. -/
def chanQuiet (d : Dev) (c : Nat) : Bool := (d.unit (dmaU c)).st == .off || (d.unit (dmaU c)).st == .idle

/-- A write of OWN: only while OFF (R293). -/
def chanOwnSet (c : Nat) (v : Word) (d : Dev) : Except RCode Dev :=
  if (d.unit (dmaU c)).st == .off then .ok (regSet d (dmaU c) 0 v) else .error .busy

/-- A write of another register of a channel under its own condition: only while OFF or IDLE (R296). -/
def chanSet (c : Nat) (ok : Dev → Bool) (f : Dev → Dev) (d : Dev) : Except RCode Dev :=
  if !chanQuiet d c then .error .busy else if ok d then .ok (f d) else .error .invalid

/-- Whether a CLASS may be written (R295). -/
def classOk (tether : Bool) (cls : Nat) : Bool := cls != 0 && (cls != 1 || tether)

/-- Whether marks may be written (R299). -/
def marksOk (high low : Nat) : Bool := low < high

/-- STAT of a channel. -/
def chanStat (k : Channel) : Word :=
  toWord (k.code + putB k.half 8 + putB k.full 9 + putB k.short 10 + putB k.req 12 + put k.tries 16)

/-- A read of the DMA unit: F and above. -/
def dmaRead (d : Dev) (q : Req) (off : Nat) : Dev × RRes :=
  let v : Word :=
    if off == 0 then toWord (putB d.dma.refused 0)
    else match idx off 0x10 4 4 with
      | some i =>
        let m : Mover := lget d.dma.movers Mover.reset i
        toWord (m.ch + putB m.busy 7)
      | none =>
        if 0x1000 ≤ off && off < 0x2000 then
          let c := (off - 0x1000) / 0x40
          let k := d.chan c
          match (off - 0x1000) % 0x40 with
          | 0x20 => chanStat k
          | 0x24 => toWord k.done
          | 0x28 => k.errAddr
          | 0x2C => toWord (k.cntDesc + put k.cntShort 16)
          | 0x30 => toWord (k.cntRetry + put k.cntNobuf 16 + put k.cntReslost 24)
          | 0x34 => toWord k.resid.length
          | o => regGet d (dmaU c) o
        else 0
  if 0x1000 ≤ off && off < 0x2000 && (d.unit (dmaU ((off - 0x1000) / 0x40))).st == .absent then (d, .error 0x0D)
  else guardR (atLeast q .f) d v

/-- The W1C bits of a channel's STAT (log 41). -/
def chanStatClear (c : Nat) (v : Word) (d : Dev) : Dev :=
  d.updChan c fun k => { k with half := k.half && !bitOf v 8, full := k.full && !bitOf v 9, short := k.short && !bitOf v 10 }

/-- KICK: an idle channel fetches at HEAD (R297, R309). -/
def kickRun (c : Nat) (d : Dev) : Dev × RCode :=
  match (d.unit (dmaU c)).st with
  | .idle => (if (d.chan c).stage == .idle then d.updChan c fun k => { k with stage := .fetch, tries := 0 } else d, .ok)
  | .active => (d, .ok)
  | .fault => (d, .busy)
  | .fenced => (d, .fenced)
  | .off => (d, .invalid)
  | .absent => (d, .absent)

/-! The engine's accesses to plain memory, and the halt (R270, R278, R295, R309 to R311). -/

/-- The status code of a refusal: window, absent, bus error. -/
def dmaCodeOf (e : Byte) : Nat := match e with | 0x08 => 4 | 0x0D => 5 | _ => 6

/-- No core: the engine sees every local memory as another agent does. -/
def noCore : Nat := 64

/-- The engine's check of one access to plain memory, at F of the owning fold; ring and descriptor cells lie there (log 42). -/
def dmaCheck (d : Dev) (c a n : Nat) (k : Acc) : Option Nat :=
  (memCheck d noCore .f ((d.chan c).own.getD 0) a n k).map dmaCodeOf

/-- An injected error refuses the next beat (R315). -/
def takeErr (d : Dev) (c : Nat) : Dev × Bool :=
  if (d.chan c).injErr then (d.updChan c fun k => { k with injErr := false }, true) else (d, false)

/-- The class of a channel's request, raised as its mover's request has been (spec/13 R273). -/
def chanClassNow (d : Dev) (c : Nat) : MClass :=
  raisedBy (match moverOf d c with | some i => (lget d.dma.movers Mover.reset i).prom | none => 0) (chanClass (d.chan c))

/-- One beat of a channel, charged to its fold. -/
def dmaCharge (d : Dev) (c a : Nat) : Dev := charge d (d.chan c).own 1 (chanClassNow d c) a

/-- A read of plain memory by a channel: the value or a status code. -/
def dmaMemRead (d : Dev) (c a n : Nat) : Dev × Except Nat Word :=
  match takeErr d c with
  | (d, true) => (d, .error 6)
  | (d, false) =>
    match dmaCheck d c a n .r with
    | some e => (d, .error e)
    | none =>
      match memRead d a n ("dma" ++ toString c) (dmaU c) with
      | (d, some v) => (d, .ok v)
      | (d, none) => (d, .error 7)

/-- A write of plain memory by a channel: none, or a status code. -/
def dmaMemWrite (d : Dev) (c a : Nat) (v : Word) (n : Nat) : Dev × Option Nat :=
  match takeErr d c with
  | (d, true) => (d, some 6)
  | (d, false) =>
    match dmaCheck d c a n .w with
    | some e => (d, some e)
    | none => let (d, ok) := memWrite d a v n ("dma" ++ toString c) (dmaU c); (d, if ok then none else some 7)

/-- The address of the descriptor at HEAD. -/
def headAddr (k : Channel) : Nat := k.rbase.toNat + 32 * k.head

/-- A status cell. -/
def statusCell (own : Bool) (k : Channel) (code done : Nat) : Word :=
  toWord (putB own 31 + putB k.descShort 28 + put code 24 + done)

/-- The names of the status codes (R311). -/
def dmaCodeName (n : Nat) : String :=
  ["OK", "STOPPED", "ALIGN", "PARAM", "WINDOW", "ABSENT", "BUSERR", "ECC", "VERIFY"].getD n ""

/-- A channel halts: FAULT, the code and address, the status cell if its write is accepted, its source and its event (R310). -/
def dmaHalt (d : Dev) (c code a : Nat) : Dev :=
  let d := hwMove (dmaCutoff d c) (dmaU c) .fault
  let due := (d.chan c).halfPend
  let d := d.updChan c fun k =>
    { k with code := code, errAddr := toWord a, stage := .idle, desc := none, backing := false, stopReq := false,
             halfPend := false, half := k.half || k.halfPend }
  let d := if due then fireSource d (104 + 2 * c) else d
  let k := d.chan c
  let d := (dmaMemWrite (dmaCharge d c (headAddr k + 28)) c (headAddr k + 28) (statusCell true k code k.done) 4).1
  let d := fireSource d (105 + 2 * c)
  emit d (some .dma) (some (dmaU c)) ("!DMA FAULT dma" ++ toString c ++ " " ++ dmaCodeName code ++ " " ++ hex32 (toWord a))

/-- A refusal met by a channel: a bus error waits for its retry while there is one left, everything else halts (R310, R311). -/
def dmaRefused (d : Dev) (c code a : Nat) : Dev :=
  let k := d.chan c
  if code == 6 && k.tries < k.retry then d.updChan c fun k => { k with backing := true } else dmaHalt d c code a

/-- The write-back of STOP: CODE 1, OWN 1, DONE; the channel goes IDLE (R309). -/
def stopBack (d : Dev) (c : Nat) : Dev :=
  let d := d.updChan c fun k => { k with stage := .stopping }
  let k := d.chan c
  let a := headAddr k + 28
  match dmaMemWrite (dmaCharge d c a) c a (statusCell true k 1 k.done) 4 with
  | (d, some e) => dmaRefused d c e a
  | (d, none) =>
    hwMove (d.updChan c fun k => { k with stage := .idle, code := 1, desc := none, tries := 0, stopReq := false }) (dmaU c) .idle

/-- A stop between bursts: a descriptor in progress gets its status cell, an entry not yet fetched is left alone. -/
def stopNow (d : Dev) (c : Nat) : Dev :=
  if (d.chan c).stage == .fetch || (d.chan c).stage == .idle then
    hwMove (d.updChan c fun k => { k with stage := .idle, stopReq := false }) (dmaU c) .idle
  else stopBack d c

/-- STOP: a burst under way completes first (R309). -/
def stopRun (c : Nat) (d : Dev) : Dev × RCode :=
  match (d.unit (dmaU c)).st with
  | .active =>
    if (moverOf d c).isSome || (d.chan c).backing then (d.updChan c fun k => { k with stopReq := true }, .ok)
    else (stopNow d c, .ok)
  | .idle => (d.updChan c fun k => { k with stage := .idle }, .ok)
  | .fenced => (d, .fenced)
  | .absent => (d, .absent)
  | _ => (d, .ok)

/-- A write of CMD (R316). -/
def chanCmd (d : Dev) (q : Req) (c : Nat) (v : Word) : Dev × WRes :=
  let gen := if bitOf v 15 then none else some (fld v 16 16)
  let run (name : String) (f : Dev → Dev × RCode) : Dev × WRes :=
    let (d, x) := request d q.src (dmaU c) name gen f
    match x with
    | .ok => (d, .done)
    | .fenced => (d, .exc 0x09)
    | .absent => (d, .exc 0x0D)
    | x => (dmaRefuse d, .refused x)
  match fld v 0 3 with
  | 1 => run "KICK" (kickRun c)
  | 2 => run "STOP" (stopRun c)
  | _ => ignored d

/-- A write to a register of a channel. -/
def chanWrite (d : Dev) (q : Req) (c off : Nat) (v : Word) : Dev × WRes :=
  let u := dmaU c
  let fOk := isF q (d.chan c).own
  let st (ok : Dev → Bool) : Dev × WRes :=
    guardW fOk d (stWrite d q u none dmaRefuse (chanSet c ok fun d => regSet d u off v))
  if (d.unit u).st == .absent then (d, .exc 0x0D) else
  match off with
  | 0x00 => guardW (isK q) d (stWrite d q u none dmaRefuse (chanOwnSet c v))
  | 0x04 => st fun _ => classOk (isK q) (fld v 4 2)
  | 0x08 => st fun d => srcAllowed d c (fld v 0 7)
  | 0x0C => st fun _ => marksOk (fld v 0 12) (fld v 16 12)
  | 0x10 | 0x14 | 0x18 => st fun _ => true
  | 0x1C => guardW fOk d (chanCmd d q c v)
  | 0x20 => guardW (isK q) d (stWrite d q u none dmaRefuse fun d => .ok (chanStatClear c v d))
  | 0x24 | 0x28 | 0x2C | 0x30 | 0x34 => denied d
  | _ => guardW fOk d (ignored d)

/-- A write to the DMA unit. -/
def dmaWrite (d : Dev) (q : Req) (off : Nat) (v : Word) : Dev × WRes :=
  if 0x1000 ≤ off && off < 0x2000 then chanWrite d q ((off - 0x1000) / 0x40) ((off - 0x1000) % 0x40) v
  else if off == 0 then guardW (isK q) d ({ d with dma := { d.dma with refused := d.dma.refused && !bitOf v 0 } }, .done)
  else if (idx off 0x10 4 4).isSome then denied d
  else guardW (atLeast q .f) d (ignored d)

/-- A write to a register of a channel by an agent. -/
def dmaRow (a : Agent) (c : Fin 64) (off : Nat) (v : Word) (d : Dev) : Dev :=
  writeRow a (toWord (0x40041000 + 0x40 * c.val + off)) (chanWrite d (reqOf d a) c.val off v)

/-- A CMD value with a generation, or with NOGEN. -/
def cmdWord (op : Nat) (g : Option (BitVec 16)) : Word :=
  match g with | none => toWord (op + 0x8000) | some g => toWord (op + put g.toNat 16)

def mDmaCmdKick (a : Agent) (c : Fin 64) (g : Option (BitVec 16)) (d : Dev) : Dev := dmaRow a c 0x1C (cmdWord 1 g) d
def mDmaCmdStop (a : Agent) (c : Fin 64) (g : Option (BitVec 16)) (d : Dev) : Dev := dmaRow a c 0x1C (cmdWord 2 g) d
def mDmaOwnWrite (a : Agent) (c : Fin 64) (v : Word) (d : Dev) : Dev := dmaRow a c 0 v d
def mDmaCtlWrite (a : Agent) (c : Fin 64) (v : Word) (d : Dev) : Dev := dmaRow a c 4 v d
def mDmaReqWrite (a : Agent) (c : Fin 64) (v : Word) (d : Dev) : Dev := dmaRow a c 8 v d
def mDmaMarkWrite (a : Agent) (c : Fin 64) (v : Word) (d : Dev) : Dev := dmaRow a c 0xC v d

/-! Verbs (R312, R314, R315). -/

/-- What `dma` shows of a channel. -/
def chanFields (d : Dev) (c : Nat) : List (String × String) :=
  let k := d.chan c
  [("channel", unitLine d (dmaU c)), ("prio", toString k.prio), ("class", toString k.cls), ("head", toString k.head),
   ("done", toString k.done), ("code", dmaCodeName k.code)]

/-- What `dma <c>` adds. -/
def chanMore (d : Dev) (c : Nat) : List (String × String) :=
  let k := d.chan c
  [("ctl", hex32 (chanCtl k)), ("req", toString k.src), ("high", toString k.high), ("low", toString k.low),
   ("rbase", hex32 k.rbase), ("rsize", toString k.rsize), ("stat", hex32 (chanStat k)), ("level", toString (chanLevel d c)),
   ("residue", toString k.resid.length), ("erraddr", hex32 k.errAddr),
   ("counts", numsText [k.cntDesc, k.cntShort, k.cntRetry, k.cntNobuf, k.cntReslost])]

/-- The channels a variant has. -/
def allChans (d : Dev) : List Nat := List.range (countDma d.variant)

def vDma (o : Via) (d : Dev) : Dev := verb o .observe [] (vShow "dma" fun d => (allChans d).flatMap (chanFields d)) d

def vDmaShow (o : Via) (c : Fin 64) (d : Dev) : Dev :=
  verb o .observe [.dma c] (vShow "dma" fun d => chanFields d c.val ++ chanMore d c.val) d

/-- A verb that writes registers of a channel. -/
def chanVerb (o : Via) (role : Role) (c : Fin 64) (g : Option Nat) (f : Dev → Except RCode Dev) (d : Dev) : Dev :=
  verb o role [.dma c] (vReg o (.dma c) g f) d

def vDmaOwn (o : Via) (c : Fin 64) (f : Option (Fin 8)) (g : Option Nat) (d : Dev) : Dev :=
  chanVerb o .engineer c g (chanOwnSet c.val (foldArg f)) d

/-- Whether the arguments of `dma cfg` are in range. -/
def dmaCfgOk (x : DmaCfg) : Bool :=
  x.prio.getD 0 < 4 && (let n := x.cls.getD 3; 1 ≤ n && n ≤ 3) && x.retry.getD 0 < 8 && x.backoff.getD 0 < 16 && x.movers.getD 0 < 16

/-- Omitted arguments leave their fields as they are (log 37). -/
def dmaCfgSet (c : Nat) (x : DmaCfg) (d : Dev) : Dev :=
  d.updChan c fun k =>
    { k with prio := x.prio.getD k.prio, cls := x.cls.getD k.cls, retry := x.retry.getD k.retry,
             backoff := x.backoff.getD k.backoff, movers := x.movers.getD k.movers }

def vDmaCfg (o : Via) (c : Fin 64) (x : DmaCfg) (g : Option Nat) (d : Dev) : Dev :=
  chanVerb o (if x.cls == some 1 then .engineer else .operate) c g (chanSet c.val (fun _ => dmaCfgOk x) (dmaCfgSet c.val x)) d

/-- `dma pace`: a queue of an absent unit names that unit (spec/00 R2). -/
def vDmaPace (o : Via) (c : Fin 64) (q high low : Nat) (g : Option Nat) (d : Dev) : Dev :=
  verb o .operate [.dma c] (fun d =>
    if (queueUnit q).any fun u => !unitPresent d.variant u then vEr d 44
    else vReg o (.dma c) g (chanSet c.val
      (fun d => srcAllowed d c.val q && marksOk high low && high < 4096)
      fun d => d.updChan c.val fun k => { k with src := q, high := high, low := low }) d) d

def vDmaRing (o : Via) (c : Fin 64) (base n : Nat) (head : Option Nat) (g : Option Nat) (d : Dev) : Dev :=
  chanVerb o .operate c g (chanSet c.val
    (fun _ => base < 0x100000000 && base % 32 == 0 && 1 ≤ n && n ≤ 256 && head.getD 0 < 256)
    fun d => d.updChan c.val fun k => { k with rbase := toWord base, rsize := n - 1, head := head.getD k.head }) d

/-- A command verb of a channel; OFF and FAULT answer as R309 and R68 have it. -/
def chanCmdVerb (o : Via) (c : Fin 64) (name : String) (g : Option Nat) (f : Dev → Dev × RCode) (d : Dev) : Dev :=
  verb o .operate [.dma c] (fun d => vCode (.dma c) (request d (viaSrc o) (.dma c) name g f)) d

def vDmaKick (o : Via) (c : Fin 64) (g : Option Nat) (d : Dev) : Dev := chanCmdVerb o c "KICK" g (kickRun c.val) d

def vDmaStop (o : Via) (c : Fin 64) (g : Option Nat) (d : Dev) : Dev := chanCmdVerb o c "STOP" g (stopRun c.val) d

/-- OFF and then ON, each a request of its own; the generation is compared once. -/
def vDmaClear (o : Via) (c : Fin 64) (g : Option Nat) (d : Dev) : Dev :=
  verb o .operate [.dma c] (fun d =>
    match unitRequest d (viaSrc o) (.dma c) .off g with
    | (d, .ok) => vCode (.dma c) (unitRequest d (viaSrc o) (.dma c) .on none)
    | r => vCode (.dma c) r) d

def vXDmaMovers (o : Via) (d : Dev) : Dev :=
  verb o .observe [] (vShow "x dma movers" fun d =>
    d.dma.movers.map fun (m : Mover) =>
      ("mover", if m.busy then "dma" ++ toString m.ch ++ " " ++ toString (d.chan m.ch).done ++ " " ++ toString m.bytes else "free")) d

def vXDmaInject (o : Via) (c : Fin 64) (withdraw : Bool) (d : Dev) : Dev :=
  verb o .engineer [.dma c] (fun d => runOrSlow d fun d =>
    vOk (d.updChan c.val fun k => if withdraw then { k with injWith := true } else { k with injErr := true })) d

/-! The rows of the table. -/

/-- `DMA_CMD_KICK`: A DMA.CHc.CMD write with OP KICK starts the channel fetching at HEAD (R297). -/
def execDmaCmdKick (a : Agent) (c : Fin 64) (g : Option (BitVec 16)) (s : State) : Host.Outcome State Fault Refusal :=
  lift (mDmaCmdKick a c g) s

/-- `DMA_CMD_STOP`: A DMA.CHc.CMD write with OP STOP ends the channel after its current burst and writes back CODE STOPPED (R309). -/
def execDmaCmdStop (a : Agent) (c : Fin 64) (g : Option (BitVec 16)) (s : State) : Host.Outcome State Fault Refusal :=
  lift (mDmaCmdStop a c g) s

/-- `DMA_OWN_WRITE`: A write to DMA.CHc.OWN sets the owning fold, and is refused unless the channel is OFF (R293). -/
def execDmaOwnWrite (a : Agent) (c : Fin 64) (v : Word) (s : State) : Host.Outcome State Fault Refusal :=
  lift (mDmaOwnWrite a c v) s

/-- `DMA_CTL_WRITE`: A write to DMA.CHc.CTL sets the priority, class, retry and movers, with TETHER refused from F (R295). -/
def execDmaCtlWrite (a : Agent) (c : Fin 64) (v : Word) (s : State) : Host.Outcome State Fault Refusal :=
  lift (mDmaCtlWrite a c v) s

/-- `DMA_REQ_WRITE`: A write to DMA.CHc.REQ selects the pacing queue, refused for queues the fold cannot access (R299). -/
def execDmaReqWrite (a : Agent) (c : Fin 64) (v : Word) (s : State) : Host.Outcome State Fault Refusal :=
  lift (mDmaReqWrite a c v) s

/-- `DMA_MARK_WRITE`: A write to DMA.CHc.MARK sets HIGH and LOW, refused when LOW is not below HIGH (R299). -/
def execDmaMarkWrite (a : Agent) (c : Fin 64) (v : Word) (s : State) : Host.Outcome State Fault Refusal :=
  lift (mDmaMarkWrite a c v) s

/-- `DMA`: Brenex dma shows every channel (R314). -/
def execDma (o : Via) (s : State) : Host.Outcome State Fault Refusal :=
  lift (row o (vDma o)) s

/-- `DMA_SHOW`: Brenex dma followed by a channel shows it in full (R314). -/
def execDmaShow (o : Via) (c : Fin 64) (s : State) : Host.Outcome State Fault Refusal :=
  lift (row o (vDmaShow o c)) s

/-- `DMA_OWN`: Brenex dma own writes OWN (R314). -/
def execDmaOwn (o : Via) (c : Fin 64) (f : Option (Fin 8)) (g : Option Nat) (s : State) : Host.Outcome State Fault Refusal :=
  lift (row o (vDmaOwn o c f g)) s

/-- `DMA_CFG`: Brenex dma cfg writes the channel configuration (R314). -/
def execDmaCfg (o : Via) (c : Fin 64) (x : DmaCfg) (g : Option Nat) (s : State) : Host.Outcome State Fault Refusal :=
  lift (row o (vDmaCfg o c x g)) s

/-- `DMA_PACE`: Brenex dma pace sets the queue and marks (R314). -/
def execDmaPace (o : Via) (c : Fin 64) (q : Nat) (high : Nat) (low : Nat) (g : Option Nat) (s : State) : Host.Outcome State Fault Refusal :=
  lift (row o (vDmaPace o c q high low g)) s

/-- `DMA_RING`: Brenex dma ring writes RBASE, RSIZE and HEAD (R314). -/
def execDmaRing (o : Via) (c : Fin 64) (base : Nat) (n : Nat) (head : Option Nat) (g : Option Nat) (s : State) : Host.Outcome State Fault Refusal :=
  lift (row o (vDmaRing o c base n head g)) s

/-- `DMA_KICK`: Brenex dma kick gives KICK (R314). -/
def execDmaKick (o : Via) (c : Fin 64) (g : Option Nat) (s : State) : Host.Outcome State Fault Refusal :=
  lift (row o (vDmaKick o c g)) s

/-- `DMA_STOP`: Brenex dma stop gives STOP (R314). -/
def execDmaStop (o : Via) (c : Fin 64) (g : Option Nat) (s : State) : Host.Outcome State Fault Refusal :=
  lift (row o (vDmaStop o c g)) s

/-- `DMA_CLEAR`: Brenex dma clear turns a faulted channel off and on (R312). -/
def execDmaClear (o : Via) (c : Fin 64) (g : Option Nat) (s : State) : Host.Outcome State Fault Refusal :=
  lift (row o (vDmaClear o c g)) s

/-- `X_DMA_MOVERS`: Brenex x dma movers shows each mover's progress (R315). -/
def execXDmaMovers (o : Via) (s : State) : Host.Outcome State Fault Refusal :=
  lift (row o (vXDmaMovers o)) s

/-- `X_DMA_INJECT`: Brenex x dma inject refuses a beat or withdraws a request once (R315). -/
def execXDmaInject (o : Via) (c : Fin 64) (withdraw : Bool) (s : State) : Host.Outcome State Fault Refusal :=
  lift (row o (vXDmaInject o c withdraw)) s

end Sys2Proof.Machine
end

