-- ==== Sys2Proof/Machine/ControlStore.lean ====
section
/-! DEFINITION. The control store: its window, parity, scrubber, overlays and verbs (spec/08). The loader's checks are in Trust.lean,
the execution of custom opcodes in Microcode.lean. -/
namespace Sys2Proof.Machine

/-! Parity units and the window (R164, R180). -/

/-- The first offset of the word or quarter that has its own parity bit. -/
def parityUnit (tether : Bool) (off : Nat) : Nat :=
  if 0x10000 ≤ off then off / 2 * 2
  else if tether && off < 0xC000 then off / 3 * 3
  else off / 4 * 4

/-- Changes a pen's control store. -/
def updCs (d : Dev) (p : Nat) (f : CStore → CStore) : Dev := d.updPen p fun k => { k with cs := f k.cs }

/-- The personality a pen's array was loaded for. -/
def csTether (k : Pen) : Bool := k.pers == some true

/-- A byte written to the array; its parity is generated, and the part unused in Tether stays zero. -/
def csPut (tether : Bool) (c : CStore) (off : Nat) (b : Byte) : CStore :=
  if csSize ≤ off || (tether && 0xE000 ≤ off && off < 0x10000) then c
  else { c with data := tset c.data 0 off b, flips := c.flips.filter (· != parityUnit tether off) }

/-- The low `n` bytes of a value written to the array. -/
def csWriteN (tether : Bool) (c : CStore) (off : Nat) (v : Word) (n : Nat) : CStore :=
  match n with
  | 0 => c
  | n + 1 => csWriteN tether (csPut tether c off (v.setWidth 8)) (off + 1) (v >>> 8) n

/-- Flips the parity bit of the unit that holds an offset. -/
def csFlip (d : Dev) (p off : Nat) : Dev :=
  updCs d p fun c =>
    let u := parityUnit (csTether (d.pen p)) off
    { c with flips := if c.flips.contains u then c.flips.filter (· != u) else c.flips ++ [u] }

/-- Whether the unit that holds an offset shows a parity error. -/
def csParityBad (k : Pen) (off : Nat) : Bool := k.cs.flips.contains (parityUnit (csTether k) off)

/-- The overlay slot a pen's array was loaded from. -/
def csOverlay (k : Pen) : Option Nat := if k.cs.ovl then some (ovlAddr k.fold (csTether k)) else none

/-- The golden byte of an array offset. -/
def goldenByte (d : Dev) (k : Pen) (off : Nat) : Byte :=
  if csTether k && 0xE000 ≤ off && off < 0x10000 then 0 else d.byte (goldenAddr (csTether k) (csOverlay k) off)

/-- The offsets of a beat. -/
def beatOffs (b : Nat) : List Nat := (List.range 16).map (16 * b + ·)

/-- Whether a beat fails parity or differs from the golden copy (R178). -/
def beatBad (d : Dev) (p b : Nat) : Bool :=
  let k := d.pen p
  (beatOffs b).any fun o => csParityBad k o || tget k.cs.data 0 o != goldenByte d k o

/-- Whether the golden beat of a beat has an uncorrectable cell; its golden address. -/
def goldenBad (d : Dev) (p b : Nat) : Option Nat :=
  let k := d.pen p
  ((beatOffs b).map fun o => goldenAddr (csTether k) (csOverlay k) o).find? fun a => 2 ≤ eccOf d a

/-- An array offset as the events show it. -/
def offText (off : Nat) : String := "0x" ++ hexDigits (off / 0x10000) 1 ++ "_" ++ hexDigits off 4

/-! Parity errors on use and the scrubber (R177 to R183). -/

/-- A parity error found on use: the core stops before the instruction, the pen is fenced, and it is reported (R181). -/
def parityOnUse (d : Dev) (p off : Nat) : Dev :=
  let d := updCs d p fun c => { c with usepar := satInc c.usepar 255 }
  let d := machineCheck d (penU p) 0x10 (toWord off) 0 0
  emit d (some .state) (some (penU p)) ("!UCODE PARITY pen" ++ toString p ++ " " ++ offText off ++ " use")

/-- Whether a word of the array may not execute: its parity is wrong, or the scrubber has found its beat and not yet rewritten it (R178,
R181). -/
def wordBad (k : Pen) (off : Nat) : Bool :=
  csParityBad k off || match k.cs.found with | some (b, false) => b == off / 16 | _ => false

def mUcodeParity (c : Fin 32) (off : Nat) (d : Dev) : Dev :=
  let p := penOf c.val
  let k := d.pen p
  if off < csSize && wordBad k off && (d.unit (coreU c.val)).st == .active then parityOnUse d p off else d

/-- The scrubber goes on to the next beat. -/
def scrubNext (c : CStore) : CStore :=
  if c.beat + 1 == 4224 then { c with beat := 0, passes := c.passes + 1, found := none }
  else { c with beat := c.beat + 1, found := none }

/-- Whether a repair at an RTC second and microsecond lies within the second before another; the microseconds are open (R182; log 27). -/
def withinSecond (sec us : Word × Nat) : Bool := us.1 == sec.1 || (us.1 == sec.1 + 1 && us.2 < sec.2)

/-- A beat rewritten from the golden copy (R178); repaired a third time within one second it is weak (R182). -/
def scrubRepair (d : Dev) (p b : Nat) : Dev :=
  let k := d.pen p
  let tether := csTether k
  let c := (beatOffs b).foldl (fun c o => csPut tether c o (goldenByte d k o)) k.cs
  let now : Word × Nat := (d.pmu.rtcSec, (Config.micros d.free).toNat)
  let times := (c.times.filter fun t => withinSecond t.2 now) ++ [(b, now)]
  let weak := 3 ≤ (times.filter fun t => t.1 == b).length
  let c := { c with repairs := satInc c.repairs 0xFFFF, last := b, lastValid := true, found := some (b, true),
                    times := if weak then times.filter fun t => t.1 != b else times,
                    weak := if weak then satInc c.weak 255 else c.weak }
  let d := updCs { d with free := d.free + 1 } p fun _ => c
  if weak then emit d (some .state) (some (penU p)) ("!UCODE WEAK pen" ++ toString p ++ " " ++ offText (16 * b)) else d

/-- Whether a pen is fenced by nothing but step S2, which halts it (R179). -/
def haltedAtS2 (d : Dev) (p : Nat) : Bool := (d.unit (penU p)).fcause == causeBit .shed && d.pmu.shedUnits.contains (1, penU p)

/-- Whether a pen's scrubber runs (R177, R179, R180). -/
def scrubRuns (d : Dev) (p : Nat) : Bool :=
  let k := d.pen p
  let r := d.unit (penU p)
  d.clocked && k.cs.loaded && k.cs.scrub && (r.st != .fenced || haltedAtS2 d p) && !r.resetting

/-- A steal compares a beat with the golden image: a bad golden beat is reported and passed over, a difference is found (R177, R183). -/
def scrubCompare (d : Dev) (p : Nat) (k : Pen) (b : Nat) : Dev :=
  let d := charge d (some k.fold) 1 .bulk (goldenAddr (csTether k) (csOverlay k) (16 * b))
  match goldenBad d p b with
  | some a =>
    let inSlot := (csOverlay k).isSome && inOvl (csTether k) (16 * b)
    let d := goldenError d (csTether k) (if inSlot then some k.fold else none) (16 * b + a % 16) (penU p)
    updCs d p scrubNext
  | none =>
    if beatBad d p b then updCs d p fun c => { c with found := some (b, false) } else updCs d p scrubNext

def mScrubSteal (p : Fin 8) (d : Dev) : Dev :=
  if !scrubRuns d p.val then d
  else
    let k := d.pen p.val
    match k.cs.found with
    | none =>
      let b := k.cs.beat
      whenGranted d [targetPort (goldenAddr (csTether k) (csOverlay k) (16 * b))] .bulk (some k.fold) (scrubCompare d p.val k b)
    | some (b, false) => scrubRepair d p.val b
    | some (b, true) =>
      if beatBad d p.val b then
        let d := updCs d p.val fun c => { c with found := none }
        let d := parityOnUse d p.val (16 * b)
        emit d (some .state) (some (penU p.val)) ("!UCODE STUCK pen" ++ toString p.val ++ " " ++ offText (16 * b))
      else updCs d p.val scrubNext

/-- A pass that has taken 4 ms in RUN (R179). -/
def mScrubPassLate (p : Fin 8) (d : Dev) : Dev :=
  if scrubRuns d p.val && d.pmu.cur == .run then updCs d p.val fun c => { c with late := true } else d

/-- An uncorrectable error in a golden beat; the record names fold 0 for a base image, the fold for an overlay (R183; log 28). -/
def mUcodeGolden (slot : GoldenSlot) (off : Nat) (d : Dev) : Dev :=
  match slot with
  | .base t => if off < csSize then goldenError d t none off (.fold 0) else d
  | .overlay f t => if inOvl t off then goldenError d t (some f.val) off (.fold f) else d

/-! Staging (R176, R186). -/

/-- A staged overlay: it becomes active at once where no pen of the fold runs its personality (R176). -/
def stageOverlay (d : Dev) (s : Staged) : Dev :=
  let d := { d with golden := { d.golden with staged := some s } }
  let d := emit d (some .state) (some (foldU s.fold)) ("!UCODE STAGED fold" ++ toString s.fold ++ " " ++ persName s.tether)
  if (foldPens d s.fold).any fun p => (d.pen p).pers == some s.tether then d else ucodeCommit d

def vXUcodeUnload (o : Via) (f : Fin 8) (tether : Bool) (d : Dev) : Dev :=
  verb o .machine [.fold f] (fun d =>
    if d.golden.staged.isSome then vEr d 40
    else vOk (stageOverlay (d.clearRange stagingAddr 0x4800) { fold := f.val, tether := tether, empty := true, arb := 0 })) d

def vXUcodeCancel (o : Via) (d : Dev) : Dev :=
  verb o .machine [] (fun d =>
    vOk { d.clearRange stagingAddr 0x4800 with golden := { d.golden with staged := none } }) d

/-! Registers (R187). -/

/-- A read of a control-store register of a pen. -/
def csRegRead (d : Dev) (q : Req) (p off : Nat) : Dev × RRes :=
  let c := (d.pen p).cs
  let v : Word := match off with
    | 0x800 => toWord (putB c.loaded 0 + putB c.ovl 1 + putB (scrubRuns d p) 2 + putB c.late 3 + put c.passes.toNat 8)
    | 0x804 => toWord (c.repairs + put c.usepar 16 + put c.weak 24)
    | 0x808 => toWord (c.last + putB c.lastValid 31)
    | _ => 0
  guardR (isF q (some (d.pen p).fold)) d v

/-- A write to a control-store register of a pen. -/
def csRegWrite (d : Dev) (q : Req) (p off : Nat) (v : Word) : Dev × WRes :=
  match off with
  | 0x800 => guardW (isF q (some (d.pen p).fold)) d
      (plWrite d (penU p) fun d => if bitOf v 3 then updCs d p fun c => { c with late := false } else d)
  | 0x80C => guardW (atLeast q .m) d (plWrite d (penU p) fun d =>
      if bitOf v 31 && fld v 0 13 < 4224 then csFlip d p (16 * fld v 0 13 + 4 * fld v 13 2) else d)
  | 0x804 | 0x808 => denied d
  | _ => guardW (isF q (some (d.pen p).fold)) d (ignored d)

def mCsInjGo (a : Agent) (p : Fin 8) (v : Word) (d : Dev) : Dev :=
  writeRow a (toWord (penBlock p.val + 0x80C))
    (if unitPresent d.variant (.pen p) then csRegWrite d (reqOf d a) p.val 0x80C v else (d, .exc 0x0D))

/-! Verbs (R185, R186). -/

/-- Name and version of an overlay slot or staging slot. -/
def ovlTitle (d : Dev) (a : Nat) : String :=
  hex32 (d.cell (a + 4)) ++ " " ++
    String.ofList (((d.bytes (a + 0x20) 32).takeWhile (· != 0)).map fun b => Char.ofNat b.toNat)

/-- The time of a pass: 798 336 cycles of CLK_CORE at the rate of the power state, or more than 4 ms (R177, R179). -/
def passText (d : Dev) (p : Nat) : String :=
  if (d.pen p).cs.late then "over 4 ms" else if d.pmu.cur == .slow then "3.993 ms" else "1.996 ms"

/-- The version of the base images, which is that of the image they came with. -/
def baseVersion (d : Dev) (t : Nat) : String :=
  if lget d.golden.baseHeld false t then (match d.boot.img with | some i => hex32 i.version | none => "none") else "none"

def vUcode (o : Via) (d : Dev) : Dev :=
  verb o .observe [] (vShow "ucode" fun d =>
    [("drove", baseVersion d 0), ("tether", baseVersion d 1)] ++
    ((List.range 16).filter fun s => lget d.golden.active false s).map (fun s =>
      ("fold" ++ toString (s / 2) ++ " " ++ persName (s % 2 == 1), ovlTitle d (ovlAddr (s / 2) (s % 2 == 1)))) ++
    (match d.golden.staged with
      | some s => [("staged fold" ++ toString s.fold ++ " " ++ persName s.tether, if s.empty then "empty" else ovlTitle d stagingAddr)]
      | none => []) ++
    ((List.range 8).filter fun p => unitPresent d.variant (penU p)).map fun p =>
      ("pen" ++ toString p, passText d p ++ " late " ++ onOff (d.pen p).cs.late ++ " repairs " ++ toString (d.pen p).cs.repairs)) d

def vUcodePen (o : Via) (p : Fin 8) (d : Dev) : Dev :=
  verb o .observe [.pen p] (vShow "ucode pen" fun d =>
    let k := d.pen p.val
    [("image", if k.cs.loaded then persName (csTether k) ++ " " ++ baseVersion d (if csTether k then 1 else 0) else "none"),
     ("overlay", match csOverlay k with | some a => ovlTitle d a | none => "none"),
     ("passes", toString k.cs.passes.toNat), ("repairs", toString k.cs.repairs), ("usepar", toString k.cs.usepar),
     ("weak", toString k.cs.weak), ("last", if k.cs.lastValid then offText (16 * k.cs.last) else "none")]) d

/-- `x ucode peek`: 1 to 16 beats from a beat's offset, with the array's parity. -/
def vXUcodePeek (o : Via) (p : Fin 8) (off : Nat) (n : Option Nat) (golden : Bool) (d : Dev) : Dev :=
  verb o .machine [.pen p] (fun d =>
    let m := n.getD 1
    if off % 16 != 0 || m == 0 || 16 < m || csSize < off + 16 * m then vEr d 10
    else
      vShow "x ucode peek" (fun d =>
        let k := d.pen p.val
        (List.range m).map fun i =>
          let a := off + 16 * i
          (offText a, joinSp ((List.range 16).map fun j =>
            hexDigits (if golden then goldenByte d k (a + j) else tget k.cs.data 0 (a + j)).toNat 2) ++ " " ++
            numsText ((k.cs.flips.filter fun u => a ≤ u && u < a + 16)))) d) d

def vXUcodeInject (o : Via) (p : Fin 8) (off : Nat) (d : Dev) : Dev :=
  verb o .machine [.pen p] (fun d =>
    if csSize ≤ off then vEr d 10
    else if (d.unit (.pen p)).st == .fenced then vEr d 50
    else vOk (csFlip d p.val off)) d

/-! The rows of the table. -/

/-- `SCRUB_STEAL`: The scrubber reads one control-store beat, checks its parity and compares it with the golden copy (R177). -/
def execScrubSteal (p : Fin 8) (s : State) : Host.Outcome State Fault Refusal :=
  lift (mScrubSteal p) s

/-- `SCRUB_PASS_LATE`: A scrub pass not complete within 4 ms sets LATE (R179). -/
def execScrubPassLate (p : Fin 8) (s : State) : Host.Outcome State Fault Refusal :=
  lift (mScrubPassLate p) s

/-- `UCODE_PARITY`: A parity error found on use fences the pen with cause MCHECK and raises !UCODE PARITY (R181). -/
def execUcodeParity (c : Fin 32) (off : Nat) (s : State) : Host.Outcome State Fault Refusal :=
  lift (mUcodeParity c off) s

/-- `UCODE_GOLDEN`: An uncorrectable ECC error in a golden beat raises 0x11 and starts a reload of the image from flash (R183). -/
def execUcodeGolden (slot : GoldenSlot) (off : Nat) (s : State) : Host.Outcome State Fault Refusal :=
  lift (mUcodeGolden slot off) s

/-- `CS_INJ_GO`: A PENn.CS.INJ write with GO flips a parity bit of the target beat (R187). -/
def execCsInjGo (a : Agent) (p : Fin 8) (v : Word) (s : State) : Host.Outcome State Fault Refusal :=
  lift (mCsInjGo a p v) s

/-- `UCODE`: Brenex ucode shows the images, the overlays and each pen's scrub status (R185). -/
def execUcode (o : Via) (s : State) : Host.Outcome State Fault Refusal :=
  lift (row o (vUcode o)) s

/-- `UCODE_PEN`: Brenex ucode followed by a pen number shows that pen's control-store status (R185). -/
def execUcodePen (o : Via) (p : Fin 8) (s : State) : Host.Outcome State Fault Refusal :=
  lift (row o (vUcodePen o p)) s

/-- `X_UCODE_UNLOAD`: Brenex x ucode unload stages an empty overlay (R186). -/
def execXUcodeUnload (o : Via) (f : Fin 8) (tether : Bool) (s : State) : Host.Outcome State Fault Refusal :=
  lift (row o (vXUcodeUnload o f tether)) s

/-- `X_UCODE_CANCEL`: Brenex x ucode cancel discards the staged overlay (R186). -/
def execXUcodeCancel (o : Via) (s : State) : Host.Outcome State Fault Refusal :=
  lift (row o (vXUcodeCancel o)) s

/-- `X_UCODE_PEEK`: Brenex x ucode peek reads beats from the array or the golden copy (R186). -/
def execXUcodePeek (o : Via) (p : Fin 8) (off : Nat) (n : Option Nat) (golden : Bool) (s : State) : Host.Outcome State Fault Refusal :=
  lift (row o (vXUcodePeek o p off n golden)) s

/-- `X_UCODE_INJECT`: Brenex x ucode inject flips a parity bit of a beat (R186). -/
def execXUcodeInject (o : Via) (p : Fin 8) (off : Nat) (s : State) : Host.Outcome State Fault Refusal :=
  lift (row o (vXUcodeInject o p off)) s

end Sys2Proof.Machine
end

