-- ==== Sys2Proof/Machine/Mycelium.lean ====
section
/-! DEFINITION. Windows, credit regulators, the patrol and their verbs (spec/13 R268 to R279, R286 to R292). -/
namespace Sys2Proof.Machine

/-- Changes the MYC unit. -/
def updMyc (d : Dev) (f : Myc → Myc) : Dev := { d with myc := f d.myc }

/-- What a refused window or SHARE write leaves. -/
def mycRefuse (d : Dev) : Dev := updMyc d fun m => { m with refused := true }

/-! Windows (R271). -/

/-- The row of the memory map that an address lies in, for rows a window may cover. -/
def windowRow (d : Dev) (a : Nat) : Option Nat :=
  if a < 0x10000 then some 0
  else match regionOf a with
    | .local_ n => if n < 4 * countPens d.variant then some 1 else none
    | .sram => some 2
    | .packet => some 3
    | .ret => some 4
    | .flash | .cs1 => some 5
    | _ => none

/-- Whether an enabled window is one that R271 lets stand. -/
def windowOk (d : Dev) (w : Window) : Bool :=
  let lo := winLo w
  let hi := winHi w
  lo < hi && (match windowRow d lo, windowRow d (hi - 1) with | some a, some b => a == b | _, _ => false)

/-- A window register written: its new value is judged where it leaves the window enabled. -/
def windowWrite (d : Dev) (f off : Nat) (v : Word) : Except RCode Dev :=
  let d' := regSet d (foldU f) off v
  let w := lget (d'.foldMem f).wins ⟨0, 0⟩ (off / 8)
  if winEn w && !windowOk d w then .error .invalid else .ok d'

/-! The regulators (R276, R277). -/

/-- The sum of SHARE of all folds but one. -/
def shareOthers (d : Dev) (f : Nat) : Nat :=
  (((List.range 8).filter (· != f)).map fun g => (d.foldMem g).share).sum

/-- One period of a fold's regulator. -/
def creditStep (m : FoldMem) : FoldMem :=
  let c := m.credit + (m.share : Int)
  if (m.burst : Int) < c then { m with credit := m.burst, idleper := satInc m.idleper 0xFFFF } else { m with credit := c }

def mCreditPeriod (d : Dev) : Dev :=
  if d.clocked then { d with myc := { d.myc with folds := d.myc.folds.map creditStep } } else d

/-- The oldest unissued entry of a buffer raised one class. -/
def promoteSb (l : List SbEntry) : List SbEntry :=
  match l with
  | [] => []
  | e :: r => if e.issued then e :: promoteSb r else { e with cls := raiseClass e.cls } :: r

/-- A DROVE or BULK request that has waited 256 fabric clocks is raised one class (R273). -/
def mRequestPromotion (r : ReqRef) (d : Dev) : Dev :=
  match r with
  | .core c =>
    d.updCore c.val fun k =>
      if k.sb.any fun e => !e.issued then { k with sb := promoteSb k.sb }
      else { k with loads := k.loads.map fun x => (x.1, { x.2 with cls := raiseClass x.2.cls }) }
  | .mover m =>
    { d with dma := { d.dma with movers := d.dma.movers.zipIdx.map fun (x : Mover × Nat) =>
        if x.2 == m.val && x.1.busy then { x.1 with prom := x.1.prom + 1 } else x.1 } }
  | .tile t => d.updPen t.val fun k => { k with te := { k.te with prom := k.te.prom + 1 } }
  | .spill c => d.updCore c.val fun k => { k with spillProm := k.spillProm + 1 }

/-- A remote access has waited 16 core clocks at a Drove core's local memory: it takes the next port cycle, and the core stalls for one
(R275). -/
def mRemoteAccessPriority (c : Fin 32) (d : Dev) : Dev :=
  if d.coresClocked && (d.pen (penOf c.val)).pers == some false then d.updCore c.val fun k => { k with cyc := k.cyc + 1 } else d

/-! ECC (R278, R279, R288 to R290). -/

/-- The address of a patrol beat: shared SRAM, packet SRAM, retention RAM. -/
def patrolAddr (i : Nat) : Nat :=
  if i < 524288 then 0x10000000 + 16 * i
  else if i < 540672 then 0x18000000 + 16 * (i - 524288)
  else 0x19000000 + 16 * (i - 540672)

/-- The golden slot and array offset an address of the golden region belongs to (spec/08 R173, R174). -/
def goldenAt (a : Nat) : Option (Bool × Option Nat × Nat) :=
  if baseAddr false ≤ a && a < baseAddr false + csSize then some (false, none, a - baseAddr false)
  else if baseAddr true ≤ a && a < baseAddr true + csSize then some (true, none, a - baseAddr true)
  else if 0x107A4000 ≤ a && a < stagingAddr then
    let s := (a - 0x107A4000) / 0x4800
    let o := (a - 0x107A4000) % 0x4800
    match (ovlParts (s % 2 == 1)).find? fun (_, b, n) => b ≤ o && o < b + n with
    | some (x, b, _) => some (s % 2 == 1, some (s / 2), x + (o - b))
    | none => none
  else none

/-- The patrol reads one cell. -/
def patrolCell (d : Dev) (a : Nat) : Dev :=
  match eccOf d a with
  | 0 => d
  | 1 => eccCorrect d a
  | _ =>
    match goldenAt a with
    | some (t, o, off) => goldenError d t o off (match o with | some f => foldU f | none => .fold 0)
    | none => eccUncorrect d a "patrol" (.fold 0)

/-- One beat of the patrol. -/
def patrolBeat (d : Dev) (a : Nat) : Dev :=
  let d := charge d none 1 .bulk a
  let d := [0, 4, 8, 12].foldl (fun d o => patrolCell d (a + o)) d
  updMyc d fun m =>
    if m.patrolAt + 1 == 541696 then { m with patrolAt := 0, passes := m.passes + 1 } else { m with patrolAt := m.patrolAt + 1 }

def mEccPatrolRead (d : Dev) : Dev :=
  if !d.clocked || !d.myc.patrolEn then d
  else
    let a := patrolAddr d.myc.patrolAt
    whenGranted d [targetPort a] .bulk none (patrolBeat d a)

/-- The report of corrected errors since the last one. -/
def mEccCorrReport (d : Dev) : Dev :=
  if d.myc.corrSince == 0 then d
  else
    emit (updMyc d fun m => { m with corrSince := 0 }) (some .state) none
      ("!ECC CORR " ++ toString d.myc.corrSince ++ " " ++ hex32 d.myc.eccAddr)

def mMemoryInitComplete (d : Dev) : Dev :=
  match d.phase with
  | .reset _ => d
  | _ => updMyc d fun m => { m with init := true }

/-- Flips one or two check bits of a cell; one bit flipped twice is good again (log 30). -/
def eccInject (d : Dev) (a : Nat) (double : Bool) : Dev :=
  if !eccRegion (regionOf a) then d
  else setEcc d a (max (if double then 2 else match eccOf d a with | 0 => 1 | 1 => 0 | _ => 2) (if eccOf d a == 3 then 3 else 0))

/-! Registers (R292). -/

/-- A read of the MYC unit: F and above. -/
def mycRead (d : Dev) (q : Req) (off : Nat) : Dev × RRes :=
  let m := d.myc
  let v : Word := match off with
    | 0x00 => toWord (putB m.refused 0 + putB m.init 1)
    | 0x04 => toWord (m.corr + put m.uncorr 16)
    | 0x08 => m.eccAddr
    | 0x0C => m.ueAddr
    | 0x10 => toWord (putB m.patrolEn 0 + put m.passes.toNat 8)
    | _ =>
      if 0x1000 ≤ off && off < 0x1800 then
        let f := (off - 0x1000) / 0x100
        let x := d.foldMem f
        match off % 0x100 with
        | 0x80 => toWord (putB x.spare 0 + put x.idleper 16)
        | 0x8C => (BitVec.ofInt 16 x.credit).setWidth 32
        | 0x90 => x.beats
        | o => if o ≤ 0x88 then regGet d (foldU f) o else 0
      else 0
  guardR (atLeast q .f) d v

/-- A write to the MYC unit: K and M, INJ at M. -/
def mycWrite (d : Dev) (q : Req) (off : Nat) (v : Word) : Dev × WRes :=
  if off == 0x14 then
    guardW (atLeast q .m) d
      (if bitOf v 0 then (eccInject d (v &&& 0xFFFFFFFC).toNat (bitOf v 1), .done) else ignored d)
  else
    guardW (isK q) d <|
      match off with
      | 0x00 => (updMyc d fun m => { m with refused := m.refused && !bitOf v 0 }, .done)
      | 0x10 => (updMyc d fun m => { m with patrolEn := bitOf v 0 }, .done)
      | _ =>
        if 0x1000 ≤ off && off < 0x1800 then
          let f := (off - 0x1000) / 0x100
          let u := foldU f
          let o := off % 0x100
          if o < 0x80 then stWrite d q u none mycRefuse fun d => windowWrite d f o v
          else match o with
            | 0x80 => stWrite d q u none mycRefuse fun d => .ok (regSet d u 0x80 v)
            | 0x84 => stWrite d q u none mycRefuse fun d =>
                if 512 < shareOthers d f + fld v 0 11 then .error .invalid else .ok (regSet d u 0x84 v)
            | 0x88 => if fld v 0 12 < 16 then ignored d else stWrite d q u none mycRefuse fun d => .ok (regSet d u 0x88 v)
            | _ => ignored d
        else ignored d

/-- A write to the MYC unit by an agent. -/
def mycRow (a : Agent) (off : Nat) (v : Word) (d : Dev) : Dev :=
  writeRow a (toWord (0x40060000 + off)) (mycWrite d (reqOf d a) off v)

def mMycWindowWrite (a : Agent) (f : Fin 8) (w : Fin 16) (lim : Bool) (v : Word) (d : Dev) : Dev :=
  mycRow a (0x1000 + f.val * 0x100 + 8 * w.val + (if lim then 4 else 0)) v d
def mMycShareWrite (a : Agent) (f : Fin 8) (v : Word) (d : Dev) : Dev := mycRow a (0x1084 + f.val * 0x100) v d
def mMycInjGo (a : Agent) (v : Word) (d : Dev) : Dev := mycRow a 0x14 v d

/-! Verbs (R290, R291). -/

/-- The keywords of a window's permissions (R290). -/
def permText (w : Window) : List String :=
  (["ru", "wu", "xu", "rf", "wf", "xf"].zipIdx.filter fun x => bitOf w.lim x.2).map (·.1)

/-- A window in a report: off, or its base, limit and permissions (R290). -/
def winText (w : Window) : String :=
  if winEn w then " ".intercalate (hex32 (w.base &&& 0xFFFFF000) :: hex32 (w.lim &&& 0xFFFFF000) :: permText w) else "off"

/-- The present regions of the memory map (spec/13 R267), each with its first address. -/
def mapRows (d : Dev) : List (String × String) :=
  (List.range (4 * countPens d.variant)).map (fun c => ("local core" ++ toString c, hex32 (toWord (0x01000000 + 0x10000 * c)))) ++
  [("sram", hex32 0x10000000), ("golden", hex32 0x10780000), ("packet", hex32 0x18000000), ("retention", hex32 0x19000000)] ++
  (if !d.flash.fitted then [] else [("flash", hex32 0x20000000)]) ++
  (if !d.cs1.fitted then [] else [("cs1", hex32 0x28000000)]) ++
  [("registers", hex32 0x40000000)] ++
  ((List.range (countPens d.variant)).map fun p => ("pen" ++ toString p, hex32 (toWord (0x50000000 + 0x100000 * p))))

def vMem (o : Via) (d : Dev) : Dev :=
  verb o .observe [] (vShow "mem" fun d =>
    mapRows d ++ (List.range 8).flatMap fun f => ((d.foldMem f).wins.filter winEn).map fun w => ("fold" ++ toString f, winText w)) d

def vMemFold (o : Via) (f : Fin 8) (d : Dev) : Dev :=
  verb o .observe [.fold f] (vShow "mem fold" fun d => (d.foldMem f.val).wins.map fun w => ("win", winText w)) d

/-- `mem win` writes both registers of a window and enables it, or disables it, in one step. -/
def vMemWin (o : Via) (f : Fin 8) (w : Nat) (x : Option WinSet) (d : Dev) : Dev :=
  verb o .engineer [.fold f] (fun d =>
    if 16 ≤ w then vEr d 10
    else
      match x with
      | none => vReg o (.fold f) none (fun d => .ok (regSet d (.fold f) (8 * w) (regGet d (.fold f) (8 * w) &&& 0xFFFFFFFE))) d
      | some x =>
        if x.base % 4096 != 0 || x.limit % 4096 != 0 || 2 ^ 32 ≤ x.base || 2 ^ 32 ≤ x.limit then vEr d 10
        else
          let lim := toWord (x.limit + x.perms.foldl (fun m p => m ||| 1 <<< p.val) 0)
          let win : Window := ⟨toWord (x.base + 1), lim⟩
          let r := regRequest d (viaSrc o) (.fold f) none fun d =>
            if windowOk d win then .ok (regSet (regSet d (.fold f) (8 * w) win.base) (.fold f) (8 * w + 4) win.lim) else .error .invalid
          vCode (.fold f) (if r.2 == .invalid then mycRefuse r.1 else r.1, r.2)) d

def vMyc (o : Via) (d : Dev) : Dev :=
  verb o .observe [] (vShow "myc" fun d => (List.range 8).map fun f =>
    let m := d.foldMem f
    ("fold" ++ toString f, numsText [m.share, m.burst, m.beats.toNat, m.idleper] ++ " " ++ toString m.credit ++ " " ++ onOff m.spare)) d

def vMycShare (o : Via) (f : Fin 8) (beats : Nat) (burst : Option Nat) (spare : Option Bool) (d : Dev) : Dev :=
  verb o .engineer [.fold f] (fun d =>
    let b := burst.getD (d.foldMem f.val).burst
    if 4095 < b then vEr d 10
    else
      let r := regRequest d (viaSrc o) (.fold f) none fun d =>
        if 512 < shareOthers d f.val + beats then .error .invalid
        else .ok (d.updFoldMem f.val fun m => { m with share := beats, burst := if b < 16 then m.burst else b, spare := spare.getD m.spare })
      vCode (.fold f) (if r.2 == .invalid then mycRefuse r.1 else r.1, r.2)) d

def vEcc (o : Via) (d : Dev) : Dev :=
  verb o .observe [] (vShow "ecc" fun d =>
    [("corr", toString d.myc.corr), ("uncorr", toString d.myc.uncorr), ("addr", hex32 d.myc.eccAddr), ("uaddr", hex32 d.myc.ueAddr),
     ("passes", toString d.myc.passes.toNat)]) d

def vEccClear (o : Via) (d : Dev) : Dev :=
  verb o .operate [] (fun d => vOk (updMyc d fun m => { m with corr := 0, uncorr := 0 })) d

/-- PENn.COREc.SB (R292). -/
def sbWord (k : Core) : Word :=
  toWord (k.sb.length + put (k.sb.filter (·.issued)).length 4 + putB k.perr.isSome 8 + put k.shedlost 12 + put k.plost 16)

def vXSb (o : Via) (c : Fin 32) (d : Dev) : Dev :=
  verb o .engineer [.core c] (vShow "x sb" fun d =>
    let k := d.core c.val
    k.sb.map (fun e => (hex32 (toWord e.addr), toString (classNum e.cls) ++ " " ++ onOff e.issued)) ++ [("sb", hex32 (sbWord k))]) d

def vXEccInject (o : Via) (addr : Nat) (double : Bool) (d : Dev) : Dev :=
  verb o .machine [] (fun d =>
    if addr % 4 != 0 || !eccRegion (regionOf addr) then vEr d 10 else vOk (eccInject d addr double)) d

def vXEccPatrol (o : Via) (on : Bool) (d : Dev) : Dev :=
  verb o .engineer [] (fun d => vOk (updMyc d fun m => { m with patrolEn := on })) d

def vXMycPort (o : Via) (t : Nat) (d : Dev) : Dev :=
  verb o .engineer [] (fun d =>
    if 50 ≤ t then vEr d 10
    else vShow "x myc port" (fun d => (List.range 4).map fun c =>
      (toString c, numsText [tget d.myc.grants 0 (4 * t + c), tget d.myc.waits 0 (4 * t + c)])) d) d

/-! The rows of the table. -/

/-- `MYC_WINDOW_WRITE`: A write to a window register is checked against the memory map and refused when invalid (R271). -/
def execMycWindowWrite (a : Agent) (f : Fin 8) (w : Fin 16) (lim : Bool) (v : Word) (s : State) : Host.Outcome State Fault Refusal :=
  lift (mMycWindowWrite a f w lim v) s

/-- `MYC_SHARE_WRITE`: A write to MYC.Ff.SHARE is refused when the total exceeds 512 (R277). -/
def execMycShareWrite (a : Agent) (f : Fin 8) (v : Word) (s : State) : Host.Outcome State Fault Refusal :=
  lift (mMycShareWrite a f v) s

/-- `MYC_INJ_GO`: A MYC.INJ write with GO flips 1 or 2 check bits of a cell (R292). -/
def execMycInjGo (a : Agent) (v : Word) (s : State) : Host.Outcome State Fault Refusal :=
  lift (mMycInjGo a v) s

/-- `CREDIT_PERIOD`: Every 64 CLK_FAB cycles SHARE beats are added to each fold's credit, clamped to BURST (R276). -/
def execCreditPeriod (s : State) : Host.Outcome State Fault Refusal :=
  lift (mCreditPeriod) s

/-- `REQUEST_PROMOTION`: A DROVE or BULK request that has waited 256 CLK_FAB cycles is raised one class (R273). -/
def execRequestPromotion (r : ReqRef) (s : State) : Host.Outcome State Fault Refusal :=
  lift (mRequestPromotion r) s

/-- `REMOTE_ACCESS_PRIORITY`: A remote access waiting 16 cycles on a Drove core's local memory takes the next port cycle (R275). -/
def execRemoteAccessPriority (c : Fin 32) (s : State) : Host.Outcome State Fault Refusal :=
  lift (mRemoteAccessPriority c) s

/-- `ECC_PATROL_READ`: Every 64 CLK_FAB cycles the patrol reads and corrects one beat, or poisons an uncorrectable cell (R279). -/
def execEccPatrolRead (s : State) : Host.Outcome State Fault Refusal :=
  lift (mEccPatrolRead) s

/-- `ECC_CORR_REPORT`: At most once per second !ECC CORR reports the corrected errors since the last report (R290). -/
def execEccCorrReport (s : State) : Host.Outcome State Fault Refusal :=
  lift (mEccCorrReport) s

/-- `MEMORY_INIT_COMPLETE`: Reset memory initialisation completes and sets MYC.STAT.INIT (R289). -/
def execMemoryInitComplete (s : State) : Host.Outcome State Fault Refusal :=
  lift (mMemoryInitComplete) s

/-- `MEM`: Brenex mem shows the memory map and the enabled windows (R290). -/
def execMem (o : Via) (s : State) : Host.Outcome State Fault Refusal :=
  lift (row o (vMem o)) s

/-- `MEM_FOLD`: Brenex mem fold shows a fold's windows (R290). -/
def execMemFold (o : Via) (f : Fin 8) (s : State) : Host.Outcome State Fault Refusal :=
  lift (row o (vMemFold o f)) s

/-- `MEM_WIN`: Brenex mem win writes and enables a window, or disables it (R271). -/
def execMemWin (o : Via) (f : Fin 8) (w : Nat) (x : Option WinSet) (s : State) : Host.Outcome State Fault Refusal :=
  lift (row o (vMemWin o f w x)) s

/-- `MYC`: Brenex myc shows the regulators per fold (R290). -/
def execMyc (o : Via) (s : State) : Host.Outcome State Fault Refusal :=
  lift (row o (vMyc o)) s

/-- `MYC_SHARE`: Brenex myc share writes a fold's regulator (R290). -/
def execMycShare (o : Via) (f : Fin 8) (beats : Nat) (burst : Option Nat) (spare : Option Bool) (s : State) : Host.Outcome State Fault Refusal :=
  lift (row o (vMycShare o f beats burst spare)) s

/-- `ECC`: Brenex ecc shows the ECC counts and the patrol passes (R290). -/
def execEcc (o : Via) (s : State) : Host.Outcome State Fault Refusal :=
  lift (row o (vEcc o)) s

/-- `ECC_CLEAR`: Brenex ecc clear clears MYC.ECCCNT (R290). -/
def execEccClear (o : Via) (s : State) : Host.Outcome State Fault Refusal :=
  lift (row o (vEccClear o)) s

/-- `X_SB`: Brenex x sb shows a core's store-buffer entries (R291). -/
def execXSb (o : Via) (c : Fin 32) (s : State) : Host.Outcome State Fault Refusal :=
  lift (row o (vXSb o c)) s

/-- `X_ECC_INJECT`: Brenex x ecc inject flips check bits of a cell (R291). -/
def execXEccInject (o : Via) (addr : Nat) (double : Bool) (s : State) : Host.Outcome State Fault Refusal :=
  lift (row o (vXEccInject o addr double)) s

/-- `X_ECC_PATROL`: Brenex x ecc patrol enables or disables the patrol (R291). -/
def execXEccPatrol (o : Via) (on : Bool) (s : State) : Host.Outcome State Fault Refusal :=
  lift (row o (vXEccPatrol o on)) s

/-- `X_MYC_PORT`: Brenex x myc port shows a port's grant and wait counters (R291). -/
def execXMycPort (o : Via) (t : Nat) (s : State) : Host.Outcome State Fault Refusal :=
  lift (row o (vXMycPort o t)) s

end Sys2Proof.Machine
end

