-- ==== Sys2Proof/Machine/TileMath.lean ====
section
/-! DEFINITION. The arithmetic of the tile engine: IEEE 754 binary16 and binary32 by exact integers with one rounding, the integer types,
and the value of each tile operation (spec/15 R317, R319 to R327, R331, R337). -/
namespace Sys2Proof.Machine

/-! Numbers (R323). -/

/-- A floating-point format: precision, exponent of the least bit of a subnormal, the power of two at which the range ends, width. -/
structure FpFmt where
  prec : Nat
  lsb : Int
  top : Int
  width : Nat
deriving DecidableEq, Repr

/-- binary32 and binary16. -/
def fmt32 : FpFmt := { prec := 24, lsb := -149, top := 128, width := 32 }
def fmt16 : FpFmt := { prec := 11, lsb := -24, top := 16, width := 16 }

/-- Rounding and flushing of an operation: RND and FTZ. -/
structure FpMode where
  rtz : Bool
  ftz : Bool
deriving DecidableEq, Repr

/-- A decoded number: `fin s m e` is m times 2^e with sign s. -/
inductive FpVal where
  | nan (signalling : Bool)
  | inf (neg : Bool)
  | fin (neg : Bool) (m : Nat) (e : Int)
deriving DecidableEq, Repr

/-- A result: its bits and the flags it raises: bit 0 IV, 1 DZ, 2 OF, 3 UF, 4 NX (R331). -/
abbrev FpRes := Nat × Nat

/-- Exponent bits of a format. -/
def expBits (f : FpFmt) : Nat := f.width - f.prec

/-- Decodes bits; with FTZ a subnormal is zero of its sign. -/
def fpDecode (f : FpFmt) (ftz : Bool) (x : Nat) : FpVal :=
  let frac := x % 2 ^ (f.prec - 1)
  let ex := (x / 2 ^ (f.prec - 1)) % 2 ^ expBits f
  let s := x.testBit (f.width - 1)
  if ex == 2 ^ expBits f - 1 then
    if frac == 0 then .inf s else .nan (!frac.testBit (f.prec - 2))
  else if ex == 0 then .fin s (if ftz then 0 else frac) f.lsb
  else .fin s (frac + 2 ^ (f.prec - 1)) (f.lsb + (ex : Int) - 1)

/-- Whether a decoded number is zero. -/
def fpIsZero (v : FpVal) : Bool := match v with | .fin _ m _ => m == 0 | _ => false

/-- The sign bit of a format. -/
def fpSign (f : FpFmt) (s : Bool) : Nat := if s then 2 ^ (f.width - 1) else 0

/-- Infinity, the default NaN, the largest finite value. -/
def fpInf (f : FpFmt) (s : Bool) : Nat := fpSign f s + (2 ^ expBits f - 1) * 2 ^ (f.prec - 1)
def fpNan (f : FpFmt) : Nat := fpInf f false + 2 ^ (f.prec - 2)
def fpMax (f : FpFmt) (s : Bool) : Nat := fpInf f s - 1

/-- A length in bits. -/
def bitLen (n : Nat) : Nat := if n == 0 then 0 else Nat.log2 n + 1

/-- m times 2^e as a multiple of 2^q, rounded, with whether it was inexact. -/
def roundAt (rtz : Bool) (m : Nat) (e q : Int) : Nat × Bool :=
  if q ≤ e then (m * 2 ^ (e - q).toNat, false)
  else
    let k := (q - e).toNat
    let t := m / 2 ^ k
    let r := m % 2 ^ k
    let half := 2 ^ (k - 1)
    let up := !rtz && (half < r || (r == half && t % 2 == 1))
    (if up then t + 1 else t, r != 0)

/-- The bits of m times 2^q, a value the format holds. -/
def fpPack (f : FpFmt) (s : Bool) (m : Nat) (q : Int) : Nat :=
  if m < 2 ^ (f.prec - 1) then fpSign f s + m
  else
    let (m, q) := if m == 2 ^ f.prec then (m / 2, q + 1) else (m, q)
    fpSign f s + ((q - f.lsb).toNat + 1) * 2 ^ (f.prec - 1) + (m - 2 ^ (f.prec - 1))

/-- Rounds an exact value once to a format (R323): overflow, tininess after rounding, flushing. -/
def fpRound (f : FpFmt) (md : FpMode) (s : Bool) (m : Nat) (e : Int) : FpRes :=
  if m == 0 then (fpSign f s, 0)
  else
    let q0 := e + (bitLen m : Int) - (f.prec : Int)
    let (m0, _) := roundAt md.rtz m e q0
    let tiny := q0 + (bitLen m0 : Int) < f.lsb + (f.prec : Int)
    let q := max q0 f.lsb
    let (r, nx) := roundAt md.rtz m e q
    if f.top < q + (bitLen r : Int) then
      ((if md.rtz then fpMax f s else fpInf f s), 20)
    else if tiny && md.ftz then (fpSign f s, 24)
    else (fpPack f s r q, (if nx then 16 else 0) + (if tiny && nx then 8 else 0))

/-- A NaN result, IV where an operand signals. -/
def nanRes (f : FpFmt) (l : List FpVal) : FpRes :=
  (fpNan f, if l.any fun v => v == .nan true then 1 else 0)

/-- Whether a number is a NaN. -/
def isNanV (v : FpVal) : Bool := match v with | .nan _ => true | _ => false

/-- The signed mantissa of a finite number at a common exponent. -/
def fpInt (s : Bool) (m : Nat) (e q : Int) : Int :=
  let x : Int := (m * 2 ^ (e - q).toNat : Nat)
  if s then -x else x

/-- Sum of decoded numbers. -/
def fpAddV (f : FpFmt) (md : FpMode) (a b : FpVal) : FpRes :=
  if isNanV a || isNanV b then nanRes f [a, b]
  else match a, b with
    | .inf s, .inf t => if s == t then (fpInf f s, 0) else (fpNan f, 1)
    | .inf s, _ | _, .inf s => (fpInf f s, 0)
    | .fin s m e, .fin t n g =>
      let q := min e g
      let x := fpInt s m e q + fpInt t n g q
      if x == 0 then (fpSign f (s && t), 0)
      else fpRound f md (x < 0) x.natAbs q
    | _, _ => (fpNan f, 0)

/-- The negative of a number. -/
def fpNegV (v : FpVal) : FpVal := match v with | .inf s => .inf (!s) | .fin s m e => .fin (!s) m e | v => v

/-- Product of decoded numbers. -/
def fpMulV (f : FpFmt) (md : FpMode) (a b : FpVal) : FpRes :=
  if isNanV a || isNanV b then nanRes f [a, b]
  else match a, b with
    | .inf s, .inf t => (fpInf f (s != t), 0)
    | .inf s, .fin t m _ | .fin t m _, .inf s => if m == 0 then (fpNan f, 1) else (fpInf f (s != t), 0)
    | .fin s m e, .fin t n g => fpRound f md (s != t) (m * n) (e + g)
    | _, _ => (fpNan f, 0)

/-- Quotient of decoded numbers; the remainder leaves a last bit below every rounding position. -/
def fpDivV (f : FpFmt) (md : FpMode) (a b : FpVal) : FpRes :=
  if isNanV a || isNanV b then nanRes f [a, b]
  else match a, b with
    | .inf _, .inf _ => (fpNan f, 1)
    | .inf s, .fin t _ _ => (fpInf f (s != t), 0)
    | .fin s _ _, .inf t => (fpSign f (s != t), 0)
    | .fin s m e, .fin t n g =>
      if n == 0 then (if m == 0 then (fpNan f, 1) else (fpInf f (s != t), 2))
      else
        let k := f.prec + 3 + bitLen n
        let x := m * 2 ^ k
        fpRound f md (s != t) (2 * (x / n) + (if x % n == 0 then 0 else 1)) (e - (k : Int) - g - 1)
    | _, _ => (fpNan f, 0)

/-- a times b plus c with one rounding; infinity times zero is invalid whatever c is (log 43). -/
def fpFmaV (f : FpFmt) (md : FpMode) (a b c : FpVal) : FpRes :=
  let bad : Bool := match a, b with
    | .inf _, .fin _ m _ | .fin _ m _, .inf _ => m == 0
    | _, _ => false
  if bad then (fpNan f, 1)
  else if isNanV a || isNanV b || isNanV c then nanRes f [a, b, c]
  else match a, b, c with
    | .fin s m e, .fin t n g, .fin u k h =>
      let q := min (e + g) h
      let x := fpInt (s != t) (m * n) (e + g) q + fpInt u k h q
      if x == 0 then (fpSign f ((s != t) && u), 0) else fpRound f md (x < 0) x.natAbs q
    | .fin _ _ _, .fin _ _ _, .inf u => (fpInf f u, 0)
    | _, _, c =>
      let s := fpNeg a != fpNeg b
      match c with
      | .inf u => if u == s then (fpInf f s, 0) else (fpNan f, 1)
      | _ => (fpInf f s, 0)
where
  /-- The sign of a number. -/
  fpNeg (v : FpVal) : Bool := match v with | .inf s => s | .fin s _ _ => s | .nan _ => false

/-- Whether a number ranks below another, -0 below +0. -/
def fpLess (a b : FpVal) : Bool :=
  match a, b with
  | .inf s, .inf t => s && !t
  | .inf s, .fin _ _ _ => s
  | .fin _ _ _, .inf t => !t
  | .fin s m e, .fin t n g =>
    let q := min e g
    let x := fpInt s m e q
    let y := fpInt t n g q
    x < y || (x == y && s && !t)
  | _, _ => false

/-- The bits of an operand after FTZ. -/
def fpFlush (f : FpFmt) (ftz : Bool) (x : Nat) : Nat :=
  match fpDecode f false x with
  | .fin s m _ => if ftz && m < 2 ^ (f.prec - 1) then fpSign f s else x
  | _ => x

/-- minimumNumber, or maximumNumber with `mx`. -/
def fpMinMax (f : FpFmt) (md : FpMode) (mx : Bool) (x y : Nat) : FpRes :=
  let x := fpFlush f md.ftz x
  let y := fpFlush f md.ftz y
  let a := fpDecode f md.ftz x
  let b := fpDecode f md.ftz y
  let iv := if a == .nan true || b == .nan true then 1 else 0
  if isNanV a && isNanV b then (fpNan f, iv)
  else if isNanV a then (y, iv)
  else if isNanV b then (x, iv)
  else ((if fpLess a b != mx then x else y), 0)

/-- An integer as a floating-point number. -/
def fpOfInt (f : FpFmt) (md : FpMode) (x : Int) : FpRes := fpRound f md (x < 0) x.natAbs 0

/-- A number as an integer of `w` bits (R326). -/
def fpToInt (md : FpMode) (v : FpVal) (w : Nat) : Int × Nat :=
  let hi : Int := 2 ^ (w - 1) - 1
  let lo : Int := -(2 ^ (w - 1))
  match v with
  | .nan _ => (0, 1)
  | .inf s => (if s then lo else hi, 1)
  | .fin s m e =>
    let (t, nx) := roundAt md.rtz m e 0
    let x : Int := if s then -(t : Int) else (t : Int)
    if hi < x then (hi, 1) else if x < lo then (lo, 1) else (x, if nx then 16 else 0)

/-- A floating-point number in another format. -/
def fpConv (src dst : FpFmt) (md : FpMode) (x : Nat) : FpRes :=
  match fpDecode src md.ftz x with
  | .nan b => (fpNan dst, if b then 1 else 0)
  | .inf s => (fpInf dst s, 0)
  | .fin s m e => fpRound dst md s m e

/-! The extension word and elements (R319, R320). -/

/-- Fields of the extension word. -/
def extRows (e : Word) : Nat := fld e 0 4 + 1
def extBytes (e : Word) : Nat := 4 * (fld e 4 4 + 1)
def extType (e : Word) : Nat := fld e 8 3
def extMode (e : Word) : FpMode := { rtz := bitOf e 11, ftz := bitOf e 12 }
def extTd (e : Word) : Nat := fld e 13 3
def extTa (e : Word) : Nat := fld e 16 3
def extTb (e : Word) : Nat := fld e 19 3
def extStype (e : Word) : Nat := fld e 22 3
def extAux (e : Word) : Nat := fld e 25 7

/-- The size of an element of a type. -/
def typeSize (t : Nat) : Nat := match t with | 0 => 1 | 1 => 2 | 3 => 2 | _ => 4

/-- Whether a type is a floating-point type. -/
def typeFp (t : Nat) : Bool := t == 3 || t == 4

/-- The format of a floating-point type. -/
def typeFmt (t : Nat) : FpFmt := if t == 3 then fmt16 else fmt32

/-- Whether an extension word breaks R320 for an operation, 0 TZERO to 11 TLERP; TZERO, TLD and TST ignore TYPE (log 121). -/
def shapeBad (op : Nat) (e : Word) : Bool :=
  let useTd := op != 2
  let useTa := op != 0 && op != 1
  let useTb := (3 ≤ op && op ≤ 8) || op == 11
  let auxMask := match op with | 1 | 2 => 0x7F | 8 => 0x0F | 11 => 0x01 | _ => 0
  (2 < op && 5 ≤ extType e) || 5 ≤ extStype e || (!useTd && extTd e != 0) || (!useTa && extTa e != 0) || (!useTb && extTb e != 0) ||
  (op != 10 && extStype e != 0) || extAux e &&& (0x7F - auxMask) != 0 || (op == 11 && extType e != 4)

/-- Reads a little-endian number of `n` bytes. -/
def leRead (rd : Nat → Byte) (a n : Nat) : Nat := (List.range n).foldl (fun x i => x + (rd (a + i)).toNat * 256 ^ i) 0

/-- A number as `n` bytes at an offset. -/
def leWrite (a n v : Nat) : List (Nat × Byte) := (List.range n).map fun i => (a + i, BitVec.ofNat 8 (v >>> (8 * i)))

/-- The signed value of a number of `n` bytes. -/
def signedOf (n v : Nat) : Int := if 2 ^ (8 * n - 1) ≤ v then (v : Int) - 2 ^ (8 * n) else (v : Int)

/-- A signed value as `n` bytes, modulo. -/
def wrapTo (n : Nat) (x : Int) : Nat := (x % (2 ^ (8 * n) : Int)).toNat

/-- The offset of element `j` of size `s` in row `r` of tile `t` (R317). -/
def elemAt (t r j s : Nat) : Nat := t * 1024 + r * 64 + j * s

/-- What an operation leaves in staging: the bytes to write by offset in the context, and the flags it raises. -/
abbrev TileRes := List (Nat × Byte) × Nat

/-- Joins the results of elements. -/
def joinRes (l : List TileRes) : TileRes := (l.flatMap (·.1), l.foldl (fun x r => x ||| r.2) 0)

/-! Operations (R321 to R327). -/

/-- One element of TADD, TSUB, TMUL, TMIN, TMAX: operations 3 to 7. -/
def elemOp (op ty : Nat) (md : FpMode) (x y : Nat) : FpRes :=
  if typeFp ty then
    let f := typeFmt ty
    let a := fpDecode f md.ftz x
    let b := fpDecode f md.ftz y
    match op with
    | 3 => fpAddV f md a b
    | 4 => fpAddV f md a (fpNegV b)
    | 5 => fpMulV f md a b
    | 6 => fpMinMax f md false x y
    | _ => fpMinMax f md true x y
  else
    let n := typeSize ty
    let a := signedOf n x
    let b := signedOf n y
    let r : Int := match op with | 3 => a + b | 4 => a - b | 5 => a * b | 6 => min a b | _ => max a b
    (wrapTo n r, 0)

/-- An elementwise operation over the shaped region. -/
def tileElems (op : Nat) (e : Word) (rd : Nat → Byte) : TileRes :=
  let ty := extType e
  let s := typeSize ty
  joinRes ((List.range (extRows e)).flatMap fun r => (List.range (extBytes e / s)).map fun j =>
    let (v, fl) := elemOp op ty (extMode e) (leRead rd (elemAt (extTa e) r j s) s) (leRead rd (elemAt (extTb e) r j s) s)
    (leWrite (elemAt (extTd e) r j s) s v, fl))

/-- A value of a type, widened exactly as the accumulator of R324 and R325 takes it: an integer, or binary32. -/
def fpWiden (ty : Nat) (ftz : Bool) (x : Nat) : FpVal := fpDecode (typeFmt ty) ftz x

/-- The matrix product of TMAC (R324). -/
def tileMac (e : Word) (rd : Nat → Byte) : TileRes :=
  let ty := extType e
  let s := typeSize ty
  let md := extMode e
  joinRes ((List.range (extRows e)).flatMap fun i => (List.range (extBytes e / 4)).map fun j =>
    let at_ := elemAt (extTd e) i j 4
    let start := leRead rd at_ 4
    let term (k : Nat) : Nat × Nat := (leRead rd (elemAt (extTa e) i k s) s, leRead rd (elemAt (extTb e) k j s) s)
    let (v, fl) := (List.range (fld e 25 4 + 1)).foldl (fun (acc : Nat × Nat) k =>
      let (x, y) := term k
      if typeFp ty then
        let (z, g) := fpFmaV fmt32 md (fpWiden ty md.ftz x) (fpWiden ty md.ftz y) (fpDecode fmt32 md.ftz acc.1)
        (z, acc.2 ||| g)
      else (wrapTo 4 ((acc.1 : Int) + signedOf s x * signedOf s y), acc.2)) (start, 0)
    (leWrite at_ 4 v, fl))

/-- The row sums of TSUMR (R325). -/
def tileSums (e : Word) (rd : Nat → Byte) : TileRes :=
  let ty := extType e
  let s := typeSize ty
  let md := extMode e
  joinRes ((List.range (extRows e)).map fun r =>
    let el (j : Nat) : Nat := leRead rd (elemAt (extTa e) r j s) s
    let (v, fl) :=
      if typeFp ty then
        (List.range (extBytes e / s - 1)).foldl (fun (acc : Nat × Nat) j =>
          let (z, g) := fpAddV fmt32 md (fpDecode fmt32 md.ftz acc.1) (fpWiden ty md.ftz (el (j + 1)))
          (z, acc.2 ||| g)) (fpConv (typeFmt ty) fmt32 { md with rtz := false } (el 0))
      else (wrapTo 4 ((List.range (extBytes e / s)).map fun j => signedOf s (el j)).sum, 0)
    (leWrite (elemAt (extTd e) r 0 4) 4 v, fl))

/-- One element of TCVT (R326). -/
def cvtElem (st ty : Nat) (md : FpMode) (x : Nat) : FpRes :=
  let n := typeSize ty
  if st == ty then (if typeFp ty then fpFlush (typeFmt ty) md.ftz x else x, 0)
  else match typeFp st, typeFp ty with
    | true, true => fpConv (typeFmt st) (typeFmt ty) md x
    | true, false => let (v, fl) := fpToInt md (fpDecode (typeFmt st) md.ftz x) (8 * n); (wrapTo n v, fl)
    | false, true => fpOfInt (typeFmt ty) md (signedOf (typeSize st) x)
    | false, false =>
      let hi : Int := 2 ^ (8 * n - 1) - 1
      let lo : Int := -(2 ^ (8 * n - 1))
      (wrapTo n (max lo (min hi (signedOf (typeSize st) x))), 0)

/-- TCVT over its elements. -/
def tileCvt (e : Word) (rd : Nat → Byte) : TileRes :=
  let st := extStype e
  let ty := extType e
  joinRes ((List.range (extRows e)).flatMap fun r =>
    (List.range (extBytes e / max (typeSize st) (typeSize ty))).map fun j =>
      let (v, fl) := cvtElem st ty (extMode e) (leRead rd (elemAt (extTa e) r j (typeSize st)) (typeSize st))
      (leWrite (elemAt (extTd e) r j (typeSize ty)) (typeSize ty) v, fl))

/-- The dimensions of a table from its header cell, if it has the form of R327. -/
def lerpDims (h : Nat) : Option (Nat × Nat) :=
  let nx := h % 256
  let ny := h / 256 % 256
  if h < 65536 && 2 ≤ nx && nx ≤ 64 && 2 ≤ ny && ny ≤ 64 then some (nx, ny) else none

/-- Whether an axis is finite and strictly increasing. -/
def axisOk (l : List Nat) : Bool :=
  let v := l.map (fpDecode fmt32 false)
  v.all (fun x => match x with | .fin _ _ _ => true | _ => false) &&
  (v.zip (v.drop 1)).all fun x => match x.1, x.2 with
    | .fin s m e, .fin t n g => let q := min e g; fpInt s m e q < fpInt t n g q
    | _, _ => false

/-- Whether a number is at most another, as values. -/
def fpLe (a b : FpVal) : Bool := !fpLess b a || (fpIsZero a && fpIsZero b)

/-- The segment of an axis that an element lies in (R327, step 3). -/
def segment (axis : List FpVal) (x : FpVal) : Nat :=
  ((List.range (axis.length - 1)).filter fun i => fpLe (axis.getD i (.fin false 0 0)) x).getLastD 0

/-- One element of TLERP: the bits of x and y, the axes and the grid as bits (R327, steps 1 to 6). -/
def lerpElem (md : FpMode) (extrap : Bool) (xs ys grid : List Nat) (x y : Nat) : FpRes :=
  let d := fpDecode fmt32 md.ftz
  let vx := d x
  let vy := d y
  if isNanV vx || isNanV vy then nanRes fmt32 [vx, vy]
  else
    let ax := xs.map d
    let ay := ys.map d
    let clamp (a : List FpVal) (v : FpVal) : FpVal :=
      if extrap then v
      else if !fpLe (a.headD v) v then a.headD v else if !fpLe v (a.getLastD v) then a.getLastD v else v
    let vx := clamp ax vx
    let vy := clamp ay vy
    let i := segment ax vx
    let j := segment ay vy
    let g (l : List FpVal) (n : Nat) : FpVal := l.getD n (.fin false 0 0)
    let z (b a : Nat) : FpVal := d (grid.getD (b * xs.length + a) 0)
    let sub (a b : FpVal) : FpRes := fpAddV fmt32 md a (fpNegV b)
    let slope (v : FpVal) (l : List FpVal) (n : Nat) : FpRes :=
      let p := sub v (g l n)
      let q := sub (g l (n + 1)) (g l n)
      let r := fpDivV fmt32 md (d p.1) (d q.1)
      (r.1, p.2 ||| q.2 ||| r.2)
    let line (t : Nat) (a b : FpVal) : FpRes :=
      let s := sub b a
      let m := fpMulV fmt32 md (d t) (d s.1)
      let r := fpAddV fmt32 md a (d m.1)
      (r.1, s.2 ||| m.2 ||| r.2)
    let tx := slope vx ax i
    let ty := slope vy ay j
    let a := line tx.1 (z j i) (z j (i + 1))
    let b := line tx.1 (z (j + 1) i) (z (j + 1) (i + 1))
    let r := line ty.1 (d a.1) (d b.1)
    (r.1, tx.2 ||| ty.2 ||| a.2 ||| b.2 ||| r.2)

/-- TLERP over the shaped region, with the table's cells after the header. -/
def tileLerp (e : Word) (rd : Nat → Byte) (nx ny : Nat) (cells : List Nat) : TileRes :=
  let xs := cells.take nx
  let ys := (cells.drop nx).take ny
  let grid := cells.drop (nx + ny)
  joinRes ((List.range (extRows e)).flatMap fun r => (List.range (extBytes e / 4)).map fun j =>
    let (v, fl) := lerpElem (extMode e) (bitOf e 25) xs ys grid
      (leRead rd (elemAt (extTa e) r j 4) 4) (leRead rd (elemAt (extTb e) r j 4) 4)
    (leWrite (elemAt (extTd e) r j 4) 4 v, fl))

/-- Whether an operation is a floating-point operation for TFLG (R331; log 44). -/
def opFp (op : Nat) (e : Word) : Bool :=
  match op with
  | 0 | 1 | 2 => false
  | 10 => typeFp (extType e) || typeFp (extStype e)
  | 11 => true
  | _ => typeFp (extType e)

/-- The result of an operation without a memory operand. -/
def tileCompute (op : Nat) (e : Word) (rd : Nat → Byte) : TileRes :=
  match op with
  | 0 => ((List.range (extRows e)).flatMap fun r => (List.range (extBytes e)).map fun j => (elemAt (extTd e) r j 1, 0), 0)
  | 8 => tileMac e rd
  | 9 => tileSums e rd
  | 10 => tileCvt e rd
  | _ => tileElems op e rd

end Sys2Proof.Machine
end

