-- ==== Sys2Proof/Machine/TileRegs.lean ====
section
/-! DEFINITION. The tile engine of a pen: which core it serves, its contexts and their moves, its registers and verbs (spec/15 R317,
R318, R332 to R334, R338 to R343). The operations themselves are carried out in TileExec.lean. -/
namespace Sys2Proof.Machine

/-- Changes the tile engine of a pen. -/
def updTile (d : Dev) (p : Nat) (f : Tile → Tile) : Dev := d.updPen p fun k => { k with te := f k.te }

/-- Context `i` of a pen. -/
def tileCtx (d : Dev) (p i : Nat) : TileCtx := lget (d.pen p).te.ctxs TileCtx.reset i

/-- Changes context `i` of a pen. -/
def updCtx (d : Dev) (p i : Nat) (f : TileCtx → TileCtx) : Dev :=
  updTile d p fun te => { te with ctxs := lset te.ctxs i (f (lget te.ctxs TileCtx.reset i)) }

/-- The engine works: on, not fenced, not being reset, with clocks. -/
def teLive (d : Dev) (p : Nat) : Bool :=
  let r := d.unit (tileU p)
  d.clocked && (r.st == .idle || r.st == .active) && !r.resetting

/-- The area of the present owner of a core's context (R332, R333). -/
def ownerArea (d : Dev) (c l : Nat) : Option Word :=
  if d.tether c then
    let x := lget (d.pen (penOf c)).te.ttxb 0 (c % 4)
    if bitOf x 0 then some ((x &&& 0xFFFFFC00) + toWord (l * 0x2000)) else none
  else
    let x := (d.core c).tctx
    if bitOf x 0 then some (x &&& 0xFFFFFC00) else none

/-! Which core is served (R318, R334). -/

/-- Whether a waiting core may start: its owner holds its context, and no change is still to be made. -/
def tileReady (d : Dev) (p i : Nat) : Bool :=
  let c := 4 * p + i
  let x := tileCtx d p i
  (d.core c).tileWait.isSome && x.move.isNone && x.want.isNone && x.holder.isSome && x.holder == tileOwner d c

/-- The free engine takes the next waiting core in round-robin order after the last one served (R318). -/
def tileTake (d : Dev) (p : Nat) : Dev :=
  let te := (d.pen p).te
  if !teLive d p || te.op.isSome then d
  else
    match ([1, 2, 3, 4].map fun k => (te.last + k) % 4).find? (tileReady d p) with
    | none => if (d.unit (tileU p)).st == .active then hwMove d (tileU p) .idle else d
    | some i =>
      let k := d.core (4 * p + i)
      match k.tileWait with
      | none => d
      | some w =>
        let d := updTile d p fun te =>
          { te with op := some { core := i, op := w.op, ext := w.ext, addr := w.addr, priv := w.priv }, last := i }
        if (d.unit (tileU p)).st == .idle then hwMove d (tileU p) .active else d

/-! Context moves (R334). -/

/-- Starts the next move on the context port, contexts in ascending order; changes that need no move are made at once. `n` bounds the
steps. -/
def portRun (n : Nat) (d : Dev) (p : Nat) : Dev :=
  match n with
  | 0 => d
  | n + 1 =>
    if !teLive d p || (List.range 4).any (fun i => (tileCtx d p i).move.isSome) then d
    else
      match (List.range 4).find? fun i => (tileCtx d p i).want.isSome with
      | none => d
      | some i =>
        let x := tileCtx d p i
        match x.want, x.holder, x.area with
        | none, _, _ => d
        | some (o, a), h, ar =>
          if h == some o then portRun n (updCtx d p i fun x => { x with want := none, area := a }) p
          else
            match h, ar, a with
            | some h, some ar, _ => updCtx d p i fun x => { x with move := some { save := true, area := ar, owner := h } }
            | _, _, some a => updCtx d p i fun x => { x with holder := none, area := none, move := some { save := false, area := a, owner := o } }
            | _, _, none =>
              portRun n (updCtx d p i fun x => { x with bytes := [], holder := some o, area := none, want := none }) p

/-- A context change of a core to a new owner with its area (R332 to R334): a save under way finishes, a restore is abandoned. -/
def tileChange (d : Dev) (c : Nat) (owner : Nat) (area : Option Word) : Dev :=
  let p := penOf c
  if (d.unit (tileU p)).st == .absent then d
  else
    let d := updCtx d p (c % 4) fun x =>
      { x with want := some (owner, area), move := match x.move with | some m => if m.save then some m else none | none => none }
    tileTake (portRun 16 d p) p

/-- The base of a context in the register map. -/
def ctxBase (p i : Nat) : Nat := tileBase p + 0x1000 + 0x2000 * i

/-- A parity error or a move that failed: the engine is fenced with MCHECK and the Bellwether receives 0x12 (R339). -/
def tileFail (d : Dev) (p i : Nat) (what : String) (addr : Word) : Dev :=
  let d := updTile d p fun te => { te with err := addr }
  let d := causesCheck d (tileU p) 0 addr
  emit d (some .tile) (some (tileU p))
    ("!TILE CTX tile" ++ toString p ++ " core" ++ toString (4 * p + i) ++ " " ++ what ++ " " ++ hex32 addr)

/-- Whether an area is one that R332 allows a fold. -/
def areaOk (d : Dev) (f a n : Nat) : Bool :=
  a % 1024 == 0 && 0x10000000 ≤ a && a + n ≤ 0x10780000 && rangeAllowed d f a n .f .r && rangeAllowed d f a n .f .w

/-- The first cell of an area whose check bits are uncorrectable. -/
def areaBad (d : Dev) (a : Nat) : Option Nat := (d.myc.ecc.find? fun x => a ≤ x.1 && x.1 < a + 0x2000 && 2 ≤ x.2).map (·.1)

/-- A save: 8 KiB from the context to the area. -/
def ctxSave (d : Dev) (a : Nat) (l : List (Nat × Byte)) : Dev :=
  let d := { d with myc := { d.myc with ecc := d.myc.ecc.filter fun x => x.1 < a || a + 0x2000 ≤ x.1 } }
  l.foldl (fun d x => d.setByte (a + x.1) x.2) (d.clearRange a 0x2000)

/-- A restore: 8 KiB from the area; correctable cells are corrected. -/
def ctxLoad (d : Dev) (a : Nat) : Dev × List (Nat × Byte) :=
  let d := (d.myc.ecc.filter fun x => a ≤ x.1 && x.1 < a + 0x2000).foldl (fun d x => eccCorrect d x.1) d
  (d, (d.mem.filter fun x => a ≤ x.1 && x.1 < a + 0x2000).map fun x => (x.1 - a, x.2))

/-- The move of context `i` completes (R334), or meets a refusal (R339). -/
def moveEnd (d : Dev) (p i : Nat) (m : TileMove) : Dev :=
  let a := m.area.toNat
  let f := (d.pen p).fold
  let what := if m.save then "save" else "restore"
  let d := charge d (some f) 512 (raisedBy (d.pen p).te.prom (if (d.pen p).pers == some true then .tether else .drove)) a
  if (d.pen p).te.injCtx then tileFail (updTile d p fun te => { te with injCtx := false }) p i what m.area
  else if !areaOk d f a 0x2000 then tileFail d p i what m.area
  else if m.save then
    updCtx (ctxSave d a (tileCtx d p i).bytes) p i fun x => { x with move := none, holder := none, area := none }
  else
    match areaBad d a with
    | some b => tileFail (eccUncorrect d b ("tile" ++ toString p) (tileU p)) p i what (toWord b)
    | none =>
      let (d, l) := ctxLoad d a
      updCtx d p i fun x => { x with bytes := l, holder := some m.owner, area := some m.area, move := none,
                                     want := match x.want with | some (o, r) => if o == m.owner then none else some (o, r) | none => none }

/-- The class of a tile engine's requests (R337), raised as its waiting request has been. -/
def engineClass (d : Dev) (p : Nat) : MClass :=
  raisedBy (d.pen p).te.prom (if (d.pen p).pers == some true then .tether else .drove)

/-- The four shared-SRAM ports of an area. -/
def movePorts (m : TileMove) : List Nat := [0, 256, 512, 768].map fun o => targetPort (m.area.toNat + o)

/-- A move is complete once the ports have granted it (spec/13 R273). -/
def mTileMoveComplete (t : Fin 8) (d : Dev) : Dev :=
  let p := t.val
  if !teLive d p then d
  else
    match (List.range 4).find? fun i => (tileCtx d p i).move.isSome with
    | none => tileTake (portRun 16 d p) p
    | some i =>
      match (tileCtx d p i).move with
      | none => d
      | some m =>
        whenGranted d (movePorts m) (engineClass d p) (some (d.pen p).fold)
          (tileTake (portRun 16 (updTile (moveEnd d p i m) p fun te => { te with prom := 0 }) p) p)

/-! Registers (R343). -/

/-- CTL. -/
def tileCtl (te : Tile) : Word := toWord (te.doneEv.toNat + put te.trapEv.toNat 4)

/-- STAT. -/
def tileStat (d : Dev) (p : Nat) : Word :=
  let te := (d.pen p).te
  let (core, op) := match te.op with | some o => (o.core, o.op) | none => (0, 0)
  let waits := (List.range 4).filter fun i => (d.core (4 * p + i)).tileWait.isSome && te.op.all fun o => o.core != i
  toWord (putB te.op.isSome 0 + put core 1 + put op 4 + (waits.map fun i => put 1 (8 + i)).sum +
    ((List.range 4).map fun i => putB (tileCtx d p i).move.isSome (12 + i)).sum)

/-- HOLDc. -/
def tileHold (x : TileCtx) : Word :=
  toWord (x.holder.getD 0 + putB x.holder.isSome 8 + putB x.move.isSome 9 + putB (x.move.any (·.save)) 10)

/-- Whether a TTXB value may stand: disabled, or eight areas the fold may use (R341, R343). -/
def ttxbOk (d : Dev) (p : Nat) (v : Word) : Bool :=
  !bitOf v 0 || areaOk d (d.pen p).fold (v &&& 0xFFFFFC00).toNat 0x10000

/-- TTXBc written: the level that runs becomes the holder of what its context holds (R333; log 46). -/
def ttxbSet (p i : Nat) (v : Word) (d : Dev) : Dev :=
  let d := regSet d (tileU p) (0x20 + 4 * i) v
  let c := 4 * p + i
  if d.tether c then
    updCtx d p i fun x => if x.holder.isSome then { x with holder := tileOwner d c, area := ownerArea d c (d.core c).lvl } else x
  else d

/-- A read of a tile engine register: F of the owning fold, K and M; contexts M only. -/
def tileRead (d : Dev) (q : Req) (p off : Nat) : Dev × RRes :=
  let te := (d.pen p).te
  if (d.unit (tileU p)).st == .absent then (d, .error 0x0D)
  else if 0x1000 ≤ off && off < 0x9000 then
    let o := off - 0x1000
    let x := tileCtx d p (o / 0x2000)
    guardR (q.priv == .m) d (toWord (leRead (fun a => tget x.bytes 0 a) (o % 0x2000) 4))
  else
    let v : Word := match off with
      | 0x0 => tileStat d p
      | 0x4 => tileCtl te
      | 0x8 => te.commits
      | 0xC => toWord (te.cutoff + put te.traps 16)
      | 0x30 => te.err
      | _ => match idx off 0x10 4 4, idx off 0x20 4 4 with
        | some i, _ => tileHold (tileCtx d p i)
        | _, some i => lget te.ttxb 0 i
        | _, _ => 0
    guardR (isF q (some (d.pen p).fold)) d v

/-- A write to a tile engine register. -/
def tileWrite (d : Dev) (q : Req) (p off : Nat) (v : Word) : Dev × WRes :=
  let u := tileU p
  let fOk := isF q (some (d.pen p).fold)
  if (d.unit u).st == .absent then (d, .exc 0x0D)
  else if (0x1000 ≤ off && off < 0x9000) || off == 0 || off == 8 || off == 0xC || off == 0x30 || (idx off 0x10 4 4).isSome then denied d
  else match off, idx off 0x20 4 4 with
    | 4, _ => guardW fOk d (stWrite d q u none id fun d => .ok (regSet d u 4 v))
    | _, some i =>
      guardW fOk d (if ttxbOk d p v then stWrite d q u none id fun d => .ok (ttxbSet p i v d) else ignored d)
    | _, none => guardW fOk d (ignored d)

def mTtxbWrite (a : Agent) (c : Fin 32) (v : Word) (d : Dev) : Dev :=
  let p := penOf c.val
  let off := 0x20 + 4 * (c.val % 4)
  writeRow a (toWord (tileBase p + off)) (tileWrite d (reqOf d a) p off v)

/-! Verbs (R341, R342). -/

/-- What `tile` shows of an engine. -/
def tileFields (d : Dev) (p : Nat) : List (String × String) :=
  let te := (d.pen p).te
  [("tile", unitLine d (tileU p)), ("stat", hex32 (tileStat d p)),
   ("holders", joinSp ((List.range 4).map fun i => hex32 (tileHold (tileCtx d p i)))),
   ("commits", hex32 te.commits), ("cutoff", toString te.cutoff), ("traps", toString te.traps)]

def vTile (o : Via) (d : Dev) : Dev :=
  verb o .observe [] (vShow "tile" fun d => (List.range (countTiles d.variant)).flatMap (tileFields d)) d

def vTileShow (o : Via) (t : Fin 8) (d : Dev) : Dev :=
  verb o .observe [.tile t] (vShow "tile" fun d =>
    tileFields d t.val ++ [("ctl", hex32 (tileCtl (d.pen t.val).te)), ("ttxb", joinSp ((d.pen t.val).te.ttxb.map hex32)),
      ("err", hex32 (d.pen t.val).te.err)]) d

/-- A mask of cores. -/
def coreMask (cs : List Nat) : Nat := (List.range 4).foldl (fun m i => if cs.contains i then m + 2 ^ i else m) 0

def vTileEv (o : Via) (t : Fin 8) (trap : Bool) (cs : List Nat) (d : Dev) : Dev :=
  verb o .operate [.tile t] (fun d =>
    if !cs.all (· < 4) then vEr d 10
    else vReg o (.tile t) none (fun d => .ok (updTile d t.val fun te =>
      if trap then { te with trapEv := BitVec.ofNat 4 (coreMask cs) } else { te with doneEv := BitVec.ofNat 4 (coreMask cs) })) d) d

def vTileTctx (o : Via) (t : Fin 8) (c : Fin 32) (x : Option Nat) (d : Dev) : Dev :=
  verb o .operate [.tile t, .core c] (fun d =>
    let v : Word := match x with | none => 0 | some a => toWord (a + 1)
    let ok := penOf c.val == t.val && x.getD 0 % 1024 == 0 && x.getD 0 < 0x100000000 && ttxbOk d t.val v
    if !ok then vEr d 10 else vReg o (.tile t) none (fun d => .ok (ttxbSet t.val (c.val % 4) v d)) d) d

/-- One row of a tile in hexadecimal, cell by cell. -/
def rowText (x : TileCtx) (tile r : Nat) : String :=
  joinSp ((List.range 16).map fun j => hexDigits (leRead (fun a => tget x.bytes 0 a) (elemAt tile r j 4) 4) 8)

def vXTilePeek (o : Via) (t : Fin 8) (c : Fin 32) (tile : Nat) (rows : Option Nat) (d : Dev) : Dev :=
  verb o .machine [.tile t, .core c] (fun d =>
    let n := rows.getD 16
    if penOf c.val != t.val || 8 ≤ tile || n == 0 || 16 < n then vEr d 10
    else vShow "x tile peek" (fun d => (List.range n).map fun r => ("row", rowText (tileCtx d t.val (c.val % 4)) tile r)) d) d

def vXTileStat (o : Via) (t : Fin 8) (d : Dev) : Dev :=
  verb o .engineer [.tile t] (vShow "x tile stat" fun d =>
    (d.pen t.val).te.perCore.map fun x => ("core", numsText [x.1, x.2.1, x.2.2.toNat])) d

def vXTileInject (o : Via) (t : Fin 8) (ctx : Bool) (d : Dev) : Dev :=
  verb o .machine [.tile t] (fun d => vOk (updTile d t.val fun te =>
    if ctx then { te with injCtx := true } else { te with injParity := true })) d

/-! The rows of the table. -/

/-- `TILE_MOVE_COMPLETE`: A tile context save or restore over the context port completes, and the holder updates (R334). -/
def execTileMoveComplete (t : Fin 8) (s : State) : Host.Outcome State Fault Refusal :=
  lift (mTileMoveComplete t) s

/-- `TTXB_WRITE`: A write to PENn.TE.TTXBc sets the Tether context areas, and is ignored when invalid (R343). -/
def execTtxbWrite (a : Agent) (c : Fin 32) (v : Word) (s : State) : Host.Outcome State Fault Refusal :=
  lift (mTtxbWrite a c v) s

/-- `TILE`: Brenex tile shows every engine (R341). -/
def execTile (o : Via) (s : State) : Host.Outcome State Fault Refusal :=
  lift (row o (vTile o)) s

/-- `TILE_SHOW`: Brenex tile followed by an engine shows it in full (R341). -/
def execTileShow (o : Via) (t : Fin 8) (s : State) : Host.Outcome State Fault Refusal :=
  lift (row o (vTileShow o t)) s

/-- `TILE_EV`: Brenex tile ev sets the done or trap events per core (R341). -/
def execTileEv (o : Via) (t : Fin 8) (trap : Bool) (cs : List Nat) (s : State) : Host.Outcome State Fault Refusal :=
  lift (row o (vTileEv o t trap cs)) s

/-- `TILE_TCTX`: Brenex tile tctx writes TTXBc (R341). -/
def execTileTctx (o : Via) (t : Fin 8) (c : Fin 32) (x : Option Nat) (s : State) : Host.Outcome State Fault Refusal :=
  lift (row o (vTileTctx o t c x)) s

/-- `X_TILE_PEEK`: Brenex x tile peek reads the rows of a tile (R342). -/
def execXTilePeek (o : Via) (t : Fin 8) (c : Fin 32) (tile : Nat) (rows : Option Nat) (s : State) : Host.Outcome State Fault Refusal :=
  lift (row o (vXTilePeek o t c tile rows)) s

/-- `X_TILE_STAT`: Brenex x tile stat shows the statistics per core (R342). -/
def execXTileStat (o : Via) (t : Fin 8) (s : State) : Host.Outcome State Fault Refusal :=
  lift (row o (vXTileStat o t)) s

/-- `X_TILE_INJECT`: Brenex x tile inject forces a parity error or a move refusal (R342). -/
def execXTileInject (o : Via) (t : Fin 8) (ctx : Bool) (s : State) : Host.Outcome State Fault Refusal :=
  lift (row o (vXTileInject o t ctx)) s

end Sys2Proof.Machine
end

