-- ==== Sys2Proof/Machine/PenRegs.lean ====
section
/-! DEFINITION. The register block of a pen, the Bellwether's commands and hook, and the verbs of spec/07 and spec/09 that act on
registers (spec/07 R143, R161 to R163, spec/09 R201 to R211, spec/13 R269, R292). -/
namespace Sys2Proof.Machine

/-! Events presented to a Tether core (spec/11 R239, R252). -/

/-- Whether level `l` is presented to a core. -/
def presentedAt (d : Dev) (c l : Nat) : Bool :=
  let p := penOf c
  let k := d.pen p
  penServed d p && (List.range 64).any fun n =>
    (lineCfg d k.fold n).prio == l && k.pend.getLsbD n && (d.core c).mask.getLsbD n

/-- The levels presented to a core, highest first. -/
def presented (d : Dev) (c : Nat) : List Nat := (List.range 8).reverse.filter (presentedAt d c)

/-! Registers (spec/07 R163, spec/09 R211). -/

/-- PENn.INFO. -/
def penInfo (d : Dev) (p : Nat) : Word :=
  toWord (putB ((d.pen p).pers == some true) 0 + putB (unitPresent d.variant (tileU p)) 1 + putB (isLastWatch d p) 2 +
    put (d.pen p).fold 8)

/-- PENn.COREc.STAT, one layout per personality. -/
def coreStat (d : Dev) (c : Nat) : Word :=
  let k := d.core c
  if d.tether c then
    toWord (k.lvl + putB k.ie 3 + ((List.range 8).map fun l => putB (presentedAt d c l) (8 + l)).sum + put k.nest.toNat 16)
  else toWord (k.slot.getD 0 + putB k.slot.isSome 24 + put ((k.spare.length + 1) / 2) 25)

/-- HWM0 or HWM1: depth and windows minus one of four levels. -/
def hwmWord (k : Core) (hi : Bool) : Word :=
  toWord ((List.range 4).map fun i =>
    let l := if hi then i + 4 else i
    put (lget k.hwmDepth 0 l + put (lget k.hwmWin 0 l) 5) (8 * i)).sum

/-- A write to HWM0 or HWM1 clears the bytes whose bit 7 is set. -/
def hwmClear (k : Core) (hi : Bool) (v : Word) : Core :=
  (List.range 4).foldl (fun k i =>
    let l := if hi then i + 4 else i
    if bitOf v (8 * i + 7) then { k with hwmDepth := lset k.hwmDepth l 0, hwmWin := lset k.hwmWin l 0 } else k) k

/-- A core register of the pen block, by offset from 0xC0 to 0x1BF of its core. -/
def coreRegRead (d : Dev) (c o : Nat) : Word :=
  let k := d.core c
  let tether := d.tether c
  match o with
  | 0xC0 => k.gsbF
  | 0xC4 => k.gsbK
  | 0xC8 => k.gsbM
  | 0xCC => k.gfr
  | 0xD0 => toWord k.gdep
  | 0xD4 => toWord k.lmguard
  | 0x100 => coreStat d c
  | 0x104 => if tether then hwmWord k false else 0
  | 0x108 => if tether then hwmWord k true else 0
  | 0x10C => sbWord k
  | _ =>
    if tether && 0x150 ≤ o && o < 0x1C0 then
      let l := (o - 0x140) / 16
      match o % 16 with
      | 0 => lget k.spc 0 l
      | 4 => lget k.sflg 0 l
      | 8 => lget k.sxa 0 l
      | _ => 0
    else 0

/-- The core registers of the block: the core within the pen and the offset, if an offset lies there. -/
def coreRegOf (off : Nat) : Option (Nat × Nat) :=
  if 0xC0 ≤ off && off < 0x4C0 then some ((off - 0xC0) / 0x100, (off - 0xC0) % 0x100 + 0xC0) else none

/-- A read of a pen's register block. -/
def penRead (d : Dev) (q : Req) (p off : Nat) : Dev × RRes :=
  if !unitPresent d.variant (penU p) then (d, .error 0x0D)
  else if 0x1000 ≤ off then ratRead d q p off
  else if 0x800 ≤ off && off < 0x1000 then csRegRead d q p off
  else if 0x600 ≤ off then penEvRead d q p off
  else
    let k := d.pen p
    let v : Word := match off with
      | 0x00 => penInfo d p
      | 0x04 => toWord (putB k.persNext 0 + putB k.persRefused 1)
      | 0x08 => if k.pers == some true then k.tvec else 0
      | 0x0C => k.gtb
      | 0x10 => k.exv
      | 0x14 => toWord k.exctl
      | 0x18 => toWord (k.excTotal + put k.excDf 16 + put k.excLast.toNat 24)
      | _ => match coreRegOf off with
        | some (c, o) => coreRegRead d (4 * p + c) o
        | none => 0
    guardR (isF q (some k.fold)) d v

/-- Whether a personality may be selected for a pen (spec/07 R143). -/
def persOk (d : Dev) (p : Nat) (tether : Bool) : Bool :=
  !(!tether && isLastWatch d p) && lget d.golden.baseHeld false (if tether then 1 else 0)

/-- What a refused PERSSEL write leaves. -/
def persRefuse (p : Nat) (d : Dev) : Dev := d.updPen p fun k => { k with persRefused := true }

/-- A selection while a reset loads the pen: it is taken for the next load, the running one has its own (spec/07 R158). -/
def persWhileLoading (d : Dev) (src : String) (p : Nat) (gen : Option Nat) (tether : Bool) : Dev × RCode :=
  let u := penU p
  let c : RCode :=
    if gen.isSome && gen != some (d.unit u).gen.toNat then .stale else if persOk d p tether then .ok else .invalid
  let d := if c == .ok then bumpGen (d.updPen p fun k => { k with persNext := tether }) u else d
  (arbLog d src u "write" c, c)

/-- A write to PERSSEL: REFUSED is cleared by bit 1, then NEXT is requested with GEN (spec/07 R143, R158). -/
def persselWrite (d : Dev) (q : Req) (p : Nat) (v : Word) : Dev × WRes :=
  let d := if bitOf v 1 then d.updPen p fun k => { k with persRefused := false } else d
  if (d.unit (penU p)).resetting then
    match persWhileLoading d q.src p (some (fld v 16 16)) (bitOf v 0) with
    | (d, .ok) => (d, .done)
    | (d, c) => (persRefuse p d, .refused c)
  else stWrite d q (penU p) (some (fld v 16 16)) (persRefuse p) fun d =>
    if persOk d p (bitOf v 0) then .ok (regSet d (penU p) 4 v) else .error .invalid

/-- Whether an offset of the block is a read-only register, whose write raises 0x08 (R163, spec/09 R211). -/
def penReadOnly (off : Nat) : Bool :=
  off == 0x00 || off == 0x18 || match coreRegOf off with
    | some (_, o) => o == 0xCC || o == 0xD0 || o == 0x100 || o == 0x10C || (0x140 ≤ o && o % 16 != 12)
    | none => false

/-- A write of a core register of the block; an unassigned address ignores it (spec/00 R9). -/
def coreRegWrite (d : Dev) (q : Req) (c o : Nat) (v : Word) : Dev × WRes :=
  let fOk := isF q (some (d.foldOfCore c))
  let pl (ok : Bool) (f : Core → Core) : Dev × WRes := guardW ok d (plWrite d (penU (penOf c)) fun d => d.updCore c f)
  match o with
  | 0xC0 => pl fOk fun k => { k with gsbF := v &&& 0xFFFFFF00 }
  | 0xC4 => pl (isK q) fun k => { k with gsbK := v &&& 0xFFFFFF00 }
  | 0xC8 => pl (q.priv == .m) fun k => { k with gsbM := v &&& 0xFFFFFF00 }
  | 0xD4 => guardW fOk d (stWrite d q (coreU c) none id fun d =>
      .ok (if 16 < fld v 0 5 then d else regSet d (coreU c) 0xD4 v))
  | 0x104 => pl fOk fun k => hwmClear k false v
  | 0x108 => pl fOk fun k => hwmClear k true v
  | _ => guardW fOk d (ignored d)

/-- A write to a pen's register block (spec/07 R163, spec/09 R211). -/
def penWrite (d : Dev) (q : Req) (p off : Nat) (v : Word) : Dev × WRes :=
  let u := penU p
  let fOk := isF q (some (d.pen p).fold)
  let st (f : Dev → Dev) : Dev × WRes := guardW fOk d (stWrite d q u none id fun d => .ok (f d))
  if !unitPresent d.variant u then (d, .exc 0x0D)
  else if 0x1000 ≤ off then ratWrite d q p off v
  else if 0x800 ≤ off && off < 0x1000 then csRegWrite d q p off v
  else if 0x600 ≤ off then penEvWrite d q p off v
  else if penReadOnly off then denied d
  else match off with
    | 0x04 => guardW (isK q) d (persselWrite d q p v)
    | 0x08 => if (d.pen p).pers == some true then st fun d => regSet d u 8 (v &&& 0xFFFFFFE0) else guardW fOk d (ignored d)
    | 0x0C => st fun d => regSet d u 0xC (v &&& 0xFFFFFFC0)
    | 0x10 => st fun d => regSet d u 0x10 (v &&& 0xFFFFFFFE)
    | 0x14 => st fun d => regSet d u 0x14 (v &&& 0x3F)
    | _ => match coreRegOf off with
      | some (c, o) => coreRegWrite d q (4 * p + c) o v
      | none => guardW fOk d (ignored d)

def mPersselWrite (a : Agent) (p : Fin 8) (v : Word) (d : Dev) : Dev :=
  writeRow a (toWord (penBlock p.val + 4)) (penWrite d (reqOf d a) p.val 4 v)

/-! Verbs of spec/07 R161, R162. -/

/-- The data-stack and window storage of the running task or level. -/
def Core.bank (k : Core) : Bank := lget k.banks Bank.empty k.lvl

/-- FLG (spec/05 R98). -/
def flgWord (k : Core) (t : Bool) : Word :=
  toWord (putB k.z 0 + putB k.n 1 + putB k.c 2 + putB k.v 3 + putB k.rpt 4 + putB (t && k.ie) 5 + putB (t && k.xs) 6 +
    put (if t then k.lvl else 0) 8 + put (privNum k.priv) 12 + putB t 15)

/-- The name of a personality. -/
def persText (x : Option Bool) : String := match x with | none => "none" | some true => "tether" | some false => "drove"

/-- What `pen` shows of a pen. -/
def penFields (d : Dev) (p : Nat) : List (String × String) :=
  let k := d.pen p
  [("pen", unitLine d (penU p)), ("personality", persText k.pers), ("next", persText (some k.persNext)),
   ("fold", toString k.fold), ("lastwatch", onOff (isLastWatch d p))]

/-- What `pen <p>` shows of a core. -/
def coreFields (d : Dev) (c : Nat) : List (String × String) :=
  let k := d.core c
  if d.tether c then
    [("core", toString c), ("level", toString k.lvl), ("ie", onOff k.ie), ("pending", numsText (presented d c)),
     ("depth", numsText k.hwmDepth), ("windows", numsText k.hwmWin)]
  else
    let b := lget k.banks Bank.empty 0
    [("core", toString c), ("slot", match k.slot with | some s => toString s | none => "none"),
     ("cells", numsText [b.data.length, b.rets.length, b.wn, k.spare.length])]

/-- The pens a variant has. -/
def allPens (d : Dev) : List Nat := List.range (countPens d.variant)

def vPen (o : Via) (d : Dev) : Dev := verb o .observe [] (vShow "pen" fun d => (allPens d).flatMap (penFields d)) d

def vPenShow (o : Via) (p : Fin 8) (d : Dev) : Dev :=
  verb o .observe [.pen p] (vShow "pen" fun d => (List.range 4).flatMap fun i => coreFields d (4 * p.val + i)) d

def vPenPers (o : Via) (p : Fin 8) (tether : Bool) (g : Option Nat) (d : Dev) : Dev :=
  verb o .engineer [.pen p] (fun d =>
    if (d.unit (.pen p)).resetting then vCode (.pen p) (persWhileLoading d (viaSrc o) p.val g tether)
    else vReg o (.pen p) g (fun d =>
      if persOk d p.val tether then .ok (d.updPen p.val fun k => { k with persNext := tether }) else .error .invalid) d) d

def vXCore (o : Via) (c : Fin 32) (d : Dev) : Dev :=
  verb o .engineer [.core c] (vShow "x core" fun d =>
    let k := d.core c.val
    let b := k.bank
    [("spd", hex32 b.spd), ("spr", hex32 b.spr), ("fp", hex32 b.fp), ("gp", hex32 k.gp), ("tp", hex32 k.tp),
     ("flg", hex32 (flgWord k (d.tether c.val))), ("mrl", hex32 (k.prod.setWidth 32)), ("mrh", hex32 ((k.prod >>> 32).setWidth 32)),
     ("tflg", hex32 b.tflg), ("rc", hex32 k.rc), ("rs", hex32 k.rs), ("rd", hex32 k.rd),
     ("cpoly", hex32 k.cpoly), ("cacc", hex32 k.cacc), ("tsbr", hex32 k.tsbr),
     ("spc", joinSp (k.spc.map hex32)), ("sflg", joinSp (k.sflg.map hex32)), ("sxa", joinSp (k.sxa.map hex32))] ++
    coreFields d c.val) d

def vXCoreTsb (o : Via) (c : Fin 32) (d : Dev) : Dev :=
  verb o .engineer [.core c] (fun d =>
    if d.tether c.val then vEr d 10
    else vShow "x core tsb" (fun d =>
      let a := absAddr c.val (d.core c.val).tsbr.toNat
      (List.range 32).map fun i => (hexDigits (4 * i) 2, hex32 (plainRead d (a + 4 * i) 4))) d) d

def vXPenHwmClear (o : Via) (p : Fin 8) (d : Dev) : Dev :=
  verb o .engineer [.pen p] (fun d => vOk ((List.range 4).foldl (fun d i =>
    d.updCore (4 * p.val + i) fun k => { k with hwmDepth := List.replicate 8 0, hwmWin := List.replicate 8 0 }) d)) d

/-! The Bellwether (spec/09 R201 to R207). -/

/-- The request a hook makes to the arbiter; requests it may not make, and those that would clear SHED or DISAGREE, are INVALID. -/
def hookRequest (d : Dev) (r : HookReq) : Dev :=
  let u := r.unit
  let op : Option UOp := match r.op with
    | .on => some .on | .off => some .off | .fence => some .fence | .unfence => some .unfence
    | .reset => if (withContents d u).any fun x => hasCause (d.unit x) .shed || hasCause (d.unit x) .disagree then none else some .reset
    | .other => none
  match op with
  | some op => (unitRequest d "bw" u op none).1
  | none => arbLog d "bw" u "HOOK" .invalid

/-- A machine check: 0x10 and 0x12 fence the unit, 0x11 is the report of the ECC logic, the offsets in the records of 0x10 and 0x11 being
free values; then the hook runs, and with requests it has returned (log 48). -/
def mMachineCheck (u : UnitId) (code : Byte) (hook : List HookReq) (d : Dev) : Dev :=
  if (d.unit u).st == .absent || !(code == 0x10 || code == 0x11 || code == 0x12) then d
  else
    let d := if code == 0x12 then causesCheck d u 0 0
      else
        let x := Config.freeCell d.free
        let d := { d with free := d.free + 1 }
        if code == 0x10 then machineCheck d u code x 0 0 else mcheckReport d u code x 0 0
    if 0 < d.bw.hookRun && hook != [] then
      let d := hook.foldl hookRequest d
      { d with bw := { d.bw with hookRun := 0 } }
    else d

/-- A hook that has not returned within 50 us is abandoned; the third time it is disabled. The unit its record names is not stated
(log 22). -/
def mHookTimeout (d : Dev) : Dev :=
  if d.bw.hookRun == 0 || d.bw.halt then d
  else
    let at_ := 0xF0008000 + 32 * d.bw.head
    let d := bwRecord d 4 .pmu 0 0 0 0
    let d := (d.setCell (at_ + 8) (Config.freeCell d.free)).setCell (at_ + 24) (Config.freeCell (d.free + 1))
    let n := satInc d.bw.hookAbn 3
    { d with free := d.free + 2, bw := { d.bw with hookRun := d.bw.hookRun - 1, hookAbn := n, hook := d.bw.hook && n < 3 } }

def mLockstepMismatch (d : Dev) : Dev :=
  if d.bw.halt then d
  else emit { d with bw := { d.bw with halt := true, hookRun := 0 } } none none "!BW HALT"

/-- BW.STAT. -/
def bwStat (b : Bw) : Word :=
  toWord (putB b.halt 0 + putB b.wrap 1 + putB b.hook 2 + put b.hookAbn 8 + put b.head 16)

/-! Verbs of spec/09 R209, R210. -/

def vExc (o : Via) (d : Dev) : Dev :=
  verb o .observe [] (vShow "exc" fun d => (allPens d).map fun p =>
    let k := d.pen p
    ("pen" ++ toString p, numsText [k.excTotal, k.excDf, k.excLast.toNat])) d

/-- The TAG of the newest frame of a core, 0 where it has none. -/
def newestTag (d : Dev) (c : Nat) : Word :=
  let k := d.core c
  if k.gdep == 0 then 0 else plainRead d (absAddr c k.gfr.toNat + 0x14) 4

def vExcPen (o : Via) (p : Fin 8) (d : Dev) : Dev :=
  verb o .observe [.pen p] (vShow "exc pen" fun d => (List.range 4).flatMap fun i =>
    let c := 4 * p.val + i
    let k := d.core c
    [("core", toString c), ("gdep", toString k.gdep), ("gfr", hex32 k.gfr), ("gsb", joinSp [hex32 k.gsbF, hex32 k.gsbK, hex32 k.gsbM]),
     ("tag", hex32 (newestTag d c))]) d

def vBw (o : Via) (d : Dev) : Dev :=
  verb o .observe [] (vShow "bw" fun d =>
    [("firmware", hex32 Config.fwVersion), ("halt", onOff d.bw.halt), ("hook", onOff d.bw.hook), ("abandoned", toString d.bw.hookAbn),
     ("log", toString (min d.bw.seq.toNat 256)), ("wrap", onOff d.bw.wrap)]) d

def vXExcInject (o : Via) (c : Fin 32) (code : Nat) (d : Dev) : Dev :=
  verb o .machine [.core c] (fun d =>
    if code == 0 || 13 < code then vEr d 10
    else vOk (d.updCore c.val fun k => k.hold ⟨BitVec.ofNat 8 code, 0, 0⟩)) d

def vXExcClear (o : Via) (p : Fin 8) (d : Dev) : Dev :=
  verb o .operate [.pen p] (fun d => vOk (d.updPen p.val fun k => { k with excTotal := 0, excDf := 0, excLast := 0 })) d

/-- A hook abandoned three times stays disabled, and an image without a hook has none to enable. -/
def vXBwHook (o : Via) (on : Bool) (d : Dev) : Dev :=
  verb o .machine [] (fun d =>
    if on && (3 ≤ d.bw.hookAbn || d.bw.hookEntry == 0) then vEr d 10
    else vOk { d with bw := { d.bw with hook := on } }) d

/-! The rows of the table. -/

/-- `PERSSEL_WRITE`: A write to PENn.PERSSEL selects the next personality, refused for the last-watch pen, a missing golden image or a stale generation (R143). -/
def execPersselWrite (a : Agent) (p : Fin 8) (v : Word) (s : State) : Host.Outcome State Fault Refusal :=
  lift (mPersselWrite a p v) s

/-- `PEN`: Brenex pen shows every pen's personalities, fold, state and last-watch mark (R161). -/
def execPen (o : Via) (s : State) : Host.Outcome State Fault Refusal :=
  lift (row o (vPen o)) s

/-- `PEN_SHOW`: Brenex pen followed by a pen number shows that pen per core (R161). -/
def execPenShow (o : Via) (p : Fin 8) (s : State) : Host.Outcome State Fault Refusal :=
  lift (row o (vPenShow o p)) s

/-- `PEN_PERS`: Brenex pen pers sets PERSSEL.NEXT (R161). -/
def execPenPers (o : Via) (p : Fin 8) (tether : Bool) (g : Option Nat) (s : State) : Host.Outcome State Fault Refusal :=
  lift (row o (vPenPers o p tether g)) s

/-- `X_CORE`: Brenex x core shows a core's special and save registers (R162). -/
def execXCore (o : Via) (c : Fin 32) (s : State) : Host.Outcome State Fault Refusal :=
  lift (row o (vXCore o c)) s

/-- `X_CORE_TSB`: Brenex x core tsb shows the task-state block (R162). -/
def execXCoreTsb (o : Via) (c : Fin 32) (s : State) : Host.Outcome State Fault Refusal :=
  lift (row o (vXCoreTsb o c)) s

/-- `X_PEN_HWM_CLEAR`: Brenex x pen hwm clear clears the high-water marks (R162). -/
def execXPenHwmClear (o : Via) (p : Fin 8) (s : State) : Host.Outcome State Fault Refusal :=
  lift (row o (vXPenHwmClear o p)) s

/-- `MACHINE_CHECK`: A machine check is fenced in hardware, then within 2 µs the Bellwether writes a record, raises !MCHK and calls the hook (R202). -/
def execMachineCheck (u : UnitId) (code : Byte) (hook : List HookReq) (s : State) : Host.Outcome State Fault Refusal :=
  lift (mMachineCheck u code hook) s

/-- `HOOK_TIMEOUT`: A hook that has not returned within 50 µs is abandoned with a type 4 record, and is disabled after 3 abandonments (R203). -/
def execHookTimeout (s : State) : Host.Outcome State Fault Refusal :=
  lift (mHookTimeout) s

/-- `LOCKSTEP_MISMATCH`: A Bellwether lockstep mismatch halts the Bellwether and sends !BW HALT (R207). -/
def execLockstepMismatch (s : State) : Host.Outcome State Fault Refusal :=
  lift (mLockstepMismatch) s

/-- `EXC`: Brenex exc shows the exception counts per pen (R209). -/
def execExc (o : Via) (s : State) : Host.Outcome State Fault Refusal :=
  lift (row o (vExc o)) s

/-- `EXC_PEN`: Brenex exc followed by a pen shows the gate state per core (R209). -/
def execExcPen (o : Via) (p : Fin 8) (s : State) : Host.Outcome State Fault Refusal :=
  lift (row o (vExcPen o p)) s

/-- `BW`: Brenex bw shows the Bellwether's status (R209). -/
def execBw (o : Via) (s : State) : Host.Outcome State Fault Refusal :=
  lift (row o (vBw o)) s

/-- `X_EXC_INJECT`: Brenex x exc inject raises a cause at a core's next boundary (R210). -/
def execXExcInject (o : Via) (c : Fin 32) (code : Nat) (s : State) : Host.Outcome State Fault Refusal :=
  lift (row o (vXExcInject o c code)) s

/-- `X_EXC_CLEAR`: Brenex x exc clear clears PENn.EXCNT (R210). -/
def execXExcClear (o : Via) (p : Fin 8) (s : State) : Host.Outcome State Fault Refusal :=
  lift (row o (vXExcClear o p)) s

/-- `X_BW_HOOK`: Brenex x bw hook enables or disables the hook module (R210). -/
def execXBwHook (o : Via) (on : Bool) (s : State) : Host.Outcome State Fault Refusal :=
  lift (row o (vXBwHook o on)) s

end Sys2Proof.Machine
end

