-- ==== Sys2Proof/Machine/Pmu.lean ====
section
/-! DEFINITION. The commands of the PMU: resets, shedding, power states, wakes, clocks, the RTC and their verbs (spec/02, spec/19
R419, R431, R439). -/
namespace Sys2Proof.Machine

/-! Resets and their release. -/

/-- A reset cause arises: it resets the device, and a later cause takes the place of the one held; a power-on reset stays what it is until
its release (R436; log 98). -/
def causeArises (d : Dev) (c : RstCause) : Dev := if d.phase == .reset .por then d else deviceReset d c

/-- VIN has fallen below 2.5 V, or below 4.1 V in OFF (R25, R436); only then can a VIOSELn connection be another than before (R19). -/
def mPowerOnReset (up : PowerUp) (d : Dev) : Dev :=
  if up.vin < 250 || (d.pmu.cur == .off && up.vin < 410) then
    let d := setVin (deviceReset { d with pins := { d.pins with viosel := up.viosel } } .por) up.vin
    updPmu d fun m => { m with vinLow := m.vinNow, stopOv := false, stopOt := false }
  else d

/-- VIN below 4.1 V, or an internal rail has failed (R26, R38). -/
def mBrownOutReset (vin : Nat) (d : Dev) : Dev :=
  if vin < 250 || d.pmu.cur == .off then d else causeArises (setVin d vin) .bor

/-- VIN above 38.0 V (R35). -/
def mOverVoltageReset (vin : Nat) (d : Dev) : Dev :=
  if vin ≤ 3800 || d.pmu.cur == .off then d
  else updPmu (causeArises (setVin d vin) .ovr) fun m => { m with stopOv := true }

/-- A sensor at or above 165 degrees (R32). -/
def mOverTemperatureReset (k : Fin 10) (tj : Int) (d : Dev) : Dev :=
  if tj < 660 || d.pmu.cur == .off then d
  else updPmu (causeArises (setTemp d k.val tj) .otr) fun m => { m with stopOt := true }

/-- Whether IOB0 is unpowered or not yet good: in the resets that R34 lists. -/
def ioDown (d : Dev) : Bool :=
  match d.phase with
  | .reset .por | .reset .bor | .reset .ovr | .reset .otr => true
  | _ => false

/-- RESET_N low; not sensed where IOB0 is unpowered (R25, R34, spec/19 R419). -/
def mPinReset (d : Dev) : Dev := if d.pmu.cur == .off || ioDown d then d else causeArises d .pin

/-- Whether a reset of a cause can release at a voltage and temperature (spec/19 R431, R439): a converter that was stopped stays so until
R35, R32, or where both stopped it both, allow its restart; it needs VIN above the brown-out threshold. -/
def releaseOk (d : Dev) (c : RstCause) (vin : Nat) (tj : Int) : Bool :=
  (match c with
    | .por | .bor => 440 < vin
    | _ => 410 ≤ vin) && (!d.pmu.stopOv || vin ≤ 3600) && (!d.pmu.stopOt || tj ≤ 500)

/-- The units of a step that starts applied, acted on at release; pens and what they contain are acted on as they are loaded, which R26
leaves to S2 and S4 (R39). -/
def shedAtRelease (d : Dev) (k : Fin 5) : Dev :=
  let us := (shedTargets d k).filter fun u => match u with | .pen _ | .core _ => false | _ => true
  let d := us.foldl (shedUnit k) d
  if k == 2 then updPmu d fun m => { m with afeShed := ~~~(m.keepAfe.setWidth 24) } else d

/-- Steps whose restore level VIN has not reached start applied with cause VIN (R39), and those recorded while the clocks stood still act
now (R37). -/
def startApplied (d : Dev) (vin : Nat) : Dev :=
  let d := (List.finRange 5).foldl (fun d k =>
    if vin < restoreLevel k then
      let new := !hasShedCause d.pmu k .vin
      let d := updPmu d fun m => { addShedCause m k .vin with applied := setBit m.applied k.val true }
      let d := if new then
          let d := emit d (some .pwr) none ("!SHED " ++ stepName k ++ " VIN")
          pmuLog (fireSource d 356) ("SHED " ++ stepName k ++ " VIN")
        else d
      shedAtRelease d k
    else if d.pmu.deferred.contains k then shedAtRelease d k
    else d) d
  updPmu d fun m => { m with deferred := [] }

/-- The release of a device reset: at a power-on reset VIOSELn are sampled; the clocks as the PMU finds them, the steps that start applied,
the levels at which Tj stands; boot is next (R19, R32, R38, R39). -/
def mResetRelease (vin : Nat) (tj : Int) (pll : PllState) (d : Dev) : Dev :=
  match d.phase with
  | .reset c =>
    if releaseOk d c vin tj then
      let d := { d with phase := .boot, halter := { d.halter with driven := true } }
      let d := updPmu d fun m => { m with stopOv := false, stopOt := false, vio := if c == .por then d.pins.viosel else m.vio }
      let d := coolTo (setVin d vin) tj
      thermEval (startApplied (clocksReturn d pll) vin)
    else d
  | _ => d

/-! The shedding ladder (R26, R28, R29, R37). -/

/-- A cause applies a step and every shallower one: VIN below the threshold, THERM for S1 and S2, SIM where `x pwr sim` set it. -/
def mShedStepApply (n : Fin 5) (cause : ShedCause) (vin : Nat) (d : Dev) : Dev :=
  if (match d.phase with | .reset _ => true | _ => false) || d.pmu.cur == .off then d
  else
    match cause with
    | .vin =>
      let d := setVin d vin
      if vin < shedThreshold n then (stepsUpTo n).foldl (shedDue .vin) d else d
    | .therm => if n.val < 2 && 600 ≤ seenTj d then (stepsUpTo n).foldl (shedDue .therm) d else d
    | .sim => if hasShedCause d.pmu n .sim then (stepsUpTo n).foldl (shedDue .sim) d else d

/-- 400 core clocks have passed since S1 began: what has not committed is cut off, and the step goes on (R26). -/
def mTileCommitWindowExpiry (d : Dev) : Dev :=
  match d.pmu.step with
  | some (0, .window) =>
    let d := (List.range 8).foldl (fun d p =>
      match (d.pen p).te.op with
      | some o => tileCutoff d (4 * p + o.core)
      | none => d) d
    runDue 5 (finishStep d 0)
  | _ => d

/-- The entries of a store buffer that are not issued are discarded, counted, recorded and reported; issued ones complete at their targets
(spec/13 R285; log 120). -/
def sbDiscard (d : Dev) (c : Nat) : Dev :=
  let sb := (d.core c).sb
  let n := (sb.filter fun e => !e.issued).length
  if n == 0 then d
  else
    let d := d.updCore c fun k => { k with sb := sb.filter (·.issued), shedlost := satAdd k.shedlost n 15 }
    let d := bwRecord d 2 (coreU c) 0 (toWord n) 0 0
    emit d (some .fence) (some (coreU c)) ("!SB LOST " ++ unitName (coreU c) ++ " " ++ toString n)

/-- A step's drain has taken 400 fabric clocks: the stores that are not issued are discarded, and the step goes on (spec/13 R285). -/
def mShedDrainTimeout (d : Dev) : Dev :=
  match d.pmu.step with
  | some (k, .drain) =>
    let d := (stepCores d k).foldl sbDiscard d
    runDue 5 (stepDrained d k)
  | _ => d

/-- The copy of the S5 save region is complete (R26, R31, R37). -/
def mS5SaveCopy (d : Dev) : Dev :=
  match d.pmu.step with
  | some (k, .copy) =>
    let d := s5Copy d
    if d.pmu.cur == .retain then updPmu d fun m => { m with step := none } else runDue 5 (finishStep d k)
  | _ => d

/-- The causes of a step have stayed clear for 10 ms at a voltage and temperature (R28). -/
def mRestoreEligible (n : Fin 5) (vin : Nat) (tj : Int) (d : Dev) : Dev :=
  let d := coolTo (setVin d vin) tj
  if stepApplied d n && causesClear d n vin (match d.pmu.thermSim with | some t => t.toInt | none => tj) then makeEligible d n else d

/-! Temperature and clocks. -/

/-- A sensor reaches 135 degrees (R32). -/
def mThermWarn (k : Fin 10) (tj : Int) (d : Dev) : Dev := if tj < 540 then d else thermEval (setTemp d k.val tj)

/-- A sensor reaches 150 degrees (R32). -/
def mThermTrip (k : Fin 10) (tj : Int) (d : Dev) : Dev := if tj < 600 then d else thermEval (setTemp d k.val tj)

/-- XTAL_IN shows no edge, or the root PLL has lost lock; in RETAIN and SPORE only the former occurs, and what needs the clocks waits
for them (R38). -/
def mClkFail (refLost : Bool) (d : Dev) : Dev :=
  match d.phase, d.pmu.cur with
  | .reset _, _ => if refLost then updPmu d fun m => { m with refOk := false, lock := false } else d
  | _, .off => d
  | _, .retain | _, .spore =>
    if refLost then updPmu d fun m => { m with refOk := false, fallback := true, clkFailPend := true } else d
  | _, _ =>
    let d := updPmu d fun m => { m with lock := false, refOk := m.refOk && !refLost }
    if d.pmu.fallback then d else clockFence (updPmu d fun m => { m with fallback := true })

/-- The reference is present again and the root PLL has locked; the fallback stays until `x clk restore` (R38). -/
def mPllRelock (d : Dev) : Dev :=
  if d.pmu.cur == .off then d
  else updPmu d fun m => { m with refOk := true, lock := m.lock || (m.cur != .retain && m.cur != .spore) }

/-! Wakes. -/

/-- A line break: in RUN, SLOW and IDLE it recovers the console (spec/03 R62), and it is a wake source where it is armed (R23). -/
def mLineBreak (p : MgPort) (d : Dev) : Dev :=
  match d.phase, d.pmu.cur with
  | .reset _, _ => d
  | _, .off => d
  | _, .retain | _, .spore =>
    if armed d (.brk p) then updPmu d fun m => { m with wakeLatched := some (.arm (.brk p)) } else d
  | _, _ =>
    let r := d.unit (.mg p)
    let d := wakeArrives d (.arm (.brk p))
    if r.st == .fenced || r.st == .off || !(d.mg p).ready then d
    else
      let d := d.updMg p fun k =>
        { dropSession k with cfg := 0x00040480, rx := [], rxBad := false, rxOver := false, lastCr := false, lines := [] }
      let d := emit d (some .sess) none ("!SESS " ++ portName p ++ " BREAK")
      d.updMg p fun k => { k with tx := k.tx ++ [.prompt] }

/-- The session of a port has been idle one second more (spec/03 R56, R57, R64). -/
def consoleSecond (k : Console) : Console :=
  { k with idle := k.idle + 1, chal := k.chal.map fun c => { c with age := c.age + 1 } }

/-- The RTC advances by one second, and its alarm may fire (R41, R438). -/
def mRtcSecondTick (d : Dev) : Dev :=
  if d.pmu.cur == .off then d
  else
    let d := updPmu d fun m => { m with rtcSec := m.rtcSec + 1 }
    let d := rtcAlarmCheck d
    { d with mga := consoleSecond d.mga, mgb := consoleSecond d.mgb }

/-- A wake source while the device is in IDLE (R23). -/
def mWakeFromIdle (w : WakeSrc) (d : Dev) : Dev :=
  if d.pmu.cur == .idle && d.pmu.trans.isNone && wakesIdle d w then wakeIdle d w else d

/-- Whether a wake of a deep state is one of an armed source (R23). -/
def wakesDeep (d : Dev) (w : WakeSrc) : Bool := match w with | .arm a => armed d a | _ => false

/-- A wake from RETAIN (R23 to R25, R37, R38). -/
def mWakeFromRetain (w : WakeSrc) (pll : PllState) (d : Dev) : Dev :=
  if d.pmu.cur == .retain && d.pmu.trans.isNone && wakesDeep d w then wakeRetain d w pll else d

/-- A wake from SPORE (R25). -/
def mWakeFromSpore (w : WakeSrc) (d : Dev) : Dev :=
  if d.pmu.cur == .spore && d.pmu.trans.isNone && wakesDeep d w && (match d.phase with | .reset _ => false | _ => true)
  then wakeSpore d w else d

/-! Commanded transitions (R284). -/

def mPowerDrainComplete (d : Dev) : Dev := drainComplete d
def mPowerDrainTimeout (d : Dev) : Dev := drainTimeout d
def mPowerStateEntryComplete (d : Dev) : Dev := entryComplete d

/-- A write of a state and a generation to PMU.CMD. -/
def pmuCmdRow (a : Agent) (n : Nat) (g : BitVec 16) (d : Dev) : Dev :=
  writeRow a 0x40000004 (pmuWrite d (reqOf d a) 0x04 (toWord (n + put g.toNat 16)))

def mPmuCmdRun (a : Agent) (g : BitVec 16) (d : Dev) : Dev := pmuCmdRow a 0 g d
def mPmuCmdSlow (a : Agent) (g : BitVec 16) (d : Dev) : Dev := pmuCmdRow a 1 g d
def mPmuCmdIdle (a : Agent) (g : BitVec 16) (d : Dev) : Dev := pmuCmdRow a 2 g d
def mPmuCmdRetain (a : Agent) (g : BitVec 16) (d : Dev) : Dev := pmuCmdRow a 3 g d
def mPmuCmdSpore (a : Agent) (g : BitVec 16) (d : Dev) : Dev := pmuCmdRow a 4 g d
def mPmuCmdOff (a : Agent) (g : BitVec 16) (d : Dev) : Dev := pmuCmdRow a 5 g d

/-- A write to a PMU register by an agent. -/
def pmuRow (a : Agent) (off : Nat) (v : Word) (d : Dev) : Dev :=
  writeRow a (toWord (0x40000000 + off)) (pmuWrite d (reqOf d a) off v)

def mPmuWakeWrite (a : Agent) (v : Word) (d : Dev) : Dev := pmuRow a 0x08 v d
def mPmuRestoreWrite (a : Agent) (v : Word) (d : Dev) : Dev := pmuRow a 0x1C v d
def mLwatchWrite (a : Agent) (v : Word) (d : Dev) : Dev := pmuRow a 0x20 v d
def mKeepafeWrite (a : Agent) (v : Word) (d : Dev) : Dev := pmuRow a 0x24 v d
def mKeepportWrite (a : Agent) (v : Word) (d : Dev) : Dev := pmuRow a 0x28 v d
def mKeepdmaWrite (a : Agent) (hi : Bool) (v : Word) (d : Dev) : Dev := pmuRow a (if hi then 0x30 else 0x2C) v d
def mS5RegionWrite (a : Agent) (len : Bool) (v : Word) (d : Dev) : Dev := pmuRow a (if len then 0x38 else 0x34) v d

/-! The verbs of the PMU (R41, R42). -/

/-- The sources that are armed. -/
def armList : List ArmSrc :=
  (List.finRange 16).map .wake ++ (List.finRange 8).map .halt ++ [.rtc, .brk .mga, .brk .mgb]

/-- Steps with their causes. -/
def stepsText (d : Dev) : String :=
  joinSp ((List.finRange 5).filterMap fun k =>
    if stepApplied d k then
      some (stepName k ++ (if d.pmu.elig.getLsbD k.val then "+" else "") ++ ":" ++
        String.intercalate "," ([ShedCause.vin, .therm, .sim].filterMap fun c =>
          if hasShedCause d.pmu k c then some (shedCauseName c) else none))
    else none)

def vPwr (o : Via) (d : Dev) : Dev :=
  verb o .observe [] (vShow "pwr" fun d =>
    [("state", pstateName d.pmu.cur), ("wake", pstateName d.pmu.wakeTarget),
     ("armed", joinSp ((armList.filter (armed d)).map armName)), ("vin", toString d.pmu.vinNow.toNat), ("tj", toString (seenTj d)),
     ("steps", stepsText d)]) d

/-- `pwr <state>` (R22, R24, R37). A transition of the script's needs no line to be sent, and it may command RUN and SLOW only
(spec/18 R401). -/
def pwrVerb (o : Via) (role : Role) (t : PState) (d : Dev) : Dev :=
  verb o role [] (fun d =>
    let (d, c) := arbGate d .pmu none
    if o == .script && t != .run && t != .slow then vEr d 60
    else if c != .ok then vCode .pmu (arbLog d (viaSrc o) .pmu "write" c, c)
    else
      let (d, c, wait) := match pwrAnswer d t with
        | .same => (d, RCode.ok, false)
        | .refused 60 => (pmuRefuse d, RCode.power, false)
        | .refused _ => (pmuRefuse d, RCode.busy, false)
        | .accepted => (pwrStart d t (.via o), RCode.ok, true)
      let d := arbLog d (viaSrc o) .pmu "write" c
      if wait then (d, none) else vCode .pmu (d, c)) d

def vPwrRun (o : Via) (d : Dev) : Dev := pwrVerb o .operate .run d
def vPwrSlow (o : Via) (d : Dev) : Dev := pwrVerb o .operate .slow d
def vPwrIdle (o : Via) (d : Dev) : Dev := pwrVerb o .operate .idle d
def vPwrRetain (o : Via) (d : Dev) : Dev := pwrVerb o .operate .retain d
def vPwrSpore (o : Via) (d : Dev) : Dev := pwrVerb o .operate .spore d
def vPwrOff (o : Via) (d : Dev) : Dev := pwrVerb o .engineer .off d

/-- A state-bearing PMU register set by a verb. -/
def pmuSet (o : Via) (role : Role) (off : Nat) (v : Dev → Word) (d : Dev) : Dev :=
  verb o role [] (fun d => vReg o .pmu none (fun d => .ok (regSet d .pmu off (v d))) d) d

def vPwrWake (o : Via) (t : Fin 3) (d : Dev) : Dev := pmuSet o .operate 0x08 (fun _ => toWord t.val) d

def vPwrArm (o : Via) (ws : List ArmSrc) (d : Dev) : Dev :=
  pmuSet o .operate 0x0C (fun d => (ws.foldl (fun m w => setBit m (armBit w) true) d.pmu.wakeEn).setWidth 32) d

def vPwrDisarm (o : Via) (ws : List ArmSrc) (d : Dev) : Dev :=
  pmuSet o .operate 0x0C (fun d => (ws.foldl (fun m w => setBit m (armBit w) false) d.pmu.wakeEn).setWidth 32) d

/-- `pwr restore` (R29): `ok` is sent before the event of the restore. -/
def vPwrRestore (o : Via) (n : Option (Fin 5)) (d : Dev) : Dev :=
  verb o .operate [] (fun d =>
    let (d, c) := request d (viaSrc o) .pmu "write" none (restore (n.getD 0))
    if c == .busy then vEr d 40 "not eligible" else vCode .pmu (d, c)) d

def vShed (o : Via) (d : Dev) : Dev :=
  verb o .observe [] (vShow "shed" fun d =>
    [("thresholds", numsText ((List.finRange 5).map shedThreshold)), ("steps", stepsText d), ("lastwatch", hex32 d.pmu.lwatch),
     ("afe", hex32 d.pmu.keepAfe), ("ports", hex32 d.pmu.keepPort), ("dmalo", hex32 d.pmu.keepDmaLo),
     ("dmahi", hex32 d.pmu.keepDmaHi), ("base", hex32 d.pmu.s5base), ("len", hex32 d.pmu.s5len)]) d

/-- A designation set by a verb; the registers it takes are written one after the other, all or none (R30, R31). -/
def shedVerb (o : Via) (us : List UnitId) (ws : Dev → List (Nat × Word)) (d : Dev) : Dev :=
  verb o .engineer us (fun d => vReg o .pmu none (fun d =>
    (ws d).foldlM (fun d x => designate d x.1 x.2) d) d) d

def vShedLastwatch (o : Via) (p : Option (Fin 8)) (d : Dev) : Dev :=
  shedVerb o (match p with | some p => [.pen p] | none => [])
    (fun _ => [(0x20, match p with | some p => toWord (p.val + 128) | none => 0)]) d

/-- The bits of a list of numbers. -/
def maskOf (ns : List Nat) : Nat := ns.foldl (fun m n => m ||| 1 <<< n) 0

/-- `shed keep`: the list, empty for `none`, takes the place of the designation of its class. -/
def vShedKeep (o : Via) (w : KeepKind) (ns : List Nat) (d : Dev) : Dev :=
  let limit := match w with | .afe => 24 | .can => 4 | .t1s => 4 | .dma => 64
  if ns.any fun n => limit ≤ n then verb o .engineer [] (fun d => vEr d 10) d
  else
    let us := match w with
      | .afe => if ns.isEmpty then [] else [UnitId.afe]
      | .can => ns.map fun n => UnitId.can (Fin.ofNat 4 n)
      | .t1s => ns.map fun n => UnitId.t1s (Fin.ofNat 4 n)
      | .dma => ns.map fun n => dmaU n
    let m := maskOf ns
    shedVerb o us (fun d => match w with
      | .afe => [(0x24, toWord m)]
      | .can => [(0x28, (d.pmu.keepPort &&& 0xF00) ||| toWord m)]
      | .t1s => [(0x28, (d.pmu.keepPort &&& 0xF) ||| toWord (m * 256))]
      | .dma => [(0x2C, toWord m), (0x30, toWord (m / 2 ^ 32))]) d

/-- `shed save`: an address aligned to 256 bytes and a length up to 8 KiB in shared SRAM (R31). -/
def vShedSave (o : Via) (r : Option (Nat × Nat)) (d : Dev) : Dev :=
  match r with
  | none => shedVerb o [] (fun _ => [(0x34, 0), (0x38, 0)]) d
  | some (a, n) =>
    if a % 256 == 0 && n % 256 == 0 && n ≤ 8192 && 0x10000000 ≤ a && a + n ≤ 0x10780000 then
      shedVerb o [] (fun _ => [(0x34, toWord a), (0x38, toWord (n / 256))]) d
    else verb o .engineer [] (fun d => vEr d 10) d

def vClk (o : Via) (d : Dev) : Dev :=
  verb o .observe [] (vShow "clk" fun d =>
    [("ref", onOff d.pmu.refOk), ("lock", onOff d.pmu.lock), ("fallback", onOff d.pmu.fallback)]) d

def vTherm (o : Via) (d : Dev) : Dev :=
  verb o .observe [] (vShow "therm" fun d =>
    [("temp", hex32 (tempWord d)), ("warn", onOff d.pmu.warn), ("trip", onOff d.pmu.trip)]) d

def vRtc (o : Via) (d : Dev) : Dev :=
  verb o .operate [] (vShow "rtc" fun d => [("sec", toString d.pmu.rtcSec.toNat), ("alarm", toString d.pmu.rtcAlm.toNat)]) d

def vRtcSet (o : Via) (n : Nat) (d : Dev) : Dev :=
  verb o .operate [] (fun d =>
    if n < 2 ^ 32 then vOk (rtcAlarmCheck (updPmu d fun m => { m with rtcSec := toWord n })) else vEr d 10) d

def vRtcAlarm (o : Via) (n : Option Nat) (d : Dev) : Dev :=
  verb o .operate [] (fun d =>
    let v := n.getD 0xFFFFFFFF
    if v < 2 ^ 32 then vOk (rtcAlarmCheck (updPmu d fun m => { m with rtcAlm := toWord v })) else vEr d 10) d

/-- The internal rails with their voltages in hundredths of a volt, 0 where the power state has the rail off; the banks as VIOSELn was
sampled (table of internal rails, R19). -/
def rails (d : Dev) : List (String × Nat) :=
  let s := d.pmu.cur
  let full := s == .run || s == .slow || s == .idle
  let on (b : Bool) (v : Nat) : Nat := if b then v else 0
  let vio (i : Nat) : Nat := if d.pmu.vio.getLsbD i then 330 else 180
  [("VAON", on (s != .off) 90), ("VCORE", on full 80), ("VSRAM", on (full || s == .retain) 90), ("VRET", on (s != .off) 90),
   ("VANA", on full 330), ("VIO0", on (s != .off) (vio 0)), ("VIO1", on full (vio 1)), ("VIO2", on full (vio 2)), ("VIO3", on full (vio 3))]

/-- The filter of a threshold: VIN under it, between it and the restore level, or from there up; the step applied, and eligible. -/
def filterText (d : Dev) (k : Fin 5) : String :=
  let v := d.pmu.vinNow.toNat
  (if v < shedThreshold k then "below" else if v < restoreLevel k then "between" else "above") ++
  (if stepApplied d k then " applied" else "") ++ (if d.pmu.elig.getLsbD k.val then " eligible" else "")

def vXPwrVmon (o : Via) (d : Dev) : Dev :=
  verb o .observe [] (vShow "x pwr vmon" fun d =>
    [("vin", toString d.pmu.vinNow.toNat), ("low", toString d.pmu.vinLow.toNat)] ++ (rails d).map (fun r => (r.1, toString r.2)) ++
    (List.finRange 5).map (fun k => (stepName k, filterText d k)) ++
    [("BOR", if d.pmu.vinNow.toNat < 410 then "below" else if d.pmu.vinNow.toNat < 440 then "between" else "above")]) d

/-- Whether the device is in a state in which R42 refuses a simulation. -/
def noSim (d : Dev) : Bool := d.pmu.cur == .retain || d.pmu.cur == .spore || d.pmu.cur == .off

/-- `x pwr sim <step>` applies every step up to the one named with cause SIM. -/
def vXPwrSim (o : Via) (n : Fin 5) (d : Dev) : Dev :=
  verb o .engineer [] (fun d => if noSim d then vEr d 60 else vOk ((stepsUpTo n).foldl (shedDue .sim) d)) d

/-- `x pwr sim off`: SIM is clear, and the steps it alone applied become eligible; one that VIN or THERM applied too has its 10 ms to stay
clear (R28). -/
def vXPwrSimOff (o : Via) (d : Dev) : Dev :=
  verb o .engineer [] (fun d =>
    if noSim d then vEr d 60
    else
      let old := d.pmu
      let d := updPmu d fun m => { m with scause := 0 }
      vOk ((List.finRange 5).foldl (fun d k =>
        if hasShedCause old k .sim && !hasShedCause old k .vin && !hasShedCause old k .therm then makeEligible d k else d) d)) d

def vXThermSim (o : Via) (t : Option Int) (d : Dev) : Dev :=
  verb o .engineer [] (fun d =>
    if noSim d then vEr d 60
    else
      match t with
      | none => vOk (thermEval (updPmu d fun m => { m with thermSim := none }))
      | some t =>
        if -512 ≤ t && t < 512 then vOk (thermEval (updPmu d fun m => { m with thermSim := some (BitVec.ofInt 12 (4 * t)) }))
        else vEr d 10) d

/-- `x clk restore` (R38). -/
def vXClkRestore (o : Via) (d : Dev) : Dev :=
  verb o .engineer [] (fun d =>
    if !d.pmu.fallback then vOk d
    else if d.pmu.refOk && d.pmu.lock then vOk (updPmu d fun m => { m with fallback := false, clkFailPend := false })
    else vEr d 40) d

def vXPwrLog (o : Via) (d : Dev) : Dev :=
  verb o .observe [] (vShow "x pwr log" fun d => d.pmu.log.map fun r => (toString r.sec.toNat, r.text)) d

/-! The rows of the table. -/

/-- `POWER_ON_RESET`: VIN first applied, or VIN below 2.5 V or the device in OFF, followed by a rise of VIN causes a power-on reset that clears the RTC, the PMU log and retention RAM (R436). -/
def execPowerOnReset (up : PowerUp) (s : State) : Host.Outcome State Fault Refusal :=
  lift (mPowerOnReset up) s

/-- `BROWN_OUT_RESET`: VIN falling below 4.1 V for 1 µs causes a device reset that keeps retention RAM while VIN stays at or above 2.5 V (R26). -/
def execBrownOutReset (vin : Nat) (s : State) : Host.Outcome State Fault Refusal :=
  lift (mBrownOutReset vin) s

/-- `OVER_VOLTAGE_RESET`: VIN above 38.0 V for 1 µs stops the input converter and enters over-voltage reset (R35). -/
def execOverVoltageReset (vin : Nat) (s : State) : Host.Outcome State Fault Refusal :=
  lift (mOverVoltageReset vin) s

/-- `OVER_TEMPERATURE_RESET`: Tj at or above 165 °C stops the input converter and enters over-temperature reset (R32). -/
def execOverTemperatureReset (k : Fin 10) (tj : Int) (s : State) : Host.Outcome State Fault Refusal :=
  lift (mOverTemperatureReset k tj) s

/-- `PIN_RESET`: RESET_N held low for 1 µs or more causes a device reset with cause PIN (R419). -/
def execPinReset (s : State) : Host.Outcome State Fault Refusal :=
  lift (mPinReset) s

/-- `RESET_RELEASE`: The release condition for the reset cause is met, and the device leaves reset in the state given by its cause, after which boot runs (R439). -/
def execResetRelease (vin : Nat) (tj : Int) (pll : PllState) (s : State) : Host.Outcome State Fault Refusal :=
  lift (mResetRelease vin tj pll) s

/-- `SHED_STEP_APPLY`: VIN below a step threshold for 2 µs, a thermal trip or a simulation applies the shedding step, which fences the step's units with cause SHED and raises !SHED (R26). -/
def execShedStepApply (n : Fin 5) (cause : ShedCause) (vin : Nat) (s : State) : Host.Outcome State Fault Refusal :=
  lift (mShedStepApply n cause vin) s

/-- `TILE_COMMIT_WINDOW_EXPIRY`: At S1 the 400 CLK_CORE-cycle commit window expires, and every uncommitted tile operation is aborted before the tile engines and GbE MACs are shed (R26). -/
def execTileCommitWindowExpiry (s : State) : Host.Outcome State Fault Refusal :=
  lift (mTileCommitWindowExpiry) s

/-- `SHED_DRAIN_TIMEOUT`: A shedding drain that is not complete within 400 CLK_FAB cycles discards the unissued entries, writes a Bellwether record, raises !SB LOST and then applies the step (R285). -/
def execShedDrainTimeout (s : State) : Host.Outcome State Fault Refusal :=
  lift (mShedDrainTimeout) s

/-- `S5_SAVE_COPY`: After the S5 drain, the S5 save region is copied from shared SRAM into retention RAM at 0x1900_2000 (R31). -/
def execS5SaveCopy (s : State) : Host.Outcome State Fault Refusal :=
  lift (mS5SaveCopy) s

/-- `RESTORE_ELIGIBLE`: Every cause of an applied step has stayed clear for 10 ms, and the step becomes eligible for restore with !ELIG (R28). -/
def execRestoreEligible (n : Fin 5) (vin : Nat) (tj : Int) (s : State) : Host.Outcome State Fault Refusal :=
  lift (mRestoreEligible n vin tj) s

/-- `THERM_WARN`: Tj reaching 135 °C sets PMU.THERM.WARN and raises !THERM WARN (R32). -/
def execThermWarn (k : Fin 10) (tj : Int) (s : State) : Host.Outcome State Fault Refusal :=
  lift (mThermWarn k tj) s

/-- `THERM_TRIP`: Tj reaching 150 °C applies S1 and S2 with cause THERM and raises !THERM TRIP (R32). -/
def execThermTrip (k : Fin 10) (tj : Int) (s : State) : Host.Outcome State Fault Refusal :=
  lift (mThermTrip k tj) s

/-- `CLK_FAIL`: No XTAL_IN edge for 4 µs, or a loss of PLL lock, switches the clocks to the fallback oscillator, fences the clocked ports with cause CLOCK and raises !CLK FAIL (R38). -/
def execClkFail (refLost : Bool) (s : State) : Host.Outcome State Fault Refusal :=
  lift (mClkFail refLost) s

/-- `PLL_RELOCK`: During fallback, the root PLL locks within 200 µs of the reference returning, and PMU.CLK.LOCK reads 1 (R38). -/
def execPllRelock (s : State) : Host.Outcome State Fault Refusal :=
  lift (mPllRelock) s

/-- `LINE_BREAK`: RXD held low for 1 ms resets the port's session and settings and raises !SESS BREAK, or acts as a wake source in RETAIN and SPORE when armed (R62). -/
def execLineBreak (p : MgPort) (s : State) : Host.Outcome State Fault Refusal :=
  lift (mLineBreak p) s

/-- `RTC_SECOND_TICK`: The RTC seconds count advances by one (R438). -/
def execRtcSecondTick (s : State) : Host.Outcome State Fault Refusal :=
  lift (mRtcSecondTick) s

/-- `WAKE_FROM_IDLE`: An armed source, a priority-7 event or a Brenex line restarts the core clocks and leaves IDLE for the wake target, raising !WAKE (R23). -/
def execWakeFromIdle (w : WakeSrc) (s : State) : Host.Outcome State Fault Refusal :=
  lift (mWakeFromIdle w) s

/-- `WAKE_FROM_RETAIN`: An armed source starts the 253 µs wake, in which rails and PLL return, latched events are presented and deferred shedding is applied (R23). -/
def execWakeFromRetain (w : WakeSrc) (pll : PllState) (s : State) : Host.Outcome State Fault Refusal :=
  lift (mWakeFromRetain w pll) s

/-- `WAKE_FROM_SPORE`: An armed source causes a device reset with cause SPORE that keeps retention RAM, the RTC, the wake target and the halter configuration (R25). -/
def execWakeFromSpore (w : WakeSrc) (s : State) : Host.Outcome State Fault Refusal :=
  lift (mWakeFromSpore w) s

/-- `POWER_DRAIN_COMPLETE`: The store buffers and held bursts have drained for an accepted power-state command, and the state transition proceeds (R284). -/
def execPowerDrainComplete (s : State) : Host.Outcome State Fault Refusal :=
  lift (mPowerDrainComplete) s

/-- `POWER_DRAIN_TIMEOUT`: A power-state drain exceeds 400 CLK_FAB cycles, the command is refused with er 40, and the cores and movers are released (R284). -/
def execPowerDrainTimeout (s : State) : Host.Outcome State Fault Refusal :=
  lift (mPowerDrainTimeout) s

/-- `POWER_STATE_ENTRY_COMPLETE`: Entry into the commanded power state completes within its entry time (R23). -/
def execPowerStateEntryComplete (s : State) : Host.Outcome State Fault Refusal :=
  lift (mPowerStateEntryComplete) s

/-- `PMU_CMD_RUN`: A PMU.CMD write with REQ RUN and a matching GEN commands RUN (R22). -/
def execPmuCmdRun (a : Agent) (g : BitVec 16) (s : State) : Host.Outcome State Fault Refusal :=
  lift (mPmuCmdRun a g) s

/-- `PMU_CMD_SLOW`: A PMU.CMD write with REQ SLOW commands SLOW (R22). -/
def execPmuCmdSlow (a : Agent) (g : BitVec 16) (s : State) : Host.Outcome State Fault Refusal :=
  lift (mPmuCmdSlow a g) s

/-- `PMU_CMD_IDLE`: A PMU.CMD write with REQ IDLE drains the store buffers and commands IDLE (R22). -/
def execPmuCmdIdle (a : Agent) (g : BitVec 16) (s : State) : Host.Outcome State Fault Refusal :=
  lift (mPmuCmdIdle a g) s

/-- `PMU_CMD_RETAIN`: A PMU.CMD write with REQ RETAIN commands RETAIN, and is refused when no wake source is armed (R24). -/
def execPmuCmdRetain (a : Agent) (g : BitVec 16) (s : State) : Host.Outcome State Fault Refusal :=
  lift (mPmuCmdRetain a g) s

/-- `PMU_CMD_SPORE`: A PMU.CMD write with REQ SPORE commands SPORE, and is refused when the wake target is IDLE or no source is armed (R24). -/
def execPmuCmdSpore (a : Agent) (g : BitVec 16) (s : State) : Host.Outcome State Fault Refusal :=
  lift (mPmuCmdSpore a g) s

/-- `PMU_CMD_OFF`: A PMU.CMD write with REQ OFF commands OFF (R22). -/
def execPmuCmdOff (a : Agent) (g : BitVec 16) (s : State) : Host.Outcome State Fault Refusal :=
  lift (mPmuCmdOff a g) s

/-- `PMU_WAKE_WRITE`: A write to PMU.WAKE sets the wake target, and a value of 3 is refused with REFUSED set (R24). -/
def execPmuWakeWrite (a : Agent) (v : Word) (s : State) : Host.Outcome State Fault Refusal :=
  lift (mPmuWakeWrite a v) s

/-- `PMU_RESTORE_WRITE`: A write to PMU.RESTORE restores applied steps from the deepest upward, and sets REFUSED when the deepest is not eligible (R29). -/
def execPmuRestoreWrite (a : Agent) (v : Word) (s : State) : Host.Outcome State Fault Refusal :=
  lift (mPmuRestoreWrite a v) s

/-- `LWATCH_WRITE`: A write to PMU.LWATCH designates the last-watch pen, and is refused for a Drove pen or while S4 is applied (R30). -/
def execLwatchWrite (a : Agent) (v : Word) (s : State) : Host.Outcome State Fault Refusal :=
  lift (mLwatchWrite a v) s

/-- `KEEPAFE_WRITE`: A write to PMU.KEEPAFE designates up to 4 kept AFE channels, and is refused while S3 is applied (R30). -/
def execKeepafeWrite (a : Agent) (v : Word) (s : State) : Host.Outcome State Fault Refusal :=
  lift (mKeepafeWrite a v) s

/-- `KEEPPORT_WRITE`: A write to PMU.KEEPPORT designates the kept CAN ports and T1S port within their counts (R30). -/
def execKeepportWrite (a : Agent) (v : Word) (s : State) : Host.Outcome State Fault Refusal :=
  lift (mKeepportWrite a v) s

/-- `KEEPDMA_WRITE`: A write to PMU.KEEPDMALO or KEEPDMAHI designates kept DMA channels of the last-watch pen's fold (R30). -/
def execKeepdmaWrite (a : Agent) (hi : Bool) (v : Word) (s : State) : Host.Outcome State Fault Refusal :=
  lift (mKeepdmaWrite a hi v) s

/-- `S5_REGION_WRITE`: A write to PMU.S5BASE or S5LEN sets the S5 save region, and is refused while S5 is applied or when the length exceeds 32 (R31). -/
def execS5RegionWrite (a : Agent) (len : Bool) (v : Word) (s : State) : Host.Outcome State Fault Refusal :=
  lift (mS5RegionWrite a len v) s

/-- `PWR`: Brenex pwr shows the state, wake target, armed sources, VIN, Tj and the applied steps (R41). -/
def execPwr (o : Via) (s : State) : Host.Outcome State Fault Refusal :=
  lift (row o (vPwr o)) s

/-- `PWR_RUN`: Brenex pwr run commands RUN (R41). -/
def execPwrRun (o : Via) (s : State) : Host.Outcome State Fault Refusal :=
  lift (row o (vPwrRun o)) s

/-- `PWR_SLOW`: Brenex pwr slow commands SLOW, with a glitch-free switch of CLK_CORE (R41). -/
def execPwrSlow (o : Via) (s : State) : Host.Outcome State Fault Refusal :=
  lift (row o (vPwrSlow o)) s

/-- `PWR_IDLE`: Brenex pwr idle commands IDLE after the ok line has been sent (R41). -/
def execPwrIdle (o : Via) (s : State) : Host.Outcome State Fault Refusal :=
  lift (row o (vPwrIdle o)) s

/-- `PWR_RETAIN`: Brenex pwr retain commands RETAIN (R41). -/
def execPwrRetain (o : Via) (s : State) : Host.Outcome State Fault Refusal :=
  lift (row o (vPwrRetain o)) s

/-- `PWR_SPORE`: Brenex pwr spore commands SPORE (R41). -/
def execPwrSpore (o : Via) (s : State) : Host.Outcome State Fault Refusal :=
  lift (row o (vPwrSpore o)) s

/-- `PWR_OFF`: Brenex pwr off commands OFF (R41). -/
def execPwrOff (o : Via) (s : State) : Host.Outcome State Fault Refusal :=
  lift (row o (vPwrOff o)) s

/-- `PWR_WAKE`: Brenex pwr wake sets the wake target (R41). -/
def execPwrWake (o : Via) (t : Fin 3) (s : State) : Host.Outcome State Fault Refusal :=
  lift (row o (vPwrWake o t)) s

/-- `PWR_ARM`: Brenex pwr arm arms the named wake sources (R41). -/
def execPwrArm (o : Via) (ws : List ArmSrc) (s : State) : Host.Outcome State Fault Refusal :=
  lift (row o (vPwrArm o ws)) s

/-- `PWR_DISARM`: Brenex pwr disarm disarms the named wake sources (R41). -/
def execPwrDisarm (o : Via) (ws : List ArmSrc) (s : State) : Host.Outcome State Fault Refusal :=
  lift (row o (vPwrDisarm o ws)) s

/-- `PWR_RESTORE`: Brenex pwr restore restores the eligible steps and raises !RESTORE (R29). -/
def execPwrRestore (o : Via) (n : Option (Fin 5)) (s : State) : Host.Outcome State Fault Refusal :=
  lift (row o (vPwrRestore o n)) s

/-- `SHED`: Brenex shed shows the thresholds, the steps and the designations (R41). -/
def execShed (o : Via) (s : State) : Host.Outcome State Fault Refusal :=
  lift (row o (vShed o)) s

/-- `SHED_LASTWATCH`: Brenex shed lastwatch designates or clears the last-watch pen (R30). -/
def execShedLastwatch (o : Via) (p : Option (Fin 8)) (s : State) : Host.Outcome State Fault Refusal :=
  lift (row o (vShedLastwatch o p)) s

/-- `SHED_KEEP`: Brenex shed keep designates the kept AFE channels, CAN ports, T1S port or DMA channels (R30). -/
def execShedKeep (o : Via) (w : KeepKind) (ns : List Nat) (s : State) : Host.Outcome State Fault Refusal :=
  lift (row o (vShedKeep o w ns)) s

/-- `SHED_SAVE`: Brenex shed save sets or clears the S5 save region (R31). -/
def execShedSave (o : Via) (r : Option (Nat × Nat)) (s : State) : Host.Outcome State Fault Refusal :=
  lift (row o (vShedSave o r)) s

/-- `CLK`: Brenex clk shows the reference, lock and fallback status (R41). -/
def execClk (o : Via) (s : State) : Host.Outcome State Fault Refusal :=
  lift (row o (vClk o)) s

/-- `THERM`: Brenex therm shows Tj, the highest sensor, and the warning and trip status (R41). -/
def execTherm (o : Via) (s : State) : Host.Outcome State Fault Refusal :=
  lift (row o (vTherm o)) s

/-- `RTC`: Brenex rtc reads the RTC seconds (R41). -/
def execRtc (o : Via) (s : State) : Host.Outcome State Fault Refusal :=
  lift (row o (vRtc o)) s

/-- `RTC_SET`: Brenex rtc set sets the RTC seconds (R41). -/
def execRtcSet (o : Via) (n : Nat) (s : State) : Host.Outcome State Fault Refusal :=
  lift (row o (vRtcSet o n)) s

/-- `RTC_ALARM`: Brenex rtc alarm arms or clears the RTC alarm (R41). -/
def execRtcAlarm (o : Via) (n : Option Nat) (s : State) : Host.Outcome State Fault Refusal :=
  lift (row o (vRtcAlarm o n)) s

/-- `X_PWR_VMON`: Brenex x pwr vmon shows VIN, its minimum, the rails and the threshold filters (R42). -/
def execXPwrVmon (o : Via) (s : State) : Host.Outcome State Fault Refusal :=
  lift (row o (vXPwrVmon o)) s

/-- `X_PWR_SIM`: Brenex x pwr sim applies every step up to the one named, with cause SIM (R42). -/
def execXPwrSim (o : Via) (n : Fin 5) (s : State) : Host.Outcome State Fault Refusal :=
  lift (row o (vXPwrSim o n)) s

/-- `X_PWR_SIM_OFF`: Brenex x pwr sim off clears cause SIM (R42). -/
def execXPwrSimOff (o : Via) (s : State) : Host.Outcome State Fault Refusal :=
  lift (row o (vXPwrSimOff o)) s

/-- `X_THERM_SIM`: Brenex x therm sim replaces the sensor maximum with a test value, or returns it to the real sensors (R42). -/
def execXThermSim (o : Via) (t : Option Int) (s : State) : Host.Outcome State Fault Refusal :=
  lift (row o (vXThermSim o t)) s

/-- `X_CLK_RESTORE`: Brenex x clk restore leaves clock fallback when the reference is present and the PLL is locked (R38). -/
def execXClkRestore (o : Via) (s : State) : Host.Outcome State Fault Refusal :=
  lift (row o (vXClkRestore o)) s

/-- `X_PWR_LOG`: Brenex x pwr log lists the last 32 PMU records (R42). -/
def execXPwrLog (o : Via) (s : State) : Host.Outcome State Fault Refusal :=
  lift (row o (vXPwrLog o)) s

end Sys2Proof.Machine
end

