-- ==== Sys2Proof/Machine/Bus.lean ====
section
/-! DEFINITION. The data path to registers and memory by address: the peripheral units, the pen regions and machine space (spec/00 R9,
spec/03 R66, spec/09 R211, spec/13 R267, R270, spec/18 R406, R412). -/
namespace Sys2Proof.Machine

/-! The management ports (spec/03 R66). -/

/-- STAT of a management port. -/
def mgStat (k : Console) : Word :=
  toWord (roleNum k.role + put (match k.scope with | some f => f.val | none => 0) 4 + putB k.scope.isSome 7 + putB k.lock 8 +
    putB k.genForm 9 + putB k.authBlk 10)

/-- A read of a management port's registers: K and M. -/
def mgRead (d : Dev) (q : Req) (p : MgPort) (off : Nat) : Dev × RRes :=
  let k := d.mg p
  guardR (isK q) d (match off with
    | 0x0 => k.cfg
    | 0x4 => mgStat k
    | 0x8 => k.evMask.setWidth 32
    | 0xC => toWord (k.cntLines + put k.cntCrc 16)
    | 0x10 => toWord (k.cntFraming + put k.cntOverrun 8 + put k.cntAuth 16 + put k.cntLost 24)
    | _ => 0)

/-- A CFG value with a rate out of range keeps the rate as it is. -/
def cfgOf (old v : Word) : Word :=
  let v := v &&& 0x7FFFF
  if 96 ≤ fld v 0 16 && fld v 0 16 ≤ 30000 then v else maskWrite v old 0xFFFF

/-- Sets CFG: at once, or for the port the command comes from after its status line (spec/03 R60). -/
def cfgSet (d : Dev) (src : String) (p : MgPort) (v : Word) : Dev :=
  let w := cfgOf (d.mg p).cfg v
  if src == portName p then d.updMg p fun k => { k with deferred := some (.baud w) } else d.updMg p fun k => { k with cfg := w }

/-- A write to a management port's registers. -/
def mgWrite (d : Dev) (q : Req) (p : MgPort) (off : Nat) (v : Word) : Dev × WRes :=
  let st (f : Dev → Dev) : Dev × WRes := guardW (isK q) d (stWrite d q (.mg p) none id fun d => .ok (f d))
  match off with
  | 0x0 => st fun d => cfgSet d q.src p v
  | 0x8 => st fun d => d.updMg p fun k => { k with evMask := v.setWidth 10 }
  | _ => guardW (isK q) d (ignored d)

def mMgCfgWrite (a : Agent) (p : MgPort) (v : Word) (d : Dev) : Dev :=
  writeRow a (match p with | .mga => 0x40208000 | .mgb => 0x40209000) (mgWrite d (reqOf d a) p 0 v)
def mMgEvmaskWrite (a : Agent) (p : MgPort) (v : Word) (d : Dev) : Dev :=
  writeRow a (match p with | .mga => 0x40208008 | .mgb => 0x40209008) (mgWrite d (reqOf d a) p 8 v)

/-! CAP (spec/18 R406, R412): any level reads, writes are ignored. -/

/-- The low `n` bits set. -/
def ones (n : Nat) : Nat := 2 ^ n - 1

/-- CAP. -/
def capWord (d : Dev) (off : Nat) : Word :=
  let v := d.variant
  match off with
  | 0x00 => toWord (v + put d.step 8)
  | 0x04 => toWord (ones (countPens v))
  | 0x08 => toWord (ones (countTiles v))
  | 0x0C => if v == 1 then 24 else 0
  | 0x10 => toWord (ones (countT1s v) + put (ones (countGbe v)) 4 + put (ones (countCan v)) 8 + put (ones (countUart v)) 16)
  | 0x14 => toWord (countDma v)
  | 0x18 => Config.fwVersion
  | 0x1C => match d.boot.img with | some i => i.version | none => 0
  | 0x20 => toWord (d.boot.code + putB d.boot.secondary 4 + put (d.boot.skipped % 256) 8 + put d.boot.arb 16 + putB d.boot.locked 24 +
      putB d.boot.jtagEn 25)
  | 0x24 => toWord (d.boot.bfailCode + put d.boot.bfailSection 8)
  | _ => 0

/-! Machine space (spec/09 R211, spec/18 R400): BW registers, and memory above them. -/

/-- A read of a BW register. -/
def bwRead (d : Dev) (off : Nat) : Word :=
  match off with
  | 0x04 => bwStat d.bw
  | 0x10 => d.bw.kexv
  | 0x14 => toWord d.bw.kexctl
  | 0x18 => d.bw.hookEntry
  | _ => 0

/-- A write to a BW register. -/
def bwWrite (d : Dev) (off : Nat) (v : Word) : Dev :=
  match off with
  | 0x04 => { d with bw := { d.bw with wrap := d.bw.wrap && !bitOf v 1 } }
  | 0x10 => { d with bw := { d.bw with kexv := v &&& 0xFFFFFFFE } }
  | 0x14 => { d with bw := { d.bw with kexctl := fld v 0 6 } }
  | 0x18 => { d with bw := { d.bw with hookEntry := v, hook := v != 0 && d.bw.hookAbn < 3 } }
  | _ => d

/-! The bus. -/

/-- Whether an address holds registers: peripheral units, pen regions but the control store, BW registers. -/
def isRegs (a : Nat) : Bool :=
  match regionOf a with
  | .periph | .penReg _ | .nothing => true
  | .machine => a < 0xF0004000
  | _ => false

/-- A field port by class and number, if the address of its stride names one. -/
def portAt (base off : Nat) : Option FieldPort :=
  match base with
  | 0x4010 => if off < 0x8000 then some (.t1s (Fin.ofNat 4 (off % 0x4000 / 0x1000))) else none
  | 0x4014 => if off < 0x8000 && off % 0x4000 < 0x2000 then some (.gbe (Fin.ofNat 2 (off % 0x4000 / 0x1000))) else none
  | 0x4018 => if off < 0x8000 then some (.can (Fin.ofNat 4 (off % 0x4000 / 0x1000))) else none
  | 0x4020 => if off < 0x8000 then some (.uart (Fin.ofNat 8 (off % 0x4000 / 0x800))) else none
  | _ => none

/-- The offset inside a port's registers. -/
def portOff (base off : Nat) : Nat := if base == 0x4020 then off % 0x800 else off % 0x1000

/-- A 32-bit register read at an address of a peripheral unit; `cap` and unassigned addresses read 0 (spec/00 R2, R9). The stride of a class of
ports counts as a present unit's on every variant, its unassigned addresses reading 0 (DESIGN CHOICE, log 106). -/
def periphRead (d : Dev) (q : Req) (a : Nat) : Dev × RRes :=
  let base := a / 0x10000
  let off := a % 0x10000
  let side := 0x4000 ≤ off && off < 0x8000
  match base with
  | 0x4000 => pmuRead d q off
  | 0x4001 => stateRead d q off
  | 0x4002 => evrRead d q off
  | 0x4004 => dmaRead d q off
  | 0x4006 => mycRead d q off
  | 0x4030 =>
    if !unitPresent d.variant .afe then (d, .error 0x0D)
    else if off < 0x8000 then afeRead d q (off % 0x4000) side else (d, .ok 0)
  | 0x4034 => if off < 0x8000 then gpioRead d q (off % 0x4000) side else (d, .ok 0)
  | 0x4035 => if off < 0x8000 && off % 0x4000 < 0x400 then pwmRead d q (off % 0x4000 / 0x40) (off % 0x40) side else (d, .ok 0)
  | 0x4036 => haltRead d q off
  | 0x403F => (d, .ok (capWord d off))
  | _ =>
    match portAt base off with
    | some u =>
      if unitPresent d.variant (portUnit u) then portRead d q u (portOff base off) side else (d, .error 0x0D)
    | none =>
      if base == 0x4010 then (if off < 0xE000 then ptabRead d q (off - 0x8000) else poolRead d q (off - 0xE000))
      else if base == 0x4020 && 0x8000 ≤ off && off < 0xA000 then mgRead d q (if off < 0x9000 then .mga else .mgb) (off % 0x1000)
      else if base == 0x4014 || base == 0x4018 || base == 0x4020 then (d, .ok 0)
      else (d, .error 0x09)

/-- A 32-bit register write at an address of a peripheral unit; what an unassigned address does is as for a read (log 106). -/
def periphWrite (d : Dev) (q : Req) (a : Nat) (v : Word) : Dev × WRes :=
  let base := a / 0x10000
  let off := a % 0x10000
  let side := 0x4000 ≤ off && off < 0x8000
  match base with
  | 0x4000 => pmuWrite d q off v
  | 0x4001 => stateWrite d q off v
  | 0x4002 => evrWrite d q off v
  | 0x4004 => dmaWrite d q off v
  | 0x4006 => mycWrite d q off v
  | 0x4030 =>
    if !unitPresent d.variant .afe then (d, .exc 0x0D) else if 0x4000 ≤ off then ignored d else afeWrite d q off v
  | 0x4034 => if 0x4000 ≤ off then ignored d else gpioWrite d q off v
  | 0x4035 => if off < 0x400 then pwmWrite d q (off / 0x40) (off % 0x40) v else ignored d
  | 0x4036 => haltWrite d q off v
  | 0x403F => ignored d
  | _ =>
    match portAt base off with
    | some u =>
      if !unitPresent d.variant (portUnit u) then (d, .exc 0x0D)
      else if side then ignored d
      else portWrite d q u (portOff base off) v
    | none =>
      if base == 0x4010 then (if off < 0xE000 then ptabWrite d q (off - 0x8000) v else poolWrite d q (off - 0xE000) v)
      else if base == 0x4020 && 0x8000 ≤ off && off < 0xA000 then mgWrite d q (if off < 0x9000 then .mga else .mgb) (off % 0x1000) v
      else if base == 0x4014 || base == 0x4018 || base == 0x4020 then ignored d
      else (d, .exc 0x09)

/-- A read of a pen's tile engine or register block; other addresses of the pen's region lie in no unit (DESIGN CHOICE, log 107). -/
def penRegRead (d : Dev) (q : Req) (p o : Nat) : Dev × RRes :=
  if 0xF0000 ≤ o then penRead d q p (o - 0xF0000)
  else if 0x80000 ≤ o && o < 0x90000 then tileRead d q p (o - 0x80000)
  else (d, .error (if unitPresent d.variant (penU p) then 0x09 else 0x0D))

/-- A write to a pen's tile engine or register block; other addresses of the pen's region lie in no unit (DESIGN CHOICE, log 107). -/
def penRegWrite (d : Dev) (q : Req) (p o : Nat) (v : Word) : Dev × WRes :=
  if 0xF0000 ≤ o then penWrite d q p (o - 0xF0000) v
  else if 0x80000 ≤ o && o < 0x90000 then tileWrite d q p (o - 0x80000) v
  else (d, .exc (if unitPresent d.variant (penU p) then 0x09 else 0x0D))

/-- A 32-bit read of registers at an absolute address. -/
def regsRead (d : Dev) (q : Req) (a : Nat) : Dev × RRes :=
  match regionOf a with
  | .periph => periphRead d q a
  | .penReg p => penRegRead d q p (a % 0x100000)
  | .machine => guardR (q.priv == .m) d (bwRead d (a % 0x10000))
  | _ => (d, .error 0x09)

/-- A 32-bit write of registers at an absolute address. -/
def regsWrite (d : Dev) (q : Req) (a : Nat) (v : Word) : Dev × WRes :=
  match regionOf a with
  | .periph => periphWrite d q a v
  | .penReg p => penRegWrite d q p (a % 0x100000) v
  | .machine => guardW (q.priv == .m) d (bwWrite d (a % 0x10000) v, .done)
  | _ => (d, .exc 0x09)

/-- The unit that an address belongs to. -/
def addrUnit (a : Nat) : Option UnitId :=
  let off := a % 0x10000
  match regionOf a with
  | .local_ n => some (coreU n)
  | .penCs p => some (penU p)
  | .penReg p => if 0x80000 ≤ a % 0x100000 && a % 0x100000 < 0x90000 then some (tileU p) else some (penU p)
  | .periph =>
    match a / 0x10000 with
    | 0x4000 => some .pmu
    | 0x4002 => if 0x1000 ≤ off && off < 0x3000 then some (evrU ((off - 0x1000) / 0x400)) else none
    | 0x4004 => if 0x1000 ≤ off && off < 0x2000 then some (dmaU ((off - 0x1000) / 0x40)) else none
    | 0x4030 => some .afe
    | 0x4034 => some .gpio
    | 0x4035 => if off % 0x4000 < 0x400 then some (pwmU (off % 0x4000 / 0x40)) else none
    | 0x4036 => some .halt
    | 0x4010 => if 0x8000 ≤ off then some .ptab else (portAt 0x4010 off).map portUnit
    | 0x4020 =>
      if 0x8000 ≤ off && off < 0x9000 then some (.mg .mga)
      else if 0x9000 ≤ off && off < 0xA000 then some (.mg .mgb)
      else (portAt 0x4020 off).map portUnit
    | b => (portAt b off).map portUnit
  | _ => none

/-- Whether an address holds registers of an absent unit (spec/00 R2, spec/06 R134). -/
def regAbsent (d : Dev) (a : Nat) : Bool := isRegs a && match addrUnit a with | some u => !unitPresent d.variant u | none => false

/-- A byte of a control-store window. -/
def csByte (d : Dev) (a : Nat) : Byte :=
  match regionOf a with
  | .penCs p => tget (d.pen p).cs.data 0 (a % 0x100000)
  | _ => 0

/-- A read of `n` bytes inside one cell anywhere, with no check of windows: memory with its check bits, control stores, or registers, of
which a narrower read takes its bytes (log 47). A bus error is 0x09; `true` marks an ECC error. -/
def anyRead (d : Dev) (q : Req) (a n : Nat) (who : String) (u : UnitId) : Dev × Except (Byte × Bool) Word :=
  if isRegs a then
    match regsRead d q (a / 4 * 4) with
    | (d, .ok v) => (d, .ok ((v >>> (8 * (a % 4))) &&& toWord (2 ^ (8 * n) - 1)))
    | (d, .error e) => (d, .error (e, false))
  else
    match regionOf a with
    | .penCs _ => (d, .ok (toWord (leRead (csByte d) a n)))
    | _ => match memRead d a n who u with
      | (d, some v) => (d, .ok v)
      | (d, none) => (d, .error (0x09, true))

/-- A write of `n` bytes inside one cell anywhere, with no check of windows; a narrower write to a register writes zeros to its other
bytes (log 47). -/
def anyWrite (d : Dev) (q : Req) (a : Nat) (v : Word) (n : Nat) : Dev × WRes :=
  let v := v &&& toWord (2 ^ (8 * n) - 1)
  if isRegs a then regsWrite d q (a / 4 * 4) (v <<< (8 * (a % 4)))
  else
    match regionOf a with
    | .penCs p => (updCs d p fun c => csWriteN (csTether (d.pen p)) c (a % 0x100000) v n, .done)
    | _ => match memWrite d a v n q.src (match q.core with | some c => coreU c | none => .pmu) with
      | (d, true) => (d, .done)
      | (d, false) => (d, .exc 0x09)

/-- A write by an agent to any register address (REGISTER_WRITE): absent units and denied levels as the address has them. An address that
holds no register is left as it is (log 49). -/
def mRegisterWrite (a : Agent) (addr : Word) (v : Word) (d : Dev) : Dev :=
  let x := match a with | .core c _ => absAddr c.val addr.toNat | _ => addr.toNat
  if isRegs x && x % 4 == 0 then writeRow a addr (regsWrite d (reqOf d a) x v) else d

/-! The rows of the table. -/

/-- `MG_CFG_WRITE`: A write to MGA.CFG or MGB.CFG acts as sess baud or sess echo on that port (R66). -/
def execMgCfgWrite (a : Agent) (p : MgPort) (v : Word) (s : State) : Host.Outcome State Fault Refusal :=
  lift (mMgCfgWrite a p v) s

/-- `MG_EVMASK_WRITE`: A write to EVMASK acts as ev on that port (R66). -/
def execMgEvmaskWrite (a : Agent) (p : MgPort) (v : Word) (s : State) : Host.Outcome State Fault Refusal :=
  lift (mMgEvmaskWrite a p v) s

/-- `REGISTER_WRITE`: A write to a register that has no row of its own acts under its access code (R7). -/
def execRegisterWrite (a : Agent) (addr : Word) (v : Word) (s : State) : Host.Outcome State Fault Refusal :=
  lift (mRegisterWrite a addr v) s

end Sys2Proof.Machine
end

