-- ==== Sys2Proof/Machine/CoreMem.lean ====
section
/-! DEFINITION. What an instruction does to a core's stacks, windows and memory: the caches of both personalities, the checks of an
access, the store buffer (spec/05 R89 to R107, spec/06 R124, R130, spec/07 R145, R151, spec/13 R267 to R270, R280, R281). -/
namespace Sys2Proof.Machine

/-! The run of an instruction. -/

/-- An exception on its way to a handler: cause, qualifiers (bits 15:8 of the record), address, detail, gate number and argument index
(spec/09 R191). -/
structure Exc where
  cause : Byte
  qual : Byte
  addr : Word
  detail : Word
  gate : Nat
  arg : Nat
deriving DecidableEq, Repr

/-- Why an instruction does not complete: an exception with the core as before the instruction, an exception with the core as it now is
(elements of a repeat are done, R111), a wait with no effect, or an abandonment that leaves what has reached memory (R134). It executes
again later. -/
inductive Stop where
  | exc (x : Exc)
  | excKeep (x : Exc)
  | stall
  | abandon
deriving DecidableEq, Repr

/-- An action of an instruction on the device. -/
abbrev IM := EStateM Stop Dev

/-- An exception with its cause alone. -/
def Exc.of (cause : Byte) : Exc := { cause := cause, qual := 0, addr := 0, detail := 0, gate := 0, arg := 0 }

/-- Raises a cause. -/
def raise {α : Type} (cause : Byte) : IM α := throw (.exc (Exc.of cause))

/-- Raises a cause at an address with qualifiers. -/
def raiseAt {α : Type} (cause qual : Byte) (addr : Nat) : IM α := throw (.exc { Exc.of cause with qual := qual, addr := toWord addr })

/-- Waits. -/
def wait {α : Type} : IM α := throw .stall

/-- Raises a cause where a condition fails. -/
def need (ok : Bool) (cause : Byte) : IM Unit := if ok then pure () else raise cause

/-- The core. -/
def getCore (c : Nat) : IM Core := do return (← get).core c

/-- Changes the core. -/
def modCore (c : Nat) (f : Core → Core) : IM Unit := modify fun d => d.updCore c f

/-- The qualifiers of the exception record, as bits of its second byte. -/
def qualSpill : Byte := 0x01
def qualTsb : Byte := 0x02
def qualXsave : Byte := 0x04
def qualRestore : Byte := 0x08
def qualPosted : Byte := 0x10
def qualEcc : Byte := 0x20
def qualFetch : Byte := 0x40
def qualGate : Byte := 0x80

/-- The ECC qualifier where an access met an ECC error. -/
def eccQual (ecc : Bool) (q : Byte) : Byte := if ecc then q ||| qualEcc else q

/-- Replaces that storage. -/
def Core.setBank (k : Core) (b : Bank) : Core := { k with banks := lset k.banks k.lvl b }

/-- Advances an activity counter of R214. -/
def Core.count (k : Core) (i n : Nat) : Core := { k with cnt := lset k.cnt i (lget k.cnt 0 i + n) }

/-! Checks and accesses of a core (spec/05 R103, spec/13 R267 to R270). -/

/-- The exception of an access by core `c` at a privilege, if any; registers of units and pens follow their own rules when they are
reached (R270). -/
def accCheck (d : Dev) (c : Nat) (p : Priv) (a n : Nat) (k : Acc) : Option Byte :=
  match regionOf a with
  | .periph | .penReg _ => if k == .x then some 0x08 else none
  | _ => memCheck d c p (d.foldOfCore c) a n k

/-- The requester of a core's access. -/
def coreReq (d : Dev) (c : Nat) (p : Priv) : Req :=
  { priv := p, fold := some (d.foldOfCore c), src := "core" ++ toString c, core := some c }

/-- The newest buffered byte at an address (R281). -/
def sbByte (sb : List SbEntry) (a : Nat) : Option Byte :=
  (sb.reverse.find? fun (e : SbEntry) => e.addr ≤ a && a < e.addr + e.size).map fun (e : SbEntry) =>
    (e.val >>> (8 * (a - e.addr))).setWidth 8

/-- A value of `n` bytes with the buffered bytes in place (R281). -/
def overlaySb (sb : List SbEntry) (a n : Nat) (v : Word) : Word :=
  (List.range n).foldl (fun (v : Word) i =>
    match sbByte sb (a + i) with
    | some b => maskWrite v (b.setWidth 32 <<< (8 * i)) (0xFF <<< (8 * i))
    | none => v) v

/-- Counts an access: at the local data port, or a beat of Mycelium charged to the fold (R214, R276). -/
def countAccess (d : Dev) (c a : Nat) (cls : MClass) : Dev :=
  if ownLocal c a then d.updCore c fun k => k.count 1 1
  else charge (d.updCore c fun k => k.count 2 1) (some (d.foldOfCore c)) 1 cls a

/-- A read by the hardware of a core at an absolute address, with the core's own buffered stores in place; `beat` says that it is an access of
its own and not a further cell of one 16-byte transfer. -/
def coreRead (beat : Bool) (d : Dev) (c : Nat) (p : Priv) (a n : Nat) : Dev × Except (Byte × Bool) Word :=
  match accCheck d c p a n .r with
  | some e => (d, .error (e, false))
  | none =>
    let d := if beat then countAccess d c a (coreClass d c (d.core c).lvl) else d
    match anyRead d (coreReq d c p) a n ("core" ++ toString c) (coreU c) with
    | (d, .ok v) => (d, .ok (overlaySb (d.core c).sb a n v))
    | r => r

/-- A write by the hardware of a core at an absolute address, at once. -/
def coreWrite (beat : Bool) (d : Dev) (c : Nat) (p : Priv) (a : Nat) (v : Word) (n : Nat) : Dev × Option Byte :=
  match accCheck d c p a n .w with
  | some e => (d, some e)
  | none =>
    let d := if beat then countAccess d c a (coreClass d c (d.core c).lvl) else d
    match anyWrite d (coreReq d c p) a v n with
    | (d, .exc e) => (d, some e)
    | (d, _) => (d, none)

/-- The cause of a refused access of the hardware: 0x08 or 0x09 for a spill, a block and a save area (spec/05 R118, R119, spec/07 R159). -/
def hwCause (q e : Byte) : Byte := if q == qualSpill || q == qualTsb || q == qualXsave then (if e == 0x08 then e else 0x09) else e

/-- Reads a cell at a core's own address for the hardware, raising with a qualifier. -/
def hwRead (beat : Bool) (c : Nat) (p : Priv) (q : Byte) (a : Nat) : IM Word := do
  match coreRead beat (← get) c p (absAddr c a) 4 with
  | (d, .ok v) => set d; return v
  | (d, .error (e, ecc)) => set d; raiseAt (hwCause q e) (eccQual ecc q) a

/-- Writes a cell at a core's own address for the hardware, raising with a qualifier. -/
def hwWrite (beat : Bool) (c : Nat) (p : Priv) (q : Byte) (a : Nat) (v : Word) : IM Unit := do
  match coreWrite beat (← get) c p (absAddr c a) v 4 with
  | (d, none) => set d
  | (d, some e) => set d; raiseAt (hwCause q e) q a

/-! The data stack (R89 to R93). -/

/-- The address of the cell at depth `i`. -/
def Bank.cellAddr (b : Bank) (i : Nat) : Nat := (b.spd + toWord (4 * i)).toNat

/-- The cells that the frames of the running level hide of its bank (R192, R196). -/
def Core.hidden (k : Core) : Nat := (k.gates.map fun g => if g.lvl == k.lvl then g.bank.data.length else 0).sum

/-- The data-stack depth (R93). -/
def Core.depth (k : Core) (t : Bool) : Nat :=
  if t then k.bank.data.length else (k.dbase - k.bank.spd).toNat / 4

/-- The stack as the next instruction reads it: a cell in its load delay shows its old content (R105). -/
def Core.view (k : Core) : List Word :=
  if k.delay.isEmpty then k.bank.data
  else k.bank.data.zipIdx.map fun x => (tfind k.delay (k.bank.cellAddr x.2)).getD x.1

/-- Removes the top `n` cells and gives them, top first; a Drove core remembers what each cell held (R105). -/
def Core.popCells (k : Core) (t : Bool) (n : Nat) : Core × List Word :=
  let b := k.bank
  let ghost := if t then k.ghost
    else ((b.data.take n).zipIdx).foldl (fun g x => tput g (b.cellAddr x.2) x.1) k.ghost
  ({ k.setBank { b with data := b.data.drop n, spd := b.spd + toWord (4 * n) } with ghost := ghost }, k.view.take n)

/-- Puts cells on the stack, the first of the list on top; a Tether level records its deepest stack (R151). -/
def Core.pushCells (k : Core) (t : Bool) (l : List Word) : Core :=
  let b := k.bank
  let k := k.setBank { b with data := l ++ b.data, spd := b.spd - toWord (4 * l.length) }
  if t then { k with hwmDepth := lset k.hwmDepth k.lvl (max (lget k.hwmDepth 0 k.lvl) (k.hidden + k.bank.data.length)) } else k

/-- The content of a cell that the caches do not hold: from the spare bank, whose cell goes to its own address and into the current bank
without a read of memory, else from memory (R91, R145, R146). -/
def fillCell (c a : Nat) : IM Word := do
  let k ← getCore c
  match tfind k.spare a with
  | some v =>
    hwWrite true c k.sparePriv qualSpill a v
    modCore c fun k => { k with spare := tdel k.spare a }.count 4 2
    return v
  | none =>
    let v ← hwRead true c k.priv qualSpill a
    modCore c fun k => k.count 4 1
    return v

/-- Writes a cell of the caches to memory (R91). -/
def spillCell (c a : Nat) (v : Word) : IM Unit := do
  let k ← getCore c
  hwWrite true c k.priv qualSpill a v
  modCore c fun k => k.count 4 1

/-- Fills data cells until `n` are cached; `m` bounds the steps. -/
def fillData (m c n : Nat) : IM Unit :=
  match m with
  | 0 => pure ()
  | m + 1 => do
    let b := (← getCore c).bank
    if n ≤ b.data.length then pure ()
    else
      let v ← fillCell c (b.cellAddr b.data.length)
      modCore c fun k => let b := k.bank; k.setBank { b with data := b.data ++ [v] }
      fillData m c n

/-- Spills the deepest data cells until `n` or fewer are cached. -/
def spillData (m c n : Nat) : IM Unit :=
  match m with
  | 0 => pure ()
  | m + 1 => do
    let b := (← getCore c).bank
    if b.data.length ≤ n then pure ()
    else
      spillCell c (b.cellAddr (b.data.length - 1)) (lget b.data 0 (b.data.length - 1))
      modCore c fun k => let b := k.bank; k.setBank { b with data := b.data.dropLast }
      spillData m c n

/-- The checks before an instruction that pops `n` cells and pushes `m`: 0x06 for too few cells, 0x05 beyond a Tether bank; in Drove the
engine fills and makes room first (R91, R93, R124). -/
def prepare (c n m : Nat) : IM Unit := do
  let d ← get
  let k := d.core c
  let t := d.tether c
  need (n ≤ k.depth t) 0x06
  if t then need (k.hidden + k.depth t - n + m ≤ 16) 0x05
  else
    fillData n c n
    spillData (m + 24) c (24 + n - m)

/-- Pops `n` cells that `prepare` has made ready. -/
def popN (c n : Nat) : IM (List Word) := do
  let d ← get
  let r := (d.core c).popCells (d.tether c) n
  set (d.setCore c r.1)
  return r.2

/-- Pushes cells that `prepare` has made room for. -/
def pushN (c : Nat) (l : List Word) : IM Unit := do
  let d ← get
  set (d.setCore c ((d.core c).pushCells (d.tether c) l))

/-- A core with cells from memory pushed: in Drove the next instruction still sees what they held (R105). -/
def pushedLoaded (d : Dev) (c : Nat) (k : Core) (l : List Word) : Core :=
  let t := d.tether c
  let k := k.pushCells t l
  let old (i : Nat) : Nat × Word :=
    let a := k.bank.cellAddr i
    (a, (tfind k.ghost a).getD (plainRead d (absAddr c a) 4))
  { k with delay := if t then [] else (List.range l.length).foldl (fun t i => let x := old i; tput t x.1 x.2) [] }

/-- Pushes cells that come from memory. -/
def pushLoaded (c : Nat) (l : List Word) : IM Unit := do
  let d ← get
  set (d.setCore c (pushedLoaded d c (d.core c) l))

/-! Frame windows (R94, R95). -/

/-- The windows a count of resident cells makes. -/
def winCount (wn : Nat) : Nat := if wn < 16 then 0 else (wn - 16) / 12 + 1

/-- The windows that the frames of the running level hide. -/
def Core.hiddenWins (k : Core) : Nat := (k.gates.map fun g => if g.lvl == k.lvl then winCount g.bank.wn else 0).sum

/-- The address of window cell `i` from FP upward. -/
def Bank.winAddr (b : Bank) (i : Nat) : Nat := (b.fp + toWord (4 * i)).toNat

/-- Fills window cells from FP upward until `n` are resident (Drove). -/
def fillWin (m c n : Nat) : IM Unit :=
  match m with
  | 0 => pure ()
  | m + 1 => do
    let b := (← getCore c).bank
    if n ≤ b.wn then pure ()
    else
      let a := b.winAddr b.wn
      let v ← fillCell c a
      modCore c fun k => let b := k.bank; k.setBank { b with wc := tput b.wc a v, wn := b.wn + 1 }
      fillWin m c n

/-- The content of a resident window cell; one that nothing has written holds a free value, kept from then on (log 22). -/
def winCell (c a : Nat) : IM Word := do
  let d ← get
  match tfind (d.core c).bank.wc a with
  | some v => return v
  | none =>
    let v := Config.freeCell d.free
    set ({ d with free := d.free + 1 }.updCore c fun k => let b := k.bank; k.setBank { b with wc := tput b.wc a v })
    return v

/-- Writes a resident window cell. -/
def setWinCell (c a : Nat) (v : Word) : IM Unit :=
  modCore c fun k => let b := k.bank; k.setBank { b with wc := tput b.wc a v }

/-- Spills window cells of the oldest window until `n` or fewer are resident (Drove). -/
def spillWin (m c n : Nat) : IM Unit :=
  match m with
  | 0 => pure ()
  | m + 1 => do
    let b := (← getCore c).bank
    if b.wn ≤ n then pure ()
    else
      let a := b.winAddr (b.wn - 1)
      let v ← winCell c a
      spillCell c a v
      modCore c fun k => let b := k.bank; k.setBank { b with wc := tdel b.wc a, wn := b.wn - 1 }
      spillWin m c n

/-- The current window is resident. -/
def needWindow (c : Nat) : IM Unit := do
  let d ← get
  if d.tether c then pure () else fillWin 16 c 16

/-! The return stack (R90, R93). -/

/-- Spills return entries until `n` or fewer are cached (Drove). -/
def spillRets (m c n : Nat) : IM Unit :=
  match m with
  | 0 => pure ()
  | m + 1 => do
    let b := (← getCore c).bank
    if b.rets.length ≤ n then pure ()
    else
      let i := b.rets.length - 1
      spillCell c (b.spr + toWord (4 * i)).toNat (lget b.rets 0 i)
      modCore c fun k => let b := k.bank; k.setBank { b with rets := b.rets.dropLast }
      spillRets m c n

/-- The return depth. -/
def Core.rdepthOf (k : Core) (t : Bool) : Nat :=
  if t then k.bank.rdepth else (k.rbase - k.bank.spr).toNat / 4

/-! Cells served from the caches (R92). -/

/-- Where a cell of a core is cached. -/
inductive CacheLoc where
  | data (i : Nat)
  | win (a : Nat)
  | spare (a : Nat)
deriving DecidableEq, Repr

/-- The cached cell at an absolute cell address: a data-stack cell, a resident window cell, or such a cell of the spare bank, which serves
like the current one (log 54). -/
def cacheLoc (k : Core) (c a : Nat) : Option CacheLoc :=
  let b := k.bank
  match (List.range b.data.length).find? fun i => absAddr c (b.cellAddr i) == a with
  | some i => some (.data i)
  | none =>
    match (List.range b.wn).find? fun i => absAddr c (b.winAddr i) == a with
    | some i => some (.win (b.winAddr i))
    | none => (k.spare.find? fun x => absAddr c x.1 == a && !k.spareRets.contains x.1).map fun x => .spare x.1

/-- The content of a cached cell. -/
def cacheGet (c : Nat) (l : CacheLoc) : IM Word := do
  match l with
  | .data i => return lget (← getCore c).bank.data 0 i
  | .win a => winCell c a
  | .spare a => return (tfind (← getCore c).spare a).getD 0

/-- The content of a cached cell as a load reads it: a cell in its load delay shows its old content (R105). -/
def cacheView (c : Nat) (l : CacheLoc) : IM Word := do
  match l with
  | .data i => return lget (← getCore c).view 0 i
  | l => cacheGet c l

/-- Writes a cached cell. -/
def cachePut (c : Nat) (l : CacheLoc) (v : Word) : IM Unit :=
  match l with
  | .data i => modCore c fun k => let b := k.bank; k.setBank { b with data := lset b.data i v }
  | .win a => setWinCell c a v
  | .spare a => modCore c fun k => { k with spare := tput k.spare a v }

/-! Loads and stores (R101 to R103, R130). -/

/-- The check of a register store as it enters the buffer: what the unit would answer, 0x09 left to its acceptance (R130). -/
def regStoreCheck (d : Dev) (q : Req) (a : Nat) (v : Word) (n : Nat) : Option Byte :=
  if !isRegs a then none
  else
    match (anyWrite d q a v n).2 with
    | .exc e => if e == 0x09 then none else some e
    | _ => none

/-- The cause that the address of an access meets, alignment apart: windows 0x08, presence 0x0D, and 0x09 but for a store that enters the
buffer, whose target answers it later (R103, R130, R188). -/
def addrCause (d : Dev) (c a n : Nat) (k : Acc) : Option Byte :=
  (accCheck d c (d.core c).priv (absAddr c a) n k).filter fun e => !(e == 0x09 && k == .w && !ownLocal c (absAddr c a))

/-- Alignment, then windows and presence, of an access at a core's own address (R103, R188). -/
def checkAccess (c : Nat) (a : Word) (n : Nat) (k : Acc) : IM Unit := do
  if a.toNat % n != 0 then raiseAt 0x07 0 a.toNat
  else
    match addrCause (← get) c a.toNat n k with
    | some e => raiseAt e 0 a.toNat
    | none => pure ()

/-- The cause that an element of a string meets at an address, as the check, the register or its unit answers (R138, R188). -/
def elemCause (d : Dev) (c a n : Nat) (k : Acc) : Option Byte :=
  let x := absAddr c a
  let q := coreReq d c (d.core c).priv
  match addrCause d c a n k with
  | some e => some e
  | none =>
    if k == .w then regStoreCheck d q x 0 n
    else if isRegs x then (match (anyRead d q x n q.src (coreU c)).2 with | .error e => some e.1 | .ok _ => none)
    else none

/-- The checks of an element with two addresses: of their causes the highest in the table of R188 is raised, of two alike the first
address's (R138). -/
def checkBoth (c : Nat) (a b : Word) (n : Nat) (j k : Acc) : IM Unit := do
  let d ← get
  if a.toNat % n != 0 then raiseAt 0x07 0 a.toNat
  else if b.toNat % n != 0 then raiseAt 0x07 0 b.toNat
  else
    let x := elemCause d c a.toNat n j
    let y := elemCause d c b.toNat n k
    match [0x08, 0x0D, 0x09].find? fun e => x == some e || y == some e with
    | some e => raiseAt e 0 (if x == some e then a else b).toNat
    | none => pure ()

/-- The `n` bytes of a cell from an address. -/
def cellPart (v : Word) (a n : Nat) : Word := (v >>> (8 * (a % 4))) &&& toWord (2 ^ (8 * n) - 1)

/-- A cell with `n` bytes replaced from an address. -/
def cellMerge (v : Word) (a n : Nat) (x : Word) : Word :=
  maskWrite v (x <<< (8 * (a % 4))) (toWord (2 ^ (8 * n) - 1) <<< (8 * (a % 4)))

/-- A checked read that completes at once: from a cache, from own local memory, or waiting for Mycelium (elements, R134, R138). -/
def readNow (c : Nat) (a : Word) (n : Nat) : IM Word := do
  let x := absAddr c a.toNat
  let k ← getCore c
  match cacheLoc k c (x / 4 * 4) with
  | some l =>
    modCore c fun k => { k with cyc := k.cyc + 1 }
    return cellPart (← cacheView c l) x n
  | none =>
    match coreRead true (← get) c k.priv x n with
    | (d, .ok v) => set d; return v
    | (d, .error (e, ecc)) => set d; raiseAt e (eccQual ecc 0) a.toNat

/-- An URGENT store raises the older entries (R280). -/
def sbPush (sb : List SbEntry) (e : SbEntry) : List SbEntry :=
  (if e.cls == .urgent then sb.map fun x => { x with cls := .urgent } else sb) ++ [e]

/-- A checked store: into a cache, into own local memory at once, or into the store buffer, which waits while it is full; `pc` is the
address of the instruction (R92, R130, R132, R280). -/
def storeNow (c : Nat) (pc a : Word) (n : Nat) (v : Word) : IM Unit := do
  let x := absAddr c a.toNat
  let d ← get
  let k := d.core c
  match cacheLoc k c (x / 4 * 4) with
  | some l =>
    modCore c fun k => { k with cyc := k.cyc + 1 }
    cachePut c l (cellMerge (← cacheGet c l) x n v)
  | none =>
    if ownLocal c x then
      match memWrite (countAccess d c x (coreClass d c k.lvl)) x v n ("core" ++ toString c) (coreU c) with
      | (d, true) => set d
      | (d, false) => set d; raiseAt 0x09 qualEcc a.toNat
    else
      match regStoreCheck d (coreReq d c k.priv) x v n with
      | some e => raiseAt e 0 a.toNat
      | none =>
        if 8 ≤ k.sb.length then wait
        else modCore c fun k =>
          let e : SbEntry := { addr := x, size := n, val := v, pc := pc, cls := coreClass d c k.lvl, lvl := k.lvl,
                               slot := k.slot.getD 0, priv := k.priv, issued := false }
          { k with sb := sbPush k.sb e }

/-! Return-stack operations. -/

/-- Pushes a return-stack entry: cached in Drove, in memory in Tether (R90). -/
def pushRet (c : Nat) (pc v : Word) : IM Unit := do
  let d ← get
  if d.tether c then
    let a := (d.core c).bank.spr - 4
    checkAccess c a 4 .w
    storeNow c pc a 4 v
    modCore c fun k => let b := k.bank; k.setBank { b with spr := a, rdepth := b.rdepth + 1 }
  else
    spillRets 17 c 15
    modCore c fun k => let b := k.bank; k.setBank { b with spr := b.spr - 4, rets := v :: b.rets }

/-- The top return-stack entry: 0x06 where there is none (R93). -/
def topRet (c : Nat) : IM Word := do
  let d ← get
  let k := d.core c
  let t := d.tether c
  need (0 < k.rdepthOf t) 0x06
  if t then
    checkAccess c k.bank.spr 4 .r
    readNow c k.bank.spr 4
  else
    match k.bank.rets with
    | v :: _ => return v
    | [] =>
      let v ← fillCell c k.bank.spr.toNat
      modCore c fun k => let b := k.bank; k.setBank { b with rets := [v] }
      return v

/-- Drops the top return-stack entry. -/
def dropRet (c : Nat) : IM Unit :=
  modCore c fun k => let b := k.bank; k.setBank { b with spr := b.spr + 4, rets := b.rets.drop 1, rdepth := b.rdepth - 1 }

end Sys2Proof.Machine
end

