-- ==== Sys2Proof/Machine/CoreExc.lean ====
section
/-! DEFINITION. Exceptions and interrupts of a core: frames, handler entry, double faults, boundary exceptions, Tether entry, and the run of
one instruction with its squash rules (spec/05 R99, R100, R110, spec/07 R147 to R153, spec/09 R188 to R206). -/
namespace Sys2Proof.Machine

/-! Registers as words. -/

/-- Z, N, C and V from a FLG value. -/
def Core.setZncv (k : Core) (v : Word) : Core := { k with z := bitOf v 0, n := bitOf v 1, c := bitOf v 2, v := bitOf v 3 }

/-- Z, N, C and V become 0. -/
def Core.clearFlags (k : Core) : Core := { k with z := false, n := false, c := false, v := false }

/-! Frames (R191, R192). -/

/-- The gate-stack base of a level. -/
def Core.gsb (k : Core) (h : Priv) : Word := match h with | .m => k.gsbM | .k => k.gsbK | _ => k.gsbF

/-- Sets the gate-stack base of a level. -/
def Core.setGsb (k : Core) (h : Priv) (v : Word) : Core :=
  match h with
  | .m => { k with gsbM := v }
  | .k => { k with gsbK := v }
  | _ => { k with gsbF := v }

/-- Whether a gate-stack base is valid. -/
def gsbOk (g : Word) : Bool := g != 0 && g.toNat % 256 == 0

/-- The TAG of a frame. -/
def tagWord (num : Nat) (caller target : Priv) (exc : Bool) (lvl retc : Nat) : Word :=
  toWord (num + put (privNum caller) 8 + put (privNum target) 10 + putB exc 12 + put lvl 13 + put retc 16 + putB true 31)

/-- The cells 0x00 to 0x1C of a frame. -/
def frameCells (k : Core) (t : Bool) (ret spd : Word) (tag : Word) (h : Priv) : List Word :=
  [ret, flgWord k t, spd, k.bank.spr, k.bank.fp, tag, k.gsb h, k.gfr]

/-- The rest of a transfer of cells, a new access at each multiple of 16 (R147, spec/10 R214). -/
def writeMore (beat : Bool) (c : Nat) (p : Priv) (q : Byte) (a : Nat) (l : List Word) : IM Unit :=
  match l with
  | [] => pure ()
  | v :: r => do
    hwWrite beat c p q a v
    writeMore ((a + 4) % 16 == 0) c p q (a + 4) r

/-- Writes cells from an address at a level, in transfers of 16 bytes. -/
def writeCells (c : Nat) (p : Priv) (q : Byte) (a : Nat) (l : List Word) : IM Unit := writeMore true c p q a l

def readMore (beat : Bool) (c : Nat) (p : Priv) (q : Byte) (a n : Nat) : IM (List Word) :=
  match n with
  | 0 => pure []
  | n + 1 => do
    let v ← hwRead beat c p q a
    let r ← readMore ((a + 4) % 16 == 0) c p q (a + 4) n
    return v :: r

/-- Reads `n` cells from an address at a level, in transfers of 16 bytes. -/
def readCells (c : Nat) (p : Priv) (q : Byte) (a n : Nat) : IM (List Word) := readMore true c p q a n

/-- Resident window cells that nothing has written take their free values. -/
def fixWindows (n c : Nat) : IM Unit :=
  match n with
  | 0 => pure ()
  | n + 1 => do
    let b := (← getCore c).bank
    if n < b.wn then
      let _ ← winCell c (b.winAddr n)
    fixWindows n c

/-- The window cells of a Drove core before its caches become the spare bank. -/
def hideWindows (c : Nat) : IM Unit := do
  if (← get).tether c then pure () else fixWindows 100 c

/-- The cells a bank holds, by address. -/
def bankCells (b : Bank) : List (Nat × Word) :=
  let t := b.data.zipIdx.foldl (fun t x => tput t (b.cellAddr x.2) x.1) []
  let t := b.rets.zipIdx.foldl (fun t x => tput t (b.spr + toWord (4 * x.2)).toNat x.1) t
  b.wc.foldl (fun t x => tput t x.1 x.2) t

/-- The caches become the spare bank (R145); cells it still holds, whose spill was refused, stay in it (log 108). -/
def Core.exchange (k : Core) : Core :=
  let b := k.bank
  { k with spare := (bankCells b).foldl (fun t x => tput t x.1 x.2) k.spare, sparePriv := k.priv,
           spareRets := (k.spareRets.filter fun a => (tfind k.spare a).isSome) ++
             b.rets.zipIdx.map fun x => (b.spr + toWord (4 * x.2)).toNat }

/-- The stacks switch to a frame's: the caller's cells are hidden in the bank (Tether) or become the spare bank (Drove); `l` are the
cells of the new data stack, top first, and `base` its empty address. -/
def Core.openFrame (k : Core) (t : Bool) (h : Priv) (g frame : Word) (l : List Word) : Core :=
  let b := k.bank
  let base := g - toWord (frame.toNat / 4)
  let fp := g - toWord (frame.toNat / 2) - 64
  let spr := g - 64
  let save : GateSave :=
    { lvl := k.lvl, bank := if t then b else { b with data := [], rets := [], wc := [], wn := 0 },
      dbase := k.dbase, rbase := k.rbase, fbase := k.fbase }
  let k := if t then k else { k.exchange with dbase := base, rbase := spr, fbase := fp }
  let k := k.setBank { b with spd := base, spr := spr, fp := fp, data := [], rets := [], rdepth := 0, wc := [], wn := if t then 16 else 0 }
  let k := { k with gates := save :: k.gates, gdep := k.gdep + 1, gfr := g - 64, priv := h, rpt := false, rptSquash := false,
                    waiting := false, delay := [] }
  let k := (k.setGsb h (g - frame)).clearFlags
  let k := k.pushCells t l
  if t then { k with hwmWin := lset k.hwmWin k.lvl (max (lget k.hwmWin 0 k.lvl) (k.hiddenWins + winCount k.bank.wn - 1)) } else k

/-- The stacks switch back from the newest frame; `f` are the frame's cells 0x00 to 0x1C. Only PC, stack registers and gate registers: the
flags and PRIV are the return's own. A spill that was refused is tried again after the return of its handler (R118). -/
def Core.closeFrame (k : Core) (t : Bool) (h : Priv) (f : List Word) : Core :=
  match k.gates with
  | [] => k
  | s :: r =>
    let b := k.bank
    let k := if t then k else { k with dbase := s.dbase, rbase := s.rbase, fbase := s.fbase }
    let k := k.setBank { s.bank with spd := lget f 0 2, spr := lget f 0 3, fp := lget f 0 4, rets := [], tflg := b.tflg }
    { k.setGsb h (lget f 0 6) with gates := r, gdep := k.gdep - 1, gfr := lget f 0 7, pc := lget f 0 0, delay := [], waiting := false,
                                   parked := k.parked.filter (· < k.gdep - 1) }

/-- Room in a Tether bank for `n` more cells and one more window (R192, R195). -/
def bankRoom (k : Core) (n : Nat) : Bool :=
  k.hidden + k.bank.data.length + n ≤ 16 && k.hiddenWins + winCount k.bank.wn + 1 ≤ 4

/-! The task-state block (R147, R148). -/

/-- The cells 0x00 to 0x4C of the running task; a multiply in flight has completed. -/
def blockCells (k : Core) (t : Bool) (reason : Nat) : List Word :=
  let b := k.bank
  let pc := if k.rptSquash then k.pc - 2 else k.pc
  [pc, flgWord k t, b.spd, b.spr, b.fp, k.gp, k.tp, k.dbase, k.rbase, k.prod.setWidth 32, (k.prod >>> 32).setWidth 32, k.rc, k.rs, k.rd,
   k.cacc, k.cpoly, b.tflg, k.tctx, k.fbase, toWord (reason + put (k.slot.getD 0) 8)]

/-- The products in flight have reached MRL and MRH. -/
def Core.flushMul (k : Core) : Core :=
  match k.mulPipe.getLast? with
  | some x => { k with prod := x.2, mulPipe := [] }
  | none => k

/-- Saves the outgoing block. -/
def saveBlock (c reason : Nat) : IM Unit := do
  modCore c fun k => k.flushMul.count 4 20
  let k ← getCore c
  writeCells c .f qualTsb k.tsbr.toNat (blockCells k false reason)

/-! Double faults (R206). -/

/-- Counts an exception of a pen. -/
def excCount (d : Dev) (c : Nat) (code : Byte) (df : Bool) : Dev :=
  d.updPen (penOf c) fun p =>
    { p with excTotal := satInc p.excTotal 0xFFFF, excLast := code, excDf := if df then satInc p.excDf 255 else p.excDf }

/-- A record of type 3, the hook's call and `!DFAULT`. -/
def dfaultReport (d : Dev) (c : Nat) (x : Exc) (pc : Word) (slot : Option Nat) : Dev :=
  let d := bwRecord d 3 (coreU c) x.cause (toWord x.cause.toNat) pc x.addr
  let d := if d.bw.hook && !d.bw.halt then { d with bw := { d.bw with hookRun := d.bw.hookRun + 1 } } else d
  emit d (some .fence) (some (coreU c)) ("!DFAULT core" ++ toString c ++ " " ++ hex8 x.cause.toNat ++
    (match slot with | some s => " slot " ++ toString s | none => ""))

/-- The core lets its task go with its caches in the spare bank and waits for a dispatch. -/
def dropTask (d : Dev) (c : Nat) : Dev :=
  let d := d.updCore c fun k =>
    let b := k.bank
    { k.exchange.setBank { b with data := [], rets := [], wc := [], wn := 0 } with
      parked := none, slot := none, preempt := none, waiting := false, gates := [], gdep := 0, delay := [],
      rpt := false, rptSquash := false }
  hwMove d (coreU c) .idle

/-- A double fault: in Tether the core is fenced; in Drove the task's slot is faulted and the task saved with reason 3, or the core is fenced
where that save is refused (spec/10 R229; log 77). -/
def doubleFault (d : Dev) (c : Nat) (x : Exc) (pc : Word) : Dev :=
  let d := excCount d c x.cause true
  let slot := (d.core c).slot
  if d.tether c then
    dfaultReport (machineCheck d (coreU c) 0x12 (toWord x.cause.toNat) pc x.addr) c x pc none
  else
    match (do fixWindows 100 c; saveBlock c 3 : IM Unit) d with
    | .ok _ d =>
      let d := dropTask d c
      let d := match slot with
        | some s => slotFault (slotRelease d (penOf c) s false) (penOf c) s "dfault"
        | none => d
      dfaultReport d c x pc slot
    | .error _ d =>
      let d := machineCheck d (coreU c) 0x12 (toWord x.cause.toNat) pc x.addr
      let d := match slot with
        | some s => slotFault d (penOf c) s "dfault"
        | none => d
      dfaultReport d c x pc slot

/-! Exception entry (R190 to R192). -/

/-- The exception record, cells 0x20 to 0x3C. -/
def recordCells (k : Core) (t : Bool) (c : Nat) (x : Exc) (pc : Word) (syl : List Half) (slot : Nat) : List Word :=
  let h (i : Nat) : Nat := (lget syl 0 i).toNat
  [toWord (x.cause.toNat + put x.qual.toNat 8 + put (if t then k.lvl else 0) 16 + put (privNum k.priv) 20 + put x.arg 24), pc, x.addr,
   toWord (h 0 + put (h 1) 16), toWord (h 2 + put x.gate 16), x.detail, toWord (c % 32 + put slot 8), 0]

/-- The handler of a privilege: its level, its address and its frame size in units of 256 bytes (R190). -/
def handlerOf (d : Dev) (c : Nat) (p : Priv) : Priv × Word × Nat :=
  match p with
  | .k => (.k, d.bw.kexv, d.bw.kexctl)
  | _ => (.f, (d.pen (penOf c)).exv, (d.pen (penOf c)).exctl)

/-- Whether an exception cannot be entered (R206). -/
def entryBad (d : Dev) (c : Nat) : Bool :=
  let k := d.core c
  let h := handlerOf d c k.priv
  !gsbOk (k.gsb h.1) || h.2.1 == 0 || h.2.2 == 0 || k.gdep == 15 || (d.tether c && !bankRoom k 1)

/-- The frame and the record, then the commit. `ret` is the return PC, `pc` the PC of the record. -/
def writeExcFrame (c : Nat) (x : Exc) (pc ret : Word) (syl : List Half) (slot : Nat) : IM Unit := do
  hideWindows c
  let d ← get
  let k := d.core c
  let t := d.tether c
  let (h, exv, size) := handlerOf d c k.priv
  let g := k.gsb h
  let tag := tagWord x.cause.toNat k.priv h true (if t then k.lvl else 0) 0
  writeCells c h 0 (g - 64).toNat (frameCells k t ret k.bank.spd tag h ++ recordCells k t c x pc syl slot)
  modCore c fun k => { k.openFrame t h g (toWord (256 * size)) [g - 32] with pc := exv, cyc := k.cyc + 8 }

/-- An exception of a core at its running privilege: the handler is entered, a double fault ends it, or at M the core is fenced. -/
def takeExc (d : Dev) (c : Nat) (x : Exc) (pc ret : Word) (syl : List Half) (slot : Nat) : Dev :=
  let d := tileCutoff d c
  if (d.core c).priv == .m then machineCheck d (coreU c) 0x12 (toWord x.cause.toNat) pc x.addr
  else if entryBad d c then doubleFault d c x pc
  else
    match writeExcFrame c x pc ret syl slot d with
    | .ok _ e => excCount e c x.cause false
    | .error _ e => doubleFault (e.setCore c (d.core c)) c x pc

/-- Whether an entry has to wait for the spare bank (R192); cells whose spill was refused do not hold it back (R118; log 108). -/
def spareBusy (d : Dev) (c : Nat) : Bool := !d.tether c && !(d.core c).spare.isEmpty && (d.core c).parked.isNone

/-! Boundaries (R188, R205, R282). -/

/-- The PC at a boundary: a squashed RPT belongs to the string instruction that follows it (R110; log 55). -/
def boundaryPc (k : Core) : Word := if k.rptSquash then k.pc - 2 else k.pc

/-- The level a core must enter (R152). -/
def entryDue (d : Dev) (c : Nat) : Option Nat :=
  let k := d.core c
  if d.tether c && k.ie then (presented d c).find? fun l => k.lvl < l else none

/-- The posted error that may be taken (R282). -/
def postedOf (d : Dev) (c : Nat) : Option PostErr :=
  let k := d.core c
  k.perr.filter fun e => !d.tether c || k.lvl ≤ e.lvl

/-- The load of the running level, if it waits or has met an error. -/
def levelLoad (k : Core) : Option PendLoad := tfind k.loads k.lvl

/-- Whether an exception is due at the boundary. -/
def excDue (d : Dev) (c : Nat) : Bool :=
  let k := d.core c
  k.held.isSome || (postedOf d c).isSome || (match levelLoad k with | some p => p.err.isSome | none => false)

/-- Whether a task switch is due: a slot is dispatched or the task gives up its core; it may begin with no load outstanding and the spare
bank empty (R147, R199). -/
def switchDue (d : Dev) (c : Nat) : Bool :=
  let k := d.core c
  !d.tether c && (k.next.isSome || (givesUp d c).isSome) && k.gdep == 0 && k.loads.isEmpty && k.spare.isEmpty

/-- Whether the core works: on, clocked and not held (R73, R284). -/
def coreWorks (d : Dev) (c : Nat) : Bool :=
  let r := d.unit (coreU c)
  r.st == .active && !r.resetting && d.coresClocked && !coreHeld d c && (d.pen (penOf c)).pers.isSome

/-- Whether the core stands at a boundary with nothing outstanding at its level. -/
def coreReady (d : Dev) (c : Nat) : Bool :=
  let k := d.core c
  coreWorks d c && (levelLoad k).isNone && k.tileWait.isNone

/-- Whether an instruction executes next: WAIT ends in Tether when an event routed to the core is pending (R137). -/
def canRun (d : Dev) (c : Nat) : Bool :=
  let k := d.core c
  coreReady d c && (entryDue d c).isNone && !excDue d c && !switchDue d c &&
  (!k.waiting || (d.tether c && !(presented d c).isEmpty))

/-! The first use of extended state (spec/05 R113 to R116). -/

/-- The cells of the save area (R113). -/
def saveArea (k : Core) : List Word :=
  [k.prod.setWidth 32, (k.prod >>> 32).setWidth 32, k.rc, k.rs, k.rd, k.cacc, k.cpoly, toWord (k.extOwner + put 1 31), 0, 0, 0, 0]

/-- The first use of extended state at a Tether level runs the save microsequence (R113, R119). -/
def extUse (c : Nat) : IM Unit := do
  let d ← get
  let k := d.core c
  if d.tether c && k.lvl != 0 && !k.xs then
    modCore c fun k => k.flushMul
    let k ← getCore c
    writeCells c k.priv qualXsave (lget k.sxa 0 k.lvl).toNat (saveArea k)
    modCore c fun k => { k with xs := true, extOwner := k.lvl, cyc := k.cyc + 8 }
  else pure ()

/-! The run of one instruction (R99, R100, R110, R121, R124). -/

/-- An instruction as it executes: its syllables with condition bits 0, whether it is a string instruction, whether its result comes from
memory, its cycles, and what it does to the core given, whose PC already names the next instruction. -/
structure Insn where
  syl : List Half
  str : Bool
  ld : Bool
  cyc : Nat
  run : Nat → IM Unit

/-- An instruction of one syllable and one cycle. -/
def Insn.op (opc : Nat) (run : Nat → IM Unit) : Insn :=
  { syl := [BitVec.ofNat 16 opc], str := false, ld := false, cyc := 1, run := run }

/-- The code of a condition (R99). -/
def condCode (k : Cond) : Nat :=
  match k with | .always => 0 | .z => 1 | .nz => 2 | .n => 3 | .nn => 4 | .c => 5 | .nc => 6 | .v => 7

/-- Whether a condition is met (R99). -/
def condMet (k : Core) (q : Cond) : Bool :=
  match q with
  | .always => true
  | .z => k.z | .nz => !k.z | .n => k.n | .nn => !k.n | .c => k.c | .nc => !k.c | .v => k.v

/-- The syllables with the condition in bits 15:13 of the first. -/
def Insn.words (i : Insn) (q : Cond) : List Half :=
  match i.syl with
  | [] => []
  | s :: r => (s ||| (BitVec.ofNat 16 (condCode q) <<< 13)) :: r

/-- The exception of an instruction's fetch, with its address (R103, R135, R268). -/
def fetchBad (d : Dev) (c n : Nat) : Option (Byte × Nat) :=
  let k := d.core c
  (List.range n).findSome? fun i =>
    let a := (k.pc + toWord (2 * i)).toNat
    (accCheck d c k.priv (absAddr c a) 2 .x).map fun e => (e, a)

/-- The fetch of the cells of `n` syllables from an address: a single-bit error is corrected, and an uncorrectable cell is reported, with its
address (spec/13 R278, R288). -/
def fetchCells (n : Nat) (d : Dev) (c : Nat) (a : Word) : Dev × Option Word :=
  match n with
  | 0 => (d, none)
  | n + 1 =>
    match memRead d (absAddr c a.toNat) 2 ("core" ++ toString c) (coreU c) with
    | (d, none) => (d, some a)
    | (d, some _) => fetchCells n d c (a + 2)

/-- The fetch of an instruction of `n` syllables from elsewhere than own local memory goes over Mycelium, a beat for each 16 bytes it touches
(R123, spec/10 R214, spec/13 R272). -/
def fetched (d : Dev) (c n : Nat) : Dev :=
  let k := d.core c
  let a := absAddr c k.pc.toNat
  if ownLocal c a then d
  else
    let b := (a + 2 * n - 1) / 16 - a / 16 + 1
    charge (d.updCore c fun k => k.count 2 b) (some (d.foldOfCore c)) b (coreClass d c k.lvl) a

/-- The dispatch index of an instruction by its first syllable (spec/08 R165). -/
def dispatchIndex (s : Half) : Nat :=
  let w := s.toNat % 0x2000
  let sub := w % 64
  if w < 0x400 then w
  else if w < 0x800 then 0x240 + (w - 0x400) / 512
  else if w < 0x1000 then
    match w % 0x400 / 64 with
    | 0 => 0x200 + sub
    | 1 => 0x240
    | 2 => 0x241 + sub
    | 3 => 0x248 + sub
    | 4 => 0x250 + sub / 16 * 8 + sub % 8
    | 5 => 0x270 + sub
    | g => 0x280 + (g - 14) * 64 + sub
  else 0x200 + (w - 0x1000) / 64

/-- The array offset of an instruction's dispatch entry. -/
def Insn.entry (i : Insn) : Nat := 0x10000 + 2 * dispatchIndex (i.syl.headD 0)

/-- An exception met by the instruction at the PC of `d`; it waits while the spare bank of a Drove core holds cells. -/
def instrExc (d : Dev) (c : Nat) (x : Exc) (words : List Half) : Dev :=
  let k := d.core c
  if spareBusy d c then d else takeExc d c x k.pc k.pc words (k.slot.getD 0)

/-- The state in which an instruction begins: PC at the next one; a fetch from elsewhere than own local memory waits for Mycelium
(R123; log 56), and a wait that ends has let a multiply in flight complete (R107). -/
def Core.begin (k : Core) (c n : Nat) : Core :=
  { k with pc := k.pc + toWord (2 * n), rptSquash := false, waiting := false,
           cyc := k.cyc + (if ownLocal c (absAddr c k.pc.toNat) then 0 else 3) + (if k.waiting then 3 else 0) }

/-- A core that waits in front of an instruction: a multiply in flight completes meanwhile (R107; log 56). -/
def Core.waited (k : Core) : Core := { k with cyc := k.cyc + 3 }

/-- The end of an instruction: its cycles, its issue, and the load delay of the one before it. -/
def Core.finish (k : Core) (cyc : Nat) (ld : Bool) : Core :=
  { k with cyc := k.cyc + cyc, delay := if ld then k.delay else [] }.count 0 1

/-- A squashed instruction: one cycle and nothing else (R100); a squashed RPT takes the string instruction after it along (R110). -/
def squash (d : Dev) (c n : Nat) (rpt : Bool) : Dev :=
  d.updCore c fun k => { (k.begin c n).finish 1 false with rptSquash := rpt }

/-- An instruction from its dispatch entry on: 0x01 where the entry is not valid, the save of extended state where it says so (spec/08 R165). -/
def dispatched (i : Insn) (c : Nat) : IM Unit := do
  let e := csHalf ((← get).pen (penOf c)).cs i.entry
  need (e.testBit 15) 0x01
  if e.testBit 14 then extUse c
  i.run c

/-- Executes an instruction whose condition is met; a parity error in its microcode stops the core before it (spec/08 R181). -/
def execute (d : Dev) (c : Nat) (i : Insn) (words : List Half) : Dev :=
  match dispatched i c (d.updCore c fun k => k.begin c i.syl.length) with
  | .ok _ e => e.updCore c fun k => k.finish i.cyc i.ld
  | .error .stall _ => d.updCore c Core.waited
  | .error .abandon e => e.setCore c (d.core c)
  | .error (.exc x) e =>
    if x.cause == 0x10 then parityOnUse (e.setCore c (d.core c)) (penOf c) x.addr.toNat else instrExc (e.setCore c (d.core c)) c x words
  | .error (.excKeep x) e => instrExc (e.updCore c fun k => { k with pc := (d.core c).pc }) c x words

/-- An instruction that has been fetched: the rules of an executed RPT and of conditions, and, for one that reaches dispatch, a dispatch entry
that may be read (R100, R110, spec/08 R165, R178, R181). -/
def decoded (c : Nat) (q : Cond) (i : Insn) (d : Dev) : Dev :=
  let k := d.core c
  let goes := condMet k q && !(k.rptSquash && i.str)
  if goes && wordBad (d.pen (penOf c)) i.entry then parityOnUse d (penOf c) i.entry
  else if k.rpt && !(i.str && q == .always) then instrExc d c (Exc.of 0x01) (i.words q)
  else if !goes then squash d c i.syl.length (!condMet k q && i.syl == [0x0A0])
  else execute d c i (i.words q)

/-- An instruction command of a core. -/
def runInstr (c : Nat) (q : Cond) (i : Insn) (d : Dev) : Dev :=
  if !canRun d c then d
  else
    match fetchBad d c i.syl.length with
    | some (e, a) => instrExc d c { Exc.of e with qual := qualFetch, addr := toWord a } (i.words q)
    | none =>
      match fetchCells i.syl.length d c (d.core c).pc with
      | (d, some a) => instrExc d c { Exc.of 0x09 with qual := qualFetch ||| qualEcc, addr := a } (i.words q)
      | (d, none) => decoded c q i (fetched d c i.syl.length)

/-! EXCEPTION_ENTRY, POSTED_STORE_ERROR and INTERRUPT_ENTRY. -/

/-- Takes the boundary exception the level holds: a refused spill or block move, or an injected cause. -/
def takeBoundary (d : Dev) (c : Nat) (b : BoundExc) : Dev :=
  let d := d.updCore c fun k => { k with bexc := tdel k.bexc k.lvl }
  let k := d.core c
  takeExc d c { Exc.of b.cause with qual := b.qual, addr := b.addr } (boundaryPc k) (boundaryPc k) [] (k.slot.getD 0)

/-- Takes the posted error held (R282). -/
def takePosted (d : Dev) (c : Nat) (e : PostErr) : Dev :=
  let d := d.updCore c fun k => { k with perr := none }
  let ret := boundaryPc (d.core c)
  takeExc d c { Exc.of 0x09 with qual := eccQual e.ecc qualPosted, addr := e.addr } e.pc ret [] e.slot

/-- Takes the error of a load: at the load, with the state before it (R131). -/
def takeLoadErr (d : Dev) (c : Nat) (p : PendLoad) (e : Byte × Bool) : Dev :=
  let d := d.updCore c fun k => { k with loads := tdel k.loads k.lvl, pc := p.pc }
  takeExc d c { Exc.of e.1 with qual := eccQual e.2 0, addr := toWord p.addr } p.pc p.pc p.syl ((d.core c).slot.getD 0)

/-- A cause of R188 that a core's handler can receive. -/
def coreCause (code : Byte) : Bool := 1 ≤ code.toNat && code.toNat ≤ 13

/-- The device with the core at its boundary: a load of the level that has met its error stands at its own instruction again, and one that
still waits has reached no boundary (R131). -/
def boundaryOf (d : Dev) (c : Nat) : Option Dev :=
  match levelLoad (d.core c) with
  | none => some d
  | some p =>
    if p.err.isSome then some (d.updCore c fun k => { k with loads := tdel k.loads k.lvl, pc := p.pc }) else none

/-- The exception of an instruction of which only the syllables, the condition and the cause are known: an encoding that the tables leave
unassigned, or a refused fetch. An illegal encoding is squashed where its condition fails, but not after an executed RPT (R100, R110, R122,
R141). -/
def instrCause (d : Dev) (c : Nat) (x : ExcReq) : Dev :=
  let k := d.core c
  if !canRun d c || !coreCause x.cause then d
  else if x.cause == 0x01 && !k.rpt && !condMet k x.cond then squash d c (max 1 x.syl.length) false
  else takeExc d c { Exc.of x.cause with qual := x.qual, addr := x.addr } k.pc k.pc x.syl (k.slot.getD 0)

/-- What is taken at a boundary: exceptions of priority 2, a posted error, a load's error, and else the cause given, which stands for what
the instruction at the boundary meets in its encoding or its fetch (R188, R282). -/
def mExceptionEntry (c : Fin 32) (x : ExcReq) (d : Dev) : Dev :=
  let c := c.val
  let k := d.core c
  if !coreWorks d c || spareBusy d c || (entryDue d c).isSome then d
  else
    match boundaryOf d c, k.held, postedOf d c, levelLoad k with
    | none, _, _, _ => d
    | some e, some b, _, _ => takeBoundary e c b
    | some e, none, some p, _ => takePosted e c p
    | some _, none, none, some p => match p.err with | some e => takeLoadErr d c p e | none => d
    | some _, none, none, none => instrCause d c x

/-- A posted store's error at a boundary that qualifies. -/
def mPostedStoreError (c : Fin 32) (d : Dev) : Dev :=
  let c := c.val
  if !coreWorks d c || spareBusy d c || (entryDue d c).isSome || (d.core c).held.isSome then d
  else
    match boundaryOf d c, postedOf d c with
    | some e, some p => takePosted e c p
    | _, _ => d

/-- The privilege of a level's entry (R152). -/
def entryPriv (k : Core) : Priv := if k.keeper then .k else .f

/-- The state after the bank switch and the save registers of an entry to level `l`. -/
def Core.enterLevel (k : Core) (l : Nat) : Core :=
  let k := { k with spc := lset k.spc l (boundaryPc k), sflg := lset k.sflg l (flgWord k true), lvl := l, nest := setBit k.nest l true,
                    xs := false, rpt := false, rptSquash := false, priv := entryPriv k, waiting := false, delay := [],
                    cyc := k.cyc + 5 }.clearFlags
  let b := k.bank
  let sxa := b.spr - 48
  let k := { k.setBank { b with spr := sxa, rdepth := 0 } with sxa := lset k.sxa l sxa }
  { k with hwmDepth := lset k.hwmDepth l (max (lget k.hwmDepth 0 l) (k.hidden + k.bank.data.length)),
           hwmWin := lset k.hwmWin l (max (lget k.hwmWin 0 l) (k.hiddenWins + winCount k.bank.wn - 1)) }

/-- The tile context follows the level where each level has its own area (spec/15 R333). -/
def tileLevel (d : Dev) (c : Nat) : Dev :=
  if bitOf (lget (d.pen (penOf c)).te.ttxb 0 (c % 4)) 0 then tileChange d c (d.core c).lvl (ownerArea d c (d.core c).lvl) else d

/-- The entry to level `l`: a refused vector fetch or an odd handler address is a machine check (R159). -/
def enterLevel (d : Dev) (c l : Nat) : Dev :=
  let d := (tileCutoff d c).updCore c fun k => k.enterLevel l
  let k := d.core c
  let a := absAddr c (((d.pen (penOf c)).tvec + toWord (4 * l)).toNat)
  match coreRead true d c k.priv a 4 with
  | (d, .error _) => causesCheck d (coreU c) (lget k.spc 0 l) (toWord a)
  | (d, .ok v) =>
    if bitOf v 0 then causesCheck d (coreU c) (lget k.spc 0 l) (toWord a)
    else tileLevel (d.updCore c fun k => { k with pc := v }) c

def mInterruptEntry (c : Fin 32) (d : Dev) : Dev :=
  if coreWorks d c.val then
    match entryDue d c.val with
    | some l => enterLevel d c.val l
    | none => d
  else d

/-! The rows of the table. -/

/-- `POSTED_STORE_ERROR`: A posted store's later error raises exception 0x09 with POSTED at a qualifying boundary (R282). -/
def execPostedStoreError (c : Fin 32) (s : State) : Host.Outcome State Fault Refusal :=
  lift (mPostedStoreError c) s

/-- `EXCEPTION_ENTRY`: An exception writes a frame at the handler level's gate stack and enters the handler with the record address (R191). -/
def execExceptionEntry (c : Fin 32) (x : ExcReq) (s : State) : Host.Outcome State Fault Refusal :=
  lift (mExceptionEntry c x) s

/-- `INTERRUPT_ENTRY`: A presented level above the current level with IE 1 is entered in 5 uninterruptible cycles through the vector table (R152). -/
def execInterruptEntry (c : Fin 32) (s : State) : Host.Outcome State Fault Refusal :=
  lift (mInterruptEntry c) s

end Sys2Proof.Machine
end

