-- ==== Sys2Proof/Machine/Operands.lean ====
section
/-! DEFINITION. The operand forms of the instructions and their first syllables: immediates, bases, displacements and effective addresses
(spec/05 R101, R102, spec/06 R121). -/
namespace Sys2Proof.Machine

/-- The syllables of a long (32-bit) instruction. -/
def longSyl (grp sub : Nat) (i : BitVec 16) : List Half := [BitVec.ofNat 16 (0x0800 + grp * 64 + sub), i]

/-- The syllables of an extended (48-bit) instruction: IMM32 bits 15:0, then bits 31:16. -/
def extSyl (grp sub : Nat) (i : BitVec 32) : List Half :=
  [BitVec.ofNat 16 (0x0C00 + grp * 64 + sub), i.setWidth 16, (i >>> 16).setWidth 16]

/-- The syllables of a short immediate instruction. -/
def shortSyl (k : Nat) (i : BitVec 9) : List Half := [BitVec.ofNat 16 (0x0400 + k * 512 + i.toNat)]

/-- The value of an immediate: IMM16 sign-extended, or IMM32. -/
def immWord (i : ImmForm) : Word := match i with | .imm16 x => x.signExtend 32 | .imm32 x => x

/-- The syllables of an instruction with an immediate. -/
def immSyl (grp sub : Nat) (i : ImmForm) : List Half := match i with | .imm16 x => longSyl grp sub x | .imm32 x => extSyl grp sub x

/-- The code of a base. -/
def baseCode (b : Base) : Nat := match b with | .tos => 0 | .fp => 1 | .gp => 2 | .tp => 3 | .spd => 4

/-- The displacement of a load or store: DISP6 scaled by the access size, or signed bytes (R102). -/
def memDisp (f : MemForm) (size : Nat) : Word :=
  match f with
  | .short d => toWord (d.toNat * size)
  | .long d => d.signExtend 32
  | .ext d => d

/-- The syllables of a load or store. -/
def memSyl (op : Nat) (b : Base) (f : MemForm) : List Half :=
  match f with
  | .short d => [BitVec.ofNat 16 (0x1000 + op * 512 + baseCode b * 64 + d.toNat)]
  | .long d => longSyl 0 (op * 8 + baseCode b) d
  | .ext d => extSyl 0 (op * 8 + baseCode b) d

/-- The cells a base takes from the stack. -/
def basePops (b : Base) : Nat := if b == .tos then 1 else 0

/-- The value of a base before the instruction's own pops; `top` is the popped cell of a top-of-stack base (R101, R121). -/
def baseValue (k : Core) (b : Base) (top : Word) : Word :=
  match b with
  | .tos => top
  | .fp => k.bank.fp
  | .gp => k.gp
  | .tp => k.tp
  | .spd => k.bank.spd

/-- Whether an address is reached through the current window: base FP and an offset from 0x00 to 0x3C (R94). -/
def usesWindow (k : Core) (b : Base) (a : Word) : Bool := b == .fp && (a - k.bank.fp).toNat < 64

/-- The current window is resident where an access goes through it. -/
def windowFor (c : Nat) (b : Base) (a : Word) : IM Unit := do
  if usesWindow (← getCore c) b a then needWindow c else pure ()

/-- The displacement of a multiple transfer. -/
def multiDisp (m : MultiForm) : Word := match m.disp with | none => 0 | some x => x.signExtend 32

/-- The syllables of a multiple transfer. -/
def multiSyl (load data : Bool) (b : Base) (m : MultiForm) : List Half :=
  let sub := (if load then 32 else 0) + (if data then 16 else 0) + baseCode b
  match m.disp with
  | none => longSyl 4 sub m.mask
  | some x => extSyl 4 sub (x ++ m.mask)

/-- The size in bytes of a string element. -/
def esize (z : ESize) : Nat := match z with | .b => 1 | .h => 2 | .w => 4

/-- The number of an element size in the OPC10 map. -/
def esizeCode (z : ESize) : Nat := match z with | .b => 0 | .h => 1 | .w => 2

end Sys2Proof.Machine
end

