-- ==== Sys2Proof/Machine/Alu.lean ====
section
/-! DEFINITION. Stack, ALU, literal, multiply, divide, parity, bit-reverse and CRC instructions (spec/05 R107, R113, spec/06 R125 to
R129). -/
namespace Sys2Proof.Machine

/-! Shapes. -/

/-- The core after an instruction that pops `n` cells, computes on them (top first) and pushes what it gives. -/
def Core.apply (k : Core) (t : Bool) (n : Nat) (f : Core → List Word → Core × List Word) : Core :=
  let p := k.popCells t n
  let r := f p.1 p.2
  r.1.pushCells t r.2

/-- An instruction on the data stack alone: its checks, then its pops, its result and its flags at once. -/
def stackOp (n m : Nat) (f : Core → List Word → Core × List Word) (c : Nat) : IM Unit := do
  prepare c n m
  let d ← get
  set (d.setCore c ((d.core c).apply (d.tether c) n f))

/-- A one-operand instruction. -/
def unary (f : Flags → Word → Word × Flags) (k : Core) (l : List Word) : Core × List Word :=
  let r := f k.flags (lget l 0 0)
  (k.setFlags r.2, [r.1])

/-- A two-operand instruction: `a` below `b`. -/
def binary (f : Flags → Word → Word → Word × Flags) (k : Core) (l : List Word) : Core × List Word :=
  let r := f k.flags (lget l 0 1) (lget l 0 0)
  (k.setFlags r.2, [r.1])

/-- A stack instruction: the cells it leaves, as indexes into the cells it takes, top first. -/
def shuffle (is : List Nat) (k : Core) (l : List Word) : Core × List Word := (k, is.map fun i => lget l 0 i)

/-! Stack. -/

def bNop : Insn := Insn.op 0x000 fun _ => pure ()
def bDup : Insn := Insn.op 0x001 (stackOp 1 2 (shuffle [0, 0]))
def bDrop : Insn := Insn.op 0x002 (stackOp 1 0 (shuffle []))
def bSwap : Insn := Insn.op 0x003 (stackOp 2 2 (shuffle [1, 0]))

/-- OVER reads the deeper cell alone and leaves both where they are: a cell in its load delay keeps the loaded value (R106). -/
def bOverTos : Insn := Insn.op 0x004 fun c => do
  prepare c 2 3
  pushN c [lget (← getCore c).view 0 1]

def bRot : Insn := Insn.op 0x005 (stackOp 3 3 (shuffle [2, 0, 1]))
def bNip : Insn := Insn.op 0x006 (stackOp 2 1 (shuffle [0]))
def bTuck : Insn := Insn.op 0x007 (stackOp 2 3 (shuffle [0, 1, 0]))
def bTwoDup : Insn := Insn.op 0x008 (stackOp 2 4 (shuffle [0, 1, 0, 1]))
def bTwoDrop : Insn := Insn.op 0x009 (stackOp 2 0 (shuffle []))

/-- The address of the instruction whose successor the PC names. -/
def herePc (k : Core) (n : Nat) : Word := k.pc - toWord (2 * n)

/-- Two cycles in Tether, whose return stack lies in memory. -/
def tetherCycle (c : Nat) : IM Unit := do
  if (← get).tether c then modCore c fun k => { k with cyc := k.cyc + 1 } else pure ()

def bRpush : Insn := Insn.op 0x00A fun c => do
  prepare c 1 0
  let l ← popN c 1
  pushRet c (herePc (← getCore c) 1) (lget l 0 0)
  tetherCycle c

/-- There is a return-stack entry; the cause ranks above a full bank (R93, R188). -/
def needRet (c : Nat) : IM Unit := do
  let d ← get
  need (0 < (d.core c).rdepthOf (d.tether c)) 0x06

def bRpop : Insn := Insn.op 0x00B fun c => do
  needRet c
  prepare c 0 1
  let v ← topRet c
  dropRet c
  pushN c [v]
  tetherCycle c

def bRcopy : Insn := Insn.op 0x00C fun c => do
  needRet c
  prepare c 0 1
  let v ← topRet c
  pushN c [v]
  tetherCycle c

/-! ALU (R125, R126). -/

/-- A result that sets Z and N. -/
def znOf (g : Word → Word → Word) (f : Flags) (a b : Word) : Word × Flags := (g a b, f.zn (g a b))

/-- A one-operand result that sets Z and N. -/
def zn1 (g : Word → Word) (f : Flags) (a : Word) : Word × Flags := (g a, f.zn (g a))

/-- The count of a shift. -/
def shCount (n : Word) : Nat := n.toNat % 32

/-- SHL: C is the last bit shifted out, 0 for a count of 0. -/
def shl (f : Flags) (x n : Word) : Word × Flags :=
  let k := shCount n
  let r := x <<< k
  (r, f.znc r (k != 0 && x.getLsbD (32 - k)))

/-- SHR. -/
def shr (f : Flags) (x n : Word) : Word × Flags :=
  let k := shCount n
  let r := x >>> k
  (r, f.znc r (k != 0 && x.getLsbD (k - 1)))

/-- SAR. -/
def sar (f : Flags) (x n : Word) : Word × Flags :=
  let k := shCount n
  let r := x.sshiftRight k
  (r, f.znc r (k != 0 && x.getLsbD (k - 1)))

/-- ROL: C is bit 0 of the result. -/
def rol (f : Flags) (x n : Word) : Word × Flags :=
  let k := shCount n
  let r := x.rotateLeft k
  (r, f.znc r (k != 0 && r.getLsbD 0))

/-- ROR: C is bit 31 of the result. -/
def ror (f : Flags) (x n : Word) : Word × Flags :=
  let k := shCount n
  let r := x.rotateRight k
  (r, f.znc r (k != 0 && r.msb))

/-- The leading zeros of a cell. -/
def clz (x : Word) : Word := toWord (((List.range 32).reverse.takeWhile fun i => !bitOf x i).length)

/-- The bits set in a cell. -/
def popc (x : Word) : Word := toWord ((List.range 32).filter (bitOf x)).length

/-- The bytes of a cell in reverse order. -/
def bswap (x : Word) : Word :=
  (x <<< 24) ||| ((x &&& 0xFF00) <<< 8) ||| ((x >>> 8) &&& 0xFF00) ||| (x >>> 24)

def bAdd : Insn := Insn.op 0x020 (stackOp 2 1 (binary fun _ a b => addFlags a b false))
def bSub : Insn := Insn.op 0x021 (stackOp 2 1 (binary fun _ a b => subFlags a b true))
def bAdc : Insn := Insn.op 0x022 (stackOp 2 1 (binary fun f a b => addFlags a b f.c))
def bSbc : Insn := Insn.op 0x023 (stackOp 2 1 (binary fun f a b => subFlags a b f.c))
def bAnd : Insn := Insn.op 0x024 (stackOp 2 1 (binary (znOf fun a b => a &&& b)))
def bOr : Insn := Insn.op 0x025 (stackOp 2 1 (binary (znOf fun a b => a ||| b)))
def bXor : Insn := Insn.op 0x026 (stackOp 2 1 (binary (znOf fun a b => a ^^^ b)))
def bNot : Insn := Insn.op 0x027 (stackOp 1 1 (unary (zn1 fun a => ~~~a)))
def bNeg : Insn := Insn.op 0x028 (stackOp 1 1 (unary fun _ a => subFlags 0 a true))
def bInc : Insn := Insn.op 0x029 (stackOp 1 1 (unary fun _ a => addFlags a 1 false))
def bDec : Insn := Insn.op 0x02A (stackOp 1 1 (unary fun _ a => subFlags a 1 true))

/-- CMP: the flags of a − b, both popped. -/
def cmpOp (k : Core) (l : List Word) : Core × List Word := (k.setFlags (subFlags (lget l 0 1) (lget l 0 0) true).2, [])

def bCmp : Insn := Insn.op 0x02B (stackOp 2 0 cmpOp)
def bTst : Insn := Insn.op 0x02C (stackOp 1 1 (unary fun _ a => (a, { z := a == 0, n := a.msb, c := false, v := false })))
def bShl : Insn := Insn.op 0x02D (stackOp 2 1 (binary shl))
def bShr : Insn := Insn.op 0x02E (stackOp 2 1 (binary shr))
def bSar : Insn := Insn.op 0x02F (stackOp 2 1 (binary sar))
def bRol : Insn := Insn.op 0x030 (stackOp 2 1 (binary rol))
def bRor : Insn := Insn.op 0x031 (stackOp 2 1 (binary ror))
def bMin : Insn := Insn.op 0x032 (stackOp 2 1 (binary (znOf fun a b => if a.slt b then a else b)))
def bMax : Insn := Insn.op 0x033 (stackOp 2 1 (binary (znOf fun a b => if a.slt b then b else a)))
def bMinu : Insn := Insn.op 0x034 (stackOp 2 1 (binary (znOf fun a b => if a.ult b then a else b)))
def bMaxu : Insn := Insn.op 0x035 (stackOp 2 1 (binary (znOf fun a b => if a.ult b then b else a)))
def bSexb : Insn := Insn.op 0x036 (stackOp 1 1 (unary (zn1 fun a => (a.setWidth 8).signExtend 32)))
def bSexh : Insn := Insn.op 0x037 (stackOp 1 1 (unary (zn1 fun a => (a.setWidth 16).signExtend 32)))
def bZexb : Insn := Insn.op 0x038 (stackOp 1 1 (unary (zn1 fun a => a &&& 0xFF)))
def bZexh : Insn := Insn.op 0x039 (stackOp 1 1 (unary (zn1 fun a => a &&& 0xFFFF)))
def bClz : Insn := Insn.op 0x03A (stackOp 1 1 (unary (zn1 clz)))
def bPopc : Insn := Insn.op 0x03B (stackOp 1 1 (unary (zn1 popc)))
def bBswap : Insn := Insn.op 0x03C (stackOp 1 1 (unary (zn1 bswap)))

/-- An instruction with an immediate operand. -/
def immOp (sub : Nat) (i : ImmForm) (f : Core → List Word → Core × List Word) : Insn :=
  { syl := immSyl 3 sub i, str := false, ld := false, cyc := 1, run := stackOp 1 1 f }

/-- CMPI: the flags of a − imm, the cell kept. -/
def cmpiOp (x : Word) (k : Core) (l : List Word) : Core × List Word := (k.setFlags (subFlags (lget l 0 0) x true).2, [lget l 0 0])

def bAddi (i : ImmForm) : Insn := immOp 0 i (unary fun _ a => addFlags a (immWord i) false)
def bSubi (i : ImmForm) : Insn := immOp 1 i (unary fun _ a => subFlags a (immWord i) true)
def bAndi (i : ImmForm) : Insn := immOp 2 i (unary (zn1 fun a => a &&& immWord i))
def bOri (i : ImmForm) : Insn := immOp 3 i (unary (zn1 fun a => a ||| immWord i))
def bXori (i : ImmForm) : Insn := immOp 4 i (unary (zn1 fun a => a ^^^ immWord i))
def bCmpi (i : ImmForm) : Insn := immOp 5 i (cmpiOp (immWord i))

/-! Literals. -/

/-- A literal. -/
def litOp (syl : List Half) (v : Word) : Insn :=
  { syl := syl, str := false, ld := false, cyc := 1, run := stackOp 0 1 fun k _ => (k, [v]) }

def bLitS (i : BitVec 9) : Insn := litOp (shortSyl 0 i) (i.signExtend 32)
def bLit (i : ImmForm) : Insn := litOp (immSyl 1 0 i) (immWord i)

/-! Extended state (R107, R112 to R116). -/

/-- MRL and MRH as a read, a write or a multiply finds them: in Tether the products that are due have reached them, in Drove the core has
stalled until the one in flight has (R107). -/
def Core.settle (k : Core) (t : Bool) : Core :=
  if t then k.mulPipe.foldl (fun k x => if x.1 ≤ k.cyc then { k with prod := x.2, mulPipe := k.mulPipe.drop 1 } else k) k
  else
    match k.mulPipe.getLast? with
    | some x => { k with prod := x.2, mulPipe := [], cyc := max k.cyc x.1 }
    | none => k

/-! Multiply and divide (R127, R128). -/

/-- The most recent product in issue order. -/
def Core.lastProd (k : Core) : BitVec 64 := match k.mulPipe.getLast? with | some x => x.2 | none => k.prod

/-- A product issued: due three cycles later. -/
def Core.issueMul (k : Core) (t : Bool) (p : BitVec 64) : Core :=
  let k := (k.settle t).count 3 1
  { k with mulPipe := k.mulPipe ++ [(k.cyc + 3, p)] }

/-- The 64-bit product of two cells. -/
def product (signed : Bool) (a b : Word) : BitVec 64 :=
  if signed then a.signExtend 64 * b.signExtend 64 else a.setWidth 64 * b.setWidth 64

/-- A multiply, accumulating or not. -/
def mulOp (opc : Nat) (signed acc : Bool) : Insn := Insn.op opc fun c => do
  extUse c
  prepare c 2 0
  let l ← popN c 2
  let t := (← get).tether c
  modCore c fun k =>
    k.issueMul t ((if acc then k.lastProd else 0) + product signed (lget l 0 1) (lget l 0 0))

def bMul : Insn := mulOp 0x040 true false
def bMulu : Insn := mulOp 0x041 false false
def bMac : Insn := mulOp 0x042 true true
def bMacu : Insn := mulOp 0x043 false true

/-- Quotient and remainder, truncating, with V for the one signed overflow (R128). -/
def divide (signed : Bool) (a b : Word) : Word × Word × Bool :=
  if signed then (a.sdiv b, a.srem b, a == 0x80000000 && b == 0xFFFFFFFF) else (a / b, a % b, false)

/-- A divide: one step of 34 cycles. -/
def divOp (opc : Nat) (signed rem : Bool) : Insn :=
  { Insn.op opc fun c => do
      prepare c 2 1
      let b := lget (← getCore c).view 0 0
      need (b != 0) 0x0A
      let d ← get
      set (d.setCore c (((d.core c).count 3 34).apply (d.tether c) 2 (binary fun f a b =>
        let r := divide signed a b
        let x := if rem then r.2.1 else r.1
        (x, f.znv x r.2.2)))) with cyc := 34 }

def bDiv : Insn := divOp 0x044 true false
def bDivu : Insn := divOp 0x045 false false
def bRem : Insn := divOp 0x046 true true
def bRemu : Insn := divOp 0x047 false true

/-! Parity, bit reverse and CRC (R129). -/

/-- The parity of the low `n` bits. -/
def parity (x : Word) (n : Nat) : Word := toWord (((List.range n).filter (bitOf x)).length % 2)

/-- The bits of each group of `n` in reverse order. -/
def bitRev (n : Nat) (x : Word) : Word :=
  (List.range 32).foldl (fun (v : Word) i => if bitOf x i then v ||| (1 <<< (i / n * n + (n - 1 - i % n))) else v) 0

/-- One byte through the CRC engine, least significant bit first. -/
def crcByte (poly acc x : Word) : Word :=
  (List.range 8).foldl (fun (a : Word) i =>
    let fb := bitOf a 0 != bitOf x i
    if fb then (a >>> 1) ^^^ poly else a >>> 1) acc

/-- A parity result: Z from it, N cleared. -/
def parOp (n : Nat) (k : Core) (l : List Word) : Core × List Word :=
  let p := parity (lget l 0 0) n
  (k.setFlags (k.flags.zOnly (p == 0)), [p])

def bPar8 : Insn := Insn.op 0x060 (stackOp 1 1 (parOp 8))
def bPar32 : Insn := Insn.op 0x061 (stackOp 1 1 (parOp 32))
def bBrev8 : Insn := Insn.op 0x062 (stackOp 1 1 (unary (zn1 (bitRev 8))))
def bBrev16 : Insn := Insn.op 0x063 (stackOp 1 1 (unary (zn1 (bitRev 16))))
def bBrev32 : Insn := Insn.op 0x064 (stackOp 1 1 (unary (zn1 (bitRev 32))))

/-- Z from CACC, the other flags unchanged. -/
def Core.zCacc (k : Core) : Core := { k with z := k.cacc == 0 }

def bCrcb : Insn := Insn.op 0x065 fun c => do
  extUse c
  stackOp 1 0 (fun k l => ({ k with cacc := crcByte k.cpoly k.cacc (lget l 0 0) }.zCacc, [])) c

/-! The rows of the table. -/

/-- `NOP`: NOP does nothing (R89). -/
def execNop (c : Fin 32) (k : Cond) (s : State) : Host.Outcome State Fault Refusal :=
  lift (runInstr c.val k (bNop)) s

/-- `DUP`: DUP copies the top of stack (R89). -/
def execDup (c : Fin 32) (k : Cond) (s : State) : Host.Outcome State Fault Refusal :=
  lift (runInstr c.val k (bDup)) s

/-- `DROP`: DROP pops the top of stack (R89). -/
def execDrop (c : Fin 32) (k : Cond) (s : State) : Host.Outcome State Fault Refusal :=
  lift (runInstr c.val k (bDrop)) s

/-- `SWAP`: SWAP exchanges the top two cells (R89). -/
def execSwap (c : Fin 32) (k : Cond) (s : State) : Host.Outcome State Fault Refusal :=
  lift (runInstr c.val k (bSwap)) s

/-- `OVER`: OVER copies the second cell to the top (R89). -/
def execOverTos (c : Fin 32) (k : Cond) (s : State) : Host.Outcome State Fault Refusal :=
  lift (runInstr c.val k (bOverTos)) s

/-- `ROT`: ROT rotates the top three cells (R89). -/
def execRot (c : Fin 32) (k : Cond) (s : State) : Host.Outcome State Fault Refusal :=
  lift (runInstr c.val k (bRot)) s

/-- `NIP`: NIP removes the second cell (R89). -/
def execNip (c : Fin 32) (k : Cond) (s : State) : Host.Outcome State Fault Refusal :=
  lift (runInstr c.val k (bNip)) s

/-- `TUCK`: TUCK copies the top cell below the second cell (R89). -/
def execTuck (c : Fin 32) (k : Cond) (s : State) : Host.Outcome State Fault Refusal :=
  lift (runInstr c.val k (bTuck)) s

/-- `TWO_DUP`: 2DUP copies the top two cells (R89). -/
def execTwoDup (c : Fin 32) (k : Cond) (s : State) : Host.Outcome State Fault Refusal :=
  lift (runInstr c.val k (bTwoDup)) s

/-- `TWO_DROP`: 2DROP pops the top two cells (R89). -/
def execTwoDrop (c : Fin 32) (k : Cond) (s : State) : Host.Outcome State Fault Refusal :=
  lift (runInstr c.val k (bTwoDrop)) s

/-- `RPUSH`: RPUSH moves a cell from the data stack to the return stack (R90). -/
def execRpush (c : Fin 32) (k : Cond) (s : State) : Host.Outcome State Fault Refusal :=
  lift (runInstr c.val k (bRpush)) s

/-- `RPOP`: RPOP moves a cell from the return stack to the data stack (R90). -/
def execRpop (c : Fin 32) (k : Cond) (s : State) : Host.Outcome State Fault Refusal :=
  lift (runInstr c.val k (bRpop)) s

/-- `RCOPY`: RCOPY copies the top return-stack entry to the data stack (R90). -/
def execRcopy (c : Fin 32) (k : Cond) (s : State) : Host.Outcome State Fault Refusal :=
  lift (runInstr c.val k (bRcopy)) s

/-- `ADD`: ADD adds two cells and sets ZNCV (R125). -/
def execAdd (c : Fin 32) (k : Cond) (s : State) : Host.Outcome State Fault Refusal :=
  lift (runInstr c.val k (bAdd)) s

/-- `SUB`: SUB subtracts two cells and sets ZNCV (R125). -/
def execSub (c : Fin 32) (k : Cond) (s : State) : Host.Outcome State Fault Refusal :=
  lift (runInstr c.val k (bSub)) s

/-- `ADC`: ADC adds two cells and C (R125). -/
def execAdc (c : Fin 32) (k : Cond) (s : State) : Host.Outcome State Fault Refusal :=
  lift (runInstr c.val k (bAdc)) s

/-- `SBC`: SBC subtracts two cells with borrow (R125). -/
def execSbc (c : Fin 32) (k : Cond) (s : State) : Host.Outcome State Fault Refusal :=
  lift (runInstr c.val k (bSbc)) s

/-- `AND`: AND computes the bitwise and of two cells (R125). -/
def execAnd (c : Fin 32) (k : Cond) (s : State) : Host.Outcome State Fault Refusal :=
  lift (runInstr c.val k (bAnd)) s

/-- `OR`: OR computes the bitwise or of two cells (R125). -/
def execOr (c : Fin 32) (k : Cond) (s : State) : Host.Outcome State Fault Refusal :=
  lift (runInstr c.val k (bOr)) s

/-- `XOR`: XOR computes the bitwise exclusive or of two cells (R125). -/
def execXor (c : Fin 32) (k : Cond) (s : State) : Host.Outcome State Fault Refusal :=
  lift (runInstr c.val k (bXor)) s

/-- `NOT`: NOT inverts a cell (R125). -/
def execNot (c : Fin 32) (k : Cond) (s : State) : Host.Outcome State Fault Refusal :=
  lift (runInstr c.val k (bNot)) s

/-- `NEG`: NEG negates a cell (R125). -/
def execNeg (c : Fin 32) (k : Cond) (s : State) : Host.Outcome State Fault Refusal :=
  lift (runInstr c.val k (bNeg)) s

/-- `INC`: INC adds 1 to a cell (R125). -/
def execInc (c : Fin 32) (k : Cond) (s : State) : Host.Outcome State Fault Refusal :=
  lift (runInstr c.val k (bInc)) s

/-- `DEC`: DEC subtracts 1 from a cell (R125). -/
def execDec (c : Fin 32) (k : Cond) (s : State) : Host.Outcome State Fault Refusal :=
  lift (runInstr c.val k (bDec)) s

/-- `CMP`: CMP sets the flags of a subtraction and pops both cells (R125). -/
def execCmp (c : Fin 32) (k : Cond) (s : State) : Host.Outcome State Fault Refusal :=
  lift (runInstr c.val k (bCmp)) s

/-- `TST`: TST sets Z and N from the top cell and clears C and V (R125). -/
def execTst (c : Fin 32) (k : Cond) (s : State) : Host.Outcome State Fault Refusal :=
  lift (runInstr c.val k (bTst)) s

/-- `SHL`: SHL shifts left by bits 4:0 of n (R126). -/
def execShl (c : Fin 32) (k : Cond) (s : State) : Host.Outcome State Fault Refusal :=
  lift (runInstr c.val k (bShl)) s

/-- `SHR`: SHR shifts right logically (R126). -/
def execShr (c : Fin 32) (k : Cond) (s : State) : Host.Outcome State Fault Refusal :=
  lift (runInstr c.val k (bShr)) s

/-- `SAR`: SAR shifts right arithmetically (R126). -/
def execSar (c : Fin 32) (k : Cond) (s : State) : Host.Outcome State Fault Refusal :=
  lift (runInstr c.val k (bSar)) s

/-- `ROL`: ROL rotates left (R126). -/
def execRol (c : Fin 32) (k : Cond) (s : State) : Host.Outcome State Fault Refusal :=
  lift (runInstr c.val k (bRol)) s

/-- `ROR`: ROR rotates right (R126). -/
def execRor (c : Fin 32) (k : Cond) (s : State) : Host.Outcome State Fault Refusal :=
  lift (runInstr c.val k (bRor)) s

/-- `MIN`: MIN returns the signed minimum (R125). -/
def execMin (c : Fin 32) (k : Cond) (s : State) : Host.Outcome State Fault Refusal :=
  lift (runInstr c.val k (bMin)) s

/-- `MAX`: MAX returns the signed maximum (R125). -/
def execMax (c : Fin 32) (k : Cond) (s : State) : Host.Outcome State Fault Refusal :=
  lift (runInstr c.val k (bMax)) s

/-- `MINU`: MINU returns the unsigned minimum (R125). -/
def execMinu (c : Fin 32) (k : Cond) (s : State) : Host.Outcome State Fault Refusal :=
  lift (runInstr c.val k (bMinu)) s

/-- `MAXU`: MAXU returns the unsigned maximum (R125). -/
def execMaxu (c : Fin 32) (k : Cond) (s : State) : Host.Outcome State Fault Refusal :=
  lift (runInstr c.val k (bMaxu)) s

/-- `SEXB`: SEXB sign-extends bits 7:0 (R125). -/
def execSexb (c : Fin 32) (k : Cond) (s : State) : Host.Outcome State Fault Refusal :=
  lift (runInstr c.val k (bSexb)) s

/-- `SEXH`: SEXH sign-extends bits 15:0 (R125). -/
def execSexh (c : Fin 32) (k : Cond) (s : State) : Host.Outcome State Fault Refusal :=
  lift (runInstr c.val k (bSexh)) s

/-- `ZEXB`: ZEXB zero-extends bits 7:0 (R125). -/
def execZexb (c : Fin 32) (k : Cond) (s : State) : Host.Outcome State Fault Refusal :=
  lift (runInstr c.val k (bZexb)) s

/-- `ZEXH`: ZEXH zero-extends bits 15:0 (R125). -/
def execZexh (c : Fin 32) (k : Cond) (s : State) : Host.Outcome State Fault Refusal :=
  lift (runInstr c.val k (bZexh)) s

/-- `CLZ`: CLZ counts the leading zeros (R125). -/
def execClz (c : Fin 32) (k : Cond) (s : State) : Host.Outcome State Fault Refusal :=
  lift (runInstr c.val k (bClz)) s

/-- `POPC`: POPC counts the bits set (R125). -/
def execPopc (c : Fin 32) (k : Cond) (s : State) : Host.Outcome State Fault Refusal :=
  lift (runInstr c.val k (bPopc)) s

/-- `BSWAP`: BSWAP reverses the byte order (R125). -/
def execBswap (c : Fin 32) (k : Cond) (s : State) : Host.Outcome State Fault Refusal :=
  lift (runInstr c.val k (bBswap)) s

/-- `ADDI`: ADDI adds an immediate (R125). -/
def execAddi (c : Fin 32) (k : Cond) (n : ImmForm) (s : State) : Host.Outcome State Fault Refusal :=
  lift (runInstr c.val k (bAddi n)) s

/-- `SUBI`: SUBI subtracts an immediate (R125). -/
def execSubi (c : Fin 32) (k : Cond) (n : ImmForm) (s : State) : Host.Outcome State Fault Refusal :=
  lift (runInstr c.val k (bSubi n)) s

/-- `ANDI`: ANDI ands an immediate (R125). -/
def execAndi (c : Fin 32) (k : Cond) (n : ImmForm) (s : State) : Host.Outcome State Fault Refusal :=
  lift (runInstr c.val k (bAndi n)) s

/-- `ORI`: ORI ors an immediate (R125). -/
def execOri (c : Fin 32) (k : Cond) (n : ImmForm) (s : State) : Host.Outcome State Fault Refusal :=
  lift (runInstr c.val k (bOri n)) s

/-- `XORI`: XORI exclusive-ors an immediate (R125). -/
def execXori (c : Fin 32) (k : Cond) (n : ImmForm) (s : State) : Host.Outcome State Fault Refusal :=
  lift (runInstr c.val k (bXori n)) s

/-- `CMPI`: CMPI sets the flags of a subtraction of an immediate (R125). -/
def execCmpi (c : Fin 32) (k : Cond) (n : ImmForm) (s : State) : Host.Outcome State Fault Refusal :=
  lift (runInstr c.val k (bCmpi n)) s

/-- `LIT_S`: LIT.S pushes a sign-extended 9-bit immediate (R121). -/
def execLitS (c : Fin 32) (k : Cond) (n : BitVec 9) (s : State) : Host.Outcome State Fault Refusal :=
  lift (runInstr c.val k (bLitS n)) s

/-- `LIT`: LIT pushes a 16-bit sign-extended or 32-bit immediate (R121). -/
def execLit (c : Fin 32) (k : Cond) (n : ImmForm) (s : State) : Host.Outcome State Fault Refusal :=
  lift (runInstr c.val k (bLit n)) s

/-- `MUL`: MUL writes the signed 64-bit product to MRH:MRL (R127). -/
def execMul (c : Fin 32) (k : Cond) (s : State) : Host.Outcome State Fault Refusal :=
  lift (runInstr c.val k (bMul)) s

/-- `MULU`: MULU writes the unsigned product (R127). -/
def execMulu (c : Fin 32) (k : Cond) (s : State) : Host.Outcome State Fault Refusal :=
  lift (runInstr c.val k (bMulu)) s

/-- `MAC`: MAC adds the signed product to MRH:MRL (R127). -/
def execMac (c : Fin 32) (k : Cond) (s : State) : Host.Outcome State Fault Refusal :=
  lift (runInstr c.val k (bMac)) s

/-- `MACU`: MACU adds the unsigned product (R127). -/
def execMacu (c : Fin 32) (k : Cond) (s : State) : Host.Outcome State Fault Refusal :=
  lift (runInstr c.val k (bMacu)) s

/-- `DIV`: DIV divides signed, truncating, in one 34-cycle uninterruptible step (R128). -/
def execDiv (c : Fin 32) (k : Cond) (s : State) : Host.Outcome State Fault Refusal :=
  lift (runInstr c.val k (bDiv)) s

/-- `DIVU`: DIVU divides unsigned (R128). -/
def execDivu (c : Fin 32) (k : Cond) (s : State) : Host.Outcome State Fault Refusal :=
  lift (runInstr c.val k (bDivu)) s

/-- `REM`: REM returns the signed remainder (R128). -/
def execRem (c : Fin 32) (k : Cond) (s : State) : Host.Outcome State Fault Refusal :=
  lift (runInstr c.val k (bRem)) s

/-- `REMU`: REMU returns the unsigned remainder (R128). -/
def execRemu (c : Fin 32) (k : Cond) (s : State) : Host.Outcome State Fault Refusal :=
  lift (runInstr c.val k (bRemu)) s

/-- `PAR8`: PAR8 computes the parity of a byte (R129). -/
def execPar8 (c : Fin 32) (k : Cond) (s : State) : Host.Outcome State Fault Refusal :=
  lift (runInstr c.val k (bPar8)) s

/-- `PAR32`: PAR32 computes the parity of a cell (R129). -/
def execPar32 (c : Fin 32) (k : Cond) (s : State) : Host.Outcome State Fault Refusal :=
  lift (runInstr c.val k (bPar32)) s

/-- `BREV8`: BREV8 reverses the bits in each byte (R129). -/
def execBrev8 (c : Fin 32) (k : Cond) (s : State) : Host.Outcome State Fault Refusal :=
  lift (runInstr c.val k (bBrev8)) s

/-- `BREV16`: BREV16 reverses the bits in each half (R129). -/
def execBrev16 (c : Fin 32) (k : Cond) (s : State) : Host.Outcome State Fault Refusal :=
  lift (runInstr c.val k (bBrev16)) s

/-- `BREV32`: BREV32 reverses the bits of the cell (R129). -/
def execBrev32 (c : Fin 32) (k : Cond) (s : State) : Host.Outcome State Fault Refusal :=
  lift (runInstr c.val k (bBrev32)) s

/-- `CRCB`: CRCB feeds one byte into CACC, least significant bit first (R129). -/
def execCrcb (c : Fin 32) (k : Cond) (s : State) : Host.Outcome State Fault Refusal :=
  lift (runInstr c.val k (bCrcb)) s

end Sys2Proof.Machine
end

