-- ==== Sys2Proof/Machine/DmaMove.lean ====
section
/-! DEFINITION. What the DMA engine moves: descriptors, bursts, transforms, completion and retries (spec/14 R294 to R311). -/
namespace Sys2Proof.Machine

/-! Descriptors (R296, R302 to R304). -/

/-- The element size in bytes. -/
def descS (x : Desc) : Nat := 2 ^ fld x.ctl 0 2

/-- Whether the source increments. -/
def srcInc (x : Desc) : Bool := bitOf x.ctl 2

/-- Whether the destination increments. -/
def dstInc (x : Desc) : Bool := bitOf x.ctl 3

/-- The transform. -/
def descForm (x : Desc) : Nat := fld x.ctl 4 3

/-- Whether XFORM 6 re-interleaves. -/
def descDir (x : Desc) : Bool := bitOf x.ctl 7

/-- The channels of XFORM 6. -/
def descK (x : Desc) : Nat := fld x.ctl 8 5

/-- LEN. -/
def descLen (x : Desc) : Nat := fld x.len 0 24

/-- Whether the source side is made of planes. -/
def srcPlanes (x : Desc) : Bool := descForm x == 6 && descDir x

/-- Whether the destination side is made of planes. -/
def dstPlanes (x : Desc) : Bool := descForm x == 6 && !descDir x

/-- The transform unit U in bytes (R302). -/
def descU (x : Desc) : Nat :=
  match descForm x with
  | 0 => descS x
  | 1 => 2
  | 2 | 4 => 4
  | 3 | 5 => 8
  | 6 => descK x * descS x
  | _ => 128

/-- The address of an element in a side of planes (R303). -/
def planeAddr (x : Desc) (base e : Nat) : Nat := base + e % descK x * x.pstride.toNat + e / descK x * descS x

/-- The address of stream element `e` at the source. -/
def srcAddr (x : Desc) (e : Nat) : Nat :=
  if srcPlanes x then planeAddr x x.src.toNat e else if srcInc x then x.src.toNat + e * descS x else x.src.toNat

/-- The address of stream element `e` at the destination. -/
def dstAddr (x : Desc) (e : Nat) : Nat :=
  if dstPlanes x then planeAddr x x.dst.toNat e else if dstInc x then x.dst.toNat + e * descS x else x.dst.toNat

/-- POOL: DST comes from the buffer pool (R306). -/
def descPool (x : Desc) : Bool := bitOf x.ctl 20

/-- Reserved bits and field values (R296, R302, R306): CODE 3. The sizes of the table of R302 are in bytes (log 50). -/
def paramBad (x : Desc) : Bool :=
  let f := descForm x
  let s := descS x
  fld x.len 24 8 != 0 || fld x.ctl 22 10 != 0 || fld x.ctl 13 3 != 0 || fld x.ctl 0 2 == 3 ||
  (f == 1 && 2 < s) || ((f == 4 || f == 5) && s < 2) || (f == 7 && s != 4) ||
  (if f == 6 then descK x < 2 || 24 < descK x || x.pstride.toNat < descLen x / descK x ||
      (if descDir x then !srcInc x else !dstInc x)
    else x.pstride != 0) ||
  (descPool x && (!dstInc x || 256 < descLen x || 5 < f)) || descLen x < fld x.status 0 24

/-- What an incrementing side must be a multiple of (R302). -/
def sideAlign (x : Desc) : Nat :=
  match descForm x with
  | 0 => descS x
  | 1 => 2
  | 2 | 4 | 7 => 4
  | 3 | 5 => 8
  | _ => 1

/-- Addresses, LEN, DONE and PSTRIDE (R302): CODE 2. -/
def alignBad (x : Desc) : Bool :=
  let u := descU x
  let side (inc : Bool) (a : Nat) : Bool := a % (if inc then sideAlign x else descS x) != 0
  u == 0 || descLen x % u != 0 || fld x.status 0 24 % u != 0 || (descForm x == 6 && x.pstride.toNat % descS x != 0) ||
  side (srcInc x) x.src.toNat || (!descPool x && side (dstInc x) x.dst.toNat)

/-- The unit a peripheral address lies in, for the units a fold may own or have access to; of the event router it is the fold's own
slice. -/
def unitAt (f a : Nat) : Option UnitId :=
  let off := a % 0x10000
  match a / 0x10000 with
  | 0x4030 => some .afe
  | 0x4034 => some .gpio
  | 0x4035 => if off % 0x4000 < 0x400 then some (pwmU (off % 0x4000 / 0x40)) else none
  | 0x4002 => some (evrU f)
  | base => (portAt base off).map portUnit

/-- The first address of each page of a range, and of its start. -/
def pageStarts (a n : Nat) : List Nat :=
  if n == 0 then [] else (List.range ((a + n - 1) / 4096 - a / 4096 + 1)).map fun i => max a ((a / 4096 + i) * 4096)

/-- The failure of a range against the windows of the owning fold, if any: WINDOW or ABSENT, with the address (R304). -/
def spanBad (d : Dev) (c a n : Nat) (k : Acc) : Option (Nat × Nat) :=
  (pageStarts a n).findSome? fun x =>
    match dmaCheck d c x 1 k with
    | some 4 => some (4, x)
    | some 5 => some (5, x)
    | _ => none

/-- The failure of one side of a descriptor. -/
def sideBad (d : Dev) (c : Nat) (x : Desc) (base : Nat) (inc planes : Bool) (k : Acc) : Option (Nat × Nat) :=
  if planes then
    (List.range (descK x)).findSome? fun i => spanBad d c (base + i * x.pstride.toNat) (descLen x / descK x) k
  else if inc then spanBad d c base (descLen x) k
  else if isRegs base then
    let f := (d.chan c).own.getD 0
    match unitAt f base with
    | none => some (4, base)
    | some u => if !unitPresent d.variant u then some (5, base) else if foldReaches d f u then none else some (4, base)
  else spanBad d c base (descS x) k

/-- The first R304 failure of a descriptor at an address: code and address. -/
def descBad (d : Dev) (c : Nat) (x : Desc) (a : Nat) : Option (Nat × Nat) :=
  if paramBad x then some (3, a)
  else if descLen x == 0 then none
  else if alignBad x then some (2, a)
  else
    match sideBad d c x x.src.toNat (srcInc x) (srcPlanes x) .r with
    | some e => some e
    | none => if descPool x then none else sideBad d c x x.dst.toNat (dstInc x) (dstPlanes x) .w

/-! Beats and accesses (R295, R300, R310). -/

/-- A read of up to four bytes inside one cell of memory or of a register. -/
def beatRead (d : Dev) (c a n : Nat) : Dev × Except Nat Word :=
  if !isRegs a then dmaMemRead d c a n
  else
    match takeErr d c with
    | (d, true) => (d, .error 6)
    | (d, false) =>
      match anyRead d (reqOf d (.dma (Fin.ofNat 64 c))) a n ("dma" ++ toString c) (dmaU c) with
      | (d, .ok v) => (d, .ok v)
      | (d, .error (e, ecc)) => (d, .error (if ecc then 7 else dmaCodeOf e))

/-- A write of up to four bytes inside one cell. -/
def beatWrite (d : Dev) (c a : Nat) (v : Word) (n : Nat) : Dev × Option Nat :=
  if !isRegs a then dmaMemWrite d c a v n
  else
    match takeErr d c with
    | (d, true) => (d, some 6)
    | (d, false) =>
      match anyWrite d (reqOf d (.dma (Fin.ofNat 64 c))) a v n with
      | (d, .exc e) => (d, some (dmaCodeOf e))
      | (d, .refused _) => (d, some 6)
      | (d, .done) => (d, none)

/-- `n` bytes of a number, least significant first. -/
def bytesOf (v : Word) (n : Nat) : List Byte := (List.range n).map fun i => (v >>> (8 * i)).setWidth 8

/-- The number made of at most four bytes, least significant first. -/
def wordOf (l : List Byte) : Word := l.foldr (fun b v => (v <<< 8) ||| b.setWidth 32) 0

/-- Reads an element, which may cross a cell in a side of planes. -/
def elemRead (d : Dev) (c a n : Nat) : Dev × Except Nat (List Byte) :=
  let k := min n (4 - a % 4)
  match beatRead d c a k with
  | (d, .error e) => (d, .error e)
  | (d, .ok v) =>
    if k == n then (d, .ok (bytesOf v n))
    else
      match beatRead d c (a + k) (n - k) with
      | (d, .error e) => (d, .error e)
      | (d, .ok w) => (d, .ok (bytesOf v k ++ bytesOf w (n - k)))

/-- Writes an element. -/
def elemWrite (d : Dev) (c a : Nat) (l : List Byte) : Dev × Option Nat :=
  let k := min l.length (4 - a % 4)
  match beatWrite d c a (wordOf (l.take k)) k with
  | (d, some e) => (d, some e)
  | (d, none) => if k == l.length then (d, none) else beatWrite d c (a + k) (wordOf (l.drop k)) (l.length - k)

/-- A beat is charged for each access to a fixed address, and where an element starts a burst or a 16-byte beat. -/
def chargeElem (d : Dev) (c a s : Nat) (fixed first : Bool) : Dev :=
  if fixed || first || a % 16 < s then dmaCharge d c a else d

/-! Transforms (R303). -/

/-- Reverses each group of `n` bytes. -/
def swapBytes (n : Nat) (l : List Byte) : List Byte :=
  (List.range l.length).map fun i => l.getD (i / n * n + (n - 1 - i % n)) 0

/-- Reverses the halves of each group of `n` bytes. -/
def swapHalves (n : Nat) (l : List Byte) : List Byte :=
  (List.range l.length).map fun i => l.getD (i / n * n + (n - 2 - i % n / 2 * 2) + i % 2) 0

/-- Transposes 32 cells: bit `i` of cell `j` becomes bit `j` of cell `i`. -/
def transpose (l : List Byte) : List Byte :=
  (List.range 128).map fun b =>
    (List.range 8).foldl (fun (acc : Byte) t =>
      let i := b % 4 * 8 + t
      let j := b / 4
      if (l.getD (4 * i + j / 8) 0).getLsbD (j % 8) then acc ||| (1 <<< t) else acc) 0

/-- The transform of one unit. The reshuffle of XFORM 6 lies in its addresses. -/
def transformUnit (x : Desc) (l : List Byte) : List Byte :=
  match descForm x with
  | 1 => swapBytes 2 l
  | 2 => swapBytes 4 l
  | 3 => swapBytes 8 l
  | 4 => swapHalves 4 l
  | 5 => swapHalves 8 l
  | 7 => transpose l
  | _ => l

/-! Moving data. -/

/-- Reads the elements the unit under way still lacks, at most `n`: the residue grows by each. A refusal gives its code and address. -/
def readElems (n : Nat) (d : Dev) (c : Nat) (x : Desc) (first : Bool) : Dev × Option (Nat × Nat) :=
  match n with
  | 0 => (d, none)
  | n + 1 =>
    let k := d.chan c
    let s := descS x
    let base := k.done - k.done % descU x
    let a := srcAddr x ((base + k.resid.length) / s)
    let d := chargeElem d c a s (!srcInc x) (first && (srcPlanes x || k.resid.isEmpty))
    match elemRead d c a s with
    | (d, .error e) => (d, some (e, a))
    | (d, .ok l) => readElems n (d.updChan c fun k => { k with resid := k.resid ++ l, tries := 0 }) c x first

/-- Writes the elements of the complete unit `l` from DONE on; DONE counts each accepted (R308). -/
def writeElems (n : Nat) (d : Dev) (c : Nat) (x : Desc) (l : List Byte) (first : Bool) : Dev × Option (Nat × Nat) :=
  match n with
  | 0 => (d, none)
  | n + 1 =>
    let k := d.chan c
    let s := descS x
    let u := descU x
    let a := dstAddr x (k.done / s)
    let e := (l.drop (k.done % u)).take s
    let d := chargeElem d c a s (!dstInc x) (first && (dstPlanes x || k.done % u == 0))
    match elemWrite d c a e with
    | (d, some code) => (d, some (code, a))
    | (d, none) =>
      let last := k.done % u + s == u
      writeElems n (d.updChan c fun k =>
        { k with done := k.done + s, lastElem := e, tries := 0, resid := if last then [] else k.resid }) c x l first

/-- One unit: all of it is read before any part is written. -/
def moveUnit (d : Dev) (c : Nat) (x : Desc) (first : Bool) : Dev × Option (Nat × Nat) :=
  let k := d.chan c
  match readElems ((descU x - k.resid.length) / descS x) d c x first with
  | (d, some e) => (d, some e)
  | (d, none) =>
    let k := d.chan c
    writeElems ((descU x - k.done % descU x) / descS x) d c x (transformUnit x k.resid) first

/-- The units up to a value of DONE; `n` bounds their number. -/
def moveUnits (n : Nat) (d : Dev) (c : Nat) (x : Desc) (target : Nat) (first : Bool) : Dev × Option (Nat × Nat) :=
  match n with
  | 0 => (d, none)
  | n + 1 =>
    if target ≤ (d.chan c).done then (d, none)
    else
      match moveUnit d c x first with
      | (d, some e) => (d, some e)
      | (d, none) => moveUnits n d c x target false

/-- HALF, once per pass, when DONE has reached half of LEN; a HALF that falls due with the end of a pass that raises FULL waits for it
(R305). -/
def raiseHalf (d : Dev) (c : Nat) (x : Desc) : Dev :=
  let k := d.chan c
  let h := descLen x / 2 / descU x * descU x
  if !bitOf x.ctl 16 || h == 0 || k.halfDone || k.done < h then d
  else if k.done == descLen x && bitOf x.ctl 17 then d.updChan c fun k => { k with halfDone := true, halfPend := true }
  else fireSource (d.updChan c fun k => { k with halfDone := true, half := true }) (104 + 2 * c)

/-- Frees the mover of a channel at the end of its burst; a stop that waits is carried out, and a transfer that is complete goes on to its
read-back. -/
def burstEnd (d : Dev) (c : Nat) : Dev :=
  let d := dmaCutoff d c
  let k := d.chan c
  if k.stage != .data then d
  else if k.stopReq then stopNow d c
  else
    match k.desc with
    | some x => if descLen x ≤ k.done then d.updChan c fun k => { k with stage := .readback } else d
    | none => d

/-- Sets what is left of a mover's burst. -/
def setMover (d : Dev) (i : Nat) (m : Mover) : Dev := { d with dma := { d.dma with movers := lset d.dma.movers i m } }

/-- Moves the rest of the burst of mover `i`: to its end, or to the refusal of a beat. -/
def burstRun (d : Dev) (i c : Nat) (m : Mover) : Dev :=
  match (d.chan c).desc with
  | none => dmaCutoff d c
  | some x =>
    let start := (d.chan c).done
    let target := start + m.bytes
    let r := moveUnits (m.bytes + 1) d c x target true
    let d := raiseHalf r.1 c x
    let moved := (d.chan c).done - start
    match r.2 with
    | none => burstEnd d c
    | some (e, a) => dmaRefused (setMover d i { m with bytes := m.bytes - moved }) c e a


/-! Starting a burst (R294, R299, R300, R306). -/

/-- Whether power-state command or a reset holds the movers (R309, R284). -/
def moversHeld (d : Dev) : Bool :=
  !d.clocked || (match d.pmu.trans with
    | some t => t.target == .retain || t.target == .spore || t.target == .off
    | none => false)

/-- Whether a channel is IDLE or ACTIVE. -/
def chanUp (d : Dev) (c : Nat) : Bool :=
  let r := d.unit (dmaU c)
  (r.st == .idle || r.st == .active) && !r.resetting

/-- Whether a channel is eligible (R294). -/
def eligible (d : Dev) (c : Nat) : Bool :=
  let k := d.chan c
  chanUp d c && k.stage == .data && k.desc.isSome && !k.backing && (moverOf d c).isNone && (k.src == 0 || k.req && queueUp d k.src)

/-- Whether mover `i` is free. -/
def moverFree (d : Dev) (i : Nat) : Bool := !(lget d.dma.movers Mover.reset i).busy

/-- The lowest free mover a channel may use. -/
def moverFor (d : Dev) (c : Nat) : Option Nat :=
  (List.range 4).find? fun i => moverFree d i && (d.chan c).movers.testBit i

/-- The channel served next at a priority: ascending from the one last served, in a round. -/
def nextChan (d : Dev) (prio : Nat) : Option Nat :=
  let last := d.dma.rr.getD prio 63
  ((List.range 64).map fun j => (last + 1 + j) % 64).find? fun c =>
    eligible d c && (d.chan c).prio == prio && (moverFor d c).isSome

/-- The bytes to the next 256-byte boundary on a side, which bounds an incrementing side only; a side of planes is not bounded by it
(log 51). -/
def boundary (inc planes : Bool) (a : Nat) : Nat := if inc && !planes then 256 - a % 256 else 256

/-- The length of a burst (R300). -/
def burstLen (d : Dev) (c : Nat) (x : Desc) : Nat :=
  let k := d.chan c
  let n := min 256 (min (descLen x - k.done)
    (min (boundary (srcInc x) (srcPlanes x) (x.src.toNat + k.done)) (boundary (dstInc x) (dstPlanes x) (x.dst.toNat + k.done))))
  let n := if k.src == 0 then n else min n (chanLevel d c - k.low)
  n / descU x * descU x

/-- Whether a channel still lacks its buffer (R306). -/
def lacksBuf (k : Channel) : Bool := (match k.desc with | some x => descPool x | none => false) && k.buf.isNone

/-- A granted buffer replaces DST. -/
def takeBuf (d : Dev) (c b : Nat) : Dev :=
  d.updChan c fun k => { k with buf := some b, desc := k.desc.map fun x => { x with dst := toWord (bufAddr b) } }

/-- No buffer: counted, and asked for again at the next burst. -/
def noBuf (d : Dev) (c : Nat) : Dev := d.updChan c fun k => { k with cntNobuf := satInc k.cntNobuf 255 }

/-- The ports to which the elements of a burst go. -/
def burstPorts (d : Dev) (c : Nat) (x : Desc) (n : Nat) : List Nat :=
  let s := descS x
  ((List.range (n / s)).flatMap fun i =>
    let e := (d.chan c).done / s + i
    [targetPort (srcAddr x e), targetPort (dstAddr x e)]).eraseDups

/-- A mover takes a channel. -/
def burstStart (d : Dev) (i c : Nat) : Dev :=
  let d := { d with dma := { d.dma with rr := lset d.dma.rr (d.chan c).prio c } }
  let ask : Dev × Bool :=
    if lacksBuf (d.chan c) then
      match bufRequest d (32 + c) ((d.chan c).own.getD 0) with
      | (d, some b) => (takeBuf d c b, true)
      | (d, none) => (noBuf d c, false)
    else (d, true)
  let d := ask.1
  match (d.chan c).desc with
  | none => d
  | some x =>
    let n := burstLen d c x
    if !ask.2 || n == 0 then d
    else setMover (hwMove d (dmaU c) .active) i { ch := c, busy := true, bytes := n, ports := burstPorts d c x n, prom := 0, cut := none }

/-- A free mover takes the highest-priority eligible channel (R294). -/
def mDmaBurstStart (d : Dev) : Dev :=
  if moversHeld d then d else
  match [3, 2, 1, 0].findSome? fun p => nextChan d p with
  | none => d
  | some c => match moverFor d c with | none => d | some i => burstStart d i c

/-! The request (R299, R308). -/

/-- The level has risen to HIGH: the request asserts. -/
def mDmaRequestAssert (c : Fin 64) (d : Dev) : Dev :=
  let k := d.chan c.val
  if unitPresent d.variant (.dma c) && d.clocked && k.src != 0 && k.own.isSome && !k.req && queueUp d k.src && k.high ≤ chanLevel d c.val
  then d.updChan c.val fun k => { k with req := true }
  else d

/-- The first `issued` beats or accesses of a burst: whole units are moved, the rest of what was read is the residue (R308). -/
def beatsRun (d : Dev) (c : Nat) (x : Desc) (m : Mover) (issued : Nat) : Dev × Option (Nat × Nat) :=
  let u := descU x
  let s := descS x
  let k := d.chan c
  let step := if srcInc x then 16 else s
  let got := min (k.resid.length + step * min issued 4) (m.bytes + k.done % u)
  let base := k.done - k.done % u
  let r := moveUnits (got + 1) d c x (base + got / u * u) true
  let r : Dev × Option (Nat × Nat) := match r.2 with
    | none => readElems ((got % u - (r.1.chan c).resid.length) / s) r.1 c x (got < u)
    | some _ => r
  (raiseHalf r.1 c x, r.2)

/-- The burst of mover `i` is cut short after `issued` beats or accesses. -/
def burstCut (d : Dev) (c : Nat) (m : Mover) (issued : Nat) : Dev :=
  match (d.chan c).desc with
  | none => dmaCutoff d c
  | some x =>
    let r := beatsRun d c x m issued
    let d := r.1.updChan c fun k => { k with short := true, descShort := true, cntShort := satInc k.cntShort 0xFFFF }
    match r.2 with
    | none => burstEnd d c
    | some (e, a) => dmaRefused (dmaCutoff d c) c e a

/-- The issued beats of a burst that a fence or a reset has cut off complete, and the mover is free; a beat refused now is cancelled with
the rest (R309; spec/04 R79). -/
def cutRun (d : Dev) (c : Nat) (m : Mover) (issued : Nat) : Dev :=
  match (d.chan c).desc with
  | none => dmaCutoff d c
  | some x => dmaCutoff (beatsRun d c x m issued).1 c

/-- The ports have granted a burst, which holds them to its end: its last write is accepted, or a beat of it is refused. DONE, HALF, and the
mover is free (R300, R305, R310, spec/13 R273). -/
def mDmaBurstComplete (m : Fin 4) (d : Dev) : Dev :=
  let v : Mover := lget d.dma.movers Mover.reset m.val
  if v.busy && d.clocked && !(d.chan v.ch).backing then
    match v.cut with
    | some n => cutRun d v.ch v n
    | none => whenGranted d v.ports (chanClassNow d v.ch) (d.chan v.ch).own (burstRun d m.val v.ch v)
  else d

/-- The level has fallen to LOW, the queue's unit has left service, or the injected withdrawal of R315 is due: the request is withdrawn and a
burst under way is shortened. -/
def mDmaRequestWithdraw (c : Fin 64) (issued : Nat) (d : Dev) : Dev :=
  let k := d.chan c.val
  let m := moverOf d c.val
  let inj := k.injWith && m.isSome
  if k.req && (inj || !queueUp d k.src || chanLevel d c.val ≤ k.low) then
    let d := d.updChan c.val fun k => { k with req := false, injWith := k.injWith && !inj }
    match m with
    | none => d
    | some i =>
      let m : Mover := lget d.dma.movers Mover.reset i
      if k.backing || m.cut.isSome then d else burstCut d c.val m issued
  else d

/-! Descriptors (R297, R305, R309). -/

/-- Reads a cell of the ring. -/
def ringCell (d : Dev) (c a : Nat) : Dev × Except (Nat × Nat) Word :=
  match dmaMemRead d c a 4 with
  | (d, .ok v) => (d, .ok v)
  | (d, .error e) => (d, .error (e, a))

/-- Reads several cells of the ring, stopping at a refusal. -/
def ringCells (d : Dev) (c : Nat) (l : List Nat) : Dev × Except (Nat × Nat) (List Word) :=
  match l with
  | [] => (d, .ok [])
  | a :: r =>
    match ringCell d c a with
    | (d, .error e) => (d, .error e)
    | (d, .ok v) =>
      match ringCells d c r with
      | (d, .ok w) => (d, .ok (v :: w))
      | (d, .error e) => (d, .error e)

/-- A descriptor from its cells. -/
def descOf (l : List Word) : Desc :=
  { src := l.getD 0 0, dst := l.getD 1 0, len := l.getD 2 0, ctl := l.getD 3 0, pstride := l.getD 4 0, status := l.getD 5 0 }

/-- The cells the engine reads of a descriptor; it never reads 0x14 and 0x18. -/
def descCells (a : Nat) : List Nat := [a, a + 4, a + 8, a + 12, a + 16, a + 28]

/-- Residue that no longer fits DONE is discarded and counted. -/
def fitResidue (d : Dev) (c done : Nat) : Dev :=
  d.updChan c fun k =>
    if k.done == done then k
    else { k with done := done, cntReslost := satAdd k.cntReslost k.resid.length 255, resid := [], lastElem := [] }

/-- A transfer begins, or resumes, at DONE. -/
def transferStart (d : Dev) (c : Nat) (x : Desc) : Dev :=
  let len := descLen x
  let h := len / 2 / (max 1 (descU x)) * descU x
  let d := d.updChan c fun k =>
    { k with desc := some x, code := 0, tries := 0, descShort := bitOf x.status 28, halfDone := h != 0 && h ≤ k.done, buf := none,
             stage := if len == 0 then .writeback else if len ≤ k.done then .readback else .data }
  hwMove d (dmaU c) .active

/-- The fetch at HEAD. -/
def fetchRun (d : Dev) (c : Nat) : Dev :=
  let a := headAddr (d.chan c)
  let d := dmaCharge (dmaCharge d c a) c (a + 16)
  match ringCells d c (descCells a) with
  | (d, .error (e, x)) => dmaRefused d c e x
  | (d, .ok l) =>
    let x := descOf l
    if !bitOf x.status 31 then
      hwMove (d.updChan c fun k => { k with stage := .idle, desc := none, tries := 0 }) (dmaU c) .idle
    else
      let d := fitResidue d c (fld x.status 0 24)
      match descBad d c x a with
      | some (e, y) => dmaHalt d c e y
      | none => transferStart d c x

/-- The address that the read-back reads: the last element, or the side-effect-free alias of a register. -/
def readbackAddr (x : Desc) : Nat :=
  let a := dstAddr x (descLen x / descS x - 1)
  if !dstInc x && isRegs a then a + 0x4000 else a

/-- The ports of what a channel's stage asks for next. -/
def chanPorts (d : Dev) (c : Nat) : List Nat :=
  let k := d.chan c
  let a := headAddr k
  let l := match k.stage, k.desc with
    | .fetch, _ => [a, a + 16]
    | .readback, some x => [readbackAddr x, a + 28]
    | .writeback, _ => [a + 28]
    | _, _ => []
  let m := match moverOf d c with | some i => (lget d.dma.movers Mover.reset i).ports | none => []
  if k.stage == .data then m else l.map targetPort

/-- A channel's next request goes on where its ports grant it (spec/13 R273). -/
def chanGranted (d : Dev) (c : Nat) (go : Dev) : Dev := whenGranted d (chanPorts d c) (chanClassNow d c) (d.chan c).own go

/-- The engine reads the descriptor at HEAD. -/
def mDescriptorFetch (c : Fin 64) (d : Dev) : Dev :=
  let k := d.chan c.val
  if chanUp d c.val && d.clocked && k.stage == .fetch && !k.backing then chanGranted d c.val (fetchRun d c.val) else d

/-- The read-back: with VFY it must give the last element written. -/
def readbackRun (d : Dev) (c : Nat) (x : Desc) : Dev × Option (Nat × Nat) :=
  let a := readbackAddr x
  match elemRead (dmaCharge d c a) c a (descS x) with
  | (d, .error e) => (d, some (e, a))
  | (d, .ok l) =>
    let k := d.chan c
    if bitOf x.ctl 18 && !k.lastElem.isEmpty && l != k.lastElem then (d, some (8, a))
    else (d.updChan c fun k => { k with stage := .writeback, tries := 0 }, none)

/-- Cell 0x04 with POOL, then the status cell. -/
def writebackRun (d : Dev) (c : Nat) (x : Desc) : Dev × Option (Nat × Nat) :=
  let k := d.chan c
  let a := headAddr k
  let dst : Dev × Option Nat := if descPool x && descLen x != 0 then dmaMemWrite (dmaCharge d c (a + 4)) c (a + 4) x.dst 4 else (d, none)
  match dst with
  | (d, some e) => (d, some (e, a + 4))
  | (d, none) =>
    match dmaMemWrite (dmaCharge d c (a + 28)) c (a + 28) (statusCell (bitOf x.ctl 21) k 0 (descLen x)) 4 with
    | (d, some e) => (d, some (e, a + 28))
    | (d, none) => (d, none)

/-- FULL, with a HALF that waited for it. -/
def raiseFull (d : Dev) (c : Nat) (x : Desc) : Dev :=
  let k := d.chan c
  let fire := bitOf x.ctl 17 || k.halfPend
  let d := d.updChan c fun k => { k with full := k.full || bitOf x.ctl 17, half := k.half || k.halfPend, halfPend := false }
  if fire then fireSource d (104 + 2 * c) else d

/-- What follows a completed descriptor: its repetition with KEEP (log 52), else the next entry, or IDLE after LAST or a stop. -/
def descNext (d : Dev) (c : Nat) (x : Desc) : Dev :=
  let idle := bitOf x.ctl 19 && !bitOf x.ctl 21
  let d := d.updChan c fun k =>
    let k := { k with cntDesc := (k.cntDesc + 1) % 65536, code := 0, tries := 0, done := 0, resid := [], halfDone := false,
                      descShort := false, buf := none, lastElem := [] }
    if bitOf x.ctl 21 then { k with stage := if k.stopReq then .idle else if descLen x == 0 then .writeback else .data }
    else { k with desc := none, head := (k.head + 1) % (k.rsize + 1), stage := if idle || k.stopReq then .idle else .fetch }
  let stop := (d.chan c).stopReq
  let d := d.updChan c fun k => { k with stopReq := false }
  if idle || stop then hwMove d (dmaU c) .idle else d

/-- The write-back and what it brings. -/
def finishRun (d : Dev) (c : Nat) (x : Desc) : Dev :=
  match writebackRun d c x with
  | (d, some (e, a)) => dmaRefused d c e a
  | (d, none) => descNext (raiseFull d c x) c x

/-- Completion in the order of R305. -/
def completeRun (d : Dev) (c : Nat) : Dev :=
  match (d.chan c).desc with
  | none => d
  | some x =>
    if (d.chan c).stage == .readback then
      match readbackRun d c x with
      | (d, some (e, a)) => dmaRefused d c e a
      | (d, none) => finishRun d c x
    else finishRun d c x

/-- The channel's completion. -/
def mDmaDescriptorComplete (c : Fin 64) (d : Dev) : Dev :=
  let k := d.chan c.val
  if chanUp d c.val && d.clocked && !k.backing && (k.stage == .readback || k.stage == .writeback) then
    chanGranted d c.val (completeRun d c.val)
  else d

/-- After the backoff: what was refused is issued again; of a burst, the rest is moved (R310). -/
def retryRun (d : Dev) (c : Nat) : Dev :=
  let d := d.updChan c fun k => { k with backing := false, tries := k.tries + 1, cntRetry := satInc k.cntRetry 0xFFFF }
  match (d.chan c).stage with
  | .fetch => fetchRun d c
  | .readback | .writeback => completeRun d c
  | .stopping => stopBack d c
  | .data => match moverOf d c with
    | some i => burstRun d i c (lget d.dma.movers Mover.reset i)
    | none => d
  | .idle => d

/-- The retry of a refused access. -/
def mDmaRetry (c : Fin 64) (d : Dev) : Dev :=
  if chanUp d c.val && d.clocked && (d.chan c.val).backing then chanGranted d c.val (retryRun d c.val) else d

/-! `x dma desc` (R315). -/

/-- A ring entry as it stands in memory. -/
def peekDesc (d : Dev) (a : Nat) : Desc := descOf ((descCells a).map fun x => plainRead d x 4)

/-- What is shown of a ring entry. -/
def descFields (d : Dev) (c i : Nat) : List (String × String) :=
  let a := (d.chan c).rbase.toNat + 32 * i
  let x := peekDesc d a
  [("src", hex32 x.src), ("dst", hex32 x.dst), ("len", toString (descLen x)), ("ctl", hex32 x.ctl), ("pstride", hex32 x.pstride),
   ("status", hex32 x.status), ("check", match descBad d c x a with | none => "OK" | some (e, _) => dmaCodeName e)]

def vXDmaDesc (o : Via) (c : Fin 64) (i : Option Nat) (d : Dev) : Dev :=
  verb o .engineer [.dma c] (fun d =>
    let k := d.chan c.val
    let n := i.getD k.head
    if k.rsize < n then vEr d 10 "" else vShow "x dma desc" (fun d => descFields d c.val n) d) d

/-! The rows of the table. -/

/-- `DMA_REQUEST_ASSERT`: A queue level rising to HIGH asserts the channel's request (R299). -/
def execDmaRequestAssert (c : Fin 64) (s : State) : Host.Outcome State Fault Refusal :=
  lift (mDmaRequestAssert c) s

/-- `DMA_REQUEST_WITHDRAW`: The level falling to LOW, or the queue's unit leaving service, withdraws the request and shortens a running burst (R308). -/
def execDmaRequestWithdraw (c : Fin 64) (issued : Nat) (s : State) : Host.Outcome State Fault Refusal :=
  lift (mDmaRequestWithdraw c issued) s

/-- `DESCRIPTOR_FETCH`: The engine reads the descriptor at HEAD and checks it, then starts the transfer or goes IDLE when OWN is 0 (R297). -/
def execDescriptorFetch (c : Fin 64) (s : State) : Host.Outcome State Fault Refusal :=
  lift (mDescriptorFetch c) s

/-- `DMA_BURST_START`: A free mover takes the highest-priority eligible channel and starts a burst of computed length (R294). -/
def execDmaBurstStart (s : State) : Host.Outcome State Fault Refusal :=
  lift (mDmaBurstStart) s

/-- `DMA_BURST_COMPLETE`: A burst's last write is accepted, DONE advances and HALF may be raised (R300). -/
def execDmaBurstComplete (m : Fin 4) (s : State) : Host.Outcome State Fault Refusal :=
  lift (mDmaBurstComplete m) s

/-- `DMA_DESCRIPTOR_COMPLETE`: With all writes accepted, the engine reads back, writes back the status, raises FULL and advances HEAD (R305). -/
def execDmaDescriptorComplete (c : Fin 64) (s : State) : Host.Outcome State Fault Refusal :=
  lift (mDmaDescriptorComplete c) s

/-- `DMA_RETRY`: After the backoff, a refused access is re-issued, and when retries are exhausted the channel faults with !DMA FAULT (R310). -/
def execDmaRetry (c : Fin 64) (s : State) : Host.Outcome State Fault Refusal :=
  lift (mDmaRetry c) s

/-- `X_DMA_DESC`: Brenex x dma desc decodes a ring entry (R315). -/
def execXDmaDesc (o : Via) (c : Fin 64) (n : Option Nat) (s : State) : Host.Outcome State Fault Refusal :=
  lift (row o (vXDmaDesc o c n)) s

end Sys2Proof.Machine
end

