-- ==== Sys2Proof/Machine/Flow.lean ====
section
/-! DEFINITION. Flow control and frame windows (spec/05 R94, R95, spec/06 R135, spec/07 R149). -/
namespace Sys2Proof.Machine

/-- The PC becomes the instruction's own address plus 2 × offset; `n` is the instruction's length in syllables. -/
def Core.branch (k : Core) (n : Nat) (off : Word) : Core := { k with pc := herePc k n + off + off }

def bBrS (i : BitVec 9) : Insn :=
  { syl := shortSyl 1 i, str := false, ld := false, cyc := 2, run := fun c => modCore c fun k => k.branch 1 (i.signExtend 32) }

def bBr (i : ImmForm) : Insn :=
  { syl := immSyl 2 0 i, str := false, ld := false, cyc := 2,
    run := fun c => modCore c fun k => k.branch (immSyl 2 0 i).length (immWord i) }

def bCall (i : ImmForm) : Insn :=
  { syl := immSyl 2 1 i, str := false, ld := false, cyc := 2,
    run := fun c => do
      let n := (immSyl 2 1 i).length
      let k ← getCore c
      pushRet c (herePc k n) k.pc
      modCore c fun j => { j with pc := (k.branch n (immWord i)).pc }
      tetherCycle c }

/-- A target with bit 0 set raises 0x07 before any effect (R135). -/
def needEven (a : Word) : IM Unit := if bitOf a 0 then raiseAt 0x07 0 a.toNat else pure ()

def bRet : Insn :=
  { Insn.op 0x080 fun c => do
      let v ← topRet c
      needEven v
      dropRet c
      modCore c fun k => { k with pc := v }
      tetherCycle c with cyc := 2 }

def bJmpt : Insn :=
  { Insn.op 0x081 fun c => do
      prepare c 1 0
      needEven (lget (← getCore c).view 0 0)
      let l ← popN c 1
      modCore c fun k => { k with pc := lget l 0 0 } with cyc := 2 }

def bCallt : Insn :=
  { Insn.op 0x082 fun c => do
      prepare c 1 0
      needEven (lget (← getCore c).view 0 0)
      let l ← popN c 1
      let k ← getCore c
      pushRet c (herePc k 1) k.pc
      modCore c fun k => { k with pc := lget l 0 0 }
      tetherCycle c with cyc := 2 }

/-- A new window below the current one. -/
def Core.enterWin (k : Core) (t : Bool) : Core :=
  let b := k.bank
  let k := k.setBank { b with fp := b.fp - 48, wn := b.wn + 12 }
  if t then { k with hwmWin := lset k.hwmWin k.lvl (max (lget k.hwmWin 0 k.lvl) (k.hiddenWins + winCount k.bank.wn - 1)) } else k

/-- The addresses of the twelve cells that LEAVE gives up. -/
def leftCells (b : Bank) : List Nat := (List.range 12).map b.winAddr

/-- The previous window. -/
def Core.leaveWin (k : Core) : Core :=
  let b := k.bank
  k.setBank { b with fp := b.fp + 48, wn := b.wn - 12, wc := b.wc.filter fun x => !(leftCells b).contains x.1 }

/-- ENTER: 0x05 with four windows of a Tether level in use; in Drove the oldest window is spilled for room (R95). -/
def bEnter : Insn := Insn.op 0x083 fun c => do
  let d ← get
  let k := d.core c
  if d.tether c then need (k.hiddenWins + winCount k.bank.wn < 4) 0x05 else spillWin 12 c 88
  modCore c fun k => k.enterWin (d.tether c)

/-- LEAVE: 0x06 from the first window of a Tether level, and in Drove where FP equals FBASE (R95, R149). -/
def bLeave : Insn := Insn.op 0x084 fun c => do
  let d ← get
  let k := d.core c
  need (if d.tether c then 1 < winCount k.bank.wn else k.bank.fp != k.fbase) 0x06
  modCore c Core.leaveWin

/-! The rows of the table. -/

/-- `BR_S`: BR.S branches by a 9-bit offset (R135). -/
def execBrS (c : Fin 32) (k : Cond) (n : BitVec 9) (s : State) : Host.Outcome State Fault Refusal :=
  lift (runInstr c.val k (bBrS n)) s

/-- `BR`: BR branches by a 16-bit or 32-bit offset (R135). -/
def execBr (c : Fin 32) (k : Cond) (n : ImmForm) (s : State) : Host.Outcome State Fault Refusal :=
  lift (runInstr c.val k (bBr n)) s

/-- `CALL`: CALL pushes the return address and branches (R135). -/
def execCall (c : Fin 32) (k : Cond) (n : ImmForm) (s : State) : Host.Outcome State Fault Refusal :=
  lift (runInstr c.val k (bCall n)) s

/-- `RET`: RET pops the return address and branches to it (R135). -/
def execRet (c : Fin 32) (k : Cond) (s : State) : Host.Outcome State Fault Refusal :=
  lift (runInstr c.val k (bRet)) s

/-- `JMPT`: JMPT jumps to an address taken from the stack (R135). -/
def execJmpt (c : Fin 32) (k : Cond) (s : State) : Host.Outcome State Fault Refusal :=
  lift (runInstr c.val k (bJmpt)) s

/-- `CALLT`: CALLT calls an address taken from the stack (R135). -/
def execCallt (c : Fin 32) (k : Cond) (s : State) : Host.Outcome State Fault Refusal :=
  lift (runInstr c.val k (bCallt)) s

/-- `ENTER`: ENTER opens a new frame window and lowers FP by 48 bytes (R94). -/
def execEnter (c : Fin 32) (k : Cond) (s : State) : Host.Outcome State Fault Refusal :=
  lift (runInstr c.val k (bEnter)) s

/-- `LEAVE`: LEAVE returns to the previous window and raises FP by 48 bytes (R94). -/
def execLeave (c : Fin 32) (k : Cond) (s : State) : Host.Outcome State Fault Refusal :=
  lift (runInstr c.val k (bLeave)) s

end Sys2Proof.Machine
end

