-- ==== Sys2Proof/Machine/System.lean ====
section
/-! DEFINITION. STKWB, SYNC, WAIT, RETI, MFS and MTS (spec/05 R92, R96 to R98, R114, spec/06 R136, R137, spec/07 R150, R154, spec/09 R199,
R200). -/
namespace Sys2Proof.Machine

/-! STKWB, SYNC, WAIT. -/

/-- Writes cells to their addresses at a level. -/
def writeBack (c : Nat) (p : Priv) (l : List (Nat × Word)) : IM Unit :=
  match l with
  | [] => pure ()
  | x :: r => do
    hwWrite true c p 0 x.1 x.2
    writeBack c p r

/-- The cells a core caches outside its current bank and its spare bank: those its frames hide and those of its other levels (log 109). -/
def Core.hiddenCells (k : Core) : List (Nat × Word) :=
  (k.gates.flatMap fun g => bankCells g.bank) ++
  ((List.range 8).filter (· != k.lvl)).flatMap fun l => bankCells (lget k.banks Bank.empty l)

/-- STKWB writes the spare bank first, and what the running context caches last. -/
def bStkwb : Insn := Insn.op 0x085 fun c => do
  fixWindows 100 c
  let k ← getCore c
  let l := k.hiddenCells ++ bankCells { k.bank with data := k.view }
  writeBack c k.sparePriv k.spare
  writeBack c k.priv l
  modCore c fun k => { k with cyc := k.cyc + k.spare.length + l.length }

/-- SYNC completes when the store buffer is empty; until then it executes again. -/
def bSync : Insn := Insn.op 0x086 fun c => do
  if (← getCore c).sb.isEmpty then pure () else wait

/-- WAIT stops the core. In Drove a wake that has arrived since the dispatch lets the task continue; else it gives up its core, and the
unused part of its reservation returns, but not inside a gate or a handler (R199, R219, R221). -/
def bWait : Insn := Insn.op 0x087 fun c => do
  let d ← get
  let k := d.core c
  let p := penOf c
  match d.tether c, k.slot with
  | false, some s =>
    if (slotOf (d.pen p) s).woke then pure ()
    else if k.gdep != 0 then modCore c fun k => { k with waiting := true }
    else set (slotSettle (d.updCore c fun k => { k with waiting := true, preempt := some 0 }) p s)
  | _, _ => modCore c fun k => { k with waiting := true }

/-! RETI (R114, R154). -/

/-- The extended state from a save area. -/
def Core.restoreExt (k : Core) (l : List Word) : Core :=
  { k with prod := lget l 0 1 ++ lget l 0 0, mulPipe := [], rc := lget l 0 2, rs := lget l 0 3, rd := lget l 0 4, cacc := lget l 0 5,
           cpoly := lget l 0 6, extOwner := fld (lget l 0 7) 0 3, cyc := k.cyc + 8 }

/-- Reads a save area; a refused restore raises 0x09 (R119). -/
def restoreArea (c : Nat) (p : Priv) (a : Nat) : IM (List Word) :=
  tryCatch (readCells c p qualRestore a 8) fun e => throw (match e with | .exc x => .exc { x with cause := 0x09 } | e => e)

/-- The privilege of a code. -/
def privOfCode (n : Nat) : Priv := match n % 4 with | 0 => .u | 1 => .f | 2 => .k | _ => .m

/-- The core back at the interrupted level. -/
def Core.leaveLevel (k : Core) : Core :=
  let l := k.lvl
  let b := k.bank
  let f := lget k.sflg 0 l
  let k := k.setBank { b with spr := lget k.sxa 0 l + 48 }
  { k.setZncv f with pc := lget k.spc 0 l, rpt := bitOf f 4, ie := bitOf f 5, xs := bitOf f 6, lvl := fld f 8 3,
                     priv := privOfCode (fld f 12 2), nest := setBit k.nest l false, cyc := k.cyc + 4 }

def bReti : Insn := Insn.op 0x089 fun c => do
  let d ← get
  let k := d.core c
  need (d.tether c && k.lvl != 0) 0x01
  need (k.priv != .u) 0x02
  need (match k.gates with | g :: _ => g.lvl != k.lvl | [] => true) 0x03
  if k.xs then
    let l ← restoreArea c k.priv (lget k.sxa 0 k.lvl).toNat
    modCore c fun k => k.restoreExt l
  modCore c Core.leaveLevel
  modify fun d => tileLevel d c

/-! Special registers (R97). -/

/-- The registers of the extended state. -/
def isExt (n : Nat) : Bool := 6 ≤ n && n ≤ 12

/-- MRL and MRH. -/
def isProd (n : Nat) : Bool := n == 9 || n == 10

/-- The value of a special register. -/
def sregGet (k : Core) (t : Bool) (n : Nat) : Word :=
  match n with
  | 0 => k.bank.spd
  | 1 => k.bank.spr
  | 2 => k.bank.fp
  | 3 => k.gp
  | 4 => k.tp
  | 5 => flgWord k t
  | 6 => k.rc
  | 7 => k.rs
  | 8 => k.rd
  | 9 => k.prod.setWidth 32
  | 10 => (k.prod >>> 32).setWidth 32
  | 11 => k.cpoly
  | 12 => k.cacc
  | 13 => if t then 0 else k.tsbr
  | _ => k.bank.tflg

/-- The checks at decode: a reserved number, the level of a read or write, an absent tile engine. -/
def sregCheck (c n : Nat) (write : Bool) : IM Unit := do
  let d ← get
  let k := d.core c
  need (n < 15 && !(write && n == 13 && d.tether c)) 0x01
  need (k.priv != .u || !(n == 13 || (write && (n == 3 || n == 4)))) 0x02
  need (n != 14 || unitPresent d.variant (tileU (penOf c))) 0x0D

def bMfs (n : BitVec 5) : Insn := Insn.op (0x0C0 + n.toNat) fun c => do
  sregCheck c n.toNat false
  if isExt n.toNat then extUse c
  prepare c 0 1
  let d ← get
  modCore c fun k => if isProd n.toNat then k.settle (d.tether c) else k
  let d ← get
  pushN c [sregGet (d.core c) (d.tether c) n.toNat]

/-- The fields of TFLG. -/
def tflgMask : Word := 0x011F1F1F

/-- A special register written that re-points no stack. -/
def sregSet (k : Core) (t disp : Bool) (n : Nat) (v : Word) : Core :=
  match n with
  | 3 => { k with gp := v }
  | 4 => { k with tp := v }
  | 5 => { k.setZncv v with ie := if t && k.priv != .u then bitOf v 5 else k.ie }
  | 6 => { k with rc := v }
  | 7 => { k with rs := v }
  | 8 => { k with rd := v }
  | 9 => let k := k.settle t; { k with prod := (k.prod >>> 32).setWidth 32 ++ v }
  | 10 => let k := k.settle t; { k with prod := v ++ k.prod.setWidth 32 }
  | 11 => { k with cpoly := v }
  | 12 => { k with cacc := v }
  | 13 => if disp then k else { k with tsbr := v &&& 0xFFFFFF80 }
  | 14 => let b := k.bank; k.setBank { b with tflg := v &&& tflgMask }
  | _ => k

/-- MTS to SP.D, SP.R or FP: the cached cells of that stack are written back, the pointer is loaded and the cache is empty (R96). -/
def repoint (c n : Nat) (v : Word) : IM Unit := do
  let d ← get
  let t := d.tether c
  let b := (d.core c).bank
  match n with
  | 0 =>
    if t then need b.data.isEmpty 0x05 else spillData 48 c 0
    modCore c fun k => let b := k.bank; k.setBank { b with spd := v }
  | 1 =>
    if !t then spillRets 17 c 0
    modCore c fun k => let b := k.bank; k.setBank { b with spr := v }
  | _ =>
    if t then
      need (winCount b.wn == 1) 0x05
      fixWindows 16 c
      let k ← getCore c
      writeBack c k.priv k.bank.wc
    else spillWin 100 c 0
    modCore c fun k => let b := k.bank; k.setBank { b with fp := v, wc := [], wn := if t then 16 else 0 }

def bMts (n : BitVec 5) : Insn := Insn.op (0x0E0 + n.toNat) fun c => do
  sregCheck c n.toNat true
  if isExt n.toNat then extUse c
  prepare c 1 0
  let l ← popN c 1
  let v := lget l 0 0
  if n.toNat < 3 then repoint c n.toNat v
  else
    let d ← get
    modCore c fun k => sregSet k (d.tether c) (d.pen (penOf c)).rat.run n.toNat v

/-! The rows of the table. -/

/-- `STKWB`: STKWB writes every cached stack and window cell to memory (R92). -/
def execStkwb (c : Fin 32) (k : Cond) (s : State) : Host.Outcome State Fault Refusal :=
  lift (runInstr c.val k (bStkwb)) s

/-- `SYNC`: SYNC waits until every store-buffer entry has been accepted (R136). -/
def execSync (c : Fin 32) (k : Cond) (s : State) : Host.Outcome State Fault Refusal :=
  lift (runInstr c.val k (bSync)) s

/-- `WAIT`: WAIT stops fetching until an event arrives (Tether), or gives up the core (Drove) (R137). -/
def execWait (c : Fin 32) (k : Cond) (s : State) : Host.Outcome State Fault Refusal :=
  lift (runInstr c.val k (bWait)) s

/-- `RETI`: RETI returns from a Tether level, restoring PC, FLG, PRIV and the extended state (R154). -/
def execReti (c : Fin 32) (k : Cond) (s : State) : Host.Outcome State Fault Refusal :=
  lift (runInstr c.val k (bReti)) s

/-- `MFS`: MFS pushes a special register (R97). -/
def execMfs (c : Fin 32) (k : Cond) (n : BitVec 5) (s : State) : Host.Outcome State Fault Refusal :=
  lift (runInstr c.val k (bMfs n)) s

/-- `MTS`: MTS writes a special register, and re-points a stack where the register is a stack pointer (R97). -/
def execMts (c : Fin 32) (k : Cond) (n : BitVec 5) (s : State) : Host.Outcome State Fault Refusal :=
  lift (runInstr c.val k (bMts n)) s

end Sys2Proof.Machine
end

