-- ==== Sys2Proof/Machine/Gates.lean ====
section
/-! DEFINITION. GATE, GRET and ERET, and the gate verbs (spec/09 R193 to R198, R210). -/
namespace Sys2Proof.Machine

/-! Descriptors (R194, R195). -/

/-- The table level of a gate number. -/
def gateLevel (n : Nat) : Priv := if n < 192 then .f else if n < 224 then .k else .m

/-- The address of a descriptor as the pen's cores see it. -/
def gateAddr (d : Dev) (p n : Nat) : Nat :=
  if n < 192 then ((d.pen p).gtb + toWord (n * 64)).toNat else 0xF0004000 + (n - 192) * 64

/-- Cell `i` of a descriptor. -/
def gcell (l : List Word) (i : Nat) : Word := lget l 0 i

/-- ARGC. -/
def gateArgc (l : List Word) : Nat := fld (gcell l 1) 5 3

/-- RETC. -/
def gateRetc (l : List Word) : Nat := fld (gcell l 1) 8 2

/-- FRAME in units of 256 bytes. -/
def gateFrame (l : List Word) : Nat := fld (gcell l 1) 10 6

/-- CMIN. -/
def gateCmin (l : List Word) : Nat := fld (gcell l 1) 3 2

/-- The control cell of argument `i`. -/
def argCtl (l : List Word) (i : Nat) : Word := gcell l (4 + 3 * i)

/-- A of argument `i`. -/
def argA (l : List Word) (i : Nat) : Word := gcell l (5 + 3 * i)

/-- B of argument `i`. -/
def argB (l : List Word) (i : Nat) : Word := gcell l (6 + 3 * i)

/-- KIND of argument `i`. -/
def argKind (l : List Word) (i : Nat) : Nat := fld (argCtl l i) 0 3

/-- The gate faults of an argument entry's field encoding, whatever ARGC; bits 31:9 must be zero, and bit 3 is ignored (log 57). -/
def argFields (l : List Word) (i : Nat) : List (String × Bool) :=
  let x := argCtl l i
  [("KIND", decide (5 ≤ argKind l i)), ("ACC", argKind l i == 3 && fld x 4 2 == 0), ("reserved", fld x 9 23 != 0)]

/-- The gate faults of an argument entry below ARGC: a range with A above B, a length index out of range. -/
def argValues (l : List Word) (i : Nat) : List (String × Bool) :=
  match argKind l i with
  | 1 => [("range", (argB l i).ult (argA l i))]
  | 2 => [("range", (argB l i).slt (argA l i))]
  | 3 => [("LSRC", bitOf (argCtl l i) 8 && gateArgc l ≤ fld (argB l i) 0 2)]
  | _ => []

/-- The gate faults that a descriptor can hold by itself, by the field that makes each, and whether it does (R194, R195). -/
def descFaults (l : List Word) (lvl : Priv) : List (String × Bool) :=
  let x := gcell l 1
  [("VALID", !bitOf x 0), ("TLVL", fld x 1 2 != privNum lvl), ("ARGC", decide (5 ≤ gateArgc l)), ("RETC", gateRetc l == 3),
   ("FRAME", gateFrame l == 0), ("reserved", fld x 16 16 != 0 || gcell l 2 != 0 || gcell l 3 != 0), ("TARGET", bitOf (gcell l 0) 0)] ++
  (List.range 4).flatMap (argFields l) ++ (List.range (gateArgc l)).flatMap (argValues l)

/-- Whether a descriptor is not valid by itself. -/
def descFault (l : List Word) (lvl : Priv) : Bool := (descFaults l lvl).any (·.2)

/-! Argument checks (R196). -/

/-- Whether a range of addresses touches a region that K may not access. -/
def touchesM (a n : Nat) : Bool :=
  let hit (lo hi : Nat) : Bool := a < hi && lo < a + n
  hit 0x10780000 0x10800000 || hit 0xF0000000 0x100000000 ||
  (List.range 8).any fun p => hit (0x50000000 + p * 0x100000) (0x50000000 + p * 0x100000 + 0x10800)

/-- Whether one window covers a range and grants the accesses of ACC at a level. -/
def pointerWindow (d : Dev) (f a n acc : Nat) (p : Priv) : Bool :=
  (d.foldMem f).wins.any fun w =>
    (acc % 2 == 0 || winGrants w a n (permBit p .r)) && (acc / 2 == 0 || winGrants w a n (permBit p .w))

/-- The check of a pointer. -/
def pointerOk (d : Dev) (f : Nat) (p : Priv) (v : Word) (len acc align : Nat) : Bool :=
  let a := v.toNat
  a % (match align with | 0 => 1 | 1 => 2 | 2 => 4 | _ => 16) == 0 &&
  (len == 0 || (a + len ≤ 0x100000000 &&
    match p with
    | .m => true
    | .k => !touchesM a len
    | _ => pointerWindow d f a len acc p))

/-- Whether argument `i` passes; `args` are the copies, argument 0 first. -/
def argOk (d : Dev) (f : Nat) (p : Priv) (l args : List Word) (i : Nat) : Bool :=
  let v := lget args 0 i
  let a := argA l i
  let b := argB l i
  let x := argCtl l i
  match argKind l i with
  | 1 => a.ule v && v.ule b
  | 2 => a.sle v && v.sle b
  | 3 => pointerOk d f p v (if bitOf x 8 then (lget args 0 (fld b 0 2)).toNat else b.toNat) (fld x 4 2) (fld x 6 2)
  | 4 => v.toNat < 64 && (if v.toNat < 32 then bitOf a v.toNat else bitOf b (v.toNat - 32))
  | _ => true

/-- The first argument that fails. -/
def firstBadArg (d : Dev) (f : Nat) (p : Priv) (l args : List Word) : Option Nat :=
  (List.range (gateArgc l)).find? fun i => !argOk d f p l args i

/-! GATE (R195). -/

/-- A gate fault of gate `n`, with the address of the descriptor once that is read (R191; log 58). -/
def gateFault {α : Type} (n : Nat) (a : Word) : IM α := throw (.exc { Exc.of 0x03 with gate := n, addr := a })

/-- Reads a descriptor: the fold table through the core's address map at F, the device table without window checks; a refused read is
raised with the address of the descriptor. -/
def readGate (c n : Nat) : IM (List Word) := do
  let a := gateAddr (← get) (penOf c) n
  tryCatch (readCells c (if n < 192 then .f else .m) qualGate a 16) fun e =>
    throw (match e with | .exc x => .exc { x with addr := toWord a } | e => e)

/-- Step 2: what makes the call a gate fault once the descriptor is read (R81, R191, R195). -/
def gateBad (d : Dev) (c n : Nat) (l : List Word) : Bool :=
  let k := d.core c
  let h := gateLevel n
  descFault l h || privNum k.priv < gateCmin l || !gsbOk (k.gsb h) ||
  (h == .k && (d.unit (.fold 0)).resetting)

/-- Steps 4 and 5: the copies, argument 0 first, and their checks. -/
def checkArgs (c n : Nat) (l : List Word) : IM (List Word) := do
  let d ← get
  let k := d.core c
  let args := (k.view.take (gateArgc l)).reverse
  match firstBadArg d (d.foldOfCore c) k.priv l args with
  | some i => throw (.exc { Exc.of 0x04 with gate := n, arg := i, detail := lget args 0 i })
  | none => return args

/-- Step 3: the caller's arguments and the callee's room, before the caller's copies are popped (log 58). -/
def gateRoom (c k : Nat) : IM Unit := do
  let d ← get
  need (k ≤ (d.core c).depth (d.tether c)) 0x06
  if d.tether c then need (bankRoom (d.core c) k) 0x05 else fillData k c k

def bGate (n : BitVec 8) : Insn := Insn.op (0x100 + n.toNat) fun c => do
  let d ← get
  if spareBusy d c then wait
  if 14 ≤ (d.core c).gdep || privNum (gateLevel n.toNat) < privNum (d.core c).priv then gateFault n.toNat 0
  let l ← readGate c n.toNat
  if gateBad (← get) c n.toNat l then gateFault n.toNat (toWord (gateAddr d (penOf c) n.toNat))
  gateRoom c (gateArgc l)
  let args ← checkArgs c n.toNat l
  hideWindows c
  let d ← get
  let t := d.tether c
  let k := d.core c
  let h := gateLevel n.toNat
  let g := k.gsb h
  let tag := tagWord n.toNat k.priv h false (if t then k.lvl else 0) (gateRetc l)
  let spd := k.bank.spd + toWord (4 * gateArgc l)
  writeCells c h qualGate (g - 64).toNat (frameCells k t k.pc spd tag h)
  let _ ← popN c (gateArgc l)
  modCore c fun k =>
    { k.openFrame t h g (toWord (256 * gateFrame l)) args.reverse with
      pc := gcell l 0, cyc := k.cyc + 10 + ((List.range (gateArgc l)).filter fun i => argKind l i != 0).length }

/-! ERET and GRET (R193, R197). -/

/-- The newest frame as it stands in memory: 0x03 where it is none of the kind, level and Tether level expected. -/
def readFrame (c : Nat) (exc : Bool) : IM (List Word) := do
  let d ← get
  let k := d.core c
  need (k.gdep != 0) 0x03
  let f ← readCells c k.priv qualRestore k.gfr.toNat 8
  let tag := lget f 0 5
  need (bitOf tag 31 && bitOf tag 12 == exc && fld tag 10 2 == privNum k.priv && (!d.tether c || fld tag 13 3 == k.lvl)) 0x03
  return f

/-- The lesser of a frame's caller PRIV and the handler's level. -/
def returnPriv (tag : Word) (h : Priv) : Priv := if fld tag 8 2 < privNum h then privOfCode (fld tag 8 2) else h

def bEret : Insn := Insn.op 0x08A fun c => do
  need ((← getCore c).priv != .u) 0x02
  let f ← readFrame c true
  needEven (lget f 0 0)
  let t := (← get).tether c
  modCore c fun k =>
    let flg := lget f 0 1
    { (k.closeFrame t k.priv f).setZncv flg with
      rpt := bitOf flg 4, ie := if t then bitOf flg 5 else k.ie, priv := returnPriv (lget f 0 5) k.priv, cyc := k.cyc + 4 }

/-- GRET: the top RETC cells go to the caller, whose flags are the callee's; an odd PC raises 0x07 as in ERET (log 58). -/
def bGret : Insn := Insn.op 0x088 fun c => do
  let f ← readFrame c false
  let m := fld (lget f 0 5) 16 2
  let d ← get
  let t := d.tether c
  let k := d.core c
  need (m ≤ k.depth t) 0x06
  if t then
    need ((match k.gates with | s :: _ => k.hidden + m ≤ 16 || s.lvl != k.lvl | [] => true)) 0x05
  else fillData m c m
  needEven (lget f 0 0)
  let l ← popN c m
  modCore c fun k =>
    let flg := lget f 0 1
    { (k.closeFrame t k.priv f) with
      rpt := bitOf flg 4, ie := if t then bitOf flg 5 else k.ie, priv := returnPriv (lget f 0 5) k.priv, cyc := k.cyc + 5 }
  pushN c l

/-! Verbs (R210). -/

/-- The cells of descriptor `n` as they stand in memory. -/
def peekGate (d : Dev) (p n : Nat) : List Word :=
  let a := absAddr (4 * p) (gateAddr d p n)
  (List.range 16).map fun i => plainRead d (a + 4 * i) 4

/-- A pen's gate descriptor decoded, with the gate faults it holds. -/
def gateFields (l : List Word) (lvl : Priv) : List (String × String) :=
  let x := gcell l 1
  [("target", hex32 (gcell l 0)), ("valid", onOff (bitOf x 0)), ("tlvl", toString (fld x 1 2)), ("cmin", toString (gateCmin l)),
   ("argc", toString (gateArgc l)), ("retc", toString (gateRetc l)), ("frame", toString (gateFrame l))] ++
  ((List.range (min 4 (gateArgc l))).map fun i =>
    let c := argCtl l i
    ("arg" ++ toString i, numsText [argKind l i, fld c 4 2, fld c 6 2, fld c 8 1] ++ " " ++ hex32 (argA l i) ++ " " ++ hex32 (argB l i))) ++
  [("faults", joinSp (((descFaults l lvl).filter (·.2)).map (·.1)))]

def vXGate (o : Via) (p : Fin 8) (n : Nat) (d : Dev) : Dev :=
  verb o .engineer [.pen p] (fun d =>
    if 256 ≤ n then vEr d 10
    else vShow "x gate" (fun d => gateFields (peekGate d p.val n) (gateLevel n)) d) d

/-- `x gate try`: the first failing index and value, or `pass`. -/
def vXGateTry (o : Via) (p : Fin 8) (n : Nat) (xs : List Nat) (d : Dev) : Dev :=
  verb o .engineer [.pen p] (fun d =>
    let l := peekGate d p.val n
    if 256 ≤ n || xs.any (0x100000000 ≤ ·) || xs.length != gateArgc l then vEr d 10
    else
      let args := xs.map toWord
      match firstBadArg d (d.pen p.val).fold .u l args with
      | some i => vData d [toString i ++ " " ++ hex32 (lget args 0 i)]
      | none => vData d ["pass"]) d

/-! The rows of the table. -/

/-- `GATE`: GATE n checks descriptor n and its arguments, writes a frame and enters the handler at the target level (R195). -/
def execGate (c : Fin 32) (k : Cond) (n : BitVec 8) (s : State) : Host.Outcome State Fault Refusal :=
  lift (runInstr c.val k (bGate n)) s

/-- `GRET`: GRET returns from a gate frame with RETC results (R197). -/
def execGret (c : Fin 32) (k : Cond) (s : State) : Host.Outcome State Fault Refusal :=
  lift (runInstr c.val k (bGret)) s

/-- `ERET`: ERET returns from an exception frame (R193). -/
def execEret (c : Fin 32) (k : Cond) (s : State) : Host.Outcome State Fault Refusal :=
  lift (runInstr c.val k (bEret)) s

/-- `X_GATE`: Brenex x gate decodes a gate descriptor (R210). -/
def execXGate (o : Via) (p : Fin 8) (n : Nat) (s : State) : Host.Outcome State Fault Refusal :=
  lift (row o (vXGate o p n)) s

/-- `X_GATE_TRY`: Brenex x gate try runs the argument checks on given values (R210). -/
def execXGateTry (o : Via) (p : Fin 8) (n : Nat) (xs : List Nat) (s : State) : Host.Outcome State Fault Refusal :=
  lift (row o (vXGateTry o p n xs)) s

end Sys2Proof.Machine
end

