-- ==== Sys2Proof/Machine/Help.lean ====
section
/-! DEFINITION. The verbs of Brenex with their roles, as `help` lists them (the verb tables of the spec's chapters). -/
namespace Sys2Proof.Machine

/-- The verbs of supply (spec/02). -/
def verbsSupply : List (String × Role) := [
  ("pwr", .observe), ("pwr run", .operate), ("pwr slow", .operate), ("pwr idle", .operate), ("pwr retain", .operate),
  ("pwr spore", .operate), ("pwr off", .engineer), ("pwr wake run|slow|idle", .operate), ("pwr arm <src>...", .operate),
  ("pwr disarm <src>...", .operate), ("pwr restore [s1|s2|s3|s4|s5]", .operate), ("shed", .observe),
  ("shed lastwatch <pen>|none", .engineer), ("shed keep afe|can|t1s|dma <list>|none", .engineer),
  ("shed save <addr> <len>|none", .engineer), ("clk", .observe), ("therm", .observe), ("rtc", .operate), ("rtc set <s>", .operate),
  ("rtc alarm <s>|none", .operate), ("x pwr vmon", .observe), ("x pwr sim s1|s2|s3|s4|s5", .engineer), ("x pwr sim off", .engineer),
  ("x therm sim <degC>|off", .engineer), ("x clk restore", .engineer), ("x pwr log", .observe)]

/-- The verbs of the device (spec/03). -/
def verbsDevice : List (String × Role) := [
  ("help [<verb>]", .observe), ("inv", .observe), ("login <role> [fold <n>]", .observe), ("auth <mac>", .observe), ("logout", .observe),
  ("who", .observe), ("sess", .observe), ("sess echo on|off", .observe), ("sess baud <rate> [8n1|8e1|8o1|8n2]", .operate),
  ("sess timeout <s>", .operate), ("sess lock", .operate), ("sess unlock", .operate), ("ev", .observe),
  ("ev on|off [<class>...]", .observe), ("log [<n>]", .observe), ("x peek <addr> [<n>]", .engineer),
  ("x poke <addr> <value> [gen <g>]", .engineer), ("x brx", .observe), ("x brx clear", .operate), ("x crc \"<text>\"", .observe),
  ("x sess kill mga|mgb", .engineer)]

/-- The verbs of units (spec/04). -/
def verbsUnit : List (String × Role) := [
  ("unit", .observe), ("unit <u>", .observe), ("unit <u> on|off [gen <g>]", .operate), ("fence <u> [gen <g>]", .operate),
  ("unfence <u> [gen <g>]", .operate), ("reset <u> [gen <g>]", .operate), ("reset device", .machine),
  ("unit <u> adopt mgmt|data", .engineer), ("x state <u>", .engineer), ("x state log", .engineer),
  ("x state sim disagree <u>", .engineer)]

/-- The verbs of pens (spec/07). -/
def verbsPen : List (String × Role) := [
  ("pen", .observe), ("pen <p>", .observe), ("pen <p> pers drove|tether [gen <g>]", .engineer), ("x core <n>", .engineer),
  ("x core <n> tsb", .engineer), ("x pen <p> hwm clear", .engineer)]

/-- The verbs of the control store (spec/08). -/
def verbsUcode : List (String × Role) := [
  ("ucode", .observe), ("ucode <p>", .observe), ("x ucode check <addr>", .engineer),
  ("x ucode load fold<n> drove|tether <addr>", .machine), ("x ucode unload fold<n> drove|tether", .machine),
  ("x ucode cancel", .machine), ("x ucode peek pen<p> <offset> [<n>] [golden]", .machine), ("x ucode inject pen<p> <offset>", .machine)]

/-- The verbs of exceptions and gates (spec/09). -/
def verbsExc : List (String × Role) := [
  ("exc", .observe), ("exc pen<p>", .observe), ("bw", .observe), ("x gate pen<p> <n>", .engineer),
  ("x gate try pen<p> <n> <a0> ...", .engineer), ("x exc inject core<n> <code>", .machine), ("x exc clear pen<p>", .operate),
  ("x bw hook on|off", .machine)]

/-- The verbs of rations and tasks (spec/10). -/
def verbsRation : List (String × Role) := [
  ("ration", .observe), ("ration pen<p>", .observe), ("ration pen<p> rate|cap|floor <pts>", .engineer),
  ("ration pen<p> thr 1|2|3 <pts>", .engineer), ("ration fold<n> rate <pts>", .engineer), ("ration move pen<a> pen<b> <pts>", .operate),
  ("task pen<p>", .observe), ("task pen<p> <s> wake|stop|clear", .operate), ("x ration coef pen<p> [<k> <value>]", .engineer),
  ("x ration scale pen<p> <n>", .engineer), ("x ration derate pen<p> <e> <degC> <factor>|off", .engineer),
  ("x ration run pen<p> on|off [slice <n>]", .engineer), ("x ration boot pen<p> <tsb>|none", .engineer),
  ("x task pen<p> <s> set pri <n> class <c> cost <pts> tsb <addr>", .engineer), ("x ration bind pen<p> <line> <slot>|none", .engineer)]

/-- The verbs of the event router and the halter map (spec/11). -/
def verbsEvr : List (String × Role) := [
  ("evr", .observe), ("evr fold<n>", .observe), ("evr src <n>", .observe),
  ("evr map <src> fold<n> <line> [mode high|rise|fall|both] [open]", .engineer), ("evr unmap <src>", .engineer),
  ("evr line fold<n> <l> prio <p> [pens <list>] [oneshot on|off] [on|off]", .operate),
  ("evr limit fold<n> rate <r> depth <d> [exempt <level>] [maxpri <level>]", .engineer), ("evr filter <src> <cycles>", .engineer),
  ("evr set fold<n> <line>", .operate), ("halt", .observe), ("halt map <out> <inputs>|none [safe low|high] [latch on|off]", .engineer),
  ("halt input <in> high|low [filter 0|10|20|30]", .engineer), ("halt arm|disarm <out>", .engineer), ("halt force <out>", .operate),
  ("halt clear <out>", .operate), ("halt lock", .engineer), ("x evr raise <src>", .engineer), ("x evr race pen<p>", .engineer),
  ("x evr race pen<p> clear", .engineer), ("x evr latch [clear <src>]", .engineer), ("x halt sim <in> on|off", .engineer)]

/-- The verbs of memory (spec/13). -/
def verbsMem : List (String × Role) := [
  ("mem", .observe), ("mem fold<n>", .observe), ("mem win fold<n> <w> <base> <limit> <perm>...|off", .engineer), ("myc", .observe),
  ("myc share fold<n> <beats> [burst <b>] [spare on|off]", .engineer), ("ecc", .observe), ("ecc clear", .operate),
  ("x sb core<n>", .engineer), ("x ecc inject <addr> single|double", .machine), ("x ecc patrol on|off", .engineer),
  ("x myc port <target>", .engineer)]

/-- The verbs of DMA (spec/14). -/
def verbsDma : List (String × Role) := [
  ("dma", .observe), ("dma <c>", .observe), ("dma own <c> fold<n>|none", .engineer),
  ("dma cfg <c> [prio <p>] [class tether|drove|bulk] [retry <n>] [backoff <n>] [movers <mask>]", .operate),
  ("dma pace <c> <queue>|none high <b> low <b>", .operate), ("dma ring <c> <base> <entries> [head <i>]", .operate),
  ("dma kick <c>", .operate), ("dma stop <c>", .operate), ("dma clear <c>", .operate), ("x dma desc <c> [<i>]", .engineer),
  ("x dma movers", .observe), ("x dma inject <c> buserr|withdraw", .engineer)]

/-- The verbs of the tile engines (spec/15). -/
def verbsTile : List (String × Role) := [
  ("tile", .observe), ("tile <t>", .observe), ("tile <t> ev done|trap <cores>|none", .operate),
  ("tile <t> tctx core<c> <addr>|none", .operate), ("x tile peek <t> core<c> <tile> [<rows>]", .machine), ("x tile stat <t>", .engineer),
  ("x tile inject <t> parity|ctx", .machine)]

/-- The verbs of field ports (spec/16). -/
def verbsPort : List (String × Role) := [
  ("port", .observe), ("port <u>", .observe), ("port own <u> fold<n>|none", .engineer),
  ("t1s <p> plca coord nodes <n> [burst <b>] [to <bits>]", .engineer), ("t1s <p> plca follow <id> [burst <b>] [to <bits>]", .engineer),
  ("t1s <p> plca off", .engineer), ("t1s <p> node <list> fold<n>|none", .engineer),
  ("gbe <m> speed auto|10|100|1000 [txdly on|off] [rxdly on|off]", .operate),
  ("can <p> rate <brp> <tseg1> <tseg2> <sjw> [data <brp> <tseg1> <tseg2> <sjw>] [listen on|off]", .operate),
  ("can <p> filter <k> <id> <mask> std|ext fold<n> [rx] [tx]|off", .engineer),
  ("uart <u> <baud> [8n1|8e1|8o1|8n2] mode raw|modbus|iec [rs485 <lead> <tail>] [idle <n>]", .operate), ("ptab [<u>]", .observe),
  ("ptab age <u> <ms>", .operate), ("ptab add <u> <key> fold<n>", .engineer), ("ptab del <i>", .operate), ("pool", .observe),
  ("pool floor <req> <n>", .engineer), ("pool halter <req>...|none", .engineer), ("x port regs <u>", .engineer),
  ("x ptab dump [<from> <n>]", .engineer), ("x pool map", .engineer), ("x port inject <u> fcs|nobuf", .engineer)]

/-- The verbs of analogue and digital I/O (spec/17). -/
def verbsIo : List (String × Role) := [
  ("afe", .observe), ("afe own fold<n>|none", .engineer), ("afe rate <S/s>", .operate), ("afe ch <list> current|voltage|off", .operate),
  ("afe loop <list> low <code> high <code> [count <n>]", .operate), ("pwm [<n>]", .observe), ("pwm own <n> fold<f>|none", .engineer),
  ("pwm safe <n> low|high [oe on|off]", .engineer),
  ("pwm cfg <n> pre <p> per <c> [pol high|low] [halter <j>|none] [foldsafe on|off] [pev on|off]", .operate),
  ("pwm set <n> <sp>", .operate), ("pwm dither <n> <damp> <dhalf>|off", .operate), ("pwm resume <n>", .operate), ("gpio", .observe),
  ("gpio own <pins> fold<n>|none", .engineer), ("gpio dir <pins> in|out [od] [pull up|down|none]", .operate),
  ("gpio set|clr <pins>", .operate), ("gpio snap bank 0|1 period <cycles>|off", .operate), ("x afe last", .engineer),
  ("x afe test <ch> low|high|off", .engineer), ("x pwm regs <n>", .engineer), ("x gpio mism [clear]", .engineer)]

/-- The verbs of boot (spec/18). -/
def verbsBoot : List (String × Role) := [
  ("boot", .observe), ("x boot verify primary|secondary", .engineer), ("x boot key <slot> <addr>", .machine),
  ("x boot revoke <slot>", .machine), ("x boot rolekey <role> [fold<n>] <gen> <addr>", .machine),
  ("x boot rolerevoke <role> [fold<n>] <gen>", .machine), ("x boot arb <n>", .machine), ("x boot lock", .machine),
  ("x boot jtag on|off", .machine), ("x flash erase <offset> <len>", .machine), ("x flash write <offset> <hex>", .machine)]

/-- Every verb with its role. -/
def verbTable : List (String × Role) :=
  verbsSupply ++ verbsDevice ++ verbsUnit ++ verbsPen ++ verbsUcode ++ verbsExc ++ verbsRation ++ verbsEvr ++ verbsMem ++
  verbsDma ++ verbsTile ++ verbsPort ++ verbsIo ++ verbsBoot

/-- The words of a text between spaces. -/
def wordsOf (t : String) : List String := (t.splitOn " ").filter (· != "")

/-- The first words of the verbs. -/
def verbWords : List String := (verbTable.map fun x => (wordsOf x.1).headD "").eraseDups

/-- The forms of a verb that is named by its first words. -/
def verbForms (w : List String) : List String :=
  (verbTable.filter fun x => (wordsOf x.1).take w.length == w).map (·.1)

/-- The keywords that may follow the first words of a verb. -/
def verbNext (w : List String) : List String :=
  (((verbForms w).map fun x => (wordsOf x).getD w.length "").filter fun k =>
    k != "" && k.toList.all fun c => ('a' ≤ c && c ≤ 'z') || ('0' ≤ c && c ≤ '9')).eraseDups

end Sys2Proof.Machine
end

