-- ==== Sys2Proof/Machine/MemInstr.lean ====
section
/-! DEFINITION. Loads, stores and multiple transfers, and the return of a load's data (spec/06 R130 to R134). -/
namespace Sys2Proof.Machine

/-! Loads and stores. -/

/-- A value of `n` bytes extended to a cell. -/
def extendCell (n : Nat) (signed : Bool) (v : Word) : Word :=
  match n with
  | 1 => if signed then (v.setWidth 8).signExtend 32 else (v.setWidth 8).setWidth 32
  | 2 => if signed then (v.setWidth 16).signExtend 32 else (v.setWidth 16).setWidth 32
  | _ => v

/-- Whether every byte of an access is in the store buffer (R281). -/
def forwarded (k : Core) (a n : Nat) : Bool := (List.range n).all fun i => (sbByte k.sb (a + i)).isSome

/-- A load that has to wait: it is recorded for its level, the stack as before it (R131). -/
def issueLoad (c : Nat) (words : List Half) (x n : Nat) (signed tos : Bool) : IM Unit := do
  let d ← get
  let k := d.core c
  let cls := coreClass d c k.lvl
  let p : PendLoad :=
    { pc := k.pc - toWord (2 * words.length), next := k.pc, syl := words, addr := x, size := n, signed := signed, tos := tos,
      priv := k.priv, cls := cls, err := none }
  set (charge (d.setCore c { k.count 2 1 with loads := tput k.loads k.lvl p, delay := [] }) (some (d.foldOfCore c)) 1 cls x)

/-- A load: at once from a cache, own local memory or the store buffer; from elsewhere its data returns later (R92, R130, R281). -/
def loadRun (words : List Half) (size : Nat) (signed : Bool) (b : Base) (disp : Word) (c : Nat) : IM Unit := do
  prepare c (basePops b) 1
  let k ← getCore c
  let a := baseValue k b (lget k.view 0 0) + disp
  windowFor c b a
  checkAccess c a size .r
  let k ← getCore c
  let x := absAddr c a.toNat
  if (cacheLoc k c (x / 4 * 4)).isSome || ownLocal c x then
    let v ← readNow c a size
    let _ ← popN c (basePops b)
    pushLoaded c [extendCell size signed v]
  else if forwarded k x size then
    let _ ← popN c (basePops b)
    pushLoaded c [extendCell size signed (overlaySb k.sb x size 0)]
  else issueLoad c words x size signed (b == .tos)

/-- A load instruction. -/
def loadOp (q : Cond) (op size : Nat) (signed : Bool) (b : Base) (f : MemForm) : Insn :=
  let i : Insn := { syl := memSyl op b f, str := false, ld := true, cyc := 1, run := fun _ => pure () }
  { i with run := loadRun (i.words q) size signed b (memDisp f size) }

def qLdB (q : Cond) (b : Base) (f : MemForm) : Insn := loadOp q 0 1 true b f
def qLdBu (q : Cond) (b : Base) (f : MemForm) : Insn := loadOp q 1 1 false b f
def qLdH (q : Cond) (b : Base) (f : MemForm) : Insn := loadOp q 2 2 true b f
def qLdHu (q : Cond) (b : Base) (f : MemForm) : Insn := loadOp q 3 2 false b f
def qLdW (q : Cond) (b : Base) (f : MemForm) : Insn := loadOp q 4 4 false b f

/-- A store: the cell below a top-of-stack base, or the top cell. -/
def storeRun (len size : Nat) (b : Base) (disp : Word) (c : Nat) : IM Unit := do
  prepare c (basePops b + 1) 0
  let k ← getCore c
  let a := baseValue k b (lget k.view 0 0) + disp
  let v := lget k.view 0 (basePops b)
  windowFor c b a
  checkAccess c a size .w
  storeNow c (herePc k len) a size v
  let _ ← popN c (basePops b + 1)

/-- A store instruction. -/
def storeOp (op size : Nat) (b : Base) (f : MemForm) : Insn :=
  { syl := memSyl op b f, str := false, ld := false, cyc := 1, run := storeRun (memSyl op b f).length size b (memDisp f size) }

def bStB (b : Base) (f : MemForm) : Insn := storeOp 5 1 b f
def bStH (b : Base) (f : MemForm) : Insn := storeOp 6 2 b f
def bStW (b : Base) (f : MemForm) : Insn := storeOp 7 4 b f

/-! The return of a load's data (R131). -/

/-- The core with a level's load completed into that level's bank. -/
def loadDone (d : Dev) (c l : Nat) (p : PendLoad) (v : Word) : Core :=
  let k := (d.core c).waited
  let j := { k with lvl := l, loads := tdel k.loads l }
  let j := if p.tos then (j.popCells (d.tether c) 1).1 else j
  { pushedLoaded d c j [extendCell p.size p.signed v] with lvl := k.lvl }

/-- The data of the load outstanding at level `l` arrives, or its error, which waits for its level (R131, R278). -/
def loadReturn (d : Dev) (c l : Nat) (p : PendLoad) : Dev :=
  match anyRead d (coreReq d c p.priv) p.addr p.size ("core" ++ toString c) (coreU c) with
  | (d, .ok v) => d.setCore c (loadDone d c l p (overlaySb (d.core c).sb p.addr p.size v))
  | (d, .error e) => d.updCore c fun k => { k with loads := tput k.loads l { p with err := some e } }

/-- The target port grants the load, and its data arrives (R131, spec/13 R273). -/
def mLoadDataReturn (c : Fin 32) (l : Fin 8) (d : Dev) : Dev :=
  match tfind (d.core c.val).loads l.val with
  | some p =>
    if coreMoves d c.val && p.err.isNone then
      whenGranted d [targetPort p.addr] p.cls (some (d.foldOfCore c.val)) (loadReturn d c.val l.val p)
    else d
  | none => d

/-! Multiple transfer (R133, R134). -/

/-- The cells a mask selects. -/
def maskBits (m : MultiForm) : List Nat := bitsOf m.mask.toNat 16

/-- The cells the data-stack space moves: the highest set bit and those below it. -/
def maskSpan (m : MultiForm) : Nat := match (maskBits m).getLast? with | some h => h + 1 | none => 0

/-- Windows and presence of every element before the first access; a bus error is the element's own (R134). -/
def checkElems (n c : Nat) (a : Word) (k : Acc) : IM Unit :=
  match n with
  | 0 => pure ()
  | n + 1 => do
    let d ← get
    let x := absAddr c a.toNat
    match (if regAbsent d x then some 0x0D else accCheck d c (d.core c).priv x 4 k).filter fun e => e != 0x09 with
    | some e => raiseAt e 0 a.toNat
    | none => checkElems n c (a + 4) k

/-- Alignment, windows and presence of every element: the alignment of the first is that of all. -/
def checkMulti (n c : Nat) (a : Word) (k : Acc) : IM Unit := if a.toNat % 4 != 0 then raiseAt 0x07 0 a.toNat else checkElems n c a k

/-- Stores elements one by one, waiting for each to be accepted; `cut` elements are stored before an abandonment. -/
def storeElems (c : Nat) (a : Word) (l : List Word) (cut : Option Nat) : IM Unit :=
  match l with
  | [] => pure ()
  | v :: r => do
    if cut == some 0 then throw .abandon
    let d ← get
    let k := d.core c
    let x := absAddr c a.toNat
    match cacheLoc k c x with
    | some i => cachePut c i v
    | none =>
      if !ownLocal c x && !k.sb.isEmpty then wait
      match coreWrite true d c k.priv x v 4 with
      | (d, none) => set d
      | (d, some e) => set d; raiseAt e 0 a.toNat
    storeElems c (a + 4) r (cut.map (· - 1))

/-- Loads elements one by one. -/
def loadElems (n c : Nat) (a : Word) : IM (List Word) :=
  match n with
  | 0 => pure []
  | n + 1 => do
    let v ← readNow c a 4
    let r ← loadElems n c (a + 4)
    return v :: r

/-- The contents of window cells. -/
def winCells (c : Nat) (is : List Nat) : IM (List Word) :=
  match is with
  | [] => pure []
  | i :: r => do
    let v ← winCell c ((← getCore c).bank.winAddr i)
    let l ← winCells c r
    return v :: l

/-- Writes window cells. -/
def setWinCells (c : Nat) (l : List (Nat × Word)) : IM Unit :=
  match l with
  | [] => pure ()
  | x :: r => do
    setWinCell c ((← getCore c).bank.winAddr x.1) x.2
    setWinCells c r

/-- The effective address of a multiple transfer. -/
def multiAddr (c : Nat) (b : Base) (m : MultiForm) : IM Word := do
  let k ← getCore c
  return baseValue k b (lget k.view 0 0) + multiDisp m

/-- STM: the selected cells to memory, then the pops; 1 + n cycles. -/
def stmRun (data : Bool) (b : Base) (m : MultiForm) (cut : Option Nat) (c : Nat) : IM Unit := do
  let n := (maskBits m).length
  let pops := basePops b + (if data then maskSpan m else 0)
  prepare c pops 0
  if n == 0 then
    let _ ← popN c pops
  else
    let a ← multiAddr c b m
    if !data then needWindow c
    checkMulti n c a .w
    let k ← getCore c
    let l ← if data then pure ((maskBits m).map fun i => lget k.view 0 (basePops b + i)) else winCells c (maskBits m)
    storeElems c a l cut
    let _ ← popN c pops
    modCore c fun k => { k with cyc := k.cyc + n }

/-- LDM: every element is loaded before a cell changes; 1 + n cycles. -/
def ldmRun (data : Bool) (b : Base) (m : MultiForm) (c : Nat) : IM Unit := do
  let n := (maskBits m).length
  let span := if data then maskSpan m else 0
  prepare c (basePops b) span
  if n == 0 then
    let _ ← popN c (basePops b)
    modCore c fun k => { k with delay := [] }
  else
    let a ← multiAddr c b m
    if !data then needWindow c
    checkMulti n c a .r
    let l ← loadElems n c a
    let cells := (maskBits m).zip l
    let _ ← popN c (basePops b)
    if data then pushLoaded c ((List.range span).map fun i => (tfind cells i).getD 0) else setWinCells c cells
    modCore c fun k => { k with cyc := k.cyc + n }

def bStmW (b : Base) (m : MultiForm) (x : Option Nat) : Insn :=
  { syl := multiSyl false false b m, str := false, ld := false, cyc := 1, run := stmRun false b m x }
def bStmD (b : Base) (m : MultiForm) (x : Option Nat) : Insn :=
  { syl := multiSyl false true b m, str := false, ld := false, cyc := 1, run := stmRun true b m x }
def bLdmW (b : Base) (m : MultiForm) : Insn :=
  { syl := multiSyl true false b m, str := false, ld := false, cyc := 1, run := ldmRun false b m }
def bLdmD (b : Base) (m : MultiForm) : Insn :=
  { syl := multiSyl true true b m, str := false, ld := true, cyc := 1, run := ldmRun true b m }

/-! The rows of the table. -/

/-- `LD_B`: LD.B loads a sign-extended byte (R130). -/
def execLdB (c : Fin 32) (k : Cond) (b : Base) (f : MemForm) (s : State) : Host.Outcome State Fault Refusal :=
  lift (runInstr c.val k (qLdB k b f)) s

/-- `LD_BU`: LD.BU loads a zero-extended byte (R130). -/
def execLdBu (c : Fin 32) (k : Cond) (b : Base) (f : MemForm) (s : State) : Host.Outcome State Fault Refusal :=
  lift (runInstr c.val k (qLdBu k b f)) s

/-- `LD_H`: LD.H loads a sign-extended half (R130). -/
def execLdH (c : Fin 32) (k : Cond) (b : Base) (f : MemForm) (s : State) : Host.Outcome State Fault Refusal :=
  lift (runInstr c.val k (qLdH k b f)) s

/-- `LD_HU`: LD.HU loads a zero-extended half (R130). -/
def execLdHu (c : Fin 32) (k : Cond) (b : Base) (f : MemForm) (s : State) : Host.Outcome State Fault Refusal :=
  lift (runInstr c.val k (qLdHu k b f)) s

/-- `LD_W`: LD.W loads a cell (R130). -/
def execLdW (c : Fin 32) (k : Cond) (b : Base) (f : MemForm) (s : State) : Host.Outcome State Fault Refusal :=
  lift (runInstr c.val k (qLdW k b f)) s

/-- `ST_B`: ST.B stores a byte, locally or through the store buffer (R130). -/
def execStB (c : Fin 32) (k : Cond) (b : Base) (f : MemForm) (s : State) : Host.Outcome State Fault Refusal :=
  lift (runInstr c.val k (bStB b f)) s

/-- `ST_H`: ST.H stores a half (R130). -/
def execStH (c : Fin 32) (k : Cond) (b : Base) (f : MemForm) (s : State) : Host.Outcome State Fault Refusal :=
  lift (runInstr c.val k (bStH b f)) s

/-- `ST_W`: ST.W stores a cell (R130). -/
def execStW (c : Fin 32) (k : Cond) (b : Base) (f : MemForm) (s : State) : Host.Outcome State Fault Refusal :=
  lift (runInstr c.val k (bStW b f)) s

/-- `LOAD_DATA_RETURN`: A non-local load's data arrives and completes into its level's bank, or raises a deferred bus error (R131). -/
def execLoadDataReturn (c : Fin 32) (l : Fin 8) (s : State) : Host.Outcome State Fault Refusal :=
  lift (mLoadDataReturn c l) s

/-- `STM_W`: STM.W stores the masked window cells (R133). -/
def execStmW (c : Fin 32) (k : Cond) (b : Base) (m : MultiForm) (x : Option Nat) (s : State) : Host.Outcome State Fault Refusal :=
  lift (runInstr c.val k (bStmW b m x)) s

/-- `STM_D`: STM.D stores the masked stack cells and pops h + 1 cells (R133). -/
def execStmD (c : Fin 32) (k : Cond) (b : Base) (m : MultiForm) (x : Option Nat) (s : State) : Host.Outcome State Fault Refusal :=
  lift (runInstr c.val k (bStmD b m x)) s

/-- `LDM_W`: LDM.W loads the masked window cells (R133). -/
def execLdmW (c : Fin 32) (k : Cond) (b : Base) (m : MultiForm) (s : State) : Host.Outcome State Fault Refusal :=
  lift (runInstr c.val k (bLdmW b m)) s

/-- `LDM_D`: LDM.D pushes h + 1 cells, loading the masked ones (R133). -/
def execLdmD (c : Fin 32) (k : Cond) (b : Base) (m : MultiForm) (s : State) : Host.Outcome State Fault Refusal :=
  lift (runInstr c.val k (bLdmD b m)) s

end Sys2Proof.Machine
end

