-- ==== Sys2Proof/Machine/Crypto.lean ====
section
/-! DEFINITION. SHA-256, HMAC-SHA-256 and the verification of an ECDSA P-256 signature (spec/03 R56, spec/18 R402: FIPS 180-4, RFC 2104,
FIPS 186). Digests and numbers are strings of bytes, the most significant first (log 61). -/
namespace Sys2Proof.Machine

/-! SHA-256. -/

/-- The round constants. -/
def shaK : List Nat :=
  [0x428a2f98, 0x71374491, 0xb5c0fbcf, 0xe9b5dba5, 0x3956c25b, 0x59f111f1, 0x923f82a4, 0xab1c5ed5,
   0xd807aa98, 0x12835b01, 0x243185be, 0x550c7dc3, 0x72be5d74, 0x80deb1fe, 0x9bdc06a7, 0xc19bf174] ++
  [0xe49b69c1, 0xefbe4786, 0x0fc19dc6, 0x240ca1cc, 0x2de92c6f, 0x4a7484aa, 0x5cb0a9dc, 0x76f988da,
   0x983e5152, 0xa831c66d, 0xb00327c8, 0xbf597fc7, 0xc6e00bf3, 0xd5a79147, 0x06ca6351, 0x14292967] ++
  [0x27b70a85, 0x2e1b2138, 0x4d2c6dfc, 0x53380d13, 0x650a7354, 0x766a0abb, 0x81c2c92e, 0x92722c85,
   0xa2bfe8a1, 0xa81a664b, 0xc24b8b70, 0xc76c51a3, 0xd192e819, 0xd6990624, 0xf40e3585, 0x106aa070] ++
  [0x19a4c116, 0x1e376c08, 0x2748774c, 0x34b0bcb5, 0x391c0cb3, 0x4ed8aa4a, 0x5b9cca4f, 0x682e6ff3,
   0x748f82ee, 0x78a5636f, 0x84c87814, 0x8cc70208, 0x90befffa, 0xa4506ceb, 0xbef9a3f7, 0xc67178f2]

/-- The initial hash value. -/
def shaInit : List Nat :=
  [0x6a09e667, 0xbb67ae85, 0x3c6ef372, 0xa54ff53a, 0x510e527f, 0x9b05688c, 0x1f83d9ab, 0x5be0cd19]

/-- Bytes as a number, the most significant first. -/
def beNat (l : List Byte) : Nat := l.foldl (fun n b => n * 256 + b.toNat) 0

/-- A number as `n` bytes, the most significant first. -/
def beBytes (v n : Nat) : List Byte := (List.range n).map fun i => BitVec.ofNat 8 (v / 256 ^ (n - 1 - i))

/-- A message with its padding. -/
def shaPad (l : List Byte) : List Byte :=
  l ++ [0x80] ++ List.replicate ((119 - l.length % 64) % 64) 0 ++ beBytes (8 * l.length) 8

/-- A 32-bit number rotated right. -/
def rotr (x n : Nat) : Nat := (x >>> n) ||| (x <<< (32 - n)) % 4294967296

/-- The message schedule: the last 16 words, newest first, extended `n` times, and the words so far, oldest last. -/
def shaSchedule (n : Nat) (w : List Nat) : List Nat :=
  match n with
  | 0 => w
  | n + 1 =>
    let x (i : Nat) : Nat := lget w 0 i
    let s0 := rotr (x 14) 7 ^^^ rotr (x 14) 18 ^^^ (x 14 >>> 3)
    let s1 := rotr (x 1) 17 ^^^ rotr (x 1) 19 ^^^ (x 1 >>> 10)
    shaSchedule n ((s1 + x 6 + s0 + x 15) % 4294967296 :: w)

/-- One round on the eight working words. -/
def shaRound (h : List Nat) (kw : Nat × Nat) : List Nat :=
  match h with
  | [a, b, c, d, e, f, g, i] =>
    let t1 := i + (rotr e 6 ^^^ rotr e 11 ^^^ rotr e 25) + ((e &&& f) ^^^ ((4294967295 - e) &&& g)) + kw.1 + kw.2
    let t2 := (rotr a 2 ^^^ rotr a 13 ^^^ rotr a 22) + ((a &&& b) ^^^ (a &&& c) ^^^ (b &&& c))
    [(t1 + t2) % 4294967296, a, b, c, (d + t1) % 4294967296, e, f, g]
  | h => h

/-- The words of a block, newest first. -/
def shaWords (blk : List Byte) : List Nat := ((List.range 16).map fun i => beNat ((blk.drop (4 * i)).take 4)).reverse

/-- One block. -/
def shaBlock (h : List Nat) (blk : List Byte) : List Nat :=
  let w := (shaSchedule 48 (shaWords blk)).reverse
  List.zipWith (fun x y => (x + y) % 4294967296) h ((shaK.zip w).foldl shaRound h)

/-- The blocks of a padded message. -/
def shaBlocks (n : Nat) (h : List Nat) (l : List Byte) : List Nat :=
  match n with
  | 0 => h
  | n + 1 => shaBlocks n (shaBlock h (l.take 64)) (l.drop 64)

/-- SHA-256. -/
def sha256 (l : List Byte) : List Byte :=
  let p := shaPad l
  (shaBlocks (p.length / 64) shaInit p).flatMap fun w => beBytes w 4

/-- HMAC-SHA-256 with a key of at most 64 bytes. -/
def hmac (key msg : List Byte) : List Byte :=
  let k := key ++ List.replicate (64 - key.length) 0
  sha256 (k.map (· ^^^ 0x5C) ++ sha256 (k.map (· ^^^ 0x36) ++ msg))

/-! P-256. -/

/-- The field prime. -/
def ecP : Nat := 2 ^ 256 - 2 ^ 224 + 2 ^ 192 + 2 ^ 96 - 1

/-- The order of the base point. -/
def ecN : Nat := 0xFFFFFFFF00000000FFFFFFFFFFFFFFFFBCE6FAADA7179E84F3B9CAC2FC632551

/-- The coefficient b. -/
def ecB : Nat := 0x5AC635D8AA3A93E7B3EBBD55769886BC651D06B0CC53B0F63BCE3C3E27D2604B

/-- The base point. -/
def ecG : Nat × Nat :=
  (0x6B17D1F2E12C4247F8BCE6E563A440F277037D812DEB33A0F4A13945D898C296,
   0x4FE342E2FE1A7F9B8EE7EB4A7C0F9E162BCE33576B315ECECBB6406837BF51F5)

/-- A power modulo `m`, over the low `n` bits of the exponent. -/
def powMod (n b e m : Nat) : Nat :=
  match n with
  | 0 => 1 % m
  | n + 1 => let h := powMod n (b * b % m) (e / 2) m; if e % 2 == 1 then h * b % m else h

/-- The inverse modulo a prime of 256 bits. -/
def invMod (x m : Nat) : Nat := powMod 256 x (m - 2) m

/-- A point in Jacobian coordinates (x / z^2, y / z^3); at infinity z is 0. -/
structure EcPoint where
  x : Nat
  y : Nat
  z : Nat
deriving DecidableEq, Repr

/-- Twice a point. -/
def ecDouble (p : EcPoint) : EcPoint :=
  let yy := p.y * p.y % ecP
  let zz := p.z * p.z % ecP
  let s := 4 * p.x * yy % ecP
  let m := (3 * p.x * p.x + 3 * (ecP * ecP - zz * zz)) % ecP
  let x := (m * m + 2 * (ecP - s)) % ecP
  { x := x, y := (m * (s + ecP - x) + 8 * (ecP * ecP - yy * yy)) % ecP, z := 2 * p.y * p.z % ecP }

/-- The sum of two points. -/
def ecAdd (p q : EcPoint) : EcPoint :=
  if p.z == 0 then q
  else if q.z == 0 then p
  else
    let pp := p.z * p.z % ecP
    let qq := q.z * q.z % ecP
    let u1 := p.x * qq % ecP
    let u2 := q.x * pp % ecP
    let s1 := p.y * q.z * qq % ecP
    let s2 := q.y * p.z * pp % ecP
    let h := (u2 + ecP - u1) % ecP
    let r := (s2 + ecP - s1) % ecP
    if h == 0 then (if r == 0 then ecDouble p else { x := 1, y := 1, z := 0 })
    else
      let hh := h * h % ecP
      let hhh := h * hh % ecP
      let v := u1 * hh % ecP
      let x := (r * r + (ecP - hhh) + 2 * (ecP - v)) % ecP
      { x := x, y := (r * (v + ecP - x) + (ecP - s1) * hhh) % ecP, z := h * p.z * q.z % ecP }

/-- A multiple of a point, over the low `n` bits of the factor. -/
def ecMul (n k : Nat) (p : EcPoint) : EcPoint :=
  match n with
  | 0 => { x := 1, y := 1, z := 0 }
  | n + 1 => let h := ecMul n (k / 2) (ecDouble p); if k % 2 == 1 then ecAdd h p else h

/-- Whether a pair is a point of the curve. -/
def ecOn (q : Nat × Nat) : Bool :=
  q.1 < ecP && q.2 < ecP && (q.2 * q.2) % ecP == (q.1 * q.1 * q.1 + (ecP - 3) * q.1 + ecB) % ecP

/-- Whether a signature (r, s) of a digest holds under a public key. -/
def ecdsaOk (q : Nat × Nat) (r s : Nat) (digest : List Byte) : Bool :=
  if !ecOn q || r == 0 || s == 0 || ecN ≤ r || ecN ≤ s then false
  else
    let w := invMod s ecN
    let x := ecAdd (ecMul 256 (beNat digest * w % ecN) ⟨ecG.1, ecG.2, 1⟩) (ecMul 256 (r * w % ecN) ⟨q.1, q.2, 1⟩)
    let i := invMod x.z ecP
    x.z != 0 && x.x * (i * i % ecP) % ecP % ecN == r

end Sys2Proof.Machine
end

