-- ==== Sys2Proof/Machine/Trust.lean ====
section
/-! DEFINITION. Keys, signatures and rollback, the checks of an image and of an overlay's envelope (spec/18 R398, R399, R402 to R405). -/
namespace Sys2Proof.Machine

/-! The OTP (R403, R404). -/

/-- The value of the counter C. -/
def arbCount (o : Otp) : Nat := (bitsOf o.arb.toNat 64).length

/-- Whether an image key slot can be used: programmed, not revoked, not BAD; slot 7 only while the device is not LOCKED. -/
def keyUsable (o : Otp) (slot : Nat) : Bool :=
  let k := lget o.image OtpKey.blank slot
  k.prog && !k.revoked && !k.bad && !(slot == 7 && o.locked)

/-- The public key in a slot: x, then y. -/
def pubKey (o : Otp) (slot : Nat) : Nat × Nat :=
  let v := (lget o.image OtpKey.blank slot).bits.toNat
  (v / 2 ^ 256, v % 2 ^ 256)

/-- A slot with written bits and no PROG bit is marked BAD at boot. -/
def markBad (k : OtpKey) : OtpKey := if !k.prog && k.bits != 0 then { k with bad := true } else k

/-! Reading an image or an envelope: `g` gives its bytes by offset. -/

/-- A cell, least significant byte first. -/
def cellAt (g : Nat → Byte) (o : Nat) : Nat :=
  (g o).toNat + 256 * (g (o + 1)).toNat + 65536 * (g (o + 2)).toNat + 16777216 * (g (o + 3)).toNat

/-- A string of bytes. -/
def bytesAt (g : Nat → Byte) (o n : Nat) : List Byte := (List.range n).map fun i => g (o + i)

/-- Whether a signature at an offset holds over the first `n` bytes. -/
def signedBy (o : Otp) (g : Nat → Byte) (slot n rs : Nat) : Bool :=
  ecdsaOk (pubKey o slot) (beNat (bytesAt g rs 32)) (beNat (bytesAt g (rs + 32) 32)) (sha256 (bytesAt g 0 n))

/-! Envelopes (R405). -/

/-- The checks of an envelope in the order of R402: 0, or the result code. -/
def envelopeCheck (o : Otp) (g : Nat → Byte) : Nat :=
  if cellAt g 0 != 0x4B594F56 then 2
  else if !keyUsable o (cellAt g 4 % 8) then 3
  else if cellAt g 8 < arbCount o || 64 < cellAt g 8 then 4
  else if !signedBy o g (cellAt g 4 % 8) 0x40 0x40 then 6
  else if sha256 (bytesAt g 0x80 0x4800) != bytesAt g 0x10 32 then 7
  else if cellAt g 0xC != 0x4800 || (bytesAt g 0x30 16).any (· != 0) then 8
  else 0

/-! The loader's rules for an overlay (spec/08 R175; log 62). -/

/-- Bits of a microword. -/
def ubits (w lo n : Nat) : Nat := w / 2 ^ lo % 2 ^ n

/-- A number of `n` bytes. -/
def leAt (g : Nat → Byte) (o n : Nat) : Nat :=
  match n with
  | 0 => 0
  | n + 1 => (g o).toNat + 256 * leAt g (o + 1) n

/-- A microword as the loader sees it: where it may go on, whether it ends the instruction, its resource fields, its length, and a rule
that its sequencing breaks. -/
structure UWord where
  next : List Nat
  ends : Bool
  res : Nat
  cyc : Nat
  bad : Option String
deriving DecidableEq, Repr

/-- The targets of a branch with `n` condition bits. -/
def fanOut (t n : Nat) : List Nat := (List.range (2 ^ n)).map (t + ·)

/-- Whether a horizontal microword is shorter than its minimum: MDR as a source beside a read of the word takes two cycles, a write of a
result put into MDR three (R171; log 62). -/
def tooShort (w : Nat) : Bool :=
  let mem := ubits w 48 3
  let clen := ubits w 20 2
  ((ubits w 22 4 == 9 || ubits w 26 4 == 9) && 1 ≤ mem && mem ≤ 3 && clen == 0) || (ubits w 36 4 == 8 && 4 ≤ mem && mem ≤ 6 && clen < 2)

/-- A horizontal microword of a Drove overlay; `g` are the bytes of the slot. -/
def droveWord (g : Nat → Byte) (a : Nat) : UWord :=
  let w := leAt g (0x400 + 16 * (a - 0xC00)) 16
  let next := ubits w 0 12
  let brw := ubits w 12 3
  let ends := next == 0 && brw == 0
  { next := if ends then [] else fanOut next brw, ends := ends, res := w, cyc := ubits w 20 2 + 1,
    bad := if 4 < brw || next % 2 ^ brw != 0 then some "fields" else if tooShort w then some "cycle length" else none }

/-- A short microword's branch target before its condition bits (R169, R170). -/
def shortTarget (s a : Nat) : Nat :=
  let disp := ubits s 17 7
  if ubits s 9 2 == 3 then disp * 128 else (a + 0x4000 + disp - (if 64 ≤ disp then 128 else 0)) % 0x4000

/-- Whether the sequencing of a short microword breaks R170. -/
def shortBad (s a : Nat) : Bool :=
  let brw := ubits s 11 2
  if ubits s 9 1 == 0 then brw != 0 else shortTarget s a % 2 ^ brw != 0

/-- A short microword of a Tether overlay with its nanoword; `base` are the bytes of the Tether base image. -/
def tetherWord (g base : Nat → Byte) (a : Nat) : UWord :=
  let s := leAt g (0x400 + 3 * (a - 0x3000)) 3
  let nano := ubits s 0 9
  let res := if 0x180 ≤ nano then leAt g (0x3400 + 16 * (nano - 0x180)) 16 else leAt base (0xC000 + 16 * nano) 16
  let seq := ubits s 9 2
  { next := match seq with | 0 => [a + 1] | 2 => [] | _ => fanOut (shortTarget s a) (ubits s 11 2), ends := seq == 2, res := res, cyc := 1,
    bad := if ubits res 0 22 != 0 || shortBad s a then some "fields" else none }

/-- Whether a microword names SREG. -/
def usesSreg (w : Nat) : Bool := ubits w 22 4 == 12 || ubits w 26 4 == 12 || ubits w 36 4 == 9

/-- Whether a microword uses extended state in the sense of the EXT rule. -/
def usesExt (w : Nat) : Bool := usesSreg w || ubits w 69 3 != 0 || ubits w 30 6 == 0x1F

/-- Whether a microword holds a write that must come last. -/
def commits (w : Nat) : Bool :=
  let dst := ubits w 36 4
  dst == 1 || dst == 2 || dst == 9 || dst == 10 || (4 ≤ ubits w 48 3 && ubits w 48 3 ≤ 6) || ubits w 40 3 != 0 || ubits w 61 3 != 0

/-- The rule that the fields of a microword break wherever it stands, if any. -/
def wordRule (w : Nat) : Option String :=
  if ubits w 91 37 != 0 || ubits w 48 3 == 7 || ubits w 61 3 == 7 || 5 ≤ ubits w 69 3 || ubits w 72 2 != 0 || 0x22 < ubits w 30 6 ||
      ubits w 22 4 == 15 || ubits w 26 4 == 15 || 11 ≤ ubits w 36 4 then some "fields"
  else if usesSreg w && !(6 ≤ ubits w 52 5 && ubits w 52 5 ≤ 12) then some "registers"
  else if !([0, 1, 7, 0xA] : List Nat).contains (ubits w 64 5) then some "exceptions"
  else none

/-- The rule that a microword breaks on a path, if any; `first` says that it starts an instruction, `ends` that it ends one. -/
def fieldRule (w : Nat) (first ends : Bool) : Option String :=
  match wordRule w with
  | some r => some r
  | none =>
    if commits w && !ends then some "commit last"
    else if !first && (ubits w 43 3 != 0 || ubits w 46 2 != 0) then some "depth checks"
    else none

/-- The walk of every path from a microword: its greatest length and whether extended state is used, or the rule broken and where. `path`
are the words already on the path, `left` the cycles that remain. -/
def ovlWalk (n : Nat) (word : Nat → UWord) (lo hi a : Nat) (path : List Nat) (left : Nat) : Except (String × Nat) Bool :=
  match n with
  | 0 => .error ("length", a)
  | n + 1 =>
    if a < lo || hi < a then .error ("region", a)
    else if path.contains a then .error ("no loops", a)
    else
      let u := word a
      match u.bad, fieldRule u.res path.isEmpty u.ends with
      | some r, _ => .error (r, a)
      | none, some r => .error (r, a)
      | none, none =>
        if left < u.cyc then .error ("length", a)
        else
          u.next.foldl (fun (r : Except (String × Nat) Bool) t =>
            match r with
            | .error e => .error e
            | .ok x => match ovlWalk n word lo hi t (a :: path) (left - u.cyc) with
              | .error e => .error e
              | .ok y => .ok (x || y)) (.ok (usesExt u.res))

/-- The rules for one dispatch entry. -/
def entryRule (tether : Bool) (word : Nat → UWord) (e : Nat) : Option (String × Nat) :=
  let ext := e.testBit 14
  let a := ubits e 0 14
  let (lo, hi) := if tether then (0x3000, 0x3FFF) else (0xC00, 0xFFF)
  match ovlWalk 300 word lo hi a [] (if !tether then 256 else if ext then 26 else 34) with
  | .error x => some x
  | .ok u => if u == ext then none else some ("EXT", a)

/-- The rule that a horizontal microword breaks on no path, if any: its sequencing, its fields, its length, its targets. -/
def droveAlone (g : Nat → Byte) (a : Nat) : Option String :=
  let u := droveWord g a
  match u.bad, wordRule u.res with
  | some r, _ => some r
  | none, some r => some r
  | none, none => if u.next.any fun t => t < 0xC00 || 0xFFF < t then some "region" else none

/-- The same of a short microword of a Tether overlay. -/
def shortAlone (g : Nat → Byte) (a : Nat) : Option String :=
  let s := leAt g (0x400 + 3 * (a - 0x3000)) 3
  if shortBad s a then some "fields"
  else if ubits s 9 1 == 1 && (fanOut (shortTarget s a) (ubits s 11 2)).any (fun t => t < 0x3000 || 0x3FFF < t) then some "region"
  else none

/-- The same of a nanoword of a Tether overlay. -/
def nanoAlone (g : Nat → Byte) (n : Nat) : Option String :=
  let w := leAt g (0x3400 + 16 * (n - 0x180)) 16
  if ubits w 0 22 != 0 then some "fields" else wordRule w

/-- The first word of a range that breaks a rule by itself. -/
def firstBad (f : Nat → Option String) (lo n : Nat) : Option (String × Nat) :=
  (List.range n).findSome? fun i => (f (lo + i)).map fun r => (r, lo + i)

/-- The rules for a whole overlay slot: the first one broken, with its address; of every entry with its paths, then of every word. -/
def ovlRule (tether : Bool) (g base : Nat → Byte) : Option (String × Nat) :=
  let word := if tether then tetherWord g base else droveWord g
  let entries := (List.range 384).findSome? fun i =>
    let e := leAt g (0x40 + 2 * i) 2
    if e.testBit 15 then entryRule tether word e else none
  let words := if tether then (firstBad (nanoAlone g) 0x180 0x80).or (firstBad (shortAlone g) 0x3000 0x1000)
    else firstBad (droveAlone g) 0xC00 0x400
  entries.or words

/-- Whether the header of an overlay slot is one: its magic, and a fold and personality. -/
def ovlHeader (g : Nat → Byte) : Option (Nat × Bool) :=
  if cellAt g 0 == 0x564F594B then some (cellAt g 8 % 8, (cellAt g 8).testBit 8) else none

/-! Images (R398, R399, R402). -/

/-- One section entry. -/
structure Section where
  type : Nat
  index : Nat
  opt : Bool
  off : Nat
  len : Nat
  load : Nat
  hash : List Byte
deriving DecidableEq, Repr

/-- Section entry `i` of an image. -/
def sectionAt (g : Nat → Byte) (i : Nat) : Section :=
  let o := 0x100 + 48 * i
  { type := cellAt g o % 256, index := cellAt g o / 256 % 256, opt := (cellAt g o).testBit 16, off := cellAt g (o + 4),
    len := cellAt g (o + 8), load := cellAt g (o + 0xC), hash := bytesAt g (o + 0x10) 32 }

/-- The sections of an image. -/
def sectionsOf (g : Nat → Byte) : List Section := (List.range (min 64 (cellAt g 0x14))).map (sectionAt g)

/-- Whether the content of a type 4 section lies in a memory it may fill. -/
def loadOk (d : Dev) (x : Section) : Bool :=
  let last := x.load + x.len - 1
  (0x10000000 ≤ x.load && last < 0x10780000) || (0x18000000 ≤ x.load && last < 0x18040000) ||
  (0x01000000 ≤ x.load && last < 0x01000000 + 0x10000 * (4 * countPens d.variant))

/-- Whether a type 4 section names the local memory of an absent core. -/
def loadAbsent (d : Dev) (x : Section) : Bool :=
  0x01000000 + 0x10000 * (4 * countPens d.variant) ≤ x.load && x.load < 0x01200000

/-- Whether a section keeps to its target and its length limits. -/
def sectionOk (d : Dev) (length : Nat) (x : Section) : Bool :=
  x.off % 16 == 0 && x.off + x.len ≤ length &&
  (match x.type with
    | 1 | 2 => x.len == 0x10800
    | 3 => x.len == 0x4880 && x.index < 16
    | 4 => loadOk d x || (x.opt && loadAbsent d x)
    | 5 => x.len % 8 == 0
    | 6 => x.len ≤ 0x4000
    | 7 => x.len ≤ 0x10000
    | 8 => x.len == 0x1000
    | _ => false)

/-- The bit of the device's variant in an image header. -/
def variantBit (d : Dev) (g : Nat → Byte) : Bool := (cellAt g 0x10).testBit (7 + d.variant)

/-- Whether the bytes of a section can be read at all: they lie inside the flash. -/
def sectionThere (size : Nat) (x : Section) : Bool := x.off + x.len ≤ size

/-- The first section whose hash does not hold. -/
def badHash (g : Nat → Byte) (size : Nat) (l : List Section) : Option Nat :=
  (l.zipIdx.find? fun x => !sectionThere size x.1 || sha256 (bytesAt g x.1.off x.1.len) != x.1.hash).map (·.2)

/-- The checks of an overlay section. -/
def ovlSectionCheck (o : Otp) (g base : Nat → Byte) (x : Section) : Nat :=
  let e (i : Nat) : Byte := g (x.off + i)
  let c (i : Nat) : Byte := g (x.off + 0x80 + i)
  match envelopeCheck o e with
  | 0 =>
    match ovlHeader c with
    | some (f, t) => if ovlSlot f t == x.index && (ovlRule t c base).isNone then 0 else 8
    | none => 8
  | n => n

/-- The first section that breaks its limits or whose overlay fails, with the result code. -/
def badSection (d : Dev) (o : Otp) (g : Nat → Byte) (length : Nat) (l : List Section) : Option (Nat × Nat) :=
  let base : Nat → Byte := match l.find? (·.type == 2) with | some x => fun i => g (x.off + i) | none => fun _ => 0
  l.zipIdx.findSome? fun x =>
    if !sectionOk d length x.1 then some (8, x.2)
    else if x.1.type == 3 then match ovlSectionCheck o g base x.1 with | 0 => none | n => some (n, x.2)
    else none

/-- The checks of an image in the order of R402: `none`, or the result code and the section. `size` is what the flash holds from the
image's start. -/
def imageCheck (d : Dev) (o : Otp) (g : Nat → Byte) (size : Nat) : Option (Nat × Nat) :=
  let slot := cellAt g 0x10 % 8
  let ns := cellAt g 0x14
  let length := cellAt g 8
  if cellAt g 0 != 0x4B59494D || cellAt g 4 != 1 then some (2, 0)
  else if !keyUsable o slot then some (3, 0)
  else if cellAt g 0xC < arbCount o || 64 < cellAt g 0xC then some (4, 0)
  else if !variantBit d g then some (5, 0)
  else if !signedBy o g slot 0x80 0x80 then some (6, 0)
  else if sha256 (bytesAt g 0x100 (48 * ns)) != bytesAt g 0x40 32 then some (7, 0)
  else
    match badHash g size (sectionsOf g) with
    | some i => some (7, i)
    | none =>
      if ns == 0 || 64 < ns || 0x400000 < length || size < length || length < 0x100 + 48 * ns then some (8, 0)
      else badSection d o g length (sectionsOf g)

/-- The bytes of the boot flash from an offset. -/
def flashAt (d : Dev) (base : Nat) (i : Nat) : Byte := tget d.flash.data 0xFF (base + i)

/-- Where an image lies in the flash. -/
def imageBase (secondary : Bool) : Nat := if secondary then 0x1000000 else 0

/-- Whether discovery finds a boot flash it can use (R397). -/
def flashUsable (d : Dev) : Bool := d.flash.fitted && d.flash.octal

/-- The check of the primary or the secondary image. -/
def checkFlashImage (d : Dev) (o : Otp) (secondary : Bool) : Option (Nat × Nat) :=
  imageCheck d o (flashAt d (imageBase secondary)) (d.flash.density - imageBase secondary)

/-- The names of the boot results (R409). -/
def bootName (n : Nat) : String :=
  match n with
  | 0 => "OK" | 1 => "NOFLASH" | 2 => "MAGIC" | 3 => "KEY" | 4 => "ROLLBACK" | 5 => "VARIANT" | 6 => "SIGNATURE" | 7 => "HASH"
  | 8 => "LAYOUT" | 9 => "CFG" | 10 => "SCRIPT" | _ => "NOKEEPER"

/-! Overlay verbs (spec/08 R175, R176, R186). -/

/-- The bytes of memory from an address. -/
def memAt (d : Dev) (a : Nat) (i : Nat) : Byte := plainByte d (a + i)

/-- Whether a signed overlay can be read at an address. -/
def ovlReadable (d : Dev) (a : Nat) : Bool :=
  a % 4 == 0 && a + 0x4880 ≤ 2 ^ 32 && isMemory (regionOf a) && isMemory (regionOf (a + 0x487F)) && !rangeBad d a 0x4880

/-- The answer of the loader on an overlay at an address: none where it is accepted (R175). A fold and a personality that a command names
must be the header's. -/
def loaderCheck (s : State) (a : Nat) (want : Option (Nat × Bool)) : Option Status :=
  let d := s.dev
  if !ovlReadable d a then some (er 10)
  else if envelopeCheck s.otp (memAt d a) != 0 then some (er 70 (bootName (envelopeCheck s.otp (memAt d a))))
  else
    let g (i : Nat) : Byte := memAt d (a + 0x80) i
    match ovlHeader g with
    | none => some (er 10 "header")
    | some h =>
      if want.isSome && want != some h then some (er 10 "header")
      else match ovlRule h.2 g (memAt d (baseAddr true)) with
        | some (r, x) => some (er 10 (r ++ " 0x" ++ hexDigits x 4))
        | none => none

/-- A verb that reads the OTP. -/
def verbS (o : Via) (role : Role) (us : List UnitId) (f : State → State × VRes) (s : State) : State :=
  match gate s.dev o role us with
  | some e => { s with dev := reply o (s.dev, some ([], e)) }
  | none =>
    let r := f s
    { r.1 with dev := reply o r.2 }

/-- `x ucode check`: the loader's checks without staging. -/
def svXUcodeCheck (o : Via) (addr : Nat) (s : State) : State :=
  verbS o .engineer [] (fun s =>
    match loaderCheck s addr none with
    | some e => (s, s.dev, some ([], e))
    | none => (s, vOk s.dev)) s

/-- `x ucode load`: checks and stages. -/
def svXUcodeLoad (o : Via) (f : Fin 8) (tether : Bool) (addr : Nat) (s : State) : State :=
  verbS o .machine [.fold f] (fun s =>
    let d := s.dev
    if d.golden.staged.isSome then (s, vEr d 40)
    else
      match loaderCheck s addr (some (f.val, tether)) with
      | some e => (s, d, some ([], e))
      | none =>
        let e := d.clearRange stagingAddr 0x4800
        let e := e.setByteList stagingAddr (bytesAt (memAt d addr) 0x80 0x4800)
        (s, vOk (stageOverlay e { fold := f.val, tether := tether, empty := false, arb := cellAt (memAt d addr) 8 }))) s

/-! Reload of a golden image (spec/08 R183, spec/18 R410). -/

/-- A section of the image that booted, read again, where its hash is the one kept since boot. -/
def reloadBytes (d : Dev) (img : BootImg) (x : Nat × Nat × Nat) : Option (List Byte) :=
  let l := bytesAt (flashAt d (img.base + x.1)) 0 x.2.1
  if beNat (sha256 l) == x.2.2 then some l else none

/-- A range of the golden region written again by the Bellwether, in URGENT beats charged to no fold (spec/13 R272, R276); its check bits are
good. -/
def goldenWrite (d : Dev) (a : Nat) (l : List Byte) : Dev :=
  let d := (List.range ((l.length + 15) / 16)).foldl (fun d i => charge d none 1 .urgent (a + 16 * i)) d
  let d := (d.clearRange a l.length).setByteList a l
  { d with myc := { d.myc with ecc := d.myc.ecc.filter fun x => x.1 < a || a + l.length ≤ x.1 } }

/-- A base image that has met an error is reloaded; on a mismatch it is no longer held and stays unusable until device reset. -/
def reloadBase (d : Dev) (img : BootImg) (tether : Bool) : Dev :=
  let i := if tether then 1 else 0
  match (if tether then img.tether else img.drove) with
  | some x =>
    if !lget d.golden.baseBad false i || !lget d.golden.baseHeld false i then d
    else match reloadBytes d img x with
      | some l =>
        let d := goldenWrite d (baseAddr tether) l
        { d with golden := { d.golden with baseBad := lset d.golden.baseBad i false } }
      | none =>
        let d := emit d (some .state) none ("!UCODE GOLDEN " ++ persName tether ++ " FAIL")
        { d with golden := { d.golden with baseHeld := lset d.golden.baseHeld i false } }
  | none => d

/-- An overlay of the boot image that is active and has met an error is reloaded; on a mismatch it is not tried again. An overlay loaded at
run time is in no boot flash (DEDUCED, log 113). -/
def reloadOverlay (d : Dev) (img : BootImg) (f : Nat) (tether : Bool) : Dev :=
  let i := ovlSlot f tether
  match tfind img.ovls i with
  | some x =>
    if !lget d.golden.ovlBad false i || !lget d.golden.active false i then d
    else match reloadBytes d img x with
      | some l =>
        let d := goldenWrite d (ovlAddr f tether) (l.drop 0x80)
        { d with golden := { d.golden with ovlBad := lset d.golden.ovlBad i false } }
      | none =>
        let d := emit d (some .state) none ("!UCODE GOLDEN fold" ++ toString f ++ " " ++ persName tether ++ " FAIL")
        { d with boot := { d.boot with img := some { img with ovls := tdel img.ovls i } } }
  | none => d

/-- The Bellwether reads a golden image again from the image that booted and checks it against the hash kept since boot. -/
def mGoldenReload (slot : GoldenSlot) (d : Dev) : Dev :=
  match d.boot.img with
  | some img =>
    if d.bw.halt then d
    else match slot with | .base t => reloadBase d img t | .overlay f t => reloadOverlay d img f.val t
  | none => d

/-! The rows of the table. -/

/-- `GOLDEN_RELOAD`: The Bellwether rereads and rechecks the base-image section, or marks it unusable with !UCODE GOLDEN FAIL (R410). -/
def execGoldenReload (slot : GoldenSlot) (s : State) : Host.Outcome State Fault Refusal :=
  lift (mGoldenReload slot) s

/-- `X_UCODE_CHECK`: Brenex x ucode check runs the overlay rules without staging (R186). -/
def execXUcodeCheck (o : Via) (addr : Nat) (s : State) : Host.Outcome State Fault Refusal :=
  .next (rowS o (svXUcodeCheck o addr) s)

/-- `X_UCODE_LOAD`: Brenex x ucode load checks and stages an overlay and raises !UCODE STAGED (R176). -/
def execXUcodeLoad (o : Via) (f : Fin 8) (tether : Bool) (addr : Nat) (s : State) : Host.Outcome State Fault Refusal :=
  .next (rowS o (svXUcodeLoad o f tether addr) s)

end Sys2Proof.Machine
end

