-- ==== Sys2Proof/Machine/Secure.lean ====
section
/-! DEFINITION. The verbs of boot, OTP and flash, and boundary scan (spec/18 R403, R404, R407, R411; log 63). -/
namespace Sys2Proof.Machine

/-! OTP verbs. -/

/-- What stops a verb that writes the OTP (R403): the power state, VIN below 7.5 V, a halted Bellwether. -/
def otpGate (d : Dev) : Option Status :=
  if !(d.pmu.cur == .run || d.pmu.cur == .slow) || d.pmu.vinNow.toNat < 750 then some (er 60)
  else if d.bw.halt then some (er 40)
  else none

/-- An OTP write that the supply cuts short gives no answer (R408). -/
def unanswered (cut : Option Nat) (r : VRes) : VRes :=
  if cut.isSome && (r.2.map (·.2) == some okS) then (r.1, none) else r

/-- A machine verb that writes the OTP where `f` gives its new content, or answers a code; with `cut` the supply fails during the write. -/
def otpVerb (o : Via) (us : List UnitId) (cut : Option Nat) (f : State → Except Nat Otp) (s : State) : State :=
  verbS o .machine us (fun s =>
    match otpGate s.dev with
    | some e => (s, s.dev, some ([], e))
    | none =>
      match f s with
      | .ok p =>
        let d := { s.dev with boot := { s.dev.boot with arb := arbCount p, locked := p.locked } }
        ({ s with otp := p }, unanswered cut (vOk d))
      | .error n => (s, vEr s.dev n)) s

/-- The bytes a key is programmed from, if they can be read. -/
def keyBytes (d : Dev) (a n : Nat) : Option (List Byte) :=
  if a + n ≤ 2 ^ 32 && isMemory (regionOf a) && isMemory (regionOf (a + n - 1)) && !rangeBad d a n then some (bytesAt (memAt d a) 0 n)
  else none

/-- Bits written to an OTP slot, PROG last. -/
def programKey (k : OtpKey) (l : List Byte) : OtpKey := { k with bits := k.bits ||| BitVec.ofNat 512 (beNat l), prog := true }

/-- What stands of a key of which only the first `n` 32-bit words were written: those words, and no PROG (R403, R408; log 124). -/
def cutKey (k : OtpKey) (l : List Byte) (n : Nat) : OtpKey :=
  { k with bits := k.bits ||| BitVec.ofNat 512 (beNat (l.take (4 * n) ++ List.replicate (l.length - 4 * n) 0)) }

/-- A key written whole (`none`), or up to the word before which the supply failed. -/
def writeKey (k : OtpKey) (l : List Byte) (cut : Option Nat) : OtpKey :=
  match cut with
  | none => programKey k l
  | some n => cutKey k l n

/-- Whether a slot can still be programmed. -/
def slotBlank (k : OtpKey) : Bool := !k.prog && !k.bad

def svXBootKey (o : Via) (slot : Nat) (key : KeySource) (s : State) : State :=
  otpVerb o [] key.cut (fun s =>
    let k := lget s.otp.image OtpKey.blank slot
    match keyBytes s.dev key.addr 64 with
    | some l => if 8 ≤ slot || !slotBlank k then .error 10 else .ok { s.otp with image := lset s.otp.image slot (writeKey k l key.cut) }
    | none => .error 10) s

/-- An image key slot marked revoked. -/
def revokeKey (p : Otp) (slot : Nat) : Otp :=
  { p with image := lset p.image slot { lget p.image OtpKey.blank slot with revoked := true } }

/-- `x boot revoke`: refused where no usable image key slot would be left (R404). -/
def svXBootRevoke (o : Via) (slot : Nat) (s : State) : State :=
  otpVerb o [] none (fun s =>
    if 8 ≤ slot then .error 10
    else
      let p := revokeKey s.otp slot
      if (List.range 8).any (keyUsable p) then .ok p else .error 40) s

/-- The number of a role key slot: operate of all folds, engineer, machine, operate of fold 0 to 7. -/
def roleSlot (r : Role) (f : Option Nat) : Option Nat :=
  match r, f with
  | .operate, none => some 0
  | .engineer, none => some 1
  | .machine, none => some 2
  | .operate, some f => some (3 + f)
  | _, _ => none

/-- Generation `g` of a role key. -/
def roleKey (p : Otp) (slot g : Nat) : OtpKey := lget p.role OtpKey.blank (2 * slot + g)

/-- Replaces a generation of a role key. -/
def setRoleKey (p : Otp) (slot g : Nat) (k : OtpKey) : Otp := { p with role := lset p.role (2 * slot + g) k }

def svXBootRolekey (o : Via) (r : Role) (f : Option (Fin 8)) (g : Nat) (key : KeySource) (s : State) : State :=
  otpVerb o (match f with | some f => [.fold f] | none => []) key.cut (fun s =>
    match roleSlot r (f.map (·.val)), keyBytes s.dev key.addr 32 with
    | some n, some l =>
      if 2 ≤ g || !slotBlank (roleKey s.otp n g) then .error 10
      else .ok (setRoleKey s.otp n g (writeKey (roleKey s.otp n g) l key.cut))
    | _, _ => .error 10) s

def svXBootRolerevoke (o : Via) (r : Role) (f : Option (Fin 8)) (g : Nat) (s : State) : State :=
  otpVerb o (match f with | some f => [.fold f] | none => []) none (fun s =>
    match roleSlot r (f.map (·.val)) with
    | some n => if 2 ≤ g then .error 10 else .ok (setRoleKey s.otp n g { roleKey s.otp n g with revoked := true })
    | none => .error 10) s

/-- C raised to `n` in its thermometer code. -/
def raiseArb (p : Otp) (n : Nat) : Otp := { p with arb := p.arb ||| BitVec.ofNat 64 (2 ^ n - 1) }

/-- `x boot arb` (R404). -/
def svXBootArb (o : Via) (n : Nat) (s : State) : State :=
  otpVerb o [] none (fun s =>
    let top := match s.dev.boot.img with | some i => min i.arb 64 | none => 0
    if n ≤ arbCount s.otp || top < n then .error 10
    else if (match s.dev.golden.staged with | some g => !g.empty && g.arb < n | none => false) then .error 40
    else .ok (raiseArb s.otp n)) s

def svXBootLock (o : Via) (s : State) : State := otpVerb o [] none (fun s => .ok { s.otp with locked := true }) s

def vXBootJtag (o : Via) (on : Bool) (d : Dev) : Dev :=
  verb o .machine [] (fun d => vOk { d with boot := { d.boot with jtagEn := on } }) d

/-! Reports. -/

/-- The state of an image key slot. -/
def keyState (k : OtpKey) : String :=
  if k.revoked then "revoked" else if k.bad then "bad" else if k.prog then "programmed" else "blank"

/-- `boot`. -/
def svBoot (o : Via) (s : State) : State :=
  verbS o .observe [] (fun s =>
    let b := s.dev.boot
    (s, vShow "boot" (fun _ =>
      (match b.img with
        | some i => [("image", if i.secondary then "secondary" else "primary"), ("version", hex32 i.version),
            ("name", String.ofList ((i.name.takeWhile (· != 0)).map fun b => Char.ofNat b.toNat)), ("arb", toString i.arb),
            ("keyslot", toString i.keyslot)]
        | none => [("image", "none")]) ++
      [("result", bootName b.code), ("primary", bootName b.bfailCode ++ " " ++ toString b.bfailSection),
       ("records", toString b.records), ("skipped", toString b.skipped), ("script", toString b.scriptLines),
       ("counter", toString (arbCount s.otp)), ("locked", onOff s.otp.locked)] ++
      s.otp.image.zipIdx.map fun x => ("slot" ++ toString x.2, keyState x.1)) s.dev)) s

/-- `x boot verify`: the checks of R402 on a flash image; the result is shown, and a failed check is answered `er 70` (log 63). -/
def svXBootVerify (o : Via) (secondary : Bool) (s : State) : State :=
  verbS o .engineer [] (fun s =>
    if !flashUsable s.dev then (s, vEr s.dev 10 (bootName 1))
    else match checkFlashImage s.dev s.otp secondary with
      | none => (s, vOk s.dev)
      | some (c, i) => (s, vEr s.dev 70 (bootName c ++ " " ++ toString i))) s

/-! Flash. -/

/-- Whether a range lies on the boot flash. -/
def flashRange (d : Dev) (off len : Nat) : Bool := 0 < len && off + len ≤ d.flash.density

/-- A verb on the boot flash; without one it cannot act (log 63). -/
def flashVerb (o : Via) (ok : Dev → Bool) (f : Dev → Dev) (d : Dev) : Dev :=
  verb o .machine [] (fun d => if !flashUsable d then vEr d 40 else if ok d then vOk (f d) else vEr d 10) d

/-- Erases whole 4 KiB sectors: an erased byte reads 0xFF. -/
def vXFlashErase (o : Via) (off len : Nat) (d : Dev) : Dev :=
  flashVerb o (fun d => off % 4096 == 0 && len % 4096 == 0 && flashRange d off len)
    (fun d => { d with flash := { d.flash with data := d.flash.data.filter fun x => x.1 < off || off + len ≤ x.1 } }) d

/-- Bytes written to the boot flash. -/
def flashPut (t : List (Nat × Byte)) (off : Nat) (l : List Byte) : List (Nat × Byte) :=
  match l with
  | [] => t
  | b :: r => flashPut (tset t 0xFF off b) (off + 1) r

def vXFlashWrite (o : Via) (off : Nat) (bytes : List Byte) (d : Dev) : Dev :=
  flashVerb o (fun d => bytes.length ≤ 64 && flashRange d off bytes.length)
    (fun d => { d with flash := { d.flash with data := flashPut d.flash.data off bytes } }) d

/-! Boundary scan (R407). -/

/-- EXTEST, CLAMP or HIGHZ at the TAP: a LOCKED device without JTAGEN treats it as BYPASS. -/
def jtagAllowed (s : State) : Bool := !s.otp.locked || s.dev.boot.jtagEn

/-- `JTAG_EXTEST`: EXTEST, CLAMP or HIGHZ hands every ball to the boundary register and raises !JTAG EXTEST (R407). -/
def execJtagExtest (s : State) : Host.Outcome State Fault Refusal :=
  .next (if jtagAllowed s && !s.dev.jtag && s.dev.pmu.cur != .off then
    { s with dev := emit { s.dev with jtag := true } (some .fence) none "!JTAG EXTEST" } else s)

/-- The TAP leaves the three instructions: the halter map and the units drive their balls again. -/
def mJtagExtestEnd (d : Dev) : Dev := { d with jtag := false }

/-! The rows of the table. -/

/-- `BOOT`: Brenex boot shows the booted image and the boot results (R411). -/
def execBoot (o : Via) (s : State) : Host.Outcome State Fault Refusal :=
  .next (rowS o (svBoot o) s)

/-- `X_BOOT_VERIFY`: Brenex x boot verify runs the image checks without booting (R411). -/
def execXBootVerify (o : Via) (secondary : Bool) (s : State) : Host.Outcome State Fault Refusal :=
  .next (rowS o (svXBootVerify o secondary) s)

/-- `X_BOOT_KEY`: Brenex x boot key programs an image key slot in OTP (R403). -/
def execXBootKey (o : Via) (slot : Nat) (key : KeySource) (s : State) : Host.Outcome State Fault Refusal :=
  .next (rowS o (svXBootKey o slot key) s)

/-- `X_BOOT_REVOKE`: Brenex x boot revoke revokes an image key slot (R404). -/
def execXBootRevoke (o : Via) (slot : Nat) (s : State) : Host.Outcome State Fault Refusal :=
  .next (rowS o (svXBootRevoke o slot) s)

/-- `X_BOOT_ROLEKEY`: Brenex x boot rolekey programs a role key generation (R411). -/
def execXBootRolekey (o : Via) (r : Role) (f : Option (Fin 8)) (g : Nat) (key : KeySource) (s : State) : Host.Outcome State Fault Refusal :=
  .next (rowS o (svXBootRolekey o r f g key) s)

/-- `X_BOOT_ROLEREVOKE`: Brenex x boot rolerevoke revokes a role key generation (R411). -/
def execXBootRolerevoke (o : Via) (r : Role) (f : Option (Fin 8)) (g : Nat) (s : State) : Host.Outcome State Fault Refusal :=
  .next (rowS o (svXBootRolerevoke o r f g) s)

/-- `X_BOOT_ARB`: Brenex x boot arb raises the anti-rollback counter (R404). -/
def execXBootArb (o : Via) (n : Nat) (s : State) : Host.Outcome State Fault Refusal :=
  .next (rowS o (svXBootArb o n) s)

/-- `X_BOOT_LOCK`: Brenex x boot lock sets LOCKED (R407). -/
def execXBootLock (o : Via) (s : State) : Host.Outcome State Fault Refusal :=
  .next (rowS o (svXBootLock o) s)

/-- `X_BOOT_JTAG`: Brenex x boot jtag sets or clears JTAGEN (R407). -/
def execXBootJtag (o : Via) (on : Bool) (s : State) : Host.Outcome State Fault Refusal :=
  lift (row o (vXBootJtag o on)) s

/-- `X_FLASH_ERASE`: Brenex x flash erase erases flash sectors (R411). -/
def execXFlashErase (o : Via) (off : Nat) (len : Nat) (s : State) : Host.Outcome State Fault Refusal :=
  lift (row o (vXFlashErase o off len)) s

/-- `X_FLASH_WRITE`: Brenex x flash write writes bytes to flash (R411). -/
def execXFlashWrite (o : Via) (off : Nat) (bytes : List Byte) (s : State) : Host.Outcome State Fault Refusal :=
  lift (row o (vXFlashWrite o off bytes)) s

/-- `JTAG_EXTEST_END`: The TAP leaves EXTEST, CLAMP or HIGHZ, and the halter map again drives HALT_OUT0–7 while the other balls return to their units (R407). -/
def execJtagExtestEnd (s : State) : Host.Outcome State Fault Refusal :=
  lift (mJtagExtestEnd) s

end Sys2Proof.Machine
end

