-- ==== Sys2Proof/Machine/Session.lean ====
section
/-! DEFINITION. Sessions, logins, the device-wide verbs, and what a management port sends by itself (spec/03 R52 to R65; log 64). -/
namespace Sys2Proof.Machine

/-! Ports. -/

/-- The ports a session setting reaches: the command's own, or both for the start-up script, which is bound to none (spec/18 R401). -/
def viaPorts (o : Via) : List MgPort := match viaPort o with | some p => [p] | none => [.mga, .mgb]

/-- Changes the ports a command reaches. -/
def onPorts (o : Via) (f : Console → Console) (d : Dev) : Dev := (viaPorts o).foldl (fun d p => d.updMg p f) d

/-- A verb the start-up script may not give (spec/18 R401). -/
def notScript (o : Via) (d : Dev) (f : MgPort → VRes) : VRes :=
  match viaPort o with
  | some p => f p
  | none => vEr d 60

/-! Logins (R54 to R56, spec/18 R404). -/

/-- The word of a role. -/
def roleName (r : Role) : String :=
  match r with | .observe => "observe" | .operate => "operate" | .engineer => "engineer" | .machine => "machine"

/-- The word of a scope. -/
def scopeName (f : Option (Fin 8)) : String := match f with | none => "all" | some f => "fold" ++ toString f.val

/-- The highest programmed, unrevoked generation of a role's key. -/
def loginKey (p : Otp) (r : Role) (f : Option (Fin 8)) : Option (List Byte) :=
  match roleSlot r (f.map (·.val)) with
  | none => none
  | some n =>
    let ok (k : OtpKey) : Bool := k.prog && !k.revoked && !k.bad
    match [roleKey p n 1, roleKey p n 0].find? ok with
    | some k => some (beBytes (k.bits.toNat % 2 ^ 256) 32)
    | none => none

/-- The nonce as the console prints it. -/
def nonceText (n : BitVec 128) : String :=
  let g (i : Nat) : String := String.ofList ((hexDigits (n.toNat / 2 ^ (32 * i)) 8).toList.map Char.toLower)
  g 3 ++ "-" ++ g 2 ++ "-" ++ g 1 ++ "-" ++ g 0

/-- The message a login's HMAC is taken over. -/
def loginMessage (p : MgPort) (c : Chal) : List Byte :=
  beBytes c.nonce.toNat 16 ++ textBytes (portName p ++ roleName c.role ++ scopeName c.fold)

/-- `login`: a challenge, where the role has a key. -/
def svLogin (o : Via) (r : Role) (fold : Option (Fin 8)) (s : State) : State :=
  verbS o .observe (match fold with | some f => [.fold f] | none => []) (fun s =>
    let d := s.dev
    (s, notScript o d fun p =>
      if r == .observe || (fold.isSome && r != .operate) then vEr d 10
      else if (d.mg p).authBlk then vEr d 20
      else if r == .machine && (d.mg (otherPort p)).role == .machine then vEr d 40
      else if (loginKey s.otp r fold).isNone then vEr d 20
      else
        let n := Config.nonce d.free
        let d := { d with free := d.free + 1 }
        vData (d.updMg p fun k => { k with chal := some { nonce := n, role := r, fold := fold, age := 0 } }) ["chal " ++ nonceText n])) s

/-- A failed `auth`: counted, and after three in a row on the port its logins are blocked. -/
def authFail (d : Dev) (p : MgPort) (c : Option Chal) : VRes :=
  let d := d.updMg p fun k =>
    { k with chal := none, cntAuth := satInc k.cntAuth 255, authFails := if 2 ≤ k.authFails then 0 else k.authFails + 1,
             authBlk := k.authBlk || 2 ≤ k.authFails }
  let d := match c with
    | some c => emit d (some .sess) (some (.mg p)) ("!AUTH FAIL " ++ portName p ++ " " ++ roleName c.role)
    | none => d
  vEr d 20

/-- A correct `auth`: the session takes the role and the scope. DESIGN CHOICE (log 100): the event passes the filter of the new scope, so a
session that a fold-scoped login opened does not receive its own `!SESS`. -/
def authPass (d : Dev) (p : MgPort) (c : Chal) : VRes :=
  let d := d.updMg p fun k => { k with chal := none, authFails := 0, role := c.role, scope := c.fold, idle := 0 }
  vOk (emit d (some .sess) (some (.mg p)) ("!SESS " ++ portName p ++ " " ++ roleName c.role ++ " " ++ scopeName c.fold))

/-- Whether an `auth` answers its challenge: in time, with the HMAC under the role's key. -/
def authOk (otp : Otp) (p : MgPort) (c : Chal) (mac : BitVec 256) : Bool :=
  c.age ≤ 30 &&
  (match loginKey otp c.role c.fold with
    | some k => hmac k (loginMessage p c) == beBytes mac.toNat 32
    | none => false)

/-- `auth`. Only one machine session exists at a time (R60). -/
def svAuth (o : Via) (mac : BitVec 256) (s : State) : State :=
  verbS o .observe [] (fun s =>
    let d := s.dev
    (s, notScript o d fun p =>
      match (d.mg p).chal with
      | none => authFail d p none
      | some c =>
        if !authOk s.otp p c mac then authFail d p (some c)
        else if c.role == .machine && (d.mg (otherPort p)).role == .machine then vEr (d.updMg p fun k => { k with chal := none }) 40
        else authPass d p c)) s

/-- The 60 s of a blocked port are over. -/
def mAuthBlockExpiry (p : MgPort) (d : Dev) : Dev := d.updMg p fun k => { k with authBlk := false }

/-- The inactivity timeout of a session above observe expires; a command that runs completes first (R57, R60). -/
def mSessionTimeout (p : MgPort) (d : Dev) : Dev :=
  let k := d.mg p
  if k.role != .observe && k.timeout != 0 && k.timeout ≤ k.idle && k.busy.isNone then
    emit (d.updMg p dropSession) (some .sess) (some (.mg p)) ("!SESS " ++ portName p ++ " TIMEOUT")
  else d

def vLogout (o : Via) (d : Dev) : Dev := verb o .observe [] (fun d => notScript o d fun p => vOk (d.updMg p dropSession)) d

/-- `x sess kill`: the other port's session ends (R65). -/
def vXSessKill (o : Via) (p : MgPort) (d : Dev) : Dev :=
  verb o .engineer [] (fun d => notScript o d fun q => if p == q then vEr d 10 else vOk (d.updMg p dropSession)) d

/-! Session settings. -/

def vSessEcho (o : Via) (on : Bool) (d : Dev) : Dev :=
  verb o .observe [] (vPorts o fun p d =>
    d.updMg p fun k => { k with cfg := if on then k.cfg ||| 0x40000 else k.cfg &&& 0xFFFBFFFF }) d

/-- `sess baud`: rates of 9600 to 3,000,000 in steps of 100; the port it comes from changes after its `ok` (R43, R60). -/
def vSessBaud (o : Via) (rate : Nat) (fmt : Option (Fin 4)) (d : Dev) : Dev :=
  verb o .operate [] (fun d =>
    if rate % 100 != 0 || rate < 9600 || 3000000 < rate then vEr d 10
    else vPorts o (fun p d =>
      let old := (d.mg p).cfg
      let f := match fmt with | some f => f.val | none => fld old 16 2
      cfgSet d (viaSrc o) p (toWord (rate / 100 + put f 16 + put (fld old 18 1) 18))) d) d

/-- `sess timeout`: 60 to 86400 s; 0, meaning never, for an engineer. -/
def vSessTimeout (o : Via) (n : Nat) (d : Dev) : Dev :=
  verb o .operate [] (fun d =>
    if n == 0 && roleNum (viaRole d o) < 2 then vEr d 20
    else if n != 0 && (n < 60 || 86400 < n) then vEr d 10
    else vOk (onPorts o (fun k => { k with timeout := n }) d)) d

def vSessLock (o : Via) (d : Dev) : Dev :=
  verb o .operate [] (fun d => notScript o d fun p => vOk (d.updMg p fun k => { k with lock := true })) d

def vSessUnlock (o : Via) (d : Dev) : Dev :=
  verb o .operate [] (fun d => vOk (onPorts o (fun k => { k with lock := false }) d)) d

/-- The event classes in the order of EVMASK. -/
def allClasses : List EvClass := [.pwr, .fence, .state, .port, .partner, .evr, .dma, .tile, .afe, .sess]

/-- The name of an event class. -/
def className (c : EvClass) : String :=
  match c with
  | .pwr => "pwr" | .fence => "fence" | .state => "state" | .port => "port" | .partner => "partner" | .evr => "evr" | .dma => "dma"
  | .tile => "tile" | .afe => "afe" | .sess => "sess"

/-- `ev on|off`: with no class, all of them. -/
def vEvSet (o : Via) (on : Bool) (cs : List EvClass) (d : Dev) : Dev :=
  verb o .observe [] (fun d =>
    let cs := if cs.isEmpty then allClasses else cs
    vPorts o (fun p d => d.updMg p fun k => { k with evMask := cs.foldl (fun m c => setBit m (classBit c) on) k.evMask }) d) d

/-! Reports. -/

/-- The settings of a port. -/
def sessFields (k : Console) : List (String × String) :=
  [("rate", toString (100 * fld k.cfg 0 16)), ("format", toString (fld k.cfg 16 2)), ("echo", onOff (bitOf k.cfg 18)),
   ("timeout", toString k.timeout), ("filter", joinSp ((allClasses.filter fun c => k.evMask.getLsbD (classBit c)).map className)),
   ("form", if k.genForm then "generated" else "typed")]

def vSess (o : Via) (d : Dev) : Dev :=
  verb o .observe [] (vShow "sess" fun d => (viaPorts o).flatMap fun p => sessFields (d.mg p)) d

def vEv (o : Via) (d : Dev) : Dev :=
  verb o .observe [] (vShow "ev" fun d => (viaPorts o).flatMap fun p =>
    [("filter", joinSp ((allClasses.filter fun c => (d.mg p).evMask.getLsbD (classBit c)).map className)),
     ("lost", toString (d.mg p).cntLost)]) d

def vWho (o : Via) (d : Dev) : Dev :=
  verb o .observe [] (vShow "who" fun d => [MgPort.mga, .mgb].map fun p =>
    let k := d.mg p
    (portName p, joinSp [roleName k.role, scopeName k.scope, onOff k.lock, toString k.idle])) d

/-- The name of the variant and of its stepping. -/
def variantName (v : Nat) : String := match v with | 1 => "KY-840" | 2 => "KY-620" | _ => "KY-410"
def stepName' (n : Nat) : String := match n with | 0 => "A0" | 1 => "B0" | _ => "B1"

def vInv (o : Via) (d : Dev) : Dev :=
  verb o .observe [] (vShow "inv" fun d =>
    [("variant", variantName d.variant), ("stepping", stepName' d.step), ("firmware", hex32 Config.fwVersion),
     ("image", match d.boot.img with | some i => hex32 i.version | none => "none")] ++
    allUnits.map fun u => (unitName u, stateName (d.unit u).st)) d

/-- `help`: the verbs that the session's role may use, or the syntax of one. -/
def vHelp (o : Via) (w : Option String) (d : Dev) : Dev :=
  verb o .observe [] (fun d =>
    match w with
    | none => vShow "help" (fun d =>
        (verbTable.filter fun x => roleNum x.2 ≤ roleNum (viaRole d o)).map fun x => (x.1, roleName x.2)) d
    | some t =>
      if (wordsOf t).isEmpty || (verbForms (wordsOf t)).isEmpty then vEr d 10
      else vShow "help" (fun _ => (verbForms (wordsOf t)).map fun f => ("syntax", f)) d) d

/-- A record of the Bellwether's ring, `i` records before the newest. -/
def logFields (d : Dev) (i : Nat) : String × String :=
  let a := 0xF0008000 + 32 * ((d.bw.head + 256 - 1 - i) % 256)
  (toString i, joinSp ((List.range 8).map fun j => hex32 (d.cell (a + 4 * j))))

/-- `log`: the last records, 16 or as many as asked for, up to 256. -/
def vLog (o : Via) (n : Option Nat) (d : Dev) : Dev :=
  verb o .observe [] (fun d =>
    let m := n.getD 16
    if m == 0 || 256 < m then vEr d 10
    else vShow "log" (fun d => (List.range (min m (if d.bw.wrap then 256 else min 256 d.bw.seq.toNat))).map (logFields d)) d) d

def vXBrx (o : Via) (d : Dev) : Dev :=
  verb o .observe [] (vShow "x brx" fun d => [MgPort.mga, .mgb].map fun p =>
    let k := d.mg p
    (portName p, numsText [k.cntLines, k.cntCrc, k.cntFraming, k.cntOverrun, k.cntAuth, k.cntLost])) d

def vXBrxClear (o : Via) (d : Dev) : Dev :=
  verb o .operate [] (fun d => vOk (onPorts o (fun k =>
    { k with cntLines := 0, cntCrc := 0, cntFraming := 0, cntOverrun := 0, cntAuth := 0, cntLost := 0 }) d)) d

/-- `x crc`: the CRC of a text, of which the check value is 0x29B1. -/
def vXCrc (o : Via) (text : String) (d : Dev) : Dev :=
  verb o .observe [] (vShow "x crc" fun _ => [("crc", hexDigits (crc16 (textBytes text)).toNat 4)]) d

/-! `x peek` and `x poke` (R65). -/

/-- Whether an address belongs to a fenced unit. -/
def addrFenced (d : Dev) (a : Nat) : Bool := match addrUnit a with | some u => (d.unit u).st == .fenced | none => false

/-- What stops a session's access before it is made: role, address, presence, fence; the BW registers are read-only to it (spec/09 R211). -/
def addrStop (d : Dev) (o : Via) (a : Nat) (write : Bool) : Option Nat :=
  let machine := viaRole d o == .machine
  let r := regionOf a
  let needsM := 0xF0000000 ≤ a || (match r with | .penCs _ | .golden => true | _ => false)
  let absent : Bool := match addrUnit a with | some u => !unitPresent d.variant u | none => false
  if a % 4 != 0 || 2 ^ 32 ≤ a then some 10
  else if (needsM && !machine) || (write && 0xF0000000 ≤ a && a < 0xF0004000) then some 20
  else if absent then some 44
  else if addrFenced d a then some 50
  else
    match r with
    | .nothing => some 10
    | .flash => if write || !d.flash.fitted || d.flash.density < a - 0x20000000 + 4 then some 10 else none
    | .cs1 => if !d.cs1.fitted || d.cs1.density < a - 0x28000000 + 4 then some 10 else none
    | _ => none

/-- The status code of an exception met by a session's access. -/
def excStatus (e : Byte) : Nat := if e == 0x08 then 20 else if e == 0x0D then 44 else 10

/-- A beat of the management plane: in TETHER, charged to no fold (spec/13 R272, R276). -/
def manages (d : Dev) (a : Nat) : Dev := charge d none 1 .tether a

/-- Reads `n` cells, in order; the first that cannot be read ends it. -/
def peekCells (n : Nat) (d : Dev) (o : Via) (a : Nat) : Dev × Except Nat (List Word) :=
  match n with
  | 0 => (d, .ok [])
  | n + 1 =>
    match addrStop d o a false with
    | some e => (d, .error e)
    | none =>
      match anyRead (manages d a) (viaReq d o) a 4 (viaSrc o) .pmu with
      | (d, .error e) => (d, .error (excStatus e.1))
      | (d, .ok v) =>
        match peekCells n d o (a + 4) with
        | (d, .ok l) => (d, .ok (v :: l))
        | r => r

/-- Cells as `x peek` prints them: the address, then four cells a line. -/
def peekLines (n a : Nat) (l : List Word) : List String :=
  match n, l with
  | _, [] => []
  | 0, _ => []
  | n + 1, l => joinSp ((toWord a :: l.take 4).map hex32) :: peekLines n (a + 16) (l.drop 4)

def vXPeek (o : Via) (addr : Nat) (n : Option Nat) (d : Dev) : Dev :=
  verb o .engineer [] (fun d =>
    let m := n.getD 1
    if m == 0 || 64 < m then vEr d 10
    else
      match peekCells m d o addr with
      | (d, .ok l) => vData d (peekLines 64 addr l)
      | (d, .error e) => vEr d e) d

/-- The write of one cell. -/
def pokeCell (d : Dev) (o : Via) (a v : Nat) : VRes :=
  match anyWrite (manages d a) (viaReq d o) a (toWord v) 4 with
  | (d, .done) => vOk d
  | (d, .refused c) => (d, some ([], codeStatus d ((addrUnit a).getD .pmu) c))
  | (d, .exc e) => vEr d (excStatus e)

/-- `x poke`: with `gen`, a stale generation of the unit addressed writes nothing. -/
def vXPoke (o : Via) (addr v : Nat) (g : Option Nat) (d : Dev) : Dev :=
  verb o .engineer [] (fun d =>
    if 2 ^ 32 ≤ v then vEr d 10
    else
      match addrStop d o addr true, g, addrUnit addr with
      | some e, _, _ => vEr d e
      | none, some _, none => vEr d 10
      | none, some g, some u =>
        (match arbGate d u (some g) with
          | (d, .ok) => pokeCell d o addr v
          | (d, c) => vCode u (arbLog d (viaSrc o) u "write" c, c))
      | none, none, _ => pokeCell d o addr v) d

/-! What a port sends by itself. -/

/-- A port whose lines reach the wire. -/
def portSends (d : Dev) (p : MgPort) : Bool :=
  let r := d.unit (.mg p)
  unitPresent d.variant (.mg p) && (r.st == .idle || r.st == .active) && !r.resetting && d.clocked

/-- The name of a reset cause. -/
def rstName (c : RstCause) : String :=
  match c with
  | .por => "POR" | .bor => "BOR" | .ovr => "OVR" | .otr => "OTR" | .pin => "PIN" | .spore => "SPORE" | .cmd => "CMD"

/-- `!BOOT` events, after `!READY` (spec/18 R401, R409). -/
def bootEvents (d : Dev) : Dev :=
  let b := d.boot
  let d := if b.secondary then
      emit d none none ("!BOOT FALLBACK " ++ bootName b.bfailCode ++ " " ++ toString b.bfailSection) else d
  let d := if d.phase == .recovery then emit d none none ("!BOOT NOIMAGE " ++ bootName b.code) else d
  match b.scriptEnd with
  | some (l, c) => emit d none none ("!BOOT SCRIPT " ++ toString l ++ " " ++ (if c == 0 then "TIME" else toString c))
  | none => d

/-- Every present port sends `!READY`, which is an event and counts as one, and the prompt once the boot has ended (R52, R53, R63). -/
def mReady (d : Dev) : Dev :=
  let due (p : MgPort) : Bool := !(d.mg p).ready && portSends d p
  if !(d.phase == .run || d.phase == .recovery) || (!due .mga && !due .mgb) then d
  else
    let first := !(d.mga.ready || d.mgb.ready)
    let line := "!READY " ++ variantName d.variant ++ " " ++ stepName' d.step ++ " " ++ rstName d.pmu.rstCause
    let d := [MgPort.mga, .mgb].foldl (fun d p =>
      if due p then d.updMg p fun k => { k with ready := true, evCount := k.evCount + 1, tx := k.tx ++ [.line line, .prompt] } else d) d
    if first then bootEvents d else d

/-- An event as a port sends it: in the form of its last command line; a partly entered typed line is sent again after it (R52). -/
def sendEvent (k : Console) (text : String) : Console :=
  let line := if k.genForm then
      withCrc ("!" ++ toString k.evCount.toNat ++ " " ++ String.ofList (text.toList.drop 1))
    else text
  let again : List TxItem := if k.rx.isEmpty || k.rx.head? == some 0x23 then []
    else [.prompt] ++ k.rx.map .echo
  { k with evCount := k.evCount + 1,
           tx := k.tx ++ (if again.isEmpty then [] else [.line ""]) ++ [.line line] ++ again }

/-- A port sends its next event, between responses; `!LOST` comes first where events were discarded and there is room again (R52, R53). -/
def mEventTransmit (p : MgPort) (d : Dev) : Dev :=
  let k := d.mg p
  if !portSends d p || !k.ready || k.busy.isSome then d
  else if k.lostPend != 0 && k.evq.length < 64 then
    d.updMg p fun k => sendEvent { k with lostPend := 0 } ("!LOST " ++ toString k.lostPend)
  else
    match k.evq with
    | [] => d
    | e :: r => d.updMg p fun k => sendEvent { k with evq := r } e.text

/-- The last stop bit of a status line has gone: what waited for it takes effect (R60, spec/13 R284, spec/19 R439). -/
def mStatusLineSent (p : MgPort) (d : Dev) : Dev :=
  let e := d.updMg p fun k => { k with deferred := none }
  match (d.mg p).deferred with
  | none => d
  | some (.baud c) => e.updMg p fun k => { k with cfg := c }
  | some .resetPort => resetStart e (.mg p)
  | some .power =>
    updPmu e fun m => { m with trans := m.trans.map fun t => if t.stage == .wait p then { t with stage := .entry } else t }
  | some .resetDevice => deviceReset e .cmd

/-! The rows of the table. -/

/-- `EVENT_TRANSMIT`: A queued event line is sent between responses, preceded by !LOST when events were discarded (R52). -/
def execEventTransmit (p : MgPort) (s : State) : Host.Outcome State Fault Refusal :=
  lift (mEventTransmit p) s

/-- `LOGIN`: Brenex login issues a 128-bit challenge nonce for the role and scope (R56). -/
def execLogin (o : Via) (r : Role) (fold : Option (Fin 8)) (s : State) : Host.Outcome State Fault Refusal :=
  .next (rowS o (svLogin o r fold) s)

/-- `AUTH`: Brenex auth checks the HMAC and raises the session's role with !SESS, or fails with !AUTH FAIL (R56). -/
def execAuth (o : Via) (mac : BitVec 256) (s : State) : Host.Outcome State Fault Refusal :=
  .next (rowS o (svAuth o mac) s)

/-- `AUTH_BLOCK_EXPIRY`: The 60 s login block after three failed auth attempts expires (R56). -/
def execAuthBlockExpiry (p : MgPort) (s : State) : Host.Outcome State Fault Refusal :=
  lift (mAuthBlockExpiry p) s

/-- `SESSION_TIMEOUT`: The inactivity timeout expires, and the session drops to observe with !SESS TIMEOUT (R57). -/
def execSessionTimeout (p : MgPort) (s : State) : Host.Outcome State Fault Refusal :=
  lift (mSessionTimeout p) s

/-- `LOGOUT`: Brenex logout drops the session to observe and releases its lock (R57). -/
def execLogout (o : Via) (s : State) : Host.Outcome State Fault Refusal :=
  lift (row o (vLogout o)) s

/-- `HELP`: Brenex help lists the verbs, or the syntax of one verb (R64). -/
def execHelp (o : Via) (verb : Option String) (s : State) : Host.Outcome State Fault Refusal :=
  lift (row o (vHelp o verb)) s

/-- `INV`: Brenex inv shows the variant, stepping, firmware and the presence of every unit (R64). -/
def execInv (o : Via) (s : State) : Host.Outcome State Fault Refusal :=
  lift (row o (vInv o)) s

/-- `WHO`: Brenex who shows the role, scope, lock and idle time of both ports (R64). -/
def execWho (o : Via) (s : State) : Host.Outcome State Fault Refusal :=
  lift (row o (vWho o)) s

/-- `SESS`: Brenex sess shows this port's settings (R64). -/
def execSess (o : Via) (s : State) : Host.Outcome State Fault Refusal :=
  lift (row o (vSess o)) s

/-- `SESS_ECHO`: Brenex sess echo sets echo on or off (R64). -/
def execSessEcho (o : Via) (on : Bool) (s : State) : Host.Outcome State Fault Refusal :=
  lift (row o (vSessEcho o on)) s

/-- `SESS_BAUD`: Brenex sess baud sets the port's rate and format after the ok line (R64). -/
def execSessBaud (o : Via) (rate : Nat) (fmt : Option (Fin 4)) (s : State) : Host.Outcome State Fault Refusal :=
  lift (row o (vSessBaud o rate fmt)) s

/-- `SESS_TIMEOUT`: Brenex sess timeout sets the inactivity timeout (R64). -/
def execSessTimeout (o : Via) (n : Nat) (s : State) : Host.Outcome State Fault Refusal :=
  lift (row o (vSessTimeout o n)) s

/-- `SESS_LOCK`: Brenex sess lock reserves commands of operate rank and above to this port (R60). -/
def execSessLock (o : Via) (s : State) : Host.Outcome State Fault Refusal :=
  lift (row o (vSessLock o)) s

/-- `SESS_UNLOCK`: Brenex sess unlock releases the lock (R60). -/
def execSessUnlock (o : Via) (s : State) : Host.Outcome State Fault Refusal :=
  lift (row o (vSessUnlock o)) s

/-- `EV`: Brenex ev shows the port's event filter and its lost-event count (R64). -/
def execEv (o : Via) (s : State) : Host.Outcome State Fault Refusal :=
  lift (row o (vEv o)) s

/-- `EV_SET`: Brenex ev on or ev off enables or disables event classes (R64). -/
def execEvSet (o : Via) (on : Bool) (cs : List EvClass) (s : State) : Host.Outcome State Fault Refusal :=
  lift (row o (vEvSet o on cs)) s

/-- `LOG`: Brenex log lists the last Bellwether records (R64). -/
def execLog (o : Via) (n : Option Nat) (s : State) : Host.Outcome State Fault Refusal :=
  lift (row o (vLog o n)) s

/-- `X_PEEK`: Brenex x peek reads 1 to 64 cells as data-path reads (R65). -/
def execXPeek (o : Via) (addr : Nat) (n : Option Nat) (s : State) : Host.Outcome State Fault Refusal :=
  lift (row o (vXPeek o addr n)) s

/-- `X_POKE`: Brenex x poke writes one cell through the state arbiter, with an optional generation (R65). -/
def execXPoke (o : Via) (addr : Nat) (v : Nat) (g : Option Nat) (s : State) : Host.Outcome State Fault Refusal :=
  lift (row o (vXPoke o addr v g)) s

/-- `X_BRX`: Brenex x brx shows the counters of both ports (R65). -/
def execXBrx (o : Via) (s : State) : Host.Outcome State Fault Refusal :=
  lift (row o (vXBrx o)) s

/-- `X_BRX_CLEAR`: Brenex x brx clear clears this port's counters (R65). -/
def execXBrxClear (o : Via) (s : State) : Host.Outcome State Fault Refusal :=
  lift (row o (vXBrxClear o)) s

/-- `X_CRC`: Brenex x crc prints the CRC-16/CCITT-FALSE of a text (R65). -/
def execXCrc (o : Via) (text : String) (s : State) : Host.Outcome State Fault Refusal :=
  lift (row o (vXCrc o text)) s

/-- `X_SESS_KILL`: Brenex x sess kill ends the other port's session and releases its lock (R65). -/
def execXSessKill (o : Via) (p : MgPort) (s : State) : Host.Outcome State Fault Refusal :=
  lift (row o (vXSessKill o p)) s

/-- `READY`: After boot, each present management port sends !READY with the variant, stepping and reset cause, then the queued events (R63). -/
def execReady (s : State) : Host.Outcome State Fault Refusal :=
  lift (mReady) s

/-- `STATUS_LINE_SENT`: The last stop bit of a command's ok status line leaves the port, and the deferred action of that command (entry into IDLE, RETAIN, SPORE or OFF, the new baud and format of sess baud or reset mga, or the CMD device reset) then begins (R284). -/
def execStatusLineSent (p : MgPort) (s : State) : Host.Outcome State Fault Refusal :=
  lift (mStatusLineSent p) s

end Sys2Proof.Machine
end

