-- ==== Sys2Proof/Machine/Brenex.lean ====
section
/-! DEFINITION. The grammar of Brenex: tokens, keywords with their abbreviations, and the command a line spells (spec/03 R44 to R48, the
verb tables of every chapter; log 65). -/
namespace Sys2Proof.Machine

/-! Tokens (R47). -/

/-- One token; text in double quotes is one token. -/
structure Tok where
  text : String
  quoted : Bool
deriving DecidableEq, Repr

/-- Splits a line into tokens: `cur` is the token being read, `q` says that it is quoted. -/
def tokens (l : List Char) (cur : List Char) (q : Bool) : Option (List Tok) :=
  match l with
  | [] => if q then none else some (if cur.isEmpty then [] else [⟨String.ofList cur.reverse, false⟩])
  | c :: r =>
    if q then
      if c == '"' then (tokens r [] false).map fun t => ⟨String.ofList cur.reverse, true⟩ :: t else tokens r (c :: cur) true
    else if c == '"' && cur.isEmpty then tokens r [] true
    else if c == ' ' then
      if cur.isEmpty then tokens r [] false else (tokens r [] false).map fun t => ⟨String.ofList cur.reverse, false⟩ :: t
    else tokens r (c :: cur) false

/-- The value of a digit. -/
def digitVal (c : Char) : Option Nat :=
  if '0' ≤ c && c ≤ '9' then some (c.toNat - '0'.toNat)
  else if 'a' ≤ c && c ≤ 'f' then some (c.toNat - 'a'.toNat + 10)
  else if 'A' ≤ c && c ≤ 'F' then some (c.toNat - 'A'.toNat + 10)
  else none

/-- Digits of a base as a number; at least one. -/
def digits (base : Nat) (l : List Char) : Option Nat :=
  if l.isEmpty then none
  else l.foldl (fun (n : Option Nat) c =>
    match n, digitVal c with
    | some n, some d => if d < base then some (n * base + d) else none
    | _, _ => none) (some 0)

/-- A number: decimal, hexadecimal with 0x or binary with 0b, underscores ignored in the last two. -/
def numberOf (s : String) : Option Nat :=
  match s.toList with
  | '0' :: 'x' :: r => digits 16 (r.filter (· != '_'))
  | '0' :: 'b' :: r => digits 2 (r.filter (· != '_'))
  | l => digits 10 l

/-- An integer. -/
def integerOf (s : String) : Option Int :=
  match s.toList with
  | '-' :: r => (numberOf (String.ofList r)).map fun n => -(n : Int)
  | _ => (numberOf s).map fun n => (n : Int)

/-- An element of a list: a number, or the numbers of a range a-b with a ≤ b. -/
def rangeOf (s : String) : Option (List Nat) :=
  match s.splitOn "-" with
  | [a] => (numberOf a).map fun n => [n]
  | [a, b] => match numberOf a, numberOf b with
    | some a, some b => if a ≤ b && b - a < 1024 then some ((List.range (b - a + 1)).map (a + ·)) else none
    | _, _ => none
  | _ => none

/-- A name with a decimal number after it. -/
def namedOf (p s : String) : Option Nat :=
  let l := s.toList
  if p.toList == l.take p.length then digits 10 (l.drop p.length) else none

/-! The parser: it reads tokens; an error carries the detail of `er 10`; `true` asks for keywords in full (R48). -/

abbrev Pr (α : Type) := ReaderT Bool (StateT (List Tok) (Except String)) α

/-- A line the grammar does not have. -/
def bad {α : Type} : Pr α := throw ""

/-- Typed keywords are not case-sensitive. -/
def foldCase (full : Bool) (s : String) : String := if full then s else String.ofList (s.toList.map Char.toLower)

/-- Strings in alphabetical order. -/
def sortWords (l : List String) : List String :=
  l.foldl (fun (s : List String) x => (s.takeWhile fun y => y < x) ++ [x] ++ (s.dropWhile fun y => y < x)) []

/-- The keyword that a token selects among those valid at its position (R46). -/
def keywordOf (full : Bool) (ks : List String) (t : Tok) : Except String (Option String) :=
  let s := foldCase full t.text
  if t.quoted then .ok none
  else if ks.contains s then .ok (some s)
  else if full then .ok none
  else match ks.filter fun k => s.toList == k.toList.take s.length with
    | [] => .ok none
    | [k] => .ok (some k)
    | l => .error ("ambiguous " ++ t.text ++ " (" ++ joinSp (sortWords l) ++ ")")

/-- The next token, if any, without taking it. -/
def peekTok : Pr (Option Tok) := do return (← get).head?

/-- Takes the next token. -/
def nextTok : Pr Tok := do
  match ← get with
  | [] => bad
  | t :: r => set r; return t

/-- Tries one of several keywords: taken where the next token selects it. -/
def tryKw (ks : List String) : Pr (Option String) := do
  match ← peekTok with
  | none => return none
  | some t =>
    match keywordOf (← read) ks t with
    | .error e => throw e
    | .ok none => return none
    | .ok (some k) => let _ ← nextTok; return some k

/-- One of several keywords, each with what follows it; else the alternative. -/
def pickOr {α : Type} (l : List (String × Pr α)) (alt : Pr α) : Pr α := do
  match ← tryKw (l.map (·.1)) with
  | some k => match l.find? (·.1 == k) with | some x => x.2 | none => bad
  | none => alt

/-- One of several keywords. -/
def pick {α : Type} (l : List (String × Pr α)) : Pr α := pickOr l bad

/-- One of several keywords as a value. -/
def choice {α : Type} (l : List (String × α)) : Pr α := pick (l.map fun x => (x.1, pure x.2))

/-- The end of the line gives `v`; else more follows. -/
def endOr {α : Type} (v : α) (p : Pr α) : Pr α := do
  match ← peekTok with
  | none => return v
  | some _ => p

/-- A fixed keyword. -/
def word (k : String) : Pr Unit := pick [(k, pure ())]

/-- Reads a token by a function. -/
def tokBy {α : Type} (f : String → Option α) : Pr α := do
  let t ← nextTok
  match f (foldCase (← read) t.text) with
  | some v => if t.quoted then bad else return v
  | none => bad

def num : Pr Nat := tokBy numberOf
def integer : Pr Int := tokBy integerOf

/-- A number below `n`. -/
def finOf (n v : Nat) : Option (Fin n) := if h : v < n then some ⟨v, h⟩ else none

/-- A figure in points, as sixteenths of one rounded down (spec/10 R231). -/
def pointsOf (s : String) : Option Nat :=
  match s.splitOn "." with
  | [a] => (numberOf a).map (16 * ·)
  | [a, b] => do
    let w ← digits 10 a.toList
    let f ← digits 10 b.toList
    return 16 * w + 16 * f / 10 ^ b.length
  | _ => none

def points : Pr Nat := tokBy pointsOf

def numFin (n : Nat) : Pr (Fin n) := tokBy fun s => (numberOf s).bind (finOf n)

/-- A name such as `pen3`. -/
def named (p : String) (n : Nat) : Pr (Fin n) := tokBy fun s => (namedOf p s).bind (finOf n)

def penN : Pr (Fin 8) := named "pen" 8
def foldN : Pr (Fin 8) := named "fold" 8
def coreN : Pr (Fin 32) := named "core" 32

/-- A list: elements as far as they go; at least one. -/
def listTail (n : Nat) : Pr (List Nat) :=
  match n with
  | 0 => return []
  | n + 1 => do
    match ← peekTok with
    | none => return []
    | some t =>
      match rangeOf t.text with
      | some l => let _ ← nextTok; return l ++ (← listTail n)
      | none => return []

def numList : Pr (List Nat) := do
  let l ← listTail 256
  if l.isEmpty then bad else return l

/-- A name from a table. -/
def portOf (s : String) : Option FieldPort :=
  match (namedOf "t1s" s).bind (finOf 4), (namedOf "can" s).bind (finOf 4), (namedOf "gbe" s).bind (finOf 2),
    (namedOf "uart" s).bind (finOf 8) with
  | some n, _, _, _ => some (.t1s n)
  | _, some n, _, _ => some (.can n)
  | _, _, some n, _ => some (.gbe n)
  | _, _, _, some n => some (.uart n)
  | _, _, _, _ => none

/-- A unit name (the table of R47). -/
def unitOf (s : String) : Option UnitId := allUnits.find? fun u => unitName u == s

def unit : Pr UnitId := tokBy unitOf
def fieldPort : Pr FieldPort := tokBy portOf

/-- A requester of buffers: a port, a channel, or the cores of a fold. -/
def reqOfName (s : String) : Option ReqId :=
  match portOf s, (namedOf "dma" s).bind (finOf 64), (namedOf "fold" s).bind (finOf 8) with
  | some u, _, _ => some (.port u)
  | _, some c, _ => some (.dma c)
  | _, _, some f => some (.fold f)
  | _, _, _ => none

/-- `on` or `off`. -/
def onOffP : Pr Bool := choice [("on", true), ("off", false)]

/-- An optional part that a keyword opens; `later` are the keywords of the parts that may follow instead. -/
def opt {α : Type} (k : String) (later : List String) (p : Pr α) : Pr (Option α) := do
  match ← peekTok with
  | none => return none
  | some t =>
    match keywordOf (← read) (k :: later) t with
    | .error e => throw e
    | .ok x => if x == some k then let _ ← nextTok; return some (← p) else return none

/-- An optional flag. -/
def optFlag (k : String) (later : List String) : Pr Bool := do return (← opt k later (pure ())).isSome

/-- The optional generation at the end of a command. -/
def genP : Pr (Option Nat) := opt "gen" [] num

/-- A value, or the word `none` or another one. -/
def orWord {α : Type} (k : String) (p : Pr α) : Pr (Option α) := pickOr [(k, pure none)] (do return some (← p))

/-- The verbs that write the OTP (spec/18 R403, R404). -/
inductive OtpVerb where
  | key (slot addr : Nat)
  | revoke (slot : Nat)
  | rolekey (r : Role) (f : Option (Fin 8)) (g addr : Nat)
  | rolerevoke (r : Role) (f : Option (Fin 8)) (g : Nat)
  | arb (n : Nat)
  | lock
deriving DecidableEq, Repr

/-- The effect of a verb that writes the OTP: its row's. -/
def otpVerbRun (o : Via) (w : OtpVerb) (s : State) : State :=
  match w with
  | .key n a => svXBootKey o n ⟨a, none⟩ s
  | .revoke n => svXBootRevoke o n s
  | .rolekey r f g a => svXBootRolekey o r f g ⟨a, none⟩ s
  | .rolerevoke r f g => svXBootRolerevoke o r f g s
  | .arb n => svXBootArb o n s
  | .lock => svXBootLock o s

/-- A command as the grammar reads it: the effect of its row on the device, which for some reads the OTP; or a verb that writes the
OTP. -/
inductive Cmd where
  | dev (f : Dev → Dev)
  | read (f : State → State)
  | otp (o : Via) (w : OtpVerb)

/-- What a command does: its row's effect. -/
def runCmd (c : Cmd) (s : State) : State :=
  match c with
  | .dev f => { s with dev := f s.dev }
  | .read f => { s with dev := (f s).dev }
  | .otp o w => otpVerbRun o w s

/-! The verbs, chapter by chapter. -/

def armSrc : Pr ArmSrc := tokBy fun s =>
  match s with
  | "rtc" => some .rtc
  | "mgabrk" => some (.brk .mga)
  | "mgbbrk" => some (.brk .mgb)
  | _ => match (namedOf "wake" s).bind (finOf 16), (namedOf "halt" s).bind (finOf 8) with
    | some n, _ => some (.wake n)
    | _, some n => some (.halt n)
    | _, _ => none

/-- As many items as the line still has; at least one. -/
def many {α : Type} (n : Nat) (p : Pr α) : Pr (List α) :=
  match n with
  | 0 => bad
  | n + 1 => do
    let x ← p
    endOr [x] (do return x :: (← many n p))

def stepP : Pr (Fin 5) := choice [("s1", 0), ("s2", 1), ("s3", 2), ("s4", 3), ("s5", 4)]

def pwrP (o : Via) : Pr Cmd := endOr (.dev <| vPwr o) (pick [
  ("run", pure (.dev <| vPwrRun o)), ("slow", pure (.dev <| vPwrSlow o)), ("idle", pure (.dev <| vPwrIdle o)), ("retain", pure (.dev <| vPwrRetain o)),
  ("spore", pure (.dev <| vPwrSpore o)), ("off", pure (.dev <| vPwrOff o)),
  ("wake", do return .dev <| vPwrWake o (← choice [("run", 0), ("slow", 1), ("idle", 2)])),
  ("arm", do return .dev <| vPwrArm o (← many 64 armSrc)),
  ("disarm", do return .dev <| vPwrDisarm o (← many 64 armSrc)),
  ("restore", endOr (.dev <| vPwrRestore o none) (do return .dev <| vPwrRestore o (some (← stepP))))])

def keepP (o : Via) (w : KeepKind) : Pr Cmd := pickOr [("none", pure (.dev <| vShedKeep o w []))] (do return .dev <| vShedKeep o w (← numList))

def shedP (o : Via) : Pr Cmd := endOr (.dev <| vShed o) (pick [
  ("lastwatch", do return .dev <| vShedLastwatch o (← orWord "none" (numFin 8))),
  ("keep", pick [("afe", keepP o .afe), ("can", keepP o .can), ("t1s", keepP o .t1s), ("dma", keepP o .dma)]),
  ("save", do return .dev <| vShedSave o (← orWord "none" (do let a ← num; return (a, ← num))))])

def rtcP (o : Via) : Pr Cmd := endOr (.dev <| vRtc o) (pick [
  ("set", do return .dev <| vRtcSet o (← num)), ("alarm", do return .dev <| vRtcAlarm o (← orWord "none" num))])

def roleP : Pr Role := choice [("observe", .observe), ("operate", .operate), ("engineer", .engineer), ("machine", .machine)]

def loginP (o : Via) : Pr Cmd := do
  let r ← roleP
  return .read <| svLogin o r (← opt "fold" [] (numFin 8))

/-- The 64 hexadecimal digits of a MAC, hyphens ignored. -/
def macOf (s : String) : Option (BitVec 256) :=
  let l := s.toList.filter (· != '-')
  if l.length == 64 then (digits 16 l).map (BitVec.ofNat 256) else none

def fmtP : List (String × Fin 4) := [("8n1", 0), ("8e1", 1), ("8o1", 2), ("8n2", 3)]

def sessP (o : Via) : Pr Cmd := endOr (.dev <| vSess o) (pick [
  ("echo", do return .dev <| vSessEcho o (← onOffP)),
  ("baud", do let r ← num; return .dev <| vSessBaud o r (← endOr none (do return some (← choice fmtP)))),
  ("timeout", do return .dev <| vSessTimeout o (← num)),
  ("lock", pure (.dev <| vSessLock o)), ("unlock", pure (.dev <| vSessUnlock o))])

def classP : Pr EvClass := choice (allClasses.map fun c => (className c, c))

def evP (o : Via) : Pr Cmd := endOr (.dev <| vEv o) (do
  let on ← onOffP
  return .dev <| vEvSet o on (← endOr [] (many 64 classP)))

/-- The words of a verb after `help`: keywords, each among those that may follow (R46, R64). -/
def helpWords (full : Bool) (w : List String) (l : List Tok) : Except String (List String) :=
  match l with
  | [] => .ok w
  | t :: r =>
    match keywordOf full (if w.isEmpty then verbWords else verbNext w) t with
    | .ok (some k) => helpWords full (w ++ [k]) r
    | .ok none => .error ""
    | .error e => .error e

/-- The rest of the line as the words of a verb. -/
def helpText : Pr String := do
  match helpWords (← read) [] (← get) with
  | .ok w => set ([] : List Tok); return joinSp w
  | .error e => throw e

def unitP (o : Via) : Pr Cmd := endOr (.dev <| vUnitList o) (do
  let u ← unit
  endOr (.dev <| vUnitShow o u) (pick [
    ("on", do return .dev <| vUnitOn o u (← genP)), ("off", do return .dev <| vUnitOff o u (← genP)),
    ("adopt", pick [("mgmt", do return .dev <| vUnitAdoptMgmt o u (← genP)), ("data", do return .dev <| vUnitAdoptData o u (← genP))])]))

def resetP (o : Via) : Pr Cmd := pickOr [("device", pure (.dev <| vResetDevice o))] (do let u ← unit; return .dev <| vResetUnit o u (← genP))

def persP : Pr Bool := choice [("drove", false), ("tether", true)]

def penP (o : Via) : Pr Cmd := endOr (.dev <| vPen o) (do
  let p ← numFin 8
  endOr (.dev <| vPenShow o p) (do word "pers"; let t ← persP; return .dev <| vPenPers o p t (← genP)))

def ucodeP (o : Via) : Pr Cmd := endOr (.dev <| vUcode o) (do return .dev <| vUcodePen o (← numFin 8))
def excP (o : Via) : Pr Cmd := endOr (.dev <| vExc o) (do return .dev <| vExcPen o (← penN))

def rationPenP (o : Via) : Pr Cmd := do
  let p ← penN
  endOr (.dev <| vRationPen o p) (pick [
    ("rate", do return .dev <| vRationPenSet o p .rate (← points)), ("cap", do return .dev <| vRationPenSet o p .cap (← points)),
    ("floor", do return .dev <| vRationPenSet o p .floor (← points)),
    ("thr", do let w ← num; return .dev <| vRationPenThr o p w (← points))])

def rationP (o : Via) : Pr Cmd := endOr (.dev <| vRation o) (pickOr
  [("move", do let p ← penN; let q ← penN; return .dev <| vRationMove o p q (← points))]
  (do
    match (← peekTok).bind fun t => (namedOf "fold" (foldCase false t.text)).bind (finOf 8) with
    | some f => let _ ← foldN; word "rate"; return .dev <| vRationFoldRate o f (← points)
    | none => rationPenP o))

def taskP (o : Via) : Pr Cmd := do
  let p ← penN
  endOr (.dev <| vTask o p) (do
    let s ← num
    pick [("wake", pure (.dev <| vTaskWake o p s)), ("stop", pure (.dev <| vTaskStop o p s)), ("clear", pure (.dev <| vTaskClear o p s))])

def modeP : Pr (Fin 4) := choice [("high", 0), ("rise", 1), ("fall", 2), ("both", 3)]

def evrLineP (o : Via) : Pr Cmd := do
  let f ← foldN
  let l ← num
  word "prio"
  let p ← num
  let pens ← opt "pens" ["oneshot", "on", "off"] numList
  let one ← opt "oneshot" ["on", "off"] onOffP
  let en ← endOr none (do return some (← onOffP))
  return .dev <| vEvrLine o f l { prio := p, pens := pens, oneshot := one, en := en }

def evrP (o : Via) : Pr Cmd := endOr (.dev <| vEvr o) (pickOr [
  ("src", do return .dev <| vEvrSrc o (← num)),
  ("map", do
    let n ← num; let f ← foldN; let l ← num
    let m ← opt "mode" ["open"] modeP
    return .dev <| vEvrMap o n f l m (← optFlag "open" [])),
  ("unmap", do return .dev <| vEvrUnmap o (← num)),
  ("line", evrLineP o),
  ("limit", do
    let f ← foldN; word "rate"; let r ← num; word "depth"; let d ← num
    let e ← opt "exempt" ["maxpri"] num
    return .dev <| vEvrLimit o f r d e (← opt "maxpri" [] num)),
  ("filter", do let n ← num; return .dev <| vEvrFilter o n (← num)),
  ("set", do let f ← foldN; return .dev <| vEvrSet o f (← num))]
  (do return .dev <| vEvrFold o (← foldN)))

def haltP (o : Via) : Pr Cmd := endOr (.dev <| vHalt o) (pick [
  ("map", do
    let j ← num
    let ins ← orWord "none" num
    let s ← opt "safe" ["latch"] (choice [("low", false), ("high", true)])
    return .dev <| vHaltMap o j (ins.getD 0) s (← opt "latch" [] onOffP)),
  ("input", do
    let i ← num
    let low ← choice [("high", false), ("low", true)]
    return .dev <| vHaltInput o i low (← opt "filter" [] num)),
  ("arm", do return .dev <| vHaltArm o (← num)), ("disarm", do return .dev <| vHaltDisarm o (← num)),
  ("force", do return .dev <| vHaltForce o (← num)), ("clear", do return .dev <| vHaltClear o (← num)),
  ("lock", pure (.dev <| vHaltLock o))])

def permP : Pr (Fin 6) := choice [("ru", 0), ("wu", 1), ("xu", 2), ("rf", 3), ("wf", 4), ("xf", 5)]

def memP (o : Via) : Pr Cmd := endOr (.dev <| vMem o) (pickOr [
  ("win", do
    let f ← foldN; let w ← num
    pickOr [("off", pure (.dev <| vMemWin o f w none))] (do
      let b ← num; let l ← num
      return .dev <| vMemWin o f w (some { base := b, limit := l, perms := ← many 6 permP })))]
  (do return .dev <| vMemFold o (← foldN)))

def mycP (o : Via) : Pr Cmd := endOr (.dev <| vMyc o) (do
  word "share"
  let f ← foldN; let n ← num
  let b ← opt "burst" ["spare"] num
  return .dev <| vMycShare o f n b (← opt "spare" [] onOffP))

def eccP (o : Via) : Pr Cmd := endOr (.dev <| vEcc o) (pick [("clear", pure (.dev <| vEccClear o))])

/-- A request queue by its name (spec/14 R299). -/
def queueOf (s : String) : Option Nat :=
  let ends (t : String) : Option String :=
    let l := s.toList
    if l.drop (l.length - t.length) == t.toList then some (String.ofList (l.take (l.length - t.length))) else none
  let at_ (p : String) (n base : Nat) (x : Option String) : Option Nat := x.bind fun y => (namedOf p y).bind fun i => if i < n then some (base + i) else none
  let rx := ends "rx"
  let tx := ends "tx"
  if s == "none" then some 0
  else if s == "afe" then some 0x25
  else if s == "gpio" then some 0x36
  else [at_ "uart" 8 0x01 rx, at_ "uart" 8 0x09 tx, at_ "can" 4 0x11 rx, at_ "can" 4 0x15 tx, at_ "t1s" 4 0x19 rx, at_ "t1s" 4 0x1D tx,
        at_ "gbe" 2 0x21 rx, at_ "gbe" 2 0x23 tx, at_ "pwm" 16 0x26 (some s)].findSome? id

def dmaCfgP (o : Via) : Pr Cmd := do
  let c ← numFin 64
  let p ← opt "prio" ["class", "retry", "backoff", "movers", "gen"] num
  let k ← opt "class" ["retry", "backoff", "movers", "gen"] (choice [("tether", 1), ("drove", 2), ("bulk", 3)])
  let r ← opt "retry" ["backoff", "movers", "gen"] num
  let b ← opt "backoff" ["movers", "gen"] num
  let m ← opt "movers" ["gen"] num
  return .dev <| vDmaCfg o c { prio := p, cls := k, retry := r, backoff := b, movers := m } (← genP)

def dmaP (o : Via) : Pr Cmd := endOr (.dev <| vDma o) (pickOr [
  ("own", do let c ← numFin 64; let f ← orWord "none" foldN; return .dev <| vDmaOwn o c f (← genP)),
  ("cfg", dmaCfgP o),
  ("pace", do
    let c ← numFin 64
    let q ← tokBy queueOf
    let h ← opt "high" ["low", "gen"] num
    let l ← opt "low" ["gen"] num
    if q != 0 && (h.isNone || l.isNone) then bad else return .dev <| vDmaPace o c q (h.getD 1) (l.getD 0) (← genP)),
  ("ring", do
    let c ← numFin 64; let b ← num; let n ← num
    let h ← opt "head" ["gen"] num
    return .dev <| vDmaRing o c b n h (← genP)),
  ("kick", do let c ← numFin 64; return .dev <| vDmaKick o c (← genP)),
  ("stop", do let c ← numFin 64; return .dev <| vDmaStop o c (← genP)),
  ("clear", do let c ← numFin 64; return .dev <| vDmaClear o c (← genP))]
  (do return .dev <| vDmaShow o (← numFin 64)))

def tileP (o : Via) : Pr Cmd := endOr (.dev <| vTile o) (do
  let t ← numFin 8
  endOr (.dev <| vTileShow o t) (pick [
    ("ev", do
      let trap ← choice [("done", false), ("trap", true)]
      return .dev <| vTileEv o t trap ((← orWord "none" numList).getD [])),
    ("tctx", do let c ← coreN; return .dev <| vTileTctx o t c (← orWord "none" num))]))

def portP (o : Via) : Pr Cmd := endOr (.dev <| vPort o) (pickOr
  [("own", do let u ← fieldPort; return .dev <| vPortOwn o u (← orWord "none" foldN))]
  (do return .dev <| vPortShow o (← fieldPort)))

def t1sP (o : Via) : Pr Cmd := do
  let p ← numFin 4
  pick [
    ("plca", pick [
      ("coord", do
        word "nodes"; let n ← num
        let b ← opt "burst" ["to"] num
        return .dev <| vT1sPlcaCoord o p n b (← opt "to" [] num)),
      ("follow", do
        let i ← num
        let b ← opt "burst" ["to"] num
        return .dev <| vT1sPlcaFollow o p i b (← opt "to" [] num)),
      ("off", pure (.dev <| vT1sPlcaOff o p))]),
    ("node", do let l ← numList; return .dev <| vT1sNode o p l (← orWord "none" foldN))]

def gbeP (o : Via) : Pr Cmd := do
  let m ← numFin 2
  word "speed"
  let s ← choice [("auto", 0), ("10", 1), ("100", 2), ("1000", 3)]
  let t ← opt "txdly" ["rxdly"] onOffP
  return .dev <| vGbeSpeed o m s t (← opt "rxdly" [] onOffP)

def timingP : Pr CanTiming := do
  let b ← num; let s ← num; let t ← num
  return { brp := b, tseg1 := s, tseg2 := t, sjw := ← num }

def canP (o : Via) : Pr Cmd := do
  let p ← numFin 4
  pick [
    ("rate", do
      let n ← timingP
      let d ← opt "data" ["listen"] timingP
      return .dev <| vCanRate o p n d (← opt "listen" [] onOffP)),
    ("filter", do
      let k ← num
      pickOr [("off", pure (.dev <| vCanFilter o p k none))] (do
        let i ← num; let m ← num
        let e ← choice [("std", false), ("ext", true)]
        let f ← foldN
        let r ← optFlag "rx" ["tx"]
        let t ← optFlag "tx" []
        return .dev <| vCanFilter o p k (some { id := i, mask := m, ext := e, fold := f, rx := r, tx := t })))]

def uartP (o : Via) : Pr Cmd := do
  let u ← numFin 8
  let b ← num
  let f ← tryKw ("mode" :: fmtP.map (·.1))
  let fmt := match f with | some k => (fmtP.find? (·.1 == k)).map (·.2) | none => none
  if f != some "mode" then word "mode" else pure ()
  let m ← choice [("raw", 0), ("modbus", 1), ("iec", 2)]
  let r ← opt "rs485" ["idle"] (do let l ← num; return (l, ← num))
  return .dev <| vUartCfg o u { baud := b, fmt := fmt, mode := m, rs485 := r, idle := ← opt "idle" [] num }

def ptabP (o : Via) : Pr Cmd := endOr (.dev <| vPtab o none) (pickOr [
  ("age", do let u ← fieldPort; return .dev <| vPtabAge o u (← num)),
  ("add", do let u ← fieldPort; let k ← num; return .dev <| vPtabAdd o u k (← foldN)),
  ("del", do return .dev <| vPtabDel o (← num))]
  (do return .dev <| vPtab o (some (← fieldPort))))

def poolP (o : Via) : Pr Cmd := endOr (.dev <| vPool o) (pick [
  ("floor", do let r ← tokBy reqOfName; return .dev <| vPoolFloor o r (← num)),
  ("halter", do return .dev <| vPoolHalter o ((← orWord "none" (many 16 (tokBy reqOfName))).getD []))])

def afeP (o : Via) : Pr Cmd := endOr (.dev <| vAfe o) (pick [
  ("own", do return .dev <| vAfeOwn o (← orWord "none" foldN)),
  ("rate", do return .dev <| vAfeRate o (← num)),
  ("ch", do let l ← numList; return .dev <| vAfeCh o l (← choice [("off", 0), ("current", 1), ("voltage", 2)])),
  ("loop", do
    let l ← numList
    word "low"; let a ← integer
    word "high"; let b ← integer
    return .dev <| vAfeLoopSet o l a b (← opt "count" [] num))])

def pwmCfgP (o : Via) : Pr Cmd := do
  let n ← numFin 16
  word "pre"; let p ← num
  word "per"; let c ← num
  let pol ← opt "pol" ["halter", "foldsafe", "pev"] (choice [("high", true), ("low", false)])
  let h ← opt "halter" ["foldsafe", "pev"] (orWord "none" num)
  let f ← opt "foldsafe" ["pev"] onOffP
  return .dev <| vPwmCfg o n { pre := p, per := c, polHigh := pol, halter := h, foldsafe := f, pev := ← opt "pev" [] onOffP }

def pwmP (o : Via) : Pr Cmd := endOr (.dev <| vPwm o none) (pickOr [
  ("own", do let n ← numFin 16; return .dev <| vPwmOwn o n (← orWord "none" foldN)),
  ("safe", do
    let n ← numFin 16
    let h ← choice [("low", false), ("high", true)]
    return .dev <| vPwmSafe o n h (← opt "oe" [] onOffP)),
  ("cfg", pwmCfgP o),
  ("set", do let n ← numFin 16; return .dev <| vPwmSet o n (← num)),
  ("dither", do let n ← numFin 16; return .dev <| vPwmDither o n (← orWord "off" (do let a ← num; return (a, ← num)))),
  ("resume", do return .dev <| vPwmResume o (← numFin 16))]
  (do return .dev <| vPwm o (some (← numFin 16))))

def gpioP (o : Via) : Pr Cmd := endOr (.dev <| vGpio o) (pick [
  ("own", do let l ← numList; return .dev <| vGpioOwn o l (← orWord "none" foldN)),
  ("dir", do
    let l ← numList
    let out ← choice [("in", false), ("out", true)]
    let od ← optFlag "od" ["pull"]
    return .dev <| vGpioDir o l out od (← opt "pull" [] (choice [("none", 0), ("down", 1), ("up", 2)]))),
  ("set", do return .dev <| vGpioSet o (← numList)), ("clr", do return .dev <| vGpioClr o (← numList)),
  ("snap", pickOr [("off", pure (.dev <| vGpioSnap o none))] (do
    word "bank"; let b ← num
    word "period"
    return .dev <| vGpioSnap o (some (b, ← num))))])

/-! The expert verbs. -/

def xPwrP (o : Via) : Pr Cmd := pick [
  ("vmon", pure (.dev <| vXPwrVmon o)),
  ("sim", pickOr [("off", pure (.dev <| vXPwrSimOff o))] (do return .dev <| vXPwrSim o (← stepP))),
  ("log", pure (.dev <| vXPwrLog o))]

def xStateP (o : Via) : Pr Cmd := pickOr [
  ("log", pure (.dev <| vXStateLog o)),
  ("sim", do word "disagree"; return .dev <| vXStateSimDisagree o (← unit))]
  (do return .dev <| vXState o (← unit))

def xCoreP (o : Via) : Pr Cmd := do
  let c ← numFin 32
  endOr (.dev <| vXCore o c) (do word "tsb"; return .dev <| vXCoreTsb o c)

def xUcodeP (o : Via) : Pr Cmd := pick [
  ("check", do return .read <| svXUcodeCheck o (← num)),
  ("load", do let f ← foldN; let t ← persP; return .read <| svXUcodeLoad o f t (← num)),
  ("unload", do let f ← foldN; return .dev <| vXUcodeUnload o f (← persP)),
  ("cancel", pure (.dev <| vXUcodeCancel o)),
  ("peek", do
    let p ← penN; let a ← num
    let n ← endOr none (pickOr [("golden", pure none)] (do return some (← num)))
    let taken ← optFlag "golden" []
    return .dev <| vXUcodePeek o p a n taken),
  ("inject", do let p ← penN; return .dev <| vXUcodeInject o p (← num))]

def xGateP (o : Via) : Pr Cmd := pickOr
  [("try", do let p ← penN; let n ← num; return .dev <| vXGateTry o p n (← endOr [] (many 16 num)))]
  (do let p ← penN; return .dev <| vXGate o p (← num))

def xExcP (o : Via) : Pr Cmd := pick [
  ("inject", do let c ← coreN; return .dev <| vXExcInject o c (← num)),
  ("clear", do return .dev <| vXExcClear o (← penN))]

def xRationP (o : Via) : Pr Cmd := pick [
  ("coef", do let p ← penN; return .dev <| vXRationCoef o p (← endOr none (do let k ← num; return some (k, ← num)))),
  ("scale", do let p ← penN; return .dev <| vXRationScale o p (← num)),
  ("derate", do
    let p ← penN; let e ← num
    return .dev <| vXRationDerate o p e (← orWord "off" (do let t ← num; return (t, ← num)))),
  ("run", do let p ← penN; let on ← onOffP; return .dev <| vXRationRun o p on (← opt "slice" [] num)),
  ("boot", do let p ← penN; return .dev <| vXRationBoot o p (← orWord "none" num)),
  ("bind", do let p ← penN; let l ← num; return .dev <| vXRationBind o p l (← orWord "none" num))]

def xTaskP (o : Via) : Pr Cmd := do
  let p ← penN; let s ← num
  word "set"
  word "pri"; let a ← num
  word "class"; let b ← num
  word "cost"; let c ← points
  word "tsb"
  return .dev <| vXTaskSet o p s { pri := a, cls := b, cost := c, tsb := ← num }

def xEvrP (o : Via) : Pr Cmd := pick [
  ("raise", do return .dev <| vXEvrRaise o (← num)),
  ("race", do let p ← penN; endOr (.dev <| vXEvrRace o p) (do word "clear"; return .dev <| vXEvrRaceClear o p)),
  ("latch", endOr (.dev <| vXEvrLatch o none) (do word "clear"; return .dev <| vXEvrLatch o (some (← num))))]

def xEccP (o : Via) : Pr Cmd := pick [
  ("inject", do let a ← num; return .dev <| vXEccInject o a (← choice [("single", false), ("double", true)])),
  ("patrol", do return .dev <| vXEccPatrol o (← onOffP))]

def xDmaP (o : Via) : Pr Cmd := pick [
  ("desc", do let c ← numFin 64; return .dev <| vXDmaDesc o c (← endOr none (do return some (← num)))),
  ("movers", pure (.dev <| vXDmaMovers o)),
  ("inject", do let c ← numFin 64; return .dev <| vXDmaInject o c (← choice [("buserr", false), ("withdraw", true)]))]

def xTileP (o : Via) : Pr Cmd := pick [
  ("peek", do
    let t ← numFin 8; let c ← coreN; let i ← num
    return .dev <| vXTilePeek o t c i (← endOr none (do return some (← num)))),
  ("stat", do return .dev <| vXTileStat o (← numFin 8)),
  ("inject", do let t ← numFin 8; return .dev <| vXTileInject o t (← choice [("parity", false), ("ctx", true)]))]

def xPortP (o : Via) : Pr Cmd := pick [
  ("regs", do return .dev <| vXPortRegs o (← fieldPort)),
  ("inject", do let u ← fieldPort; return .dev <| vXPortInject o u (← choice [("fcs", false), ("nobuf", true)]))]

def xAfeP (o : Via) : Pr Cmd := pick [
  ("last", pure (.dev <| vXAfeLast o)),
  ("test", do let c ← num; return .dev <| vXAfeTest o c (← choice [("low", some false), ("high", some true), ("off", none)]))]

/-- Pairs of hexadecimal digits as bytes. -/
def hexBytes (l : List Char) : Option (List Byte) :=
  match l with
  | [] => some []
  | a :: b :: r => match digits 16 [a, b], hexBytes r with
    | some n, some t => some (BitVec.ofNat 8 n :: t)
    | _, _ => none
  | _ => none

/-- The bytes of `x flash write`: hexadecimal digits, after 0x or not, underscores ignored. -/
def hexOf (s : String) : Option (List Byte) :=
  let l := match s.toList with | '0' :: 'x' :: r => r | l => l
  match hexBytes (l.filter (· != '_')) with
  | some [] => none
  | x => x

def roleKeyP {α : Type} (f : Role → Option (Fin 8) → Pr α) : Pr α := do
  let r ← roleP
  match (← peekTok).bind fun t => (namedOf "fold" (foldCase false t.text)).bind (finOf 8) with
  | some n => let _ ← foldN; f r (some n)
  | none => f r none

def xBootP (o : Via) : Pr Cmd := pick [
  ("verify", do return .read <| svXBootVerify o (← choice [("primary", false), ("secondary", true)])),
  ("key", do let s ← num; return .otp o <| .key s (← num)),
  ("revoke", do return .otp o <| .revoke (← num)),
  ("rolekey", roleKeyP fun r f => do let g ← num; return .otp o <| .rolekey r f g (← num)),
  ("rolerevoke", roleKeyP fun r f => do return .otp o <| .rolerevoke r f (← num)),
  ("arb", do return .otp o <| .arb (← num)), ("lock", pure (.otp o .lock)), ("jtag", do return .dev <| vXBootJtag o (← onOffP))]

def xP (o : Via) : Pr Cmd := pick [
  ("pwr", xPwrP o),
  ("therm", do word "sim"; return .dev <| vXThermSim o (← orWord "off" integer)),
  ("clk", do word "restore"; return .dev <| vXClkRestore o),
  ("peek", do let a ← num; return .dev <| vXPeek o a (← endOr none (do return some (← num)))),
  ("poke", do let a ← num; let v ← num; return .dev <| vXPoke o a v (← genP)),
  ("brx", endOr (.dev <| vXBrx o) (do word "clear"; return .dev <| vXBrxClear o)),
  ("crc", do let t ← nextTok; if t.quoted then return .dev <| vXCrc o t.text else bad),
  ("sess", do word "kill"; return .dev <| vXSessKill o (← choice [("mga", .mga), ("mgb", .mgb)])),
  ("state", xStateP o), ("core", xCoreP o),
  ("pen", do let p ← numFin 8; word "hwm"; word "clear"; return .dev <| vXPenHwmClear o p),
  ("ucode", xUcodeP o), ("gate", xGateP o), ("exc", xExcP o),
  ("bw", do word "hook"; return .dev <| vXBwHook o (← onOffP)),
  ("ration", xRationP o), ("task", xTaskP o), ("evr", xEvrP o),
  ("halt", do word "sim"; let i ← num; return .dev <| vXHaltSim o i (← onOffP)),
  ("sb", do return .dev <| vXSb o (← coreN)),
  ("ecc", xEccP o),
  ("myc", do word "port"; return .dev <| vXMycPort o (← num)),
  ("dma", xDmaP o), ("tile", xTileP o), ("port", xPortP o),
  ("ptab", do word "dump"; return .dev <| vXPtabDump o (← endOr none (do let a ← num; return some (a, ← num)))),
  ("pool", do word "map"; return .dev <| vXPoolMap o),
  ("afe", xAfeP o),
  ("pwm", do word "regs"; return .dev <| vXPwmRegs o (← numFin 16)),
  ("gpio", do word "mism"; endOr (.dev <| vXGpioMism o false) (do word "clear"; return .dev <| vXGpioMism o true)),
  ("boot", xBootP o),
  ("flash", pick [
    ("erase", do let a ← num; return .dev <| vXFlashErase o a (← num)),
    ("write", do let a ← num; return .dev <| vXFlashWrite o a (← tokBy hexOf))])]

/-! A whole command. -/

/-- A command of any verb. -/
def commandP (o : Via) : Pr Cmd := pick [
  ("pwr", pwrP o), ("shed", shedP o), ("clk", pure (.dev <| vClk o)), ("therm", pure (.dev <| vTherm o)), ("rtc", rtcP o),
  ("help", endOr (.dev <| vHelp o none) (do return .dev <| vHelp o (some (← helpText)))),
  ("inv", pure (.dev <| vInv o)), ("login", loginP o), ("auth", do return .read <| svAuth o (← tokBy macOf)), ("logout", pure (.dev <| vLogout o)),
  ("who", pure (.dev <| vWho o)), ("sess", sessP o), ("ev", evP o),
  ("log", endOr (.dev <| vLog o none) (do return .dev <| vLog o (some (← num)))),
  ("x", xP o), ("unit", unitP o),
  ("fence", do let u ← unit; return .dev <| vFence o u (← genP)), ("unfence", do let u ← unit; return .dev <| vUnfence o u (← genP)),
  ("reset", resetP o), ("pen", penP o), ("ucode", ucodeP o), ("exc", excP o), ("bw", pure (.dev <| vBw o)),
  ("ration", rationP o), ("task", taskP o), ("evr", evrP o), ("halt", haltP o), ("mem", memP o), ("myc", mycP o), ("ecc", eccP o),
  ("dma", dmaP o), ("tile", tileP o), ("port", portP o), ("t1s", t1sP o), ("gbe", gbeP o), ("can", canP o), ("uart", uartP o),
  ("ptab", ptabP o), ("pool", poolP o), ("afe", afeP o), ("pwm", pwmP o), ("gpio", gpioP o), ("boot", pure (.read <| svBoot o))]

/-- The command that a line of text spells, or the detail of its `er 10`. `full` asks for keywords in full and in lower case. -/
def parseCommand (o : Via) (full : Bool) (text : List Char) : Except String Cmd :=
  match tokens text [] false with
  | none => .error ""
  | some ts =>
    match commandP o full ts with
    | .ok (i, []) => .ok i
    | .ok _ => .error ""
    | .error e => .error e

end Sys2Proof.Machine
end

