-- ==== Sys2Proof/Machine/Console.lean ====
section
/-! DEFINITION. Characters and lines on the management ports: receiving and editing, and the two forms of a command line (spec/03 R44 to
R51, R58, R61; log 66). -/
namespace Sys2Proof.Machine

/-! Receiving (R44, R45, R58, R61). -/

/-- The characters in a port's receive buffer: the line being entered and the lines that wait, each with its terminator, which an overrun has
discarded (log 66). -/
def rxUsed (k : Console) : Nat := k.rx.length + (k.lines.map fun l => l.text.length + if l.ovf then 0 else 1).sum

/-- The line being entered is a generated one. -/
def rxGen (k : Console) : Bool := k.rx.head? == some 0x23

/-- Echoes a received character of a typed line. -/
def echo (k : Console) (ch : Byte) : Console :=
  if bitOf k.cfg 18 && !rxGen k then { k with tx := k.tx ++ [.echo ch] } else k

/-- A terminator ends the line being entered; it waits to be executed, in the order `n` of the terminators. -/
def rxEnd (k : Console) (ch : Byte) (n : Nat) : Console :=
  let k := echo k ch
  { k with rx := [], rxBad := false, rxOver := false,
           lines := k.lines ++ [{ text := k.rx, bad := k.rxBad, ovf := k.rxOver, stamp := n, cut := false }] }

/-- A character of the line being entered overflows the buffer. -/
def rxOverflow (k : Console) : Console := { k with rxOver := true, cntOverrun := satInc k.cntOverrun 0xFF }

/-- Ctrl-C abandons the line being typed; with none begun, it stops the data lines of the response of the typed line that is next, which is
the line whose response the port has begun (log 99). -/
def rxAbandon (k : Console) : Console :=
  match k.rx, k.lines with
  | [], l :: r => if l.text.head? == some 0x23 || k.busy.isSome then k else { k with lines := { l with cut := true } :: r }
  | _, _ => { k with rx := [], rxBad := false }

/-- A character of the line being entered: edited in a typed line, taken as it is in a generated one. -/
def rxPut (k : Console) (ch : Byte) : Console :=
  if rxGen k then { k with rx := k.rx ++ [ch] }
  else
    let e := echo { k with rx := k.rx ++ [ch] } ch
    let back : List Byte → Console := fun l => { echo k ch with rx := l }
    if ch == 0x08 || ch == 0x7F then back k.rx.dropLast
    else if ch == 0x15 then back []
    else if ch == 0x03 then rxAbandon (echo k ch)
    else e

/-- A character arrives at a port that receives; a terminator is the `n`-th of the terminators whose lines wait. -/
def rxChar (k : Console) (ch : Byte) (isBad : Bool) (n : Nat) : Console :=
  if isBad then { k with rxBad := true, lastCr := false, cntFraming := satInc k.cntFraming 0xFF }
  else if ch == 0x0A && k.lastCr then { k with lastCr := false }
  else
    let k := { k with lastCr := ch == 0x0D }
    let k := if !k.rxOver && 512 ≤ rxUsed k then rxOverflow k else k
    if ch == 0x0A || ch == 0x0D then rxEnd k ch n else if k.rxOver then k else rxPut k ch

/-- The place of a terminator that comes in now: after those of every line that waits. -/
def nextStamp (d : Dev) : Nat := 1 + ((d.mga.lines ++ d.mgb.lines).map (·.stamp)).foldl max 0

/-- A character arrives: before `!READY`, on a port that is fenced, or without clocks, it is discarded (R60, R63). -/
def mCharacterReceived (p : MgPort) (ch : Byte) (bad : Bool) (d : Dev) : Dev :=
  if portSends d p && (d.mg p).ready then d.updMg p fun k => rxChar k ch bad (nextStamp d) else d

/-! The two forms of a line (R46, R48 to R50). -/

/-- The bytes of a line as text. -/
def lineText (l : List Byte) : List Char := l.map fun b => Char.ofNat b.toNat

/-- Only printable characters. -/
def printable (l : List Byte) : Bool := l.all fun b => 0x20 ≤ b.toNat && b.toNat ≤ 0x7E

/-- What makes a line unfit before it is read: overrun, a framing error, its length (R58, R61). -/
def lineUnfit (l : RxLine) : Option Status :=
  if l.ovf then some (er 40 "overrun")
  else if l.bad then some (er 10 "framing")
  else if 255 < l.text.length then some (er 10 "too long")
  else none

/-- Takes the first waiting line off its queue. -/
def lineTaken (d : Dev) (p : MgPort) : Dev := d.updMg p fun k => { k with lines := k.lines.drop 1 }

/-- Whether the first line of a port is next: the port can run it, and no line of the other port whose terminator came first can run (R59;
log 102). -/
def inTurn (d : Dev) (p : MgPort) (l : RxLine) : Bool :=
  portOpen d p &&
  (!portOpen d (otherPort p) || match (d.mg (otherPort p)).lines with | [] => true | k :: _ => l.stamp ≤ k.stamp)

/-- The status of a command that the grammar does not have. -/
def syntaxEr (e : String) : Status := if e == "" then er 10 else er 10 e

/-- A command's effect, or the answer to what is none. -/
def runCommand (o : Via) (full : Bool) (text : List Char) (s : State) : State :=
  match parseCommand o full text with
  | .ok c => runCmd c s
  | .error e => { s with dev := reply o (s.dev, some ([], syntaxEr e)) }

/-- `TYPED_LINE`: the next line of a port, where it is a typed one. -/
def typedLine (p : MgPort) (s : State) : State :=
  match (s.dev.mg p).lines with
  | [] => s
  | l :: _ =>
    if !inTurn s.dev p l || l.text.head? == some 0x23 then s
    else
      let o := Via.typed p
      let empty : Bool := (lineUnfit l).isNone && l.text.all (· == 0x20)
      let d := lineArrives (lineTaken s.dev p) p (empty && (s.dev.mg p).genForm)
      let d := d.updMg p fun k => { k with cut := l.cut }
      match lineUnfit l with
      | some e => { s with dev := reply o (d, some ([], e)) }
      | none =>
        if empty then { s with dev := sendLines d o [] }
        else if !printable l.text then { s with dev := reply o (d, some ([], er 10)) }
        else runCommand o false (lineText l.text) { s with dev := d }

/-- The number after `#`, and the rest after the space. -/
def seqOf (t : List Char) : Option (Nat × List Char) :=
  match digits 10 ((t.drop 1).takeWhile (· != ' ')), (t.drop 1).dropWhile (· != ' ') with
  | some n, _ :: r => if n ≤ 65535 then some (n, r) else none
  | _, _ => none

/-- A status on a generated line, with `-` where its number cannot be read (R49). -/
def genStatus (d : Dev) (p : MgPort) (q : Option Nat) (e : Status) : Dev :=
  match q with
  | some q => reply (.gen p q) (d, some ([], e))
  | none => sendLines d (.gen p 0) [withCrc ("#- " ++ statusText e)]

/-- An upper-case hexadecimal digit. -/
def isUpHex (c : Char) : Bool := ('0' ≤ c && c ≤ '9') || ('A' ≤ c && c ≤ 'F')

/-- The text up to and including the last `;`, where four digits of a CRC follow it. -/
def crcSplit (t : List Char) : Option (List Char × Nat) :=
  match t.reverse.take 5, t.reverse.drop 4 with
  | [a, b, c, e, ';'], r =>
    if [a, b, c, e].all isUpHex then (digits 16 [e, c, b, a]).map fun n => (r.reverse, n) else none
  | _, _ => none

/-- The characters of lines with their CR LF. -/
def linesSize (l : List String) : Nat := (l.map fun s => s.length + 2).sum

/-- The lines among what a port has sent. -/
def sentLines (l : List TxItem) : List String := l.filterMap fun x => match x with | .line s => some s | _ => none

/-- Runs a generated command and keeps its response (R50). DESIGN CHOICE (log 103): a line that is refused, for its role say, is executed with
that answer and replaces what was kept. -/
def genRun (p : MgPort) (q : Nat) (text : List Char) (s : State) : State :=
  let t := String.ofList text
  let s0 := { s with dev := s.dev.updMg p fun k => { k with kept := some (q, t, []) } }
  let s' := runCommand (.gen p q) true text s0
  let out := sentLines ((s'.dev.mg p).tx.drop (s.dev.mg p).tx.length)
  let keep := if linesSize out ≤ 1024 then out else []
  { s' with dev := s'.dev.updMg p fun k =>
      { k with kept := match k.kept with | some _ => some (q, t, keep) | none => none } }

/-- `GENERATED_LINE`: the next line of a port, where it is a generated one. DESIGN CHOICE (log 104): a line without `;` or without a CRC counts
among the lines received and in no other counter. -/
def generatedLine (p : MgPort) (s : State) : State :=
  match (s.dev.mg p).lines with
  | [] => s
  | l :: _ =>
    if !inTurn s.dev p l || l.text.head? != some 0x23 then s
    else
      let d := lineArrives (lineTaken s.dev p) p true
      let t := lineText l.text
      let q : Option Nat := (seqOf t).map (·.1)
      match lineUnfit l with
      | some e => { s with dev := genStatus d p q e }
      | none =>
        match crcSplit t with
        | none => { s with dev := genStatus d p q (er 10) }
        | some (body, c) =>
          if (crc16 (body.map fun x => BitVec.ofNat 8 x.toNat)).toNat != c then
            { s with dev := genStatus (d.updMg p fun k => { k with cntCrc := satInc k.cntCrc 0xFFFF }) p q (er 70) }
          else
            match seqOf body.dropLast with
            | none => { s with dev := genStatus d p none (er 10) }
            | some (q, cmd) =>
              if !printable l.text then { s with dev := genStatus d p (some q) (er 10) }
              else
                let again := match (d.mg p).kept with
                  | some (n, t, ls) => if n == q then some (t == String.ofList cmd, ls) else none
                  | none => none
                match again with
                | some (false, _) => { s with dev := genStatus d p (some q) (er 10) }
                | some (true, x :: xs) => { s with dev := sendLines d (.gen p q) (x :: xs) }
                | _ => genRun p q cmd { s with dev := d }

/-- `TYPED_LINE`: A terminated typed line is parsed with prefix abbreviation and executed, then followed by a status line and the prompt
(R46). -/
def execTypedLine (p : MgPort) (s : State) : Host.Outcome State Fault Refusal := .next (typedLine p s)

/-- `GENERATED_LINE`: A terminated generated line is checked for its CRC and sequence number and executed, with its responses carrying its
sequence number (R48). -/
def execGeneratedLine (p : MgPort) (s : State) : Host.Outcome State Fault Refusal := .next (generatedLine p s)

/-! The rows of the table. -/

/-- `CHARACTER_RECEIVED`: A character arrives on MGA or MGB, and is echoed, edited, buffered or flagged as a framing error (R45). -/
def execCharacterReceived (p : MgPort) (ch : Byte) (bad : Bool) (s : State) : Host.Outcome State Fault Refusal :=
  lift (mCharacterReceived p ch bad) s

end Sys2Proof.Machine
end

