-- ==== Sys2Proof/Machine/Boot.lean ====
section
/-! DEFINITION. The boot sequence: image, sections, configuration records, pen loads, start-up script, release (spec/18 R395 to R401,
R409; spec/02 R39; log 67). -/
namespace Sys2Proof.Machine

/-- Changes the boot result. -/
def updBoot (d : Dev) (f : Boot → Boot) : Dev := { d with boot := f d.boot }

/-- A boot result is recorded; the first one stays (log 67). -/
def bootResult (d : Dev) (n : Nat) : Dev := updBoot d fun b => { b with code := if b.code == 0 then n else b.code }

/-- Advances CAP.BOOT.SKIPPED. -/
def bootSkip (d : Dev) : Dev := updBoot d fun b => { b with skipped := satInc b.skipped 255 }

/-- A wake from SPORE through which HALT.CTL.LOCK has survived (spec/11 R249). -/
def lockSurvived (d : Dev) : Bool := d.pmu.rstCause == .spore && d.halter.lock

/-- Shed, or inside a shed pen. -/
def unitShed (d : Dev) (u : UnitId) : Bool :=
  hasCause (d.unit u) .shed ||
  (match u with
    | .core c => hasCause (d.unit (penU (penOf c.val))) .shed
    | .tile t => hasCause (d.unit (.pen t)) .shed
    | _ => false)

/-! Sections (R399). -/

/-- Memory with the bytes of a range replaced; a zero byte is not listed. -/
def placeBytes (d : Dev) (a : Nat) (l : List Byte) : Dev :=
  { d with mem := d.mem.filter (fun x => x.1 < a) ++ ((l.zipIdx.map fun x => (a + x.2, x.1)).filter fun x => x.2 != 0) ++
      d.mem.filter fun x => a + l.length ≤ x.1 }

/-- What the boot keeps of the section of a golden image for its reload (R410). -/
def baseKept (x : Section) : Nat × Nat × Nat := (x.off, x.len, beNat x.hash)

/-- Replaces the golden region's record. -/
def updGolden (d : Dev) (f : Golden → Golden) : Dev := { d with golden := f d.golden }

/-- Places one section; `g` gives the bytes of the image. One whose target is absent or shed is skipped (R395, R398). -/
def placeSection (g : Nat → Byte) (d : Dev) (x : Section) : Dev :=
  let data (i n : Nat) : List Byte := bytesAt g (x.off + i) n
  match x.type with
  | 1 => updGolden (updBoot (placeBytes d (baseAddr false) (data 0 x.len)) fun b =>
      { b with img := b.img.map fun i => { i with drove := some (baseKept x) } }) fun k => { k with baseHeld := lset k.baseHeld 0 true }
  | 2 => updGolden (updBoot (placeBytes d (baseAddr true) (data 0 x.len)) fun b =>
      { b with img := b.img.map fun i => { i with tether := some (baseKept x) } }) fun k => { k with baseHeld := lset k.baseHeld 1 true }
  | 3 => updGolden (updBoot (placeBytes d (0x107A4000 + x.index * 0x4800) (data 0x80 0x4800)) fun b =>
      { b with img := b.img.map fun i => { i with ovls := tput i.ovls x.index (baseKept x) } }) fun k =>
      { k with active := lset k.active x.index true }
  | 4 =>
    match regionOf x.load with
    | .local_ c => if loadAbsent d x || unitShed d (coreU c) then d else placeBytes d x.load (data 0 x.len)
    | _ => placeBytes d x.load (data 0 x.len)
  | 7 => placeBytes d 0xF0010000 (data 0 x.len)
  | 8 => placeBytes d 0xF0004000 (data 0 x.len)
  | _ => d

/-! Configuration records (R400). -/

/-- The records of a section: address cell and value. -/
def recordsAt (g : Nat → Byte) (x : Section) : List (Nat × Nat) :=
  (List.range (x.len / 8)).map fun i => (cellAt g (x.off + 8 * i), cellAt g (x.off + 8 * i + 4))

/-- Whether records may address a register. -/
def recordOk (a : Nat) : Bool :=
  match regionOf a with
  | .periph => true
  | .penReg _ => (0x80000 ≤ a % 0x100000 && a % 0x100000 < 0x90000) || 0xF0000 ≤ a % 0x100000
  | .machine => a == 0xF0000010 || a == 0xF0000014 || a == 0xF0000018
  | _ => false

/-- HALT.CTL, HALT.INCFG and the HALT.MAPj. -/
def haltCfgAddr (a : Nat) : Bool := a == 0x40360000 || a == 0x40360004 || (0x40360020 ≤ a && a < 0x40360040)

/-- Whether a record is skipped. -/
def recordSkipped (d : Dev) (a : Nat) (opt : Bool) : Bool :=
  (lockSurvived d && haltCfgAddr a) ||
  (match addrUnit a with
    | some u => (opt && !unitPresent d.variant u) || unitShed d u
    | none => false)

/-- Writes the records in order up to the first that fails. -/
def runRecords (d : Dev) (l : List (Nat × Nat)) : Dev :=
  match l with
  | [] => d
  | (c, v) :: r =>
    let a := c / 4 * 4
    let d := updBoot d fun b => { b with records := b.records + 1 }
    if c.testBit 1 || !recordOk a then bootResult d 9
    else if recordSkipped d a (c.testBit 0) then runRecords (bootSkip d) r
    else
      match anyWrite d bwReq a (toWord v) 4 with
      | (d, .done) => runRecords d r
      | (d, _) => bootResult d 9

/-- COEF0 to COEF7 of every present pen that is not shed, from the OTP (spec/10 R214). -/
def loadCoefs (d : Dev) (o : Otp) : Dev :=
  (List.range (countPens d.variant)).foldl (fun d p =>
    if unitShed d (penU p) then d
    else (List.range 8).foldl (fun d k =>
      (anyWrite d bwReq (penBlock p + 0x1040 + 4 * k) (toWord (lget o.coef 0 (8 * p + k))) 4).1) d) d

/-! Pen loads (R395, R174; spec/02 R39). -/

/-- A unit that the boot configures: OFF becomes IDLE, and a fenced one will return to IDLE. -/
def configured (d : Dev) (u : UnitId) : Dev :=
  let r := d.unit u
  match r.st with
  | .off => setUState d u .idle
  | .fenced => if r.prior == .off then d.setUnit u { r with prior := .idle } else d
  | _ => d

/-- Loads a pen: its cores, its tile engine, itself and its fold are configured; a step already applied acts on it at once. -/
def bootLoad (d : Dev) (p : Nat) : Dev :=
  let d := csLoad d p
  match (d.pen p).pers with
  | none => d
  | some tether =>
    let d := (List.range 4).foldl (fun d i =>
      let d := d.updCore (4 * p + i) fun k =>
        { k with banks := List.replicate 8 (if tether then Bank.empty else { Bank.empty with wn := 0 }) }
      configured d (coreU (4 * p + i))) d
    let d := if unitPresent d.variant (tileU p) then configured d (tileU p) else d
    shedAtLoad (configured (configured d (penU p)) (foldU (d.pen p).fold)) p

/-- Loads every present pen. -/
def bootLoads (d : Dev) : Dev := (List.range (countPens d.variant)).foldl bootLoad d

/-! The script (R401). -/

/-- Lines ended by LF, CR LF taken as one end. -/
def scriptLines (l : List Byte) (cur : List Byte) : List (List Byte) :=
  let line := (if cur.head? == some 0x0D then cur.drop 1 else cur).reverse
  match l with
  | [] => if cur.isEmpty then [] else [line]
  | b :: r => if b == 0x0A then line :: scriptLines r [] else scriptLines r (b :: cur)

/-- Keywords are not case-sensitive outside quotes. -/
def lowerText (l : List Char) (q : Bool) : List Char :=
  match l with
  | [] => []
  | c :: r => if c == '"' then c :: lowerText r (!q) else (if q then c else c.toLower) :: lowerText r q

/-- Whether a line configures the halter, and so is skipped where the lock has survived. -/
def haltLine (t : List Char) : Bool :=
  match tokens t [] false with
  | some (a :: b :: _) => a.text == "halt" && ["map", "input", "arm", "disarm", "lock"].contains b.text
  | _ => false

/-- One line of the script. -/
def scriptLine (s : State) (l : List Byte) : State :=
  let t := lowerText (lineText l) false
  let s' :=
    if l.all (· == 0x20) then s
    else if lockSurvived s.dev && haltLine t then { s with dev := bootSkip s.dev }
    else if 255 < l.length || !printable l then { s with dev := reply .script (s.dev, some ([], er 10)) }
    else
      let r := runCommand .script true t s
      { r with dev := entryComplete (drainComplete r.dev) }
  if s'.dev.boot.scriptEnd.isSome then { s' with dev := bootResult s'.dev 10 }
  else { s' with dev := updBoot s'.dev fun b => { b with scriptLines := b.scriptLines + 1 } }

/-- Runs `n` lines of what is left of the script. -/
def runScript (n : Nat) (s : State) : State :=
  match n, s.dev.boot.script with
  | 0, _ => s
  | _, [] => s
  | n + 1, l :: r => runScript n (scriptLine { s with dev := updBoot s.dev fun b => { b with script := r } } l)

/-! Release (R396). -/

/-- The keeper's core: its privilege is K, and its pen's registers name KENTRY. -/
def keeperStart (d : Dev) (p : Nat) (entry : Word) : Dev :=
  let d := d.updCore (4 * p) fun k => { k with keeper := true, priv := .k }
  match (d.pen p).pers with
  | some true => d.updPen p fun k => { k with tvec := entry &&& 0xFFFFFFE0 }
  | _ => d.updPen p fun k => { k with rat := { k.rat with boot := (entry &&& 0xFFFFFF80) ||| 1 } }

/-- The loaded pens are released; one that is shed is left halted. Without a keeper none is released. -/
def bootRelease (d : Dev) (kpen : Nat) (entry : Word) : Dev :=
  if countPens d.variant ≤ kpen || (d.pen kpen).fold != 0 then bootResult d 11
  else
    let d := updBoot d fun b => { b with released := true }
    let d := if (d.pen kpen).pers.isSome then keeperStart d kpen entry else d
    let order := kpen :: (List.range (countPens d.variant)).filter (· != kpen)
    order.foldl (fun d p =>
      if (d.pen p).pers.isNone || (d.unit (penU p)).st == .fenced then d else penRelease d p) d

/-- The end of the sequence: CUR holds the wake target after a wake from SPORE, RUN otherwise (R395). -/
def bootEnd (d : Dev) (ph : Phase) : Dev :=
  let cur : PState := if d.pmu.rstCause == .spore then d.pmu.wakeTarget else .run
  updPmu { d with phase := ph } fun m => { m with cur := cur }

/-- The script has ended: release, and the device runs. -/
def bootFinish (d : Dev) : Dev :=
  let d := updBoot d fun b => { b with inScript := false, script := [] }
  match d.boot.img with
  | some i => bootEnd (bootRelease d i.kpen i.kentry) .run
  | none => bootEnd d .run

/-! The sequence. -/

/-- The image that boots: the primary, or the secondary where a check of the primary fails (R398, R409). -/
def bootChoose (d : Dev) (o : Otp) : Dev × Option Bool :=
  if !flashUsable d then (bootResult d 1, none)
  else
    match checkFlashImage d o false with
    | none => (d, some false)
    | some (c, i) =>
      let d := updBoot d fun b => { b with bfailCode := c, bfailSection := i }
      match checkFlashImage d o true with
      | none => (updBoot d fun b => { b with secondary := true }, some true)
      | some (c, _) => (bootResult d c, none)

/-- The header of the image that boots. -/
def bootImg (g : Nat → Byte) (secondary : Bool) : BootImg :=
  { secondary := secondary, base := imageBase secondary, version := toWord (cellAt g 0x18), name := bytesAt g 0x60 32, arb := cellAt g 0xC,
    keyslot := cellAt g 0x10 % 8, kpen := cellAt g 0x1C % 8, kentry := toWord (cellAt g 0x20), drove := none, tether := none,
    ovls := [] }

/-- Sections placed, coefficients and records written, pens loaded; the script is next. -/
def bootImage (d : Dev) (o : Otp) (secondary : Bool) : Dev :=
  let g := flashAt d (imageBase secondary)
  let l := sectionsOf g
  let d := updBoot d fun b => { b with img := some (bootImg g secondary) }
  let d := l.foldl (placeSection g) d
  let d := runRecords (loadCoefs d o) ((l.filter (·.type == 5)).flatMap (recordsAt g))
  let d := bootLoads d
  updBoot d fun b =>
    { b with inScript := true, script := (l.filter (·.type == 6)).flatMap fun x => scriptLines (bytesAt g x.off x.len) [] }

/-- The boot up to the script. -/
def bootStart (s : State) : State :=
  let o := { s.otp with image := s.otp.image.map markBad, role := s.otp.role.map markBad }
  let d := updBoot s.dev fun b => { b with arb := arbCount o, locked := o.locked }
  match bootChoose d o with
  | (d, none) => { s with dev := bootEnd d .recovery, otp := o }
  | (d, some sec) => { s with dev := bootImage d o sec, otp := o }

/-- The script goes on for `n` lines, or to its end; at its end the boot ends. -/
def bootContinue (n : Option Nat) (s : State) : State :=
  if !s.dev.boot.inScript then s
  else
    let s := runScript (n.getD s.dev.boot.script.length) s
    if s.dev.boot.script.isEmpty then { s with dev := bootFinish s.dev } else s

/-- `BOOT_SEQUENCE`: After every device reset the Bellwether reads, checks and places the image, applies the records, loads the pens, runs
the script and releases the keeper (R395); `lines` bounds the lines run by this command. -/
def execBootSequence (lines : Option Nat) (s : State) : Host.Outcome State Fault Refusal :=
  .next (if s.dev.phase != .boot then s
    else bootContinue lines (if s.dev.boot.inScript then s else bootStart s))

/-- `SCRIPT_TIMEOUT`: the script stops at 45 ms, and the boot goes on (R401). -/
def mScriptTimeout (d : Dev) : Dev :=
  if d.phase != .boot || !d.boot.inScript then d
  else bootFinish (bootResult (updBoot d fun b => { b with scriptEnd := some (b.scriptLines + 1, 0) }) 10)

/-! The rows of the table. -/

/-- `SCRIPT_TIMEOUT`: The start-up script reaching 45 ms is stopped, and !BOOT SCRIPT TIME follows !READY (R401). -/
def execScriptTimeout (s : State) : Host.Outcome State Fault Refusal :=
  lift (mScriptTimeout) s

end Sys2Proof.Machine
end

