-- ==== Sys2Proof/Machine/Microcode.lean ====
section
/-! DEFINITION. The execution of custom opcodes from the microcode of a pen's control store (spec/08 R165 to R172, R181; log 60). -/
namespace Sys2Proof.Machine

/-- Bits of a microword. -/
def bf (w lo n : Nat) : Nat := w / 2 ^ lo % 2 ^ n

/-- The temporaries of one instruction, its IMM latch, the length of its form in syllables and its SUB field (R168). -/
structure Micro where
  tmp : List Word
  mar : Word
  mdr : Word
  imm : Word
  form : Nat
  sub : Nat
deriving DecidableEq, Repr

/-- A value the spec leaves open. -/
def freeVal : IM Word := do
  let d ← get
  set { d with free := d.free + 1 }
  return Config.freeCell d.free

/-- The ALU of a microword: its result, and carry and overflow where the operation has them. The codes above 0x22, which only a base image may
hold, are the step's own: their result is open (log 60). -/
def microAlu (code : Nat) (k : Core) (a b : Word) : Word × Option Bool × Option Bool :=
  let arith (r : Word × Flags) : Word × Option Bool × Option Bool := (r.1, some r.2.c, some r.2.v)
  let shift (r : Word × Flags) : Word × Option Bool × Option Bool := (r.1, some r.2.c, none)
  let plain (r : Word) : Word × Option Bool × Option Bool := (r, none, none)
  match code with
  | 0x00 => plain a
  | 0x01 => plain b
  | 0x02 => arith (addFlags a b false)
  | 0x03 => arith (subFlags a b true)
  | 0x04 => arith (addFlags a b k.c)
  | 0x05 => arith (subFlags a b k.c)
  | 0x06 => plain (a &&& b)
  | 0x07 => plain (a ||| b)
  | 0x08 => plain (a ^^^ b)
  | 0x09 => plain (~~~a)
  | 0x0A => shift (shl k.flags a b)
  | 0x0B => shift (shr k.flags a b)
  | 0x0C => shift (sar k.flags a b)
  | 0x0D => shift (rol k.flags a b)
  | 0x0E => shift (ror k.flags a b)
  | 0x0F => plain (if a.slt b then a else b)
  | 0x10 => plain (if a.slt b then b else a)
  | 0x11 => plain (if a.ult b then a else b)
  | 0x12 => plain (if a.ult b then b else a)
  | 0x13 => plain (clz a)
  | 0x14 => plain (popc a)
  | 0x15 => plain (bswap a)
  | 0x16 => plain (bitRev 8 a)
  | 0x17 => plain (bitRev 16 a)
  | 0x18 => plain (bitRev 32 a)
  | 0x19 => plain (parity a 8)
  | 0x1A => plain (parity a 32)
  | 0x1B => plain ((a.setWidth 8).signExtend 32)
  | 0x1C => plain ((a.setWidth 16).signExtend 32)
  | 0x1D => plain (a &&& 0xFF)
  | 0x1E => plain (a &&& 0xFFFF)
  | 0x1F => plain (crcByte k.cpoly k.cacc a)
  | 0x20 => arith (addFlags a 1 false)
  | 0x21 => arith (subFlags a 1 true)
  | 0x22 => arith (addFlags a 4 false)
  | _ => plain 0

/-- The data-stack cell at depth `i`; where the stack is not that deep its content is open. -/
def microDp (c i : Nat) : IM Word := do
  let d ← get
  let t := d.tether c
  if (d.core c).depth t ≤ i then freeVal
  else
    if t then pure () else fillData 24 c (i + 1)
    return lget (← getCore c).view 0 i

/-- The window cell WSEL. -/
def microWin (c w : Nat) : IM Word := do
  needWindow c
  winCell c ((← getCore c).bank.winAddr (bf w 57 4))

/-- A source of a microword; `mdr` is what MDR gives it. -/
def microSrc (c : Nat) (m : Micro) (mdr : Word) (w code : Nat) : IM Word := do
  match code with
  | 1 => microDp c 0
  | 2 => microDp c 1
  | 3 => microDp c 2
  | 4 => microDp c 3
  | 5 | 6 | 7 | 8 => return lget m.tmp 0 (code - 5)
  | 9 => return mdr
  | 10 => return m.imm
  | 11 => return (BitVec.ofNat 17 (bf w 74 17)).signExtend 32
  | 12 =>
    let d ← get
    modCore c fun k => if isProd (bf w 52 5) then k.settle (d.tether c) else k
    return sregGet ((← get).core c) (d.tether c) (bf w 52 5)
  | 13 => microWin c w
  | 14 => return m.mar
  | _ => return 0

/-- The size in bytes of a MEM code. -/
def microSize (mem : Nat) : Nat := match mem with | 1 | 4 => 1 | 2 | 5 => 2 | _ => 4

/-- The memory read of a microword, at MAR as it stands at the start; other codes leave MDR. -/
def microRead (c : Nat) (m : Micro) (w : Nat) : IM Word := do
  let mem := bf w 48 3
  if mem == 1 || mem == 2 || mem == 3 then
    let n := microSize mem
    checkAccess c m.mar n .r
    let v ← readNow c m.mar n
    return if bf w 51 1 == 1 then (match n with | 1 => (v.setWidth 8).signExtend 32 | 2 => (v.setWidth 16).signExtend 32 | _ => v) else v
  else return m.mdr

/-- The memory write of a microword. -/
def microWrite (c : Nat) (pc : Word) (m : Micro) (w : Nat) (v : Word) : IM Unit := do
  let mem := bf w 48 3
  if mem == 4 || mem == 5 || mem == 6 then
    checkAccess c m.mar (microSize mem) .w
    storeNow c pc m.mar (microSize mem) v
  else pure ()

/-- The data-stack change of a microword, from −4 to +3 cells; new cells hold open values until they are written. -/
def microStack (c w : Nat) : IM Unit := do
  let s := bf w 40 3
  if s == 0 then pure ()
  else if 4 ≤ s then
    prepare c (8 - s) 0
    let _ ← popN c (8 - s)
  else
    prepare c 0 s
    let a ← freeVal
    let b ← freeVal
    let x ← freeVal
    pushN c ([a, b, x].take s)

/-- Writes the data-stack cell at depth `i`, if there is one. -/
def microPutDp (c i : Nat) (v : Word) : IM Unit := do
  let d ← get
  let t := d.tether c
  if (d.core c).depth t ≤ i then pure ()
  else
    if t then pure () else fillData 24 c (i + 1)
    modCore c fun k => let b := k.bank; { k.setBank { b with data := lset b.data i v } with delay := tdel k.delay (b.cellAddr i) }

/-- The destination of a microword's result. -/
def microDst (c : Nat) (m : Micro) (w : Nat) (r : Word) : IM Micro := do
  match bf w 36 4 with
  | 1 => microPutDp c 0 r; return m
  | 2 => microPutDp c 1 r; return m
  | 3 => return { m with tmp := lset m.tmp 0 r }
  | 4 => return { m with tmp := lset m.tmp 1 r }
  | 5 => return { m with tmp := lset m.tmp 2 r }
  | 6 => return { m with tmp := lset m.tmp 3 r }
  | 7 => return { m with mar := r }
  | 8 => return { m with mdr := r }
  | 9 =>
    let d ← get
    modCore c fun k => sregSet k (d.tether c) (d.pen (penOf c)).rat.run (bf w 52 5) r
    return m
  | 10 =>
    needWindow c
    setWinCell c ((← getCore c).bank.winAddr (bf w 57 4)) r
    return m
  | 11 =>
    modCore c fun k => { k with pc := r &&& 0xFFFFFFFE }
    return m
  | _ => return m

/-- The flags of a microword. -/
def microFlags (c w : Nat) (r : Word) (cy ov : Option Bool) : IM Unit := do
  let f := bf w 61 3
  let x ← freeVal
  let cy := cy.getD (bitOf x 0)
  let ov := ov.getD (bitOf x 1)
  modCore c fun k =>
    match f with
    | 1 => k.setFlags (k.flags.zn r)
    | 2 => k.setFlags { z := r == 0, n := r.msb, c := cy, v := ov }
    | 3 => k.setFlags (k.flags.znc r cy)
    | 4 => k.setFlags { z := r == 0, n := r.msb, c := false, v := false }
    | 5 => k.zCacc
    | 6 => k.setFlags (k.flags.zOnly (r == 0))
    | _ => k

/-- The product of a microword. -/
def microMul (c w : Nat) (a b : Word) : IM Unit := do
  let m := bf w 69 3
  let t := (← get).tether c
  if m == 0 || 5 ≤ m then pure ()
  else modCore c fun k => k.issueMul t ((if 3 ≤ m then k.lastProd else 0) + product (m == 1 || m == 3) a b)

/-- The condition bits of a group: `k` is the core at the start of the microword, `mdr` what MDR gives it, `r`, `cy` and `ov` its own
result (R172). -/
def microCond (d : Dev) (c : Nat) (m : Micro) (mdr : Word) (dp0 r : Word) (cy ov : Bool) (g : Nat) : List Bool :=
  let k := d.core c
  let t := d.tether c
  let low (v : Word) : List Bool := (List.range 4).map (bitOf v)
  match g with
  | 1 => [k.z]
  | 2 => [k.n]
  | 3 => [k.c]
  | 4 => [k.v]
  | 5 => [k.z, k.n]
  | 6 => [k.z, k.c]
  | 7 => [k.z, k.n, k.c, k.v]
  | 8 => [r == 0, r.msb, cy, ov]
  | 9 => low dp0
  | 10 => [dp0 == 0, dp0.msb]
  | 11 => low m.imm
  | 12 => [m.imm == 0, m.imm.msb]
  | 13 => [m.form == 3, m.form == 2]
  | 14 => [k.rc == 0, k.rc == 1]
  | 15 => [mdr &&& 0xFF == 0, mdr &&& 0xFFFF == 0, mdr == 0]
  | 16 => [bitOf (toWord (privNum k.priv)) 0, bitOf (toWord (privNum k.priv)) 1]
  | 17 => (List.range 4).map fun i => k.depth t ≤ i
  | 18 => [k.bank.wn == 100, k.bank.fp == k.fbase]
  | 19 => [k.mulPipe.any fun x => k.cyc < x.1]
  | 20 => [k.sb.isEmpty, k.sb.length == 8]
  | 21 => low mdr
  | 22 => low (lget m.tmp 0 0)
  | 23 => [lget m.tmp 0 0 == 0, (lget m.tmp 0 0).msb]
  | 24 => [switchDue d c]
  | 25 => [(d.pen (penOf c)).te.op.isSome, !unitPresent d.variant (tileU (penOf c))]
  | 26 => [!k.spare.isEmpty, !k.spare.isEmpty]
  | 27 => [bitOf m.mar 0, bitOf m.mar 1]
  | 28 => (List.range 4).map (m.sub.testBit ·)
  | 29 => [m.sub.testBit 4, m.sub.testBit 5]
  | 30 => [k.rpt]
  | _ => []

/-- The low `n` condition bits as a number. -/
def condNum (l : List Bool) (n : Nat) : Nat := (l.take n).zipIdx.foldl (fun s x => s + putB x.1 x.2) 0

/-- One microword's resource fields: what the temporaries hold after it and the condition bits of its group. `own` says that MDR gives the
microword its own read (R168, R171). -/
def microStep (c : Nat) (pc : Word) (m : Micro) (w group : Nat) (own late : Bool) : IM (Micro × List Bool) := do
  let d ← get
  prepare c (bf w 43 3) (bf w 43 3 + bf w 46 2)
  let v ← microRead c m w
  let mdr := if own then v else m.mdr
  let a ← microSrc c m mdr w (bf w 22 4)
  let b ← microSrc c m mdr w (bf w 26 4)
  let dp0 ← if group == 9 || group == 10 then microDp c 0 else pure 0
  let (r, cy, ov) ← if 0x22 < bf w 30 6 then pure (← freeVal, none, none) else pure (microAlu (bf w 30 6) (← getCore c) a b)
  let bits := microCond d c m mdr dp0 r (cy.getD false) (ov.getD false) group
  if bf w 64 5 != 0 then raise (BitVec.ofNat 8 (bf w 64 5))
  else
    microMul c w a b
    if bf w 30 6 == 0x1F then modCore c fun k => { k with cacc := r } else pure ()
    microStack c w
    let n ← microDst c { m with mdr := v } w r
    microWrite c pc m w (if late then n.mdr else m.mdr)
    microFlags c w r cy ov
    match bf w 72 2 with
    | 1 => modCore c fun k => { k with rc := k.rc - 1 }
    | 2 => modCore c fun k => { k with rpt := false }
    | _ => pure ()
    return (n, bits)

/-! Sequencing (R167, R170). -/

/-- A parity error found on use stops the instruction before any of its words executes (R181). -/
def microParity (c off n : Nat) : IM Unit := do
  let k := (← get).pen (penOf c)
  match (List.range n).find? fun i => wordBad k (off + i) with
  | some i => throw (.exc { Exc.of 0x10 with addr := toWord (off + i) })
  | none => pure ()

/-- Whether a word that ends an element meets its interruption point with something due: the instruction then stands at its own address again,
as an unfinished repeat does (R111, R168). -/
def microStops (c : Nat) (pc : Word) (w : Nat) : IM Bool := do
  let d ← get
  if bf w 72 2 == 1 && ((entryDue d c).isSome || excDue d c || switchDue d c) then
    modCore c fun k => { k with pc := pc }
    return true
  else return false

/-- The microwords of a Drove instruction from an address; one that never ends makes the core wait. -/
def microDrove (n c : Nat) (pc : Word) (m : Micro) (a : Nat) : IM Unit :=
  match n with
  | 0 => wait
  | n + 1 => do
    microParity c (16 * a) 16
    let w := csNat ((← get).pen (penOf c)).cs (16 * a) 16
    let clen := bf w 20 2
    let (m, bits) ← microStep c pc m w (bf w 15 5) (1 ≤ clen) (2 ≤ clen)
    modCore c fun k => { k with cyc := k.cyc + clen + 1 }
    let brw := if bf w 12 3 ≤ 4 then bf w 12 3 else 0
    if ← microStops c pc w then pure ()
    else if bf w 0 12 == 0 && brw == 0 then pure () else microDrove n c pc m (bf w 0 12 ||| condNum bits brw)

/-- The short microwords of a Tether instruction from an address; a relative branch counts from its own word. -/
def microTether (n c : Nat) (pc : Word) (m : Micro) (a : Nat) : IM Unit :=
  match n with
  | 0 => wait
  | n + 1 => do
    microParity c (3 * a) 3
    let cs := ((← get).pen (penOf c)).cs
    let s := csNat cs (3 * a) 3
    let nano := 0xC000 + 16 * bf s 0 9
    microParity c nano 16
    let w := csNat cs nano 16
    let (m, bits) ← microStep c pc m w (bf s 13 4) false false
    modCore c fun k => { k with cyc := k.cyc + 1 }
    let on := condNum bits (bf s 11 2)
    if ← microStops c pc w then pure ()
    else match bf s 9 2 with
    | 0 => microTether n c pc m ((a + 1) % 0x4000)
    | 1 => microTether n c pc m (((a + 0x4000 + bf s 17 7 - (if 64 ≤ bf s 17 7 then 128 else 0)) % 0x4000) ||| on)
    | 2 => pure ()
    | _ => microTether n c pc m ((bf s 17 7 * 128) ||| on)

/-- The dispatch index of a custom opcode, its syllables, its immediate and its SUB field (R165). -/
def customParts (op : CustomOp) : Nat × List Half × Word × Nat :=
  match op with
  | .operate x => (0x300 + x.toNat, [BitVec.ofNat 16 (0x300 + x.toNat)], 0, 0)
  | .long g s i => (0x280 + (if g then 64 else 0) + s.toNat, longSyl (if g then 15 else 14) s.toNat i, i.signExtend 32, s.toNat)
  | .ext g s i => (0x280 + (if g then 64 else 0) + s.toNat, extSyl (if g then 15 else 14) s.toNat i, i, s.toNat)

/-- The microcode of a custom opcode from the address in its dispatch entry (R165). -/
def runCustom (op : CustomOp) (c : Nat) : IM Unit := do
  let (idx, syl, imm, sub) := customParts op
  let e := csHalf ((← get).pen (penOf c)).cs (0x10000 + 2 * idx)
  let t0 ← freeVal
  let t1 ← freeVal
  let t2 ← freeVal
  let t3 ← freeVal
  let mar ← freeVal
  let mdr ← freeVal
  let m : Micro := { tmp := [t0, t1, t2, t3], mar := mar, mdr := mdr, imm := imm, form := syl.length, sub := sub }
  let pc := (← getCore c).pc - toWord (2 * syl.length)
  if (← get).tether c then microTether 512 c pc m (bf e 0 14) else microDrove 512 c pc m (bf e 0 12)

def bCustomOpcode (op : CustomOp) : Insn :=
  { syl := (customParts op).2.1, str := false, ld := false, cyc := 0, run := runCustom op }

/-! The rows of the table. -/

/-- `CUSTOM_OPCODE`: A custom opcode executes as the fold's signed overlay defines it (R140). -/
def execCustomOpcode (c : Fin 32) (k : Cond) (op : CustomOp) (s : State) : Host.Outcome State Fault Refusal :=
  lift (runInstr c.val k (bCustomOpcode op)) s

end Sys2Proof.Machine
end

