-- ==== Sys2Proof/Machine/Reads.lean ====
section
/-! DEFINITION. Reads that change what they read, and the cycle of the buffer allocator (spec/11 R242, spec/16 R347, R349 to R352, R365,
spec/17 R376, R384). -/
namespace Sys2Proof.Machine

/-- The load of a core that waits for a cell at an address, with its level. -/
def loadAt (k : Core) (a : Nat) : Option (Nat × PendLoad) := k.loads.find? fun x => x.2.err.isNone && x.2.addr / 4 * 4 == a

/-- A read by an agent: it completes the load of a core that waits for the address; any other read has its effect on what it reads. -/
def readRow (a : Agent) (addr : Nat) (d : Dev) : Dev :=
  let plain (c : Nat) : Dev := (anyRead d (reqOf d a) addr 4 ("core" ++ toString c) (coreU c)).1
  match a with
  | .core c _ =>
    match loadAt (d.core c.val) addr with
    | some (l, p) => if coreMoves d c.val then loadReturn d c.val l p else d
    | none => if coreMoves d c.val then plain c.val else d
  | _ => plain 0

/-- A core reads half of the pending register of its own pen; in Drove its record of new bits is cleared (R242). -/
def mPendRead (c : Fin 32) (hi : Bool) (d : Dev) : Dev :=
  readRow (.core c (d.core c.val).priv) (penBlock (penOf c.val) + (if hi then 0x604 else 0x600)) d

def mPoolAllocRead (c : Fin 32) (d : Dev) : Dev := readRow (.core c (d.core c.val).priv) 0x4010E004 d

def mRxqRead (a : Agent) (u : FieldPort) (d : Dev) : Dev := readRow a (portBase u + 0x10) d

/-- The read of cell 1 of a partner record, with which the record leaves the queue (R365). -/
def mPartnerEvRead (a : Agent) (f : Fin 8) (d : Dev) : Dev := readRow a (0x40108104 + 16 * f.val) d

def mAfeFrameqRead (a : Agent) (d : Dev) : Dev := readRow a 0x40300040 d

/-- The snapshot queue (spec/17 R384). -/
def mGpioSnapqRead (a : Agent) (d : Dev) : Dev := readRow a 0x40340084 d

/-! BUFFER_REQUEST (R351, R352). -/

/-- The lowest-numbered core of a fold that waits for the answer of POOL.ALLOC. -/
def allocCore (d : Dev) (f : Nat) : Option (Nat × Nat × PendLoad) :=
  (List.range 32).findSome? fun c =>
    if d.foldOfCore c == f && coreMoves d c then (loadAt (d.core c) 0x4010E004).map fun x => (c, x.1, x.2) else none

/-- Whether a requester has something to ask for: a port that receives or has a frame waiting, a channel that lacks its buffer, a core that
reads POOL.ALLOC. -/
def asks (d : Dev) (r : ReqId) : Bool :=
  match r with
  | .port u =>
    let k := d.port (portId u)
    unitPresent d.variant (portUnit u) && portLive d u &&
    (match portClass (portId u) with
      | 0 | 2 => !k.dropNext && k.held.length < 6
      | _ => match k.rxWait with | fr :: _ => !rxFull fr | [] => k.held.isEmpty)
  | .dma c => unitPresent d.variant (.dma c) && eligible d c.val && lacksBuf (d.chan c.val)
  | .fold f => (allocCore d f.val).isSome

/-- The fold a requester's buffer is tagged with (R349). -/
def askFold (d : Dev) (r : ReqId) : Nat :=
  match r with
  | .port u => match (d.port (portId u)).rxWait with | fr :: _ => fr.fold | [] => (d.port (portId u)).own.getD 0
  | .dma c => (d.chan c.val).own.getD 0
  | .fold f => f.val

/-- Whether a buffer is available to a requester; an injected NOBUF answers a port (R371). -/
def askAvail (d : Dev) (r : ReqId) : Bool :=
  (match r with | .port u => !(d.port (portId u)).injNobuf | _ => true) && bufAvail d (reqIdNum r)

/-- The answer of POOL.ALLOC reaches the core that waits for it. -/
def allocAnswer (d : Dev) (f : Nat) (v : Word) : Dev :=
  match allocCore d f with
  | some (c, l, p) => d.setCore c (loadDone d c l p ((v >>> (8 * (p.addr % 4))) &&& toWord (2 ^ (8 * p.size) - 1)))
  | none => d

/-- A granted buffer reaches its requester. -/
def askGranted (d : Dev) (r : ReqId) (b : Nat) : Dev :=
  match r with
  | .port u =>
    let i := portId u
    match (d.port i).rxWait with
    | fr :: t =>
      let fr := { fr with bufs := fr.bufs ++ [b] }
      if rxFull fr && rxRoom d i fr then rxPlace (d.updPort i fun k => { k with rxWait := t }) i fr
      else d.updPort i fun k => { k with rxWait := fr :: t }
    | [] => d.updPort i fun k => { k with held := k.held ++ [b] }
  | .dma c => takeBuf d c.val b
  | .fold f => allocAnswer d f.val (toWord (bufAddr b))

/-- BUSY and NOBUF (R352): a T1S or GbE port drops its frame on NOBUF and returns what it holds; a channel counts either as NOBUF; a core
reads 0; the others ask again. -/
def askRefused (d : Dev) (r : ReqId) (busy : Bool) : Dev :=
  match r with
  | .port u =>
    let i := portId u
    let d := d.updPort i fun k => { k with injNobuf := k.injNobuf && busy }
    if busy || (portClass i != 0 && portClass i != 2) then d
    else
      let h := (d.port i).held
      poolReturnAll (d.updPort i fun k => { k with nobuf := satByte k.nobuf, held := [], dropNext := true }) h
  | .dma c => noBuf d c.val
  | .fold f => allocAnswer d f.val 0

/-- The highest-ranked requester to which a buffer is available. -/
def bestAsk (d : Dev) (l : List ReqId) : Option ReqId :=
  l.foldl (fun (b : Option ReqId) r =>
    if !askAvail d r then b
    else match b with
      | some x => if reqRank d (reqIdNum r) < reqRank d (reqIdNum x) then some r else b
      | none => some r) none

/-- One decision of the allocator over the requests of a cycle. -/
def allocCycle (d : Dev) (l : List ReqId) : Dev :=
  match bestAsk d l with
  | none => l.foldl (fun d r => askRefused d r false) d
  | some x =>
    match bufTake d (reqIdNum x) (askFold d x) with
    | (_, none) => d
    | (e, some b) =>
      let rest := (l.filter (· != x)).map fun r => (r, askAvail e r)
      rest.foldl (fun d r => askRefused d r.1 r.2) (askGranted e x b)

/-- The requests of one cycle; a requester named twice asks once. -/
def mBufferRequest (rs : List ReqId) (d : Dev) : Dev := if d.clocked then allocCycle d (rs.eraseDups.filter (asks d)) else d

/-! The rows of the table. -/

/-- `PEND_READ`: A Drove core's read of PEND0 or PEND1 clears its NEWc record (R242). -/
def execPendRead (c : Fin 32) (hi : Bool) (s : State) : Host.Outcome State Fault Refusal :=
  lift (mPendRead c hi) s

/-- `BUFFER_REQUEST`: The allocator grants a buffer to the highest-ranked requester, and answers the others BUSY or NOBUF (R351). -/
def execBufferRequest (rs : List ReqId) (s : State) : Host.Outcome State Fault Refusal :=
  lift (mBufferRequest rs) s

/-- `POOL_ALLOC_READ`: A core's read of POOL.ALLOC returns a granted buffer address or 0 (R352). -/
def execPoolAllocRead (c : Fin 32) (s : State) : Host.Outcome State Fault Refusal :=
  lift (mPoolAllocRead c) s

/-- `RXQ_READ`: A read of RXQ pops the next cell of the reader's fold sub-queue (R347). -/
def execRxqRead (a : Agent) (u : FieldPort) (s : State) : Host.Outcome State Fault Refusal :=
  lift (mRxqRead a u) s

/-- `PARTNER_EV_READ`: A read of PTAB.Ff.EV0 or EV1 pops a partner record (R365). -/
def execPartnerEvRead (a : Agent) (f : Fin 8) (s : State) : Host.Outcome State Fault Refusal :=
  lift (mPartnerEvRead a f) s

/-- `AFE_FRAMEQ_READ`: A read of AFE.FRAMEQ pops one cell for the owning fold (R376). -/
def execAfeFrameqRead (a : Agent) (s : State) : Host.Outcome State Fault Refusal :=
  lift (mAfeFrameqRead a) s

/-- `GPIO_SNAPQ_READ`: A read of GPIO.SNAPQ pops one capture (R384). -/
def execGpioSnapqRead (a : Agent) (s : State) : Host.Outcome State Fault Refusal :=
  lift (mGpioSnapqRead a) s

end Sys2Proof.Machine
end

