-- ==== Sys2Proof/Machine/StoreBuf.lean ====
section
/-! DEFINITION. The store buffer's way out of a core, and the Drove spill engine (spec/05 R91, R95, R118, spec/07 R145, R146, spec/13 R280
to R285). -/
namespace Sys2Proof.Machine

/-! The store buffer. -/

/-- Marks the oldest entry that is not issued, and gives it. -/
def sbIssue (sb : List SbEntry) : Option (SbEntry × List SbEntry) :=
  match sb with
  | [] => none
  | e :: r => if e.issued then (sbIssue r).map fun x => (x.1, e :: x.2) else some (e, { e with issued := true } :: r)

/-- The oldest entry is placed on Mycelium when its target port grants it (R273, R280). -/
def mStoreIssue (c : Fin 32) (d : Dev) : Dev :=
  if !d.clocked then d else
  match sbIssue (d.core c.val).sb with
  | none => d
  | some (e, sb) =>
    let f := some (d.foldOfCore c.val)
    whenGranted d [targetPort e.addr] e.cls f (charge (d.updCore c.val fun k => { k.count 2 1 with sb := sb }) f 1 e.cls e.addr)

/-- What a refused entry leaves: discarded and counted where the core is fenced (R283), a posted error elsewhere (R282). -/
def sbRefused (d : Dev) (c : Nat) (e : SbEntry) : Dev :=
  if (d.unit (coreU c)).st == .fenced then d.updCore c fun k => { k with shedlost := satInc k.shedlost 15 }
  else
    let ecc := e.size < 4 && eccRegion (regionOf e.addr) && 2 ≤ eccOf d e.addr
    postError d c { pc := e.pc, addr := toWord e.addr, lvl := e.lvl, slot := e.slot, ecc := ecc }

/-- The entry a target may take: issued, and with no older entry for the same target port; between ports the order is open (R281). -/
def acceptable (l : List SbEntry) (n : Nat) : Option (SbEntry × List SbEntry) :=
  match l.drop n with
  | [] => none
  | e :: r => if e.issued && (l.take n).all fun o => targetPort o.addr != targetPort e.addr then some (e, l.take n ++ r) else none

/-- The target takes an issued entry, which leaves the buffer, or refuses it, being fenced or no memory to write (R282); drains that waited
for it go on (R280, R284). -/
def storeAccept (d : Dev) (c n : Nat) : Dev :=
  match acceptable (d.core c).sb n with
  | none => d
  | some (e, r) =>
    let d := d.updCore c fun k => { k with sb := r }
    let d :=
      if !isRegs e.addr && (memCheck d c .m 0 e.addr e.size .w).isSome then sbRefused d c e
      else
        match anyWrite d (coreReq d c e.priv) e.addr e.val e.size with
        | (d, .exc _) => sbRefused d c e
        | (d, _) => d
    stepProgress d

def mStoreAccept (e : StoreRef) (d : Dev) : Dev := if d.clocked then storeAccept d e.core.val e.entry.val else d

/-! The spill engine. -/

/-- Spills the first cell of the spare bank. -/
def spillSpare (c : Nat) : IM Unit := do
  let k ← getCore c
  match k.spare with
  | [] => pure ()
  | x :: r =>
    hwWrite true c k.sparePriv qualSpill x.1 x.2
    modCore c fun k => { k with spare := r }.count 4 1

/-- Fills the next return entry. -/
def fillRet (c : Nat) : IM Unit := do
  let b := (← getCore c).bank
  let v ← fillCell c (b.spr + toWord (4 * b.rets.length)).toNat
  modCore c fun k => let b := k.bank; k.setBank { b with rets := b.rets ++ [v] }

/-- A move of the engine: the core's own address of its cell, and what it does. -/
abbrev EngineMove := Nat × (Nat → IM Unit)

/-- The next cell the engine moves for the current bank, windows first: it spills more than six windows from seven on, more than 20 data
cells, more than 12 return entries, and fills fewer than 3 windows, 4 data cells, 2 return entries while more lie in memory. -/
def engineCurrent (k : Core) : Option EngineMove :=
  let b := k.bank
  let ret (i : Nat) : Nat := (b.spr + toWord (4 * i)).toNat
  if 76 < b.wn then some (b.winAddr (b.wn - 1), fun c => spillWin 1 c (b.wn - 1))
  else if b.wn < 40 && 4 * b.wn < (k.fbase - b.fp).toNat + 64 then some (b.winAddr b.wn, fun c => fillWin 1 c (b.wn + 1))
  else if 20 < b.data.length then some (b.cellAddr (b.data.length - 1), fun c => spillData 1 c (b.data.length - 1))
  else if b.data.length < 4 && b.data.length < k.depth false then some (b.cellAddr b.data.length, fun c => fillData 1 c (b.data.length + 1))
  else if 12 < b.rets.length then some (ret (b.rets.length - 1), fun c => spillRets 1 c (b.rets.length - 1))
  else if b.rets.length < 2 && b.rets.length < k.rdepthOf false then some (ret b.rets.length, fillRet)
  else none

/-- The engine's move for the spare bank: none while a cell of it was refused and the handler of that has not returned (R118). -/
def spareMove (k : Core) : Option EngineMove :=
  match k.spare with
  | [] => none
  | x :: _ => if k.parked.isSome then none else some (x.1, spillSpare)

/-- The engine's next move: the current bank before the spare one, unless a switch or an exception waits for the spare bank (R146,
R192). -/
def engineMove (k : Core) : Option EngineMove :=
  if k.held.isSome || (k.next.isSome && (spareMove k).isSome) then spareMove k
  else
    match (if k.slot.isSome then engineCurrent k else none) with
    | some f => some f
    | none => spareMove k

/-- A refused cell: an exception at the next boundary, the cell staying in its cache; a cell of the spare bank is tried again once the
handler has returned. A core without a task has no boundary, and the engine tries again (R118; log 108). -/
def spillRefused (d : Dev) (c : Nat) (x : Exc) : Dev :=
  if (d.unit (coreU c)).st == .idle then d
  else d.updCore c fun k =>
    let k := if k.held.isSome then k else k.hold ⟨x.cause, x.qual, x.addr⟩
    if (tfind k.spare x.addr.toNat).isSome then { k with parked := some k.gdep } else k

/-- The port of a cell, which own local memory needs not. -/
def enginePorts (c a : Nat) : List Nat :=
  let x := absAddr c a
  if ownLocal c x then [] else [targetPort x]

/-- The class of the engine's request, raised as it has waited (spec/13 R272, R273). -/
def spillClass (d : Dev) (c : Nat) : MClass := raisedBy (d.core c).spillProm .drove

/-- What a move of the engine leaves. -/
def spillDone (d : Dev) (c : Nat) (r : EStateM.Result Stop Dev Unit) : Dev :=
  match r with
  | .ok _ e => e.updCore c fun k => { k with spillProm := 0 }
  | .error (.exc x) _ => spillRefused d c x
  | .error _ _ => d

/-- One cell of the spill engine's work. -/
def mSpillCell (c : Fin 32) (d : Dev) : Dev :=
  if d.tether c.val || !coreMoves d c.val then d
  else
    match engineMove (d.core c.val) with
    | none => d
    | some (a, f) =>
      whenGranted d (enginePorts c.val a) (spillClass d c.val) (some (d.foldOfCore c.val)) (spillDone d c.val (f c.val d))

/-! The rows of the table. -/

/-- `SPILL_CELL`: The Drove spill engine spills or fills one cached cell in a free port cycle (R91). -/
def execSpillCell (c : Fin 32) (s : State) : Host.Outcome State Fault Refusal :=
  lift (mSpillCell c) s

/-- `STORE_ISSUE`: The oldest store-buffer entry is issued to Mycelium (R280). -/
def execStoreIssue (c : Fin 32) (s : State) : Host.Outcome State Fault Refusal :=
  lift (mStoreIssue c) s

/-- `STORE_ACCEPT`: A target accepts an issued store entry, which leaves the buffer (R280). -/
def execStoreAccept (e : StoreRef) (s : State) : Host.Outcome State Fault Refusal :=
  lift (mStoreAccept e) s

end Sys2Proof.Machine
end

