-- ==== Sys2Proof/Machine/Strings.lean ====
section
/-! DEFINITION. Block repeat and the string instructions (spec/05 R109 to R111, spec/06 R138). -/
namespace Sys2Proof.Machine

/-- RPT loads RC and arms the instruction that follows. -/
def bRpt : Insn := Insn.op 0x0A0 fun c => do
  extUse c
  stackOp 1 0 (fun k l => ({ k with rc := lget l 0 0, rpt := true }, [])) c

/-- The elements of a repeat, at most `n`; `ends` is the ending condition after an element. An exception or a wait after the first element
leaves RC, RS and RD at the element it met, with FLG.RPT set and the PC at the string instruction (R111). -/
def repeatElems (n : Nat) (first : Bool) (c : Nat) (elem : IM Unit) (ends : Core → Bool) : IM Unit := fun d =>
  let k := d.core c
  let stop (e : Dev) : Dev := e.updCore c fun _ => { k with pc := herePc k 1 }
  if k.rc == 0 then .ok () (d.updCore c fun k => { k with rpt := false })
  else
    match n with
    | 0 => .ok () (stop d)
    | n + 1 =>
      match elem d with
      | .ok _ e =>
        let j := e.core c
        let rc := j.rc - 1
        if rc == 0 || ends j then .ok () (e.updCore c fun j => { j with rc := rc, rpt := false })
        else repeatElems n false c elem ends (e.updCore c fun j => { j with rc := rc })
      | .error (.exc x) e => if first then .error (.exc x) e else .error (.excKeep x) (e.setCore c k)
      | .error .stall e => if first then .error .stall e else .ok () (stop d)
      | .error s e => .error s e

/-- A string instruction: once without RPT, else its repeat; `m` bounds the elements that execute before the boundary at which the core
takes up something else. -/
def stringRun (elem : Nat → IM Unit) (ends : Core → Bool) (m : Option Nat) (c : Nat) : IM Unit := do
  extUse c
  let k ← getCore c
  if k.rpt then repeatElems (m.getD k.rc.toNat) true c (elem c) ends else elem c

/-- A string instruction by its OPC10. -/
def stringOp (opc : Nat) (m : Option Nat) (elem : Nat → IM Unit) (ends : Core → Bool) : Insn :=
  { syl := [BitVec.ofNat 16 opc], str := true, ld := false, cyc := 0, run := stringRun elem ends m }

/-- The address after an element. -/
def advance (a : Word) (z : ESize) : Word := a + toWord (esize z)

/-- An element of MOVS. -/
def movsElem (z : ESize) (c : Nat) : IM Unit := do
  let k ← getCore c
  checkBoth c k.rs k.rd (esize z) .r .w
  let v ← readNow c k.rs (esize z)
  storeNow c (herePc k 1) k.rd (esize z) v
  modCore c fun k => { k with rs := advance k.rs z, rd := advance k.rd z, cyc := k.cyc + 2 }

/-- An element of FILLS; x stays on the stack. -/
def fillsElem (z : ESize) (c : Nat) : IM Unit := do
  prepare c 1 1
  let k ← getCore c
  checkAccess c k.rd (esize z) .w
  storeNow c (herePc k 1) k.rd (esize z) (lget k.view 0 0)
  modCore c fun k => { k with rd := advance k.rd z, cyc := k.cyc + 1 }

/-- An element of CMPS: the flags of [RS] − [RD], zero-extended. -/
def cmpsElem (z : ESize) (c : Nat) : IM Unit := do
  let k ← getCore c
  checkBoth c k.rs k.rd (esize z) .r .r
  let a ← readNow c k.rs (esize z)
  let b ← readNow c k.rd (esize z)
  modCore c fun k =>
    { k.setFlags (subFlags a b true).2 with rs := advance k.rs z, rd := advance k.rd z, cyc := k.cyc + 2 }

/-- An element of SCANS: the flags of [RS] − x truncated; x stays on the stack. -/
def scansElem (z : ESize) (c : Nat) : IM Unit := do
  prepare c 1 1
  let k ← getCore c
  checkAccess c k.rs (esize z) .r
  let a ← readNow c k.rs (esize z)
  modCore c fun k =>
    { k.setFlags (subFlags a (extendCell (esize z) false (lget k.view 0 0)) true).2 with rs := advance k.rs z, cyc := k.cyc + 1 }

/-- An element of CRCS or PARS: a byte at RS into CACC. -/
def accElem (f : Word → Word → Word → Word) (c : Nat) : IM Unit := do
  let k ← getCore c
  checkAccess c k.rs 1 .r
  let v ← readNow c k.rs 1
  modCore c fun k => { ({ k with cacc := f k.cpoly k.cacc v } : Core).zCacc with rs := k.rs + 1, cyc := k.cyc + 1 }

/-- No ending condition but RC. -/
def never (_ : Core) : Bool := false

def bMovs (z : ESize) (m : Option Nat) : Insn := stringOp (0x0A1 + esizeCode z) m (movsElem z) never
def bFills (z : ESize) (m : Option Nat) : Insn := stringOp (0x0A4 + esizeCode z) m (fillsElem z) never
def bCmps (z : ESize) (m : Option Nat) : Insn := stringOp (0x0A7 + esizeCode z) m (cmpsElem z) fun k => !k.z
def bScans (z : ESize) (m : Option Nat) : Insn := stringOp (0x0AA + esizeCode z) m (scansElem z) fun k => k.z
def bCrcs (m : Option Nat) : Insn := stringOp 0x0AD m (accElem crcByte) never
def bPars (m : Option Nat) : Insn := stringOp 0x0AE m (accElem fun _ a v => a ^^^ v) never

/-! The rows of the table. -/

/-- `RPT`: RPT loads RC and repeats the following string instruction (R109). -/
def execRpt (c : Fin 32) (k : Cond) (s : State) : Host.Outcome State Fault Refusal :=
  lift (runInstr c.val k (bRpt)) s

/-- `MOVS`: MOVS copies elements from RS to RD (R138). -/
def execMovs (c : Fin 32) (k : Cond) (z : ESize) (m : Option Nat) (s : State) : Host.Outcome State Fault Refusal :=
  lift (runInstr c.val k (bMovs z m)) s

/-- `FILLS`: FILLS fills elements at RD (R138). -/
def execFills (c : Fin 32) (k : Cond) (z : ESize) (m : Option Nat) (s : State) : Host.Outcome State Fault Refusal :=
  lift (runInstr c.val k (bFills z m)) s

/-- `CMPS`: CMPS compares elements at RS and RD, ending on a difference (R138). -/
def execCmps (c : Fin 32) (k : Cond) (z : ESize) (m : Option Nat) (s : State) : Host.Outcome State Fault Refusal :=
  lift (runInstr c.val k (bCmps z m)) s

/-- `SCANS`: SCANS scans RS for a value (R138). -/
def execScans (c : Fin 32) (k : Cond) (z : ESize) (m : Option Nat) (s : State) : Host.Outcome State Fault Refusal :=
  lift (runInstr c.val k (bScans z m)) s

/-- `CRCS`: CRCS feeds bytes at RS into CACC (R138). -/
def execCrcs (c : Fin 32) (k : Cond) (m : Option Nat) (s : State) : Host.Outcome State Fault Refusal :=
  lift (runInstr c.val k (bCrcs m)) s

/-- `PARS`: PARS XORs bytes at RS into CACC (R138). -/
def execPars (c : Fin 32) (k : Cond) (m : Option Nat) (s : State) : Host.Outcome State Fault Refusal :=
  lift (runInstr c.val k (bPars m)) s

end Sys2Proof.Machine
end

