-- ==== Sys2Proof/Machine/Switch.lean ====
section
/-! DEFINITION. The Drove task switch (spec/07 R145 to R148, R159, spec/10 R217 to R221, R229, spec/15 R332). -/
namespace Sys2Proof.Machine

/-- The privilege a block restores: K and M only for a task of fold 0 (R148). -/
def blockPriv (fold : Nat) (flg : Word) : Priv :=
  let p := privOf (fld flg 12 2)
  if fold != 0 && (p == .k || p == .m) then .f else p

/-- The tile context address of a block is usable: not enabled, or aligned, in its region and under the fold's windows (spec/15 R332). -/
def tctxOk (d : Dev) (c : Nat) (v : Word) : Bool :=
  !bitOf v 0 || !unitPresent d.variant (tileU (penOf c)) ||
  (fld v 1 9 == 0 && areaOk d (d.foldOfCore c) (v &&& 0xFFFFFC00).toNat 0x2000)

/-- The caches become the spare bank and the registers of an incoming block take effect (R145, R148). -/
def Core.restoreBlock (k : Core) (t : NextTask) (fold : Nat) (tile : Bool) (l : List Word) : Core :=
  let v (i : Nat) : Word := lget l 0 i
  let k := { k.exchange with delay := [], gates := [] }
  let k := k.setZncv (v 1)
  let k := k.setBank { Bank.empty with spd := v 2, spr := v 3, fp := v 4, wn := 0, tflg := if tile then v 16 else 0 }
  { k with pc := v 0 &&& 0xFFFFFFFE, rpt := bitOf (v 1) 4, rptSquash := false, priv := blockPriv fold (v 1), gp := v 5, tp := v 6,
           dbase := v 7, rbase := v 8, prod := (v 10).setWidth 64 <<< 32 ||| (v 9).setWidth 64, mulPipe := [], rc := v 11, rs := v 12,
           rd := v 13, cacc := v 14, cpoly := v 15, tctx := v 17, fbase := v 18, slot := some t.slot, tsbr := t.tsb &&& 0xFFFFFF80,
           next := none, preempt := none, waiting := false, slotTicks := 0, cyc := k.cyc + 24 }

/-- The reason with which the running task gives up its core: its own where it gives it up, else that of the dispatch (R147, R217, R219). -/
def switchReason (d : Dev) (c : Nat) (t : NextTask) : Nat :=
  match (d.core c).slot with
  | some s =>
    if (slotOf (d.pen (penOf c)) s).stop then 1
    else if (d.core c).waiting && (d.core c).preempt == some 0 then 0 else t.reason
  | none => t.reason

/-- The outgoing task leaves its slot: stopped tasks leave it invalid, a waiting task is ready if it was woken meanwhile, any other is
ready (spec/10 R217, R218, R221). -/
def leaveSlot (d : Dev) (p s reason : Nat) : Dev :=
  let x := slotOf (d.pen p) s
  let d := slotRelease d p s (if reason == 0 then x.woke || x.ready else !x.stop)
  if x.stop then updSlot d p s fun x => { x with valid := false, stop := false, ready := false } else d

/-- The save step: the windows' cells, then the block; nothing where no task runs. -/
def switchSave (c reason : Nat) : IM Unit := do
  fixWindows 100 c
  if (← getCore c).slot.isSome then saveBlock c reason else pure ()

/-- The restore step: the 20 cells, with the tile context address checked. -/
def switchRestore (c : Nat) (t : NextTask) : IM (List Word) := do
  let l ← readCells c .f qualTsb t.tsb.toNat 20
  if tctxOk (← get) c (lget l 0 17) then return l else raiseAt 0x08 qualTsb (t.tsb.toNat + 0x44)

/-- A refused restore: the outgoing task goes on, the incoming slot is faulted, and the Bellwether records it (R159). -/
def restoreRefused (d : Dev) (c : Nat) (t : NextTask) (x : Exc) : Dev :=
  let p := penOf c
  let d := d.updCore c fun k => { k with next := none }
  let d := slotFault (slotRelease d p t.slot false) p t.slot "restore"
  bwRecord d 6 (coreU c) x.cause (toWord t.slot) 0 x.addr

/-- The commit of a switch. -/
def switchCommit (d : Dev) (c : Nat) (t : NextTask) (reason : Nat) (l : List Word) : Dev :=
  let p := penOf c
  let d := match (d.core c).slot with
    | some s => leaveSlot d p s reason
    | none => d
  let tile := unitPresent d.variant (tileU p)
  let f := d.foldOfCore c
  let d := d.updCore c fun k => (k.restoreBlock t f tile l).count 4 20
  tileChange (hwMove d (coreU c) .active) c t.slot (ownerArea d c 0)

/-- A switch that a fence cuts after its save: the core runs no task, and the incoming slot stays ready with its reservation returned (R158). -/
def switchCut (d : Dev) (c : Nat) (t : NextTask) (reason : Nat) : Dev :=
  let p := penOf c
  let d := match (d.core c).slot with
    | some s => leaveSlot (dropTask d c) p s reason
    | none => d
  slotRelease (d.updCore c fun k => { k with next := none }) p t.slot true

/-- The switch to a dispatched slot; `cut` says that a fence arrives between its save and its restore. -/
def switchTo (d : Dev) (c : Nat) (t : NextTask) (cut : Bool) : Dev :=
  let d := tileCutoff d c
  let reason := switchReason d c t
  match switchSave c reason d with
  | .error (.exc x) e => e.setCore c ((d.core c).hold ⟨x.cause, qualTsb, x.addr⟩)
  | .error _ _ => d
  | .ok _ e =>
    if cut then switchCut e c t reason
    else match switchRestore c t e with
    | .error (.exc x) g => restoreRefused (g.setCore c (e.core c)) c t x
    | .error _ _ => d
    | .ok l g => switchCommit g c t reason l

/-- Whether a Drove core can switch: on and clocked, waiting for a dispatch or at a boundary with no exception due. -/
def canSwitch (d : Dev) (c : Nat) : Bool :=
  let r := d.unit (coreU c)
  (r.st == .active || (r.st == .idle && (d.core c).slot.isNone)) && !r.resetting && d.coresClocked && !coreHeld d c &&
  (d.pen (penOf c)).pers == some false && switchDue d c && !excDue d c

/-- The task gives up its core with no slot dispatched: it is saved, and the core waits in IDLE (R160, R217, R219, R221; log 53). -/
def giveUp (d : Dev) (c s reason : Nat) : Dev :=
  let d := tileCutoff d c
  match switchSave c reason d with
  | .error (.exc x) e => e.setCore c ((d.core c).hold ⟨x.cause, qualTsb, x.addr⟩)
  | .error _ _ => d
  | .ok _ e => leaveSlot (dropTask e c) (penOf c) s reason

def mTaskSwitch (t : SwitchOf) (d : Dev) : Dev :=
  let c := t.core.val
  if canSwitch d c then
    match (d.core c).next, (d.core c).slot, givesUp d c with
    | some n, _, _ => switchTo d c n t.cut
    | none, some s, some r => giveUp d c s r
    | _, _, _ => d
  else d

/-! The rows of the table. -/

/-- `TASK_SWITCH`: Once the spare bank is empty, a Drove core saves the outgoing block, exchanges banks and restores the incoming block (R147). -/
def execTaskSwitch (t : SwitchOf) (s : State) : Host.Outcome State Fault Refusal :=
  lift (mTaskSwitch t) s

end Sys2Proof.Machine
end

