-- ==== Sys2Proof/Machine/TileExec.lean ====
section
/-! DEFINITION. The tile instructions and the commit of an operation (spec/06 R139, spec/15 R318 to R331, R339). -/
namespace Sys2Proof.Machine

/-! Memory operands (R328). -/

/-- The operations with an address on the stack: TLD, TST, TLERP. -/
def tileMem (op : Nat) : Bool := op == 1 || op == 2 || op == 11

/-- The start of row `r` of a memory operand, as the core's own address. -/
def rowAddr (e : Word) (addr r : Nat) : Nat := addr + r * (extBytes e + 4 * extAux e)

/-- Whether a region is one no tile operand may touch. -/
def tileDenied (a : Nat) : Bool :=
  match regionOf a with
  | .periph | .penReg _ | .penCs _ | .golden | .machine => true
  | _ => false

/-- The exception of one cell of a memory operand: 0x08 and 0x0D before the first access; `bus` adds 0x09. -/
def tileCell (d : Dev) (c : Nat) (p : Priv) (a : Nat) (k : Acc) (bus : Bool) : Option Byte :=
  let x := absAddr c a
  if tileDenied x then some 0x08
  else
    match memCheck d c p (d.foldOfCore c) x 4 k with
    | some e => if e == 0x09 && !bus then none else some e
    | none => none

/-- The first failure among cells. -/
def cellsBad (d : Dev) (c : Nat) (p : Priv) (k : Acc) (bus : Bool) (l : List Nat) : Option (Byte × Nat) :=
  l.findSome? fun a => (tileCell d c p a k bus).map fun e => (e, a)

/-- The addresses of the cells of a row. -/
def rowCells (e : Word) (addr r : Nat) : List Nat := (List.range (extBytes e / 4)).map fun j => rowAddr e addr r + 4 * j

/-- The failure of the whole range of an operand, if any; of TLERP its header cell. -/
def operandBad (d : Dev) (c : Nat) (p : Priv) (op : Nat) (e : Word) (addr : Nat) : Option (Byte × Nat) :=
  match op with
  | 1 => cellsBad d c p .r false ((List.range (extRows e)).flatMap (rowCells e addr))
  | 2 => cellsBad d c p .w false ((List.range (extRows e)).flatMap (rowCells e addr))
  | 11 => cellsBad d c p .r false [addr]
  | _ => none

/-- Charges a run of bytes. -/
def tileCharge (d : Dev) (c a n : Nat) : Dev :=
  charge d (some (d.foldOfCore c)) ((a + n - 1) / 16 - a / 16 + 1) (engineClass d (penOf c)) (absAddr c a)

/-- A failure of an operation: cause, qualifier, address. -/
abbrev TileErr := Byte × Byte × Nat

/-- Reads cells, each checked at issue. -/
def tileReadCells (d : Dev) (c : Nat) (p : Priv) (l : List Nat) : Dev × Except TileErr (List Word) :=
  match l with
  | [] => (d, .ok [])
  | a :: r =>
    match tileCell d c p a .r true with
    | some e => (d, .error (e, 0, a))
    | none =>
      match memRead d (absAddr c a) 4 ("tile" ++ toString (penOf c)) (tileU (penOf c)) with
      | (d, none) => (d, .error (0x09, qualEcc, a))
      | (d, some v) =>
        match tileReadCells d c p r with
        | (d, .ok w) => (d, .ok (v :: w))
        | x => x

/-- Writes cells, each checked at issue. -/
def tileWriteCells (d : Dev) (c : Nat) (p : Priv) (l : List (Nat × Word)) : Dev × Option TileErr :=
  match l with
  | [] => (d, none)
  | x :: r =>
    match tileCell d c p x.1 .w true with
    | some e => (d, some (e, 0, x.1))
    | none => tileWriteCells (memWrite d (absAddr c x.1) x.2 4 ("tile" ++ toString (penOf c)) (tileU (penOf c))).1 c p r

/-! Issue (R318, R320, R330). -/

/-- The core waits for the engine; the PC stays at the instruction. -/
def tileWaitSet (c : Nat) (words : List Half) (op : Nat) (e addr : Word) : IM Unit := do
  let d ← get
  let p := penOf c
  let queued := (d.pen p).te.op.isSome
  modCore c fun k =>
    let here := herePc k 3
    { k with pc := here,
             tileWait := some { op := op, ext := e, addr := addr, priv := k.priv, pc := here, next := k.pc, syl := words } }
  modify fun d => tileTake (if queued then updTile d p fun te =>
    let s := lget te.perCore (0, 0, 0) (c % 4)
    { te with perCore := lset te.perCore (c % 4) (s.1 + 1, s.2) } else d) p

/-- A tile instruction up to its wait. -/
def tileRun (words : List Half) (op : Nat) (e : Word) (c : Nat) : IM Unit := do
  let d ← get
  let p := penOf c
  need (unitPresent d.variant (tileU p)) 0x0D
  prepare c (if tileMem op then 1 else 0) 0
  if shapeBad op e then throw (.exc { Exc.of 0x0B with detail := e })
  let d ← get
  let k := d.core c
  let addr := if tileMem op then lget k.view 0 0 else 0
  if addr.toNat % 4 != 0 then raiseAt 0x07 0 addr.toNat
  match operandBad d c k.priv op e addr.toNat with
  | some (x, a) => raiseAt x 0 a
  | none =>
    let st := (d.unit (tileU p)).st
    if st == .off || st == .fenced then raiseAt 0x09 0 (tileBase p)
    tileWaitSet c words op e addr

/-- A tile instruction. -/
def tileOp (q : Cond) (op : Nat) (e : Word) : Insn :=
  let i : Insn := { syl := extSyl 5 op e, str := false, ld := false, cyc := 0, run := fun _ => pure () }
  { i with run := tileRun (i.words q) op e }

def qTzero (q : Cond) (e : Word) : Insn := tileOp q 0 e
def qTld (q : Cond) (e : Word) : Insn := tileOp q 1 e
def qTstTile (q : Cond) (e : Word) : Insn := tileOp q 2 e
def qTadd (q : Cond) (e : Word) : Insn := tileOp q 3 e
def qTsub (q : Cond) (e : Word) : Insn := tileOp q 4 e
def qTmul (q : Cond) (e : Word) : Insn := tileOp q 5 e
def qTmin (q : Cond) (e : Word) : Insn := tileOp q 6 e
def qTmax (q : Cond) (e : Word) : Insn := tileOp q 7 e
def qTmac (q : Cond) (e : Word) : Insn := tileOp q 8 e
def qTsumr (q : Cond) (e : Word) : Insn := tileOp q 9 e
def qTcvt (q : Cond) (e : Word) : Insn := tileOp q 10 e
def qTlerp (q : Cond) (e : Word) : Insn := tileOp q 11 e

/-! The operation (R321 to R328). -/

/-- The bytes of a cell at an offset. -/
def cellBytes (off : Nat) (v : Word) : List (Nat × Byte) := leWrite off 4 v.toNat

/-- TLD: the rows of the operand. -/
def tldRun (d : Dev) (c : Nat) (o : TileOp) : Dev × Except TileErr TileRes :=
  let rows := List.range (extRows o.ext)
  let cells := rows.flatMap (rowCells o.ext o.addr.toNat)
  let d := rows.foldl (fun d r => tileCharge d c (rowAddr o.ext o.addr.toNat r) (extBytes o.ext)) d
  match tileReadCells d c o.priv cells with
  | (d, .error x) => (d, .error x)
  | (d, .ok l) =>
    let n := extBytes o.ext / 4
    (d, .ok ((l.zipIdx.flatMap fun x => cellBytes (elemAt (extTd o.ext) (x.2 / n) (x.2 % n) 4) x.1), 0))

/-- TST: the rows of TA go to memory before the commit. -/
def tstRun (d : Dev) (c : Nat) (o : TileOp) (rd : Nat → Byte) : Dev × Except TileErr TileRes :=
  let rows := List.range (extRows o.ext)
  let cells := rows.flatMap fun r => (rowCells o.ext o.addr.toNat r).zipIdx.map fun x =>
    (x.1, toWord (leRead rd (elemAt (extTa o.ext) r x.2 4) 4))
  let d := rows.foldl (fun d r => tileCharge d c (rowAddr o.ext o.addr.toNat r) (extBytes o.ext)) d
  match tileWriteCells d c o.priv cells with
  | (d, some x) => (d, .error x)
  | (d, none) => (d, .ok ([], 0))

/-- TLERP: the header, then the rest of the table, then the axes. -/
def tlerpRun (d : Dev) (c : Nat) (o : TileOp) (rd : Nat → Byte) : Dev × Except TileErr TileRes :=
  let a := o.addr.toNat
  match tileReadCells (tileCharge d c a 4) c o.priv [a] with
  | (d, .error x) => (d, .error x)
  | (d, .ok h) =>
    match lerpDims (lget h 0 0).toNat with
    | none => (d, .error (0x0B, 0, 0))
    | some (nx, ny) =>
      let n := nx + ny + nx * ny
      let cells := (List.range n).map fun i => a + 4 * (1 + i)
      match cellsBad d c o.priv .r false cells with
      | some (e, x) => (d, .error (e, 0, x))
      | none =>
        match tileReadCells (tileCharge d c (a + 4) (4 * n)) c o.priv cells with
        | (d, .error x) => (d, .error x)
        | (d, .ok l) =>
          let l := l.map (·.toNat)
          if axisOk (l.take nx) && axisOk ((l.drop nx).take ny) then (d, .ok (tileLerp o.ext rd nx ny l))
          else (d, .error (0x0B, 0, 0))

/-- The staged result of an operation, its flags, or its failure. -/
def tileResult (d : Dev) (c : Nat) (o : TileOp) (rd : Nat → Byte) : Dev × Except TileErr TileRes :=
  match operandBad d c o.priv o.op o.ext o.addr.toNat with
  | some (e, a) => (d, .error (e, 0, a))
  | none =>
    match o.op with
    | 1 => tldRun d c o
    | 2 => tstRun d c o rd
    | 11 => tlerpRun d c o rd
    | _ => (d, .ok (tileCompute o.op o.ext rd))

/-! The commit (R329, R331). -/

/-- The engine is free and takes the next core. -/
def tileNext (d : Dev) (p : Nat) : Dev := stepProgress (tileTake d p)

/-- The engine lets its core go. -/
def tileRelease (d : Dev) (p c : Nat) : Dev :=
  (updTile d p fun te => { te with op := none }).updCore c fun k => { k.waited with tileWait := none }

/-- The operation raises an exception at its instruction. -/
def tileExc (d : Dev) (p c : Nat) (w : TileWait) (x : Exc) : Dev :=
  let d := tileRelease d p c
  tileNext (takeExc d c x w.pc w.pc w.syl ((d.core c).slot.getD 0)) p

/-- TFLG after the commit of an operation that raised `raised`. -/
def tflgCommit (v : Word) (fp : Bool) (raised : Nat) : Word :=
  let keep := v &&& 0x1F1F
  if fp then keep ||| toWord (raised + put raised 16) else keep

/-- TFLG after a trap. -/
def tflgTrap (v : Word) (raised : Nat) : Word := (v &&& 0x1F1F) ||| toWord (put raised 16 + put 1 24)

/-- A trap: nothing is committed, TFLG records it, 0x0C is raised (R331). -/
def tileTrap (d : Dev) (p c : Nat) (w : TileWait) (raised : Nat) : Dev :=
  let v := tflgTrap (d.core c).bank.tflg raised
  let i := c % 4
  let d := d.updCore c fun k => let b := k.bank; k.setBank { b with tflg := v }
  let d := updTile d p fun te =>
    let s := lget te.perCore (0, 0, 0) i
    { te with traps := satInc te.traps 0xFFFF, perCore := lset te.perCore i (s.1, s.2.1, s.2.2 ||| toWord raised) }
  let d := if (d.pen p).te.trapEv.getLsbD i then fireSource d (341 + 2 * p) else d
  tileExc d p c w { Exc.of 0x0C with detail := v }

/-- The commit itself. -/
def tileDone (d : Dev) (p c : Nat) (o : TileOp) (w : TileWait) (r : TileRes) : Dev :=
  let i := c % 4
  let t := d.tether c
  let d := updCtx d p i fun x => { x with bytes := r.1.foldl (fun b y => tset b 0 y.1 y.2) x.bytes }
  let d := tileRelease d p c
  let k := d.core c
  let k := if tileMem o.op then (k.popCells t 1).1 else k
  let b := k.bank
  let k := { k.setBank { b with tflg := tflgCommit b.tflg (opFp o.op o.ext) r.2 } with
    pc := w.next, cyc := k.cyc + (if o.op == 2 then 1 else extRows o.ext + 1) }
  let d := updTile (d.setCore c k) p fun te => { te with commits := te.commits + 1, prom := 0 }
  let d := if (d.pen p).te.doneEv.getLsbD i then fireSource d (340 + 2 * p) else d
  tileNext d p

/-- An operation completes: a parity error fences the engine, a failure or a trap raises its exception, else the result commits. A memory
operation waits for the core's store buffer to be empty, an exception in Drove for the spare bank. -/
def tileCommit (d : Dev) (p : Nat) (o : TileOp) : Dev :=
  let c := 4 * p + o.core
  match (d.core c).tileWait with
  | none => d
  | some w =>
    if tileMem o.op && !(d.core c).sb.isEmpty then d
    else if (d.pen p).te.injParity then
      let d := updTile { d with free := d.free + 1 } p fun te => { te with injParity := false }
      tileFail d p o.core "parity" (toWord (ctxBase p o.core + (Config.freeCell (d.free - 1)).toNat % 0x800 * 4))
    else
      let rd (a : Nat) : Byte := tget (tileCtx d p o.core).bytes 0 a
      let r := tileResult d c o rd
      match r.2 with
      | .error (e, q, a) =>
        if spareBusy d c then d
        else tileExc r.1 p c w { Exc.of e with qual := q, addr := toWord a, detail := if e == 0x0B then o.ext else 0 }
      | .ok v =>
        if opFp o.op o.ext && (fld (d.core c).bank.tflg 8 5) &&& v.2 != 0 then
          if spareBusy d c then d else tileTrap r.1 p c w v.2
        else tileDone r.1 p c o w v

/-- The ports of a memory operation's first cells in each row. -/
def tilePorts (p : Nat) (o : TileOp) : List Nat :=
  let c := 4 * p + o.core
  let l := ((List.range (if tileMem o.op then extRows o.ext else 0)).map fun r => absAddr c (rowAddr o.ext o.addr.toNat r)).filter
    fun a => !(ownLocal c a)
  l.map targetPort

/-- The operation commits where the ports grant the engine (spec/13 R273). -/
def mTileCommit (t : Fin 8) (d : Dev) : Dev :=
  match (d.pen t.val).te.op with
  | some o => if teLive d t.val then whenGranted d (tilePorts t.val o) (engineClass d t.val) (some (d.pen t.val).fold) (tileCommit d t.val o) else d
  | none => d

/-! The rows of the table. -/

/-- `TZERO`: TZERO zeroes the shaped region of TD (R321). -/
def execTzero (c : Fin 32) (k : Cond) (e : Word) (s : State) : Host.Outcome State Fault Refusal :=
  lift (runInstr c.val k (qTzero k e)) s

/-- `TLD`: TLD loads rows from memory into TD (R321). -/
def execTld (c : Fin 32) (k : Cond) (e : Word) (s : State) : Host.Outcome State Fault Refusal :=
  lift (runInstr c.val k (qTld k e)) s

/-- `TST_TILE`: The tile instruction TST stores rows of TA to memory (R321). -/
def execTstTile (c : Fin 32) (k : Cond) (e : Word) (s : State) : Host.Outcome State Fault Refusal :=
  lift (runInstr c.val k (qTstTile k e)) s

/-- `TADD`: TADD adds tiles elementwise (R321). -/
def execTadd (c : Fin 32) (k : Cond) (e : Word) (s : State) : Host.Outcome State Fault Refusal :=
  lift (runInstr c.val k (qTadd k e)) s

/-- `TSUB`: TSUB subtracts tiles elementwise (R321). -/
def execTsub (c : Fin 32) (k : Cond) (e : Word) (s : State) : Host.Outcome State Fault Refusal :=
  lift (runInstr c.val k (qTsub k e)) s

/-- `TMUL`: TMUL multiplies tiles elementwise (R321). -/
def execTmul (c : Fin 32) (k : Cond) (e : Word) (s : State) : Host.Outcome State Fault Refusal :=
  lift (runInstr c.val k (qTmul k e)) s

/-- `TMIN`: TMIN takes the elementwise minimum (R321). -/
def execTmin (c : Fin 32) (k : Cond) (e : Word) (s : State) : Host.Outcome State Fault Refusal :=
  lift (runInstr c.val k (qTmin k e)) s

/-- `TMAX`: TMAX takes the elementwise maximum (R321). -/
def execTmax (c : Fin 32) (k : Cond) (e : Word) (s : State) : Host.Outcome State Fault Refusal :=
  lift (runInstr c.val k (qTmax k e)) s

/-- `TMAC`: TMAC accumulates a matrix product into TD (R324). -/
def execTmac (c : Fin 32) (k : Cond) (e : Word) (s : State) : Host.Outcome State Fault Refusal :=
  lift (runInstr c.val k (qTmac k e)) s

/-- `TSUMR`: TSUMR sums each row (R325). -/
def execTsumr (c : Fin 32) (k : Cond) (e : Word) (s : State) : Host.Outcome State Fault Refusal :=
  lift (runInstr c.val k (qTsumr k e)) s

/-- `TCVT`: TCVT converts elements between types (R326). -/
def execTcvt (c : Fin 32) (k : Cond) (e : Word) (s : State) : Host.Outcome State Fault Refusal :=
  lift (runInstr c.val k (qTcvt k e)) s

/-- `TLERP`: TLERP interpolates a two-axis table for each element (R327). -/
def execTlerp (c : Fin 32) (k : Cond) (e : Word) (s : State) : Host.Outcome State Fault Refusal :=
  lift (runInstr c.val k (qTlerp k e)) s

/-- `TILE_COMMIT`: A completed tile operation commits its staged result, pops addr and updates TFLG in one uninterruptible step (R329). -/
def execTileCommit (t : Fin 8) (s : State) : Host.Outcome State Fault Refusal :=
  lift (mTileCommit t) s

end Sys2Proof.Machine
end

