-- ==== Sys2Proof/Machine/Dispatch.lean ====
section
/-! DEFINITION. The effect of each command: one arm per row of spec/opcode_table.json, one call of its meaning. -/
namespace Sys2Proof.Machine

/-- The effect of command `i` on everything but the queue (spec/95, R1 onward). -/
def exec (i : Instr) (s : State) : Host.Outcome State Fault Refusal :=
  match i with
  | .powerOnReset up => Sys2Proof.Machine.execPowerOnReset up s
  | .brownOutReset vin => Sys2Proof.Machine.execBrownOutReset vin s
  | .overVoltageReset vin => Sys2Proof.Machine.execOverVoltageReset vin s
  | .overTemperatureReset k tj => Sys2Proof.Machine.execOverTemperatureReset k tj s
  | .pinReset => Sys2Proof.Machine.execPinReset s
  | .resetRelease vin tj pll => Sys2Proof.Machine.execResetRelease vin tj pll s
  | .shedStepApply n cause vin => Sys2Proof.Machine.execShedStepApply n cause vin s
  | .tileCommitWindowExpiry => Sys2Proof.Machine.execTileCommitWindowExpiry s
  | .shedDrainTimeout => Sys2Proof.Machine.execShedDrainTimeout s
  | .s5SaveCopy => Sys2Proof.Machine.execS5SaveCopy s
  | .restoreEligible n vin tj => Sys2Proof.Machine.execRestoreEligible n vin tj s
  | .thermWarn k tj => Sys2Proof.Machine.execThermWarn k tj s
  | .thermTrip k tj => Sys2Proof.Machine.execThermTrip k tj s
  | .clkFail refLost => Sys2Proof.Machine.execClkFail refLost s
  | .pllRelock => Sys2Proof.Machine.execPllRelock s
  | .lineBreak p => Sys2Proof.Machine.execLineBreak p s
  | .rtcSecondTick => Sys2Proof.Machine.execRtcSecondTick s
  | .wakeFromIdle w => Sys2Proof.Machine.execWakeFromIdle w s
  | .wakeFromRetain w pll => Sys2Proof.Machine.execWakeFromRetain w pll s
  | .wakeFromSpore w => Sys2Proof.Machine.execWakeFromSpore w s
  | .powerDrainComplete => Sys2Proof.Machine.execPowerDrainComplete s
  | .powerDrainTimeout => Sys2Proof.Machine.execPowerDrainTimeout s
  | .powerStateEntryComplete => Sys2Proof.Machine.execPowerStateEntryComplete s
  | .pmuCmdRun a g => Sys2Proof.Machine.execPmuCmdRun a g s
  | .pmuCmdSlow a g => Sys2Proof.Machine.execPmuCmdSlow a g s
  | .pmuCmdIdle a g => Sys2Proof.Machine.execPmuCmdIdle a g s
  | .pmuCmdRetain a g => Sys2Proof.Machine.execPmuCmdRetain a g s
  | .pmuCmdSpore a g => Sys2Proof.Machine.execPmuCmdSpore a g s
  | .pmuCmdOff a g => Sys2Proof.Machine.execPmuCmdOff a g s
  | .pmuWakeWrite a v => Sys2Proof.Machine.execPmuWakeWrite a v s
  | .pmuRestoreWrite a v => Sys2Proof.Machine.execPmuRestoreWrite a v s
  | .lwatchWrite a v => Sys2Proof.Machine.execLwatchWrite a v s
  | .keepafeWrite a v => Sys2Proof.Machine.execKeepafeWrite a v s
  | .keepportWrite a v => Sys2Proof.Machine.execKeepportWrite a v s
  | .keepdmaWrite a hi v => Sys2Proof.Machine.execKeepdmaWrite a hi v s
  | .s5RegionWrite a len v => Sys2Proof.Machine.execS5RegionWrite a len v s
  | .pwr o => Sys2Proof.Machine.execPwr o s
  | .pwrRun o => Sys2Proof.Machine.execPwrRun o s
  | .pwrSlow o => Sys2Proof.Machine.execPwrSlow o s
  | .pwrIdle o => Sys2Proof.Machine.execPwrIdle o s
  | .pwrRetain o => Sys2Proof.Machine.execPwrRetain o s
  | .pwrSpore o => Sys2Proof.Machine.execPwrSpore o s
  | .pwrOff o => Sys2Proof.Machine.execPwrOff o s
  | .pwrWake o t => Sys2Proof.Machine.execPwrWake o t s
  | .pwrArm o ws => Sys2Proof.Machine.execPwrArm o ws s
  | .pwrDisarm o ws => Sys2Proof.Machine.execPwrDisarm o ws s
  | .pwrRestore o n => Sys2Proof.Machine.execPwrRestore o n s
  | .shed o => Sys2Proof.Machine.execShed o s
  | .shedLastwatch o p => Sys2Proof.Machine.execShedLastwatch o p s
  | .shedKeep o w ns => Sys2Proof.Machine.execShedKeep o w ns s
  | .shedSave o r => Sys2Proof.Machine.execShedSave o r s
  | .clk o => Sys2Proof.Machine.execClk o s
  | .therm o => Sys2Proof.Machine.execTherm o s
  | .rtc o => Sys2Proof.Machine.execRtc o s
  | .rtcSet o n => Sys2Proof.Machine.execRtcSet o n s
  | .rtcAlarm o n => Sys2Proof.Machine.execRtcAlarm o n s
  | .xPwrVmon o => Sys2Proof.Machine.execXPwrVmon o s
  | .xPwrSim o n => Sys2Proof.Machine.execXPwrSim o n s
  | .xPwrSimOff o => Sys2Proof.Machine.execXPwrSimOff o s
  | .xThermSim o t => Sys2Proof.Machine.execXThermSim o t s
  | .xClkRestore o => Sys2Proof.Machine.execXClkRestore o s
  | .xPwrLog o => Sys2Proof.Machine.execXPwrLog o s
  | .characterReceived p ch bad => Sys2Proof.Machine.execCharacterReceived p ch bad s
  | .typedLine p => Sys2Proof.Machine.execTypedLine p s
  | .generatedLine p => Sys2Proof.Machine.execGeneratedLine p s
  | .eventTransmit p => Sys2Proof.Machine.execEventTransmit p s
  | .login o r fold => Sys2Proof.Machine.execLogin o r fold s
  | .auth o mac => Sys2Proof.Machine.execAuth o mac s
  | .authBlockExpiry p => Sys2Proof.Machine.execAuthBlockExpiry p s
  | .sessionTimeout p => Sys2Proof.Machine.execSessionTimeout p s
  | .logout o => Sys2Proof.Machine.execLogout o s
  | .help o verb => Sys2Proof.Machine.execHelp o verb s
  | .inv o => Sys2Proof.Machine.execInv o s
  | .who o => Sys2Proof.Machine.execWho o s
  | .sess o => Sys2Proof.Machine.execSess o s
  | .sessEcho o on => Sys2Proof.Machine.execSessEcho o on s
  | .sessBaud o rate fmt => Sys2Proof.Machine.execSessBaud o rate fmt s
  | .sessTimeout o n => Sys2Proof.Machine.execSessTimeout o n s
  | .sessLock o => Sys2Proof.Machine.execSessLock o s
  | .sessUnlock o => Sys2Proof.Machine.execSessUnlock o s
  | .ev o => Sys2Proof.Machine.execEv o s
  | .evSet o on cs => Sys2Proof.Machine.execEvSet o on cs s
  | .log o n => Sys2Proof.Machine.execLog o n s
  | .xPeek o addr n => Sys2Proof.Machine.execXPeek o addr n s
  | .xPoke o addr v g => Sys2Proof.Machine.execXPoke o addr v g s
  | .xBrx o => Sys2Proof.Machine.execXBrx o s
  | .xBrxClear o => Sys2Proof.Machine.execXBrxClear o s
  | .xCrc o text => Sys2Proof.Machine.execXCrc o text s
  | .xSessKill o p => Sys2Proof.Machine.execXSessKill o p s
  | .mgCfgWrite a p v => Sys2Proof.Machine.execMgCfgWrite a p v s
  | .mgEvmaskWrite a p v => Sys2Proof.Machine.execMgEvmaskWrite a p v s
  | .ready => Sys2Proof.Machine.execReady s
  | .unitList o => Sys2Proof.Machine.execUnitList o s
  | .unitShow o u => Sys2Proof.Machine.execUnitShow o u s
  | .unitOn o u g => Sys2Proof.Machine.execUnitOn o u g s
  | .unitOff o u g => Sys2Proof.Machine.execUnitOff o u g s
  | .fence o u g => Sys2Proof.Machine.execFence o u g s
  | .unfence o u g => Sys2Proof.Machine.execUnfence o u g s
  | .resetUnit o u g => Sys2Proof.Machine.execResetUnit o u g s
  | .resetDevice o => Sys2Proof.Machine.execResetDevice o s
  | .unitAdoptMgmt o u g => Sys2Proof.Machine.execUnitAdoptMgmt o u g s
  | .unitAdoptData o u g => Sys2Proof.Machine.execUnitAdoptData o u g s
  | .xState o u => Sys2Proof.Machine.execXState o u s
  | .xStateLog o => Sys2Proof.Machine.execXStateLog o s
  | .xStateSimDisagree o u => Sys2Proof.Machine.execXStateSimDisagree o u s
  | .stateReqOn a u g => Sys2Proof.Machine.execStateReqOn a u g s
  | .stateReqOff a u g => Sys2Proof.Machine.execStateReqOff a u g s
  | .stateReqFence a u g => Sys2Proof.Machine.execStateReqFence a u g s
  | .stateReqUnfence a u g => Sys2Proof.Machine.execStateReqUnfence a u g s
  | .stateReqReset a u g => Sys2Proof.Machine.execStateReqReset a u g s
  | .stateReqAdoptMgmt a u g => Sys2Proof.Machine.execStateReqAdoptMgmt a u g s
  | .stateReqAdoptData a u g => Sys2Proof.Machine.execStateReqAdoptData a u g s
  | .shadowSweep u x => Sys2Proof.Machine.execShadowSweep u x s
  | .unitResetComplete u => Sys2Proof.Machine.execUnitResetComplete u s
  | .resetTimeout u => Sys2Proof.Machine.execResetTimeout u s
  | .nop c k => Sys2Proof.Machine.execNop c k s
  | .dup c k => Sys2Proof.Machine.execDup c k s
  | .drop c k => Sys2Proof.Machine.execDrop c k s
  | .swap c k => Sys2Proof.Machine.execSwap c k s
  | .overTos c k => Sys2Proof.Machine.execOverTos c k s
  | .rot c k => Sys2Proof.Machine.execRot c k s
  | .nip c k => Sys2Proof.Machine.execNip c k s
  | .tuck c k => Sys2Proof.Machine.execTuck c k s
  | .twoDup c k => Sys2Proof.Machine.execTwoDup c k s
  | .twoDrop c k => Sys2Proof.Machine.execTwoDrop c k s
  | .rpush c k => Sys2Proof.Machine.execRpush c k s
  | .rpop c k => Sys2Proof.Machine.execRpop c k s
  | .rcopy c k => Sys2Proof.Machine.execRcopy c k s
  | .add c k => Sys2Proof.Machine.execAdd c k s
  | .sub c k => Sys2Proof.Machine.execSub c k s
  | .adc c k => Sys2Proof.Machine.execAdc c k s
  | .sbc c k => Sys2Proof.Machine.execSbc c k s
  | .and c k => Sys2Proof.Machine.execAnd c k s
  | .or c k => Sys2Proof.Machine.execOr c k s
  | .xor c k => Sys2Proof.Machine.execXor c k s
  | .not c k => Sys2Proof.Machine.execNot c k s
  | .neg c k => Sys2Proof.Machine.execNeg c k s
  | .inc c k => Sys2Proof.Machine.execInc c k s
  | .dec c k => Sys2Proof.Machine.execDec c k s
  | .cmp c k => Sys2Proof.Machine.execCmp c k s
  | .tst c k => Sys2Proof.Machine.execTst c k s
  | .shl c k => Sys2Proof.Machine.execShl c k s
  | .shr c k => Sys2Proof.Machine.execShr c k s
  | .sar c k => Sys2Proof.Machine.execSar c k s
  | .rol c k => Sys2Proof.Machine.execRol c k s
  | .ror c k => Sys2Proof.Machine.execRor c k s
  | .min c k => Sys2Proof.Machine.execMin c k s
  | .max c k => Sys2Proof.Machine.execMax c k s
  | .minu c k => Sys2Proof.Machine.execMinu c k s
  | .maxu c k => Sys2Proof.Machine.execMaxu c k s
  | .sexb c k => Sys2Proof.Machine.execSexb c k s
  | .sexh c k => Sys2Proof.Machine.execSexh c k s
  | .zexb c k => Sys2Proof.Machine.execZexb c k s
  | .zexh c k => Sys2Proof.Machine.execZexh c k s
  | .clz c k => Sys2Proof.Machine.execClz c k s
  | .popc c k => Sys2Proof.Machine.execPopc c k s
  | .bswap c k => Sys2Proof.Machine.execBswap c k s
  | .addi c k n => Sys2Proof.Machine.execAddi c k n s
  | .subi c k n => Sys2Proof.Machine.execSubi c k n s
  | .andi c k n => Sys2Proof.Machine.execAndi c k n s
  | .ori c k n => Sys2Proof.Machine.execOri c k n s
  | .xori c k n => Sys2Proof.Machine.execXori c k n s
  | .cmpi c k n => Sys2Proof.Machine.execCmpi c k n s
  | .litS c k n => Sys2Proof.Machine.execLitS c k n s
  | .lit c k n => Sys2Proof.Machine.execLit c k n s
  | .mul c k => Sys2Proof.Machine.execMul c k s
  | .mulu c k => Sys2Proof.Machine.execMulu c k s
  | .mac c k => Sys2Proof.Machine.execMac c k s
  | .macu c k => Sys2Proof.Machine.execMacu c k s
  | .div c k => Sys2Proof.Machine.execDiv c k s
  | .divu c k => Sys2Proof.Machine.execDivu c k s
  | .rem c k => Sys2Proof.Machine.execRem c k s
  | .remu c k => Sys2Proof.Machine.execRemu c k s
  | .par8 c k => Sys2Proof.Machine.execPar8 c k s
  | .par32 c k => Sys2Proof.Machine.execPar32 c k s
  | .brev8 c k => Sys2Proof.Machine.execBrev8 c k s
  | .brev16 c k => Sys2Proof.Machine.execBrev16 c k s
  | .brev32 c k => Sys2Proof.Machine.execBrev32 c k s
  | .crcb c k => Sys2Proof.Machine.execCrcb c k s
  | .ldB c k b f => Sys2Proof.Machine.execLdB c k b f s
  | .ldBu c k b f => Sys2Proof.Machine.execLdBu c k b f s
  | .ldH c k b f => Sys2Proof.Machine.execLdH c k b f s
  | .ldHu c k b f => Sys2Proof.Machine.execLdHu c k b f s
  | .ldW c k b f => Sys2Proof.Machine.execLdW c k b f s
  | .stB c k b f => Sys2Proof.Machine.execStB c k b f s
  | .stH c k b f => Sys2Proof.Machine.execStH c k b f s
  | .stW c k b f => Sys2Proof.Machine.execStW c k b f s
  | .loadDataReturn c l => Sys2Proof.Machine.execLoadDataReturn c l s
  | .stmW c k b m x => Sys2Proof.Machine.execStmW c k b m x s
  | .stmD c k b m x => Sys2Proof.Machine.execStmD c k b m x s
  | .ldmW c k b m => Sys2Proof.Machine.execLdmW c k b m s
  | .ldmD c k b m => Sys2Proof.Machine.execLdmD c k b m s
  | .brS c k n => Sys2Proof.Machine.execBrS c k n s
  | .br c k n => Sys2Proof.Machine.execBr c k n s
  | .call c k n => Sys2Proof.Machine.execCall c k n s
  | .ret c k => Sys2Proof.Machine.execRet c k s
  | .jmpt c k => Sys2Proof.Machine.execJmpt c k s
  | .callt c k => Sys2Proof.Machine.execCallt c k s
  | .enter c k => Sys2Proof.Machine.execEnter c k s
  | .leave c k => Sys2Proof.Machine.execLeave c k s
  | .stkwb c k => Sys2Proof.Machine.execStkwb c k s
  | .sync c k => Sys2Proof.Machine.execSync c k s
  | .wait c k => Sys2Proof.Machine.execWait c k s
  | .gate c k n => Sys2Proof.Machine.execGate c k n s
  | .gret c k => Sys2Proof.Machine.execGret c k s
  | .eret c k => Sys2Proof.Machine.execEret c k s
  | .reti c k => Sys2Proof.Machine.execReti c k s
  | .mfs c k n => Sys2Proof.Machine.execMfs c k n s
  | .mts c k n => Sys2Proof.Machine.execMts c k n s
  | .rpt c k => Sys2Proof.Machine.execRpt c k s
  | .movs c k z m => Sys2Proof.Machine.execMovs c k z m s
  | .fills c k z m => Sys2Proof.Machine.execFills c k z m s
  | .cmps c k z m => Sys2Proof.Machine.execCmps c k z m s
  | .scans c k z m => Sys2Proof.Machine.execScans c k z m s
  | .crcs c k m => Sys2Proof.Machine.execCrcs c k m s
  | .pars c k m => Sys2Proof.Machine.execPars c k m s
  | .customOpcode c k op => Sys2Proof.Machine.execCustomOpcode c k op s
  | .spillCell c => Sys2Proof.Machine.execSpillCell c s
  | .storeIssue c => Sys2Proof.Machine.execStoreIssue c s
  | .storeAccept e => Sys2Proof.Machine.execStoreAccept e s
  | .postedStoreError c => Sys2Proof.Machine.execPostedStoreError c s
  | .exceptionEntry c x => Sys2Proof.Machine.execExceptionEntry c x s
  | .interruptEntry c => Sys2Proof.Machine.execInterruptEntry c s
  | .dispatchDecision p => Sys2Proof.Machine.execDispatchDecision p s
  | .taskSwitch t => Sys2Proof.Machine.execTaskSwitch t s
  | .persselWrite a p v => Sys2Proof.Machine.execPersselWrite a p v s
  | .pen o => Sys2Proof.Machine.execPen o s
  | .penShow o p => Sys2Proof.Machine.execPenShow o p s
  | .penPers o p tether g => Sys2Proof.Machine.execPenPers o p tether g s
  | .xCore o c => Sys2Proof.Machine.execXCore o c s
  | .xCoreTsb o c => Sys2Proof.Machine.execXCoreTsb o c s
  | .xPenHwmClear o p => Sys2Proof.Machine.execXPenHwmClear o p s
  | .scrubSteal p => Sys2Proof.Machine.execScrubSteal p s
  | .scrubPassLate p => Sys2Proof.Machine.execScrubPassLate p s
  | .ucodeParity c off => Sys2Proof.Machine.execUcodeParity c off s
  | .ucodeGolden slot off => Sys2Proof.Machine.execUcodeGolden slot off s
  | .goldenReload slot => Sys2Proof.Machine.execGoldenReload slot s
  | .csInjGo a p v => Sys2Proof.Machine.execCsInjGo a p v s
  | .ucode o => Sys2Proof.Machine.execUcode o s
  | .ucodePen o p => Sys2Proof.Machine.execUcodePen o p s
  | .xUcodeCheck o addr => Sys2Proof.Machine.execXUcodeCheck o addr s
  | .xUcodeLoad o f tether addr => Sys2Proof.Machine.execXUcodeLoad o f tether addr s
  | .xUcodeUnload o f tether => Sys2Proof.Machine.execXUcodeUnload o f tether s
  | .xUcodeCancel o => Sys2Proof.Machine.execXUcodeCancel o s
  | .xUcodePeek o p off n golden => Sys2Proof.Machine.execXUcodePeek o p off n golden s
  | .xUcodeInject o p off => Sys2Proof.Machine.execXUcodeInject o p off s
  | .machineCheck u code hook => Sys2Proof.Machine.execMachineCheck u code hook s
  | .hookTimeout => Sys2Proof.Machine.execHookTimeout s
  | .lockstepMismatch => Sys2Proof.Machine.execLockstepMismatch s
  | .exc o => Sys2Proof.Machine.execExc o s
  | .excPen o p => Sys2Proof.Machine.execExcPen o p s
  | .bw o => Sys2Proof.Machine.execBw o s
  | .xGate o p n => Sys2Proof.Machine.execXGate o p n s
  | .xGateTry o p n xs => Sys2Proof.Machine.execXGateTry o p n xs s
  | .xExcInject o c code => Sys2Proof.Machine.execXExcInject o c code s
  | .xExcClear o p => Sys2Proof.Machine.execXExcClear o p s
  | .xBwHook o on => Sys2Proof.Machine.execXBwHook o on s
  | .rationTick p => Sys2Proof.Machine.execRationTick p s
  | .estimateUpdate c tile idle => Sys2Proof.Machine.execEstimateUpdate c tile idle s
  | .sliceExpiry c => Sys2Proof.Machine.execSliceExpiry c s
  | .bindingWake p l => Sys2Proof.Machine.execBindingWake p l s
  | .ratWakeWrite a p v => Sys2Proof.Machine.execRatWakeWrite a p v s
  | .slotCtlWrite a p n v => Sys2Proof.Machine.execSlotCtlWrite a p n v s
  | .ratXferWrite a p v => Sys2Proof.Machine.execRatXferWrite a p v s
  | .ratCtlWrite a p v => Sys2Proof.Machine.execRatCtlWrite a p v s
  | .ration o => Sys2Proof.Machine.execRation o s
  | .rationPen o p => Sys2Proof.Machine.execRationPen o p s
  | .rationPenSet o p w pts => Sys2Proof.Machine.execRationPenSet o p w pts s
  | .rationPenThr o p w pts => Sys2Proof.Machine.execRationPenThr o p w pts s
  | .rationFoldRate o f pts => Sys2Proof.Machine.execRationFoldRate o f pts s
  | .rationMove o p q pts => Sys2Proof.Machine.execRationMove o p q pts s
  | .task o p => Sys2Proof.Machine.execTask o p s
  | .taskWake o p n => Sys2Proof.Machine.execTaskWake o p n s
  | .taskStop o p n => Sys2Proof.Machine.execTaskStop o p n s
  | .taskClear o p n => Sys2Proof.Machine.execTaskClear o p n s
  | .xRationCoef o p x => Sys2Proof.Machine.execXRationCoef o p x s
  | .xRationScale o p n => Sys2Proof.Machine.execXRationScale o p n s
  | .xRationDerate o p e x => Sys2Proof.Machine.execXRationDerate o p e x s
  | .xRationRun o p on slice => Sys2Proof.Machine.execXRationRun o p on slice s
  | .xRationBoot o p x => Sys2Proof.Machine.execXRationBoot o p x s
  | .xTaskSet o p n x => Sys2Proof.Machine.execXTaskSet o p n x s
  | .xRationBind o p l x => Sys2Proof.Machine.execXRationBind o p l x s
  | .pinInputEdge n level => Sys2Proof.Machine.execPinInputEdge n level s
  | .pendingSet n => Sys2Proof.Machine.execPendingSet n s
  | .limiterTick f => Sys2Proof.Machine.execLimiterTick f s
  | .evrDoorWrite a v => Sys2Proof.Machine.execEvrDoorWrite a v s
  | .evrSetWrite a f hi v => Sys2Proof.Machine.execEvrSetWrite a f hi v s
  | .evrMapWrite a n v => Sys2Proof.Machine.execEvrMapWrite a n v s
  | .evrLineWrite a f l v => Sys2Proof.Machine.execEvrLineWrite a f l v s
  | .psetWrite a p hi v => Sys2Proof.Machine.execPsetWrite a p hi v s
  | .pclrWrite a p hi v => Sys2Proof.Machine.execPclrWrite a p hi v s
  | .msetWrite a c hi v => Sys2Proof.Machine.execMsetWrite a c hi v s
  | .mclrWrite a c hi v => Sys2Proof.Machine.execMclrWrite a c hi v s
  | .pendRead c hi => Sys2Proof.Machine.execPendRead c hi s
  | .pendWrite a p hi v => Sys2Proof.Machine.execPendWrite a p hi v s
  | .maskWrite a p hi v => Sys2Proof.Machine.execMaskWrite a p hi v s
  | .asyncLatchCapture n level => Sys2Proof.Machine.execAsyncLatchCapture n level s
  | .haltInputActive n => Sys2Proof.Machine.execHaltInputActive n s
  | .haltInputInactive n => Sys2Proof.Machine.execHaltInputInactive n s
  | .haltForceWrite a v => Sys2Proof.Machine.execHaltForceWrite a v s
  | .haltClrWrite a v => Sys2Proof.Machine.execHaltClrWrite a v s
  | .haltLockWrite a v => Sys2Proof.Machine.execHaltLockWrite a v s
  | .haltCfgMismatch j => Sys2Proof.Machine.execHaltCfgMismatch j s
  | .evr o => Sys2Proof.Machine.execEvr o s
  | .evrFold o f => Sys2Proof.Machine.execEvrFold o f s
  | .evrSrc o n => Sys2Proof.Machine.execEvrSrc o n s
  | .evrMap o n f l mode open_ => Sys2Proof.Machine.execEvrMap o n f l mode open_ s
  | .evrUnmap o n => Sys2Proof.Machine.execEvrUnmap o n s
  | .evrLine o f l x => Sys2Proof.Machine.execEvrLine o f l x s
  | .evrLimit o f rate depth exempt maxpri => Sys2Proof.Machine.execEvrLimit o f rate depth exempt maxpri s
  | .evrFilter o n cyc => Sys2Proof.Machine.execEvrFilter o n cyc s
  | .evrSet o f l => Sys2Proof.Machine.execEvrSet o f l s
  | .halt o => Sys2Proof.Machine.execHalt o s
  | .haltMap o j ins safe latch => Sys2Proof.Machine.execHaltMap o j ins safe latch s
  | .haltInput o n low flt => Sys2Proof.Machine.execHaltInput o n low flt s
  | .haltArm o j => Sys2Proof.Machine.execHaltArm o j s
  | .haltDisarm o j => Sys2Proof.Machine.execHaltDisarm o j s
  | .haltForce o j => Sys2Proof.Machine.execHaltForce o j s
  | .haltClear o j => Sys2Proof.Machine.execHaltClear o j s
  | .haltLock o => Sys2Proof.Machine.execHaltLock o s
  | .xEvrRaise o n => Sys2Proof.Machine.execXEvrRaise o n s
  | .xEvrRace o p => Sys2Proof.Machine.execXEvrRace o p s
  | .xEvrRaceClear o p => Sys2Proof.Machine.execXEvrRaceClear o p s
  | .xEvrLatch o n => Sys2Proof.Machine.execXEvrLatch o n s
  | .xHaltSim o n on => Sys2Proof.Machine.execXHaltSim o n on s
  | .mycWindowWrite a f w lim v => Sys2Proof.Machine.execMycWindowWrite a f w lim v s
  | .mycShareWrite a f v => Sys2Proof.Machine.execMycShareWrite a f v s
  | .mycInjGo a v => Sys2Proof.Machine.execMycInjGo a v s
  | .creditPeriod => Sys2Proof.Machine.execCreditPeriod s
  | .requestPromotion r => Sys2Proof.Machine.execRequestPromotion r s
  | .remoteAccessPriority c => Sys2Proof.Machine.execRemoteAccessPriority c s
  | .eccPatrolRead => Sys2Proof.Machine.execEccPatrolRead s
  | .eccCorrReport => Sys2Proof.Machine.execEccCorrReport s
  | .memoryInitComplete => Sys2Proof.Machine.execMemoryInitComplete s
  | .mem o => Sys2Proof.Machine.execMem o s
  | .memFold o f => Sys2Proof.Machine.execMemFold o f s
  | .memWin o f w x => Sys2Proof.Machine.execMemWin o f w x s
  | .myc o => Sys2Proof.Machine.execMyc o s
  | .mycShare o f beats burst spare => Sys2Proof.Machine.execMycShare o f beats burst spare s
  | .ecc o => Sys2Proof.Machine.execEcc o s
  | .eccClear o => Sys2Proof.Machine.execEccClear o s
  | .xSb o c => Sys2Proof.Machine.execXSb o c s
  | .xEccInject o addr double => Sys2Proof.Machine.execXEccInject o addr double s
  | .xEccPatrol o on => Sys2Proof.Machine.execXEccPatrol o on s
  | .xMycPort o t => Sys2Proof.Machine.execXMycPort o t s
  | .dmaCmdKick a c g => Sys2Proof.Machine.execDmaCmdKick a c g s
  | .dmaCmdStop a c g => Sys2Proof.Machine.execDmaCmdStop a c g s
  | .dmaOwnWrite a c v => Sys2Proof.Machine.execDmaOwnWrite a c v s
  | .dmaCtlWrite a c v => Sys2Proof.Machine.execDmaCtlWrite a c v s
  | .dmaReqWrite a c v => Sys2Proof.Machine.execDmaReqWrite a c v s
  | .dmaMarkWrite a c v => Sys2Proof.Machine.execDmaMarkWrite a c v s
  | .dmaRequestAssert c => Sys2Proof.Machine.execDmaRequestAssert c s
  | .dmaRequestWithdraw c issued => Sys2Proof.Machine.execDmaRequestWithdraw c issued s
  | .descriptorFetch c => Sys2Proof.Machine.execDescriptorFetch c s
  | .dmaBurstStart => Sys2Proof.Machine.execDmaBurstStart s
  | .dmaBurstComplete m => Sys2Proof.Machine.execDmaBurstComplete m s
  | .dmaDescriptorComplete c => Sys2Proof.Machine.execDmaDescriptorComplete c s
  | .dmaRetry c => Sys2Proof.Machine.execDmaRetry c s
  | .dma o => Sys2Proof.Machine.execDma o s
  | .dmaShow o c => Sys2Proof.Machine.execDmaShow o c s
  | .dmaOwn o c f g => Sys2Proof.Machine.execDmaOwn o c f g s
  | .dmaCfg o c x g => Sys2Proof.Machine.execDmaCfg o c x g s
  | .dmaPace o c q high low g => Sys2Proof.Machine.execDmaPace o c q high low g s
  | .dmaRing o c base n head g => Sys2Proof.Machine.execDmaRing o c base n head g s
  | .dmaKick o c g => Sys2Proof.Machine.execDmaKick o c g s
  | .dmaStop o c g => Sys2Proof.Machine.execDmaStop o c g s
  | .dmaClear o c g => Sys2Proof.Machine.execDmaClear o c g s
  | .xDmaDesc o c n => Sys2Proof.Machine.execXDmaDesc o c n s
  | .xDmaMovers o => Sys2Proof.Machine.execXDmaMovers o s
  | .xDmaInject o c withdraw => Sys2Proof.Machine.execXDmaInject o c withdraw s
  | .tzero c k e => Sys2Proof.Machine.execTzero c k e s
  | .tld c k e => Sys2Proof.Machine.execTld c k e s
  | .tstTile c k e => Sys2Proof.Machine.execTstTile c k e s
  | .tadd c k e => Sys2Proof.Machine.execTadd c k e s
  | .tsub c k e => Sys2Proof.Machine.execTsub c k e s
  | .tmul c k e => Sys2Proof.Machine.execTmul c k e s
  | .tmin c k e => Sys2Proof.Machine.execTmin c k e s
  | .tmax c k e => Sys2Proof.Machine.execTmax c k e s
  | .tmac c k e => Sys2Proof.Machine.execTmac c k e s
  | .tsumr c k e => Sys2Proof.Machine.execTsumr c k e s
  | .tcvt c k e => Sys2Proof.Machine.execTcvt c k e s
  | .tlerp c k e => Sys2Proof.Machine.execTlerp c k e s
  | .tileCommit t => Sys2Proof.Machine.execTileCommit t s
  | .tileMoveComplete t => Sys2Proof.Machine.execTileMoveComplete t s
  | .ttxbWrite a c v => Sys2Proof.Machine.execTtxbWrite a c v s
  | .tile o => Sys2Proof.Machine.execTile o s
  | .tileShow o t => Sys2Proof.Machine.execTileShow o t s
  | .tileEv o t trap cs => Sys2Proof.Machine.execTileEv o t trap cs s
  | .tileTctx o t c x => Sys2Proof.Machine.execTileTctx o t c x s
  | .xTilePeek o t c tile rows => Sys2Proof.Machine.execXTilePeek o t c tile rows s
  | .xTileStat o t => Sys2Proof.Machine.execXTileStat o t s
  | .xTileInject o t ctx => Sys2Proof.Machine.execXTileInject o t ctx s
  | .t1sFrameReceived p node bytes good => Sys2Proof.Machine.execT1sFrameReceived p node bytes good s
  | .gbeFrameReceived m bytes good => Sys2Proof.Machine.execGbeFrameReceived m bytes good s
  | .canFrameReceived p fr good => Sys2Proof.Machine.execCanFrameReceived p fr good s
  | .uartCharacterReceived u ch bad gap => Sys2Proof.Machine.execUartCharacterReceived u ch bad gap s
  | .uartBufferClose u => Sys2Proof.Machine.execUartBufferClose u s
  | .bufferRequest rs => Sys2Proof.Machine.execBufferRequest rs s
  | .poolAllocRead c => Sys2Proof.Machine.execPoolAllocRead c s
  | .poolFreeWrite a v => Sys2Proof.Machine.execPoolFreeWrite a v s
  | .rxqRead a u => Sys2Proof.Machine.execRxqRead a u s
  | .txqWrite a u v => Sys2Proof.Machine.execTxqWrite a u v s
  | .txRecordHead u => Sys2Proof.Machine.execTxRecordHead u s
  | .frameTransmitComplete u => Sys2Proof.Machine.execFrameTransmitComplete u s
  | .transmitFailure u => Sys2Proof.Machine.execTransmitFailure u s
  | .partnerAgeTick => Sys2Proof.Machine.execPartnerAgeTick s
  | .partnerEvRead a f => Sys2Proof.Machine.execPartnerEvRead a f s
  | .ptabAddWrite a v => Sys2Proof.Machine.execPtabAddWrite a v s
  | .ptabDelWrite a v => Sys2Proof.Machine.execPtabDelWrite a v s
  | .portOwnWrite a u v => Sys2Proof.Machine.execPortOwnWrite a u v s
  | .poolFloorWrite a r v => Sys2Proof.Machine.execPoolFloorWrite a r v s
  | .poolHdesWrite a n v => Sys2Proof.Machine.execPoolHdesWrite a n v s
  | .plcaLost p => Sys2Proof.Machine.execPlcaLost p s
  | .plcaOk p => Sys2Proof.Machine.execPlcaOk p s
  | .gbeLinkDown m => Sys2Proof.Machine.execGbeLinkDown m s
  | .gbeLinkUp m speed hdx => Sys2Proof.Machine.execGbeLinkUp m speed hdx s
  | .mdioTransaction a m v => Sys2Proof.Machine.execMdioTransaction a m v s
  | .mdioComplete m x => Sys2Proof.Machine.execMdioComplete m x s
  | .canErrorPassive p tec rec_ => Sys2Proof.Machine.execCanErrorPassive p tec rec_ s
  | .canBusOff p => Sys2Proof.Machine.execCanBusOff p s
  | .canIntegrated p => Sys2Proof.Machine.execCanIntegrated p s
  | .port o => Sys2Proof.Machine.execPort o s
  | .portShow o u => Sys2Proof.Machine.execPortShow o u s
  | .portOwn o u f => Sys2Proof.Machine.execPortOwn o u f s
  | .t1sPlcaCoord o p nodes burst to_ => Sys2Proof.Machine.execT1sPlcaCoord o p nodes burst to_ s
  | .t1sPlcaFollow o p id_ burst to_ => Sys2Proof.Machine.execT1sPlcaFollow o p id_ burst to_ s
  | .t1sPlcaOff o p => Sys2Proof.Machine.execT1sPlcaOff o p s
  | .t1sNode o p ns f => Sys2Proof.Machine.execT1sNode o p ns f s
  | .gbeSpeed o m speed tx rx => Sys2Proof.Machine.execGbeSpeed o m speed tx rx s
  | .canRate o p nom dat listen => Sys2Proof.Machine.execCanRate o p nom dat listen s
  | .canFilter o p n x => Sys2Proof.Machine.execCanFilter o p n x s
  | .uartCfg o u x => Sys2Proof.Machine.execUartCfg o u x s
  | .ptab o u => Sys2Proof.Machine.execPtab o u s
  | .ptabAge o u ms => Sys2Proof.Machine.execPtabAge o u ms s
  | .ptabAdd o u key f => Sys2Proof.Machine.execPtabAdd o u key f s
  | .ptabDel o n => Sys2Proof.Machine.execPtabDel o n s
  | .pool o => Sys2Proof.Machine.execPool o s
  | .poolFloor o r n => Sys2Proof.Machine.execPoolFloor o r n s
  | .poolHalter o rs => Sys2Proof.Machine.execPoolHalter o rs s
  | .xPortRegs o u => Sys2Proof.Machine.execXPortRegs o u s
  | .xPtabDump o x => Sys2Proof.Machine.execXPtabDump o x s
  | .xPoolMap o => Sys2Proof.Machine.execXPoolMap o s
  | .xPortInject o u nobuf => Sys2Proof.Machine.execXPortInject o u nobuf s
  | .afeConversionPeriod xs => Sys2Proof.Machine.execAfeConversionPeriod xs s
  | .afeReferenceCheck ok => Sys2Proof.Machine.execAfeReferenceCheck ok s
  | .afeFrameqRead a => Sys2Proof.Machine.execAfeFrameqRead a s
  | .afeOwnWrite a v => Sys2Proof.Machine.execAfeOwnWrite a v s
  | .pwmPeriodStart n => Sys2Proof.Machine.execPwmPeriodStart n s
  | .pwmSpWrite a n v => Sys2Proof.Machine.execPwmSpWrite a n v s
  | .pwmSpqWrite a n v => Sys2Proof.Machine.execPwmSpqWrite a n v s
  | .pwmCmdResume a n => Sys2Proof.Machine.execPwmCmdResume a n s
  | .pwmHalterHold n => Sys2Proof.Machine.execPwmHalterHold n s
  | .pwmBallSample n ok => Sys2Proof.Machine.execPwmBallSample n ok s
  | .pwmOwnWrite a n v => Sys2Proof.Machine.execPwmOwnWrite a n v s
  | .pwmPeriodWrite a n per v => Sys2Proof.Machine.execPwmPeriodWrite a n per v s
  | .gpioOutWrite a hi v => Sys2Proof.Machine.execGpioOutWrite a hi v s
  | .gpioOsetWrite a hi v => Sys2Proof.Machine.execGpioOsetWrite a hi v s
  | .gpioOclrWrite a hi v => Sys2Proof.Machine.execGpioOclrWrite a hi v s
  | .gpioSnapshot => Sys2Proof.Machine.execGpioSnapshot s
  | .gpioSnapqRead a => Sys2Proof.Machine.execGpioSnapqRead a s
  | .gpioMismatch n => Sys2Proof.Machine.execGpioMismatch n s
  | .haltBallMismatch j => Sys2Proof.Machine.execHaltBallMismatch j s
  | .afe o => Sys2Proof.Machine.execAfe o s
  | .afeOwn o f => Sys2Proof.Machine.execAfeOwn o f s
  | .afeRate o sps => Sys2Proof.Machine.execAfeRate o sps s
  | .afeCh o ns mode => Sys2Proof.Machine.execAfeCh o ns mode s
  | .afeLoopSet o ns lo hi count => Sys2Proof.Machine.execAfeLoopSet o ns lo hi count s
  | .pwm o n => Sys2Proof.Machine.execPwm o n s
  | .pwmOwn o n f => Sys2Proof.Machine.execPwmOwn o n f s
  | .pwmSafe o n high oe => Sys2Proof.Machine.execPwmSafe o n high oe s
  | .pwmCfg o n x => Sys2Proof.Machine.execPwmCfg o n x s
  | .pwmSet o n sp => Sys2Proof.Machine.execPwmSet o n sp s
  | .pwmDither o n x => Sys2Proof.Machine.execPwmDither o n x s
  | .pwmResume o n => Sys2Proof.Machine.execPwmResume o n s
  | .gpio o => Sys2Proof.Machine.execGpio o s
  | .gpioOwn o ns f => Sys2Proof.Machine.execGpioOwn o ns f s
  | .gpioDir o ns out od pull => Sys2Proof.Machine.execGpioDir o ns out od pull s
  | .gpioSet o ns => Sys2Proof.Machine.execGpioSet o ns s
  | .gpioClr o ns => Sys2Proof.Machine.execGpioClr o ns s
  | .gpioSnap o x => Sys2Proof.Machine.execGpioSnap o x s
  | .xAfeLast o => Sys2Proof.Machine.execXAfeLast o s
  | .xAfeTest o ch x => Sys2Proof.Machine.execXAfeTest o ch x s
  | .xPwmRegs o n => Sys2Proof.Machine.execXPwmRegs o n s
  | .xGpioMism o clear => Sys2Proof.Machine.execXGpioMism o clear s
  | .bootSequence lines => Sys2Proof.Machine.execBootSequence lines s
  | .scriptTimeout => Sys2Proof.Machine.execScriptTimeout s
  | .jtagExtest => Sys2Proof.Machine.execJtagExtest s
  | .boot o => Sys2Proof.Machine.execBoot o s
  | .xBootVerify o secondary => Sys2Proof.Machine.execXBootVerify o secondary s
  | .xBootKey o slot key => Sys2Proof.Machine.execXBootKey o slot key s
  | .xBootRevoke o slot => Sys2Proof.Machine.execXBootRevoke o slot s
  | .xBootRolekey o r f g key => Sys2Proof.Machine.execXBootRolekey o r f g key s
  | .xBootRolerevoke o r f g => Sys2Proof.Machine.execXBootRolerevoke o r f g s
  | .xBootArb o n => Sys2Proof.Machine.execXBootArb o n s
  | .xBootLock o => Sys2Proof.Machine.execXBootLock o s
  | .xBootJtag o on => Sys2Proof.Machine.execXBootJtag o on s
  | .xFlashErase o off len => Sys2Proof.Machine.execXFlashErase o off len s
  | .xFlashWrite o off bytes => Sys2Proof.Machine.execXFlashWrite o off bytes s
  | .registerWrite a addr v => Sys2Proof.Machine.execRegisterWrite a addr v s
  | .statusLineSent p => Sys2Proof.Machine.execStatusLineSent p s
  | .jtagExtestEnd => Sys2Proof.Machine.execJtagExtestEnd s

end Sys2Proof.Machine
end

