-- ==== Sys2Proof/Safety.lean ====
section
/-! DEFINITION. The terms in which claims are stated: when a command is heard and let through, what a report, a setting, a register write
and an instruction leave, and what it is for a step to be safe. -/
namespace Sys2Proof.Safety

open Sys2Proof.Machine

/-- A command runs without a stop. -/
def runs (i : Instr) (s : State) : Bool := match exec i s with | .next _ => true | _ => false

/-! Brenex commands. -/

/-- The device once a command line has come in on its port (spec/03 R52, R66, spec/02 R23). -/
def arrived (o : Via) (d : Dev) : Dev :=
  match o with | .typed p => lineArrives d p false | .gen p _ => lineArrives d p true | .script => d

/-- The port hears the command, or the script runs. -/
def heard (o : Via) (d : Dev) : Bool := match o with | .typed p | .gen p _ => portOpen d p | .script => d.boot.inScript

/-- A command of a role that names some units is heard and let through (spec/03 R54, R55, R60, spec/00 R2). -/
def allowed (o : Via) (role : Role) (us : List UnitId) (d : Dev) : Bool := heard o d && (gate (arrived o d) o role us).isNone

/-- The device with an answer sent. -/
def answered (o : Via) (data : List String) (st : Status) (d : Dev) : Dev := reply o (d, some (data, st))

/-- A command that is not let through changes nothing: it is answered with what stopped it. -/
def Denies (i : Via → Instr) (role : Role) (us : List UnitId) : Prop :=
  ∀ (o : Via) (s : State) (e : Status), heard o s.dev = true → gate (arrived o s.dev) o role us = some e →
    exec (i o) s = .next { s with dev := answered o [] e (arrived o s.dev) }

/-- A command that only reports: nothing but the line's arrival and the answer changes the device, and the status is `ok` where it is let
through. -/
def Reports (i : Via → Instr) (role : Role) (us : List UnitId) : Prop :=
  Denies i role us ∧ ∀ (o : Via) (s : State), allowed o role us s.dev = true →
    ∃ data, exec (i o) s = .next { s with dev := answered o data okS (arrived o s.dev) }

/-- A command that only reports where `pre` holds of the device. -/
def ReportsWhen (i : Via → Instr) (role : Role) (us : List UnitId) (pre : Dev → Bool) : Prop :=
  Denies i role us ∧ ∀ (o : Via) (s : State), allowed o role us s.dev = true → pre (arrived o s.dev) = true →
    ∃ data, exec (i o) s = .next { s with dev := answered o data okS (arrived o s.dev) }

/-- A command that, where it is let through and `pre` holds of the device, changes it by `f` and is answered `ok`. -/
def Does (i : Via → Instr) (role : Role) (us : List UnitId) (pre : Via → Dev → Bool) (f : Via → Dev → Dev) : Prop :=
  Denies i role us ∧ ∀ (o : Via) (s : State), allowed o role us s.dev = true → pre o (arrived o s.dev) = true →
    exec (i o) s = .next { s with dev := answered o [] okS (f o (arrived o s.dev)) }

/-! The state arbiter. -/

/-- A unit at which the arbiter finds nothing wrong: present, not fenced, not being reset, its shadow equal to its hardware and its parity
good. -/
def settled (d : Dev) (u : UnitId) : Bool :=
  let r := d.unit u
  r.st != .absent && r.st != .fenced && !r.resetting && !differs r && !parityLate r

/-- What an accepted register write leaves: its effect, the unit's generation advanced by one, the decision in the log (spec/04 R69,
R87). -/
def granted (src : String) (u : UnitId) (f : Dev → Dev) (d : Dev) : Dev := arbLog (bumpGen (f d) u) src u "write" .ok

/-- A write to a state-bearing register: at a level that may write it, on a settled unit, it changes the device by `f` through the arbiter. -/
def Writes (i : Agent → Instr) (may : Req → Dev → Bool) (u : UnitId) (pre : Dev → Bool) (f : Dev → Dev) : Prop :=
  ∀ (a : Agent) (s : State), may (reqOf s.dev a) s.dev = true → settled s.dev u = true → pre s.dev = true →
    exec (i a) s = .next { s with dev := granted (reqOf s.dev a).src u f s.dev }

/-- A write to a register that is not state-bearing, on a unit that is neither absent nor fenced. -/
def Pokes (i : Agent → Instr) (may : Req → Dev → Bool) (u : UnitId) (pre : Dev → Bool) (f : Dev → Dev) : Prop :=
  ∀ (a : Agent) (s : State), may (reqOf s.dev a) s.dev = true → (s.dev.unit u).st ≠ .absent → (s.dev.unit u).st ≠ .fenced →
    pre s.dev = true → exec (i a) s = .next { s with dev := f s.dev }

/-- A command that sets registers of a unit through the arbiter and is answered `ok`, on a settled unit. -/
def Sets (i : Via → Instr) (role : Role) (us : List UnitId) (u : UnitId) (pre : Dev → Bool) (f : Dev → Dev) : Prop :=
  Does i role us (fun _ d => settled d u && pre d) (fun o => granted (viaSrc o) u f)

/-- A command that has its own error: where it is let through and `pre` holds, it changes nothing and is answered with the error. -/
def Refuses (i : Via → Instr) (role : Role) (us : List UnitId) (pre : Via → Dev → Bool) (code : Nat) : Prop :=
  ∀ (o : Via) (s : State), allowed o role us s.dev = true → pre o (arrived o s.dev) = true →
    exec (i o) s = .next { s with dev := answered o [] (er code) (arrived o s.dev) }

/-! Events: steps of the device itself. -/

/-- A step of the device that, where `pre` holds, changes it by `f`. -/
def Happens (i : Instr) (pre : Dev → Bool) (f : Dev → Dev) : Prop :=
  ∀ s : State, pre s.dev = true → exec i s = .next { s with dev := f s.dev }

/-! Instructions of a core. -/

/-- No save of extended state is due before its use: Drove, level 0, or saved already (spec/05 R113). -/
def extReady (d : Dev) (c : Nat) : Bool := !d.tether c || (d.core c).lvl == 0 || (d.core c).xs

/-- `n` syllables at the PC can be fetched, with no ECC error (spec/05 R103, spec/13 R288). -/
def fetchClean (d : Dev) (c n : Nat) : Bool :=
  (fetchBad d c n).isNone && (List.range n).all fun i => eccOf d (absAddr c ((d.core c).pc + toWord (2 * i)).toNat) == 0

/-- The dispatch entry of an instruction's first syllable is valid and has good parity, and where it asks for a save of extended state none is
due (spec/08 R165, R178). -/
def dispatches (d : Dev) (c : Nat) (syl : List Half) : Bool :=
  let k := d.pen (penOf c)
  let a := 0x10000 + 2 * dispatchIndex (syl.headD 0)
  !wordBad k a && (csHalf k.cs a).testBit 15 && (!(csHalf k.cs a).testBit 14 || extReady d c)

/-- An instruction of the syllables `syl` begins on core `c`: the core is at a boundary with nothing due, and fetch and dispatch meet no error. -/
def reaches (d : Dev) (c : Fin 32) (syl : List Half) : Bool :=
  canRun d c.val && fetchClean d c.val syl.length && dispatches d c.val syl

/-- It executes: no repeat is pending, and its condition is met (spec/05 R99, R100, R110). -/
def executes (d : Dev) (c : Fin 32) (q : Cond) (syl : List Half) : Bool :=
  reaches d c syl && !(d.core c.val).rpt && !(d.core c.val).rptSquash && condMet (d.core c.val) q

/-- The stack holds `n` cells and has room for `m` in their place; in Drove the `n` cells are cached and the cache has room (spec/05
R91, R93, R124). -/
def stackReady (d : Dev) (c : Nat) (n m : Nat) : Bool :=
  let k := d.core c
  let t := d.tether c
  decide (n ≤ k.depth t) &&
  if t then decide (k.hidden + k.depth t - n + m ≤ 16)
  else decide (n ≤ k.bank.data.length) && decide (k.bank.data.length ≤ 24 + n - m)

/-- The core with `n` syllables of `cyc` cycles executed, `f` being its effect. -/
def ran (n cyc : Nat) (f : Core → Core) (c : Fin 32) (d : Dev) : Dev :=
  (fetched d c.val n).updCore c.val fun k => (f (k.begin c.val n)).finish cyc false

/-- The device as an instruction of `n` syllables begins: its fetch counted, the PC at the next one (spec/06 R121, R123, spec/10 R214). -/
def begun (n : Nat) (c : Fin 32) (d : Dev) : Dev := (fetched d c.val n).updCore c.val fun k => k.begin c.val n

/-- The device with an instruction's cycles counted, the load delay of the one before it over unless it loads itself. -/
def ended (cyc : Nat) (ld : Bool) (c : Fin 32) (d : Dev) : Dev := d.updCore c.val fun k => k.finish cyc ld

/-- An instruction of the syllables `syl` and `cyc` cycles that, where it executes and `pre` holds, does `f` to the device. -/
def CoreDoes (i : Fin 32 → Cond → Instr) (syl : List Half) (cyc : Nat) (ld : Bool) (pre : Fin 32 → Dev → Bool)
    (f : Fin 32 → Dev → Dev) : Prop :=
  ∀ (c : Fin 32) (q : Cond) (s : State), executes s.dev c q syl = true → pre c s.dev = true →
    exec (i c q) s = .next { s with dev := ended cyc ld c (f c (begun syl.length c s.dev)) }

/-- The syllables of an instruction with its condition in bits 15:13 of the first (spec/05 R99). -/
def coded (q : Cond) (syl : List Half) : List Half :=
  match syl with
  | [] => []
  | s :: r => (s ||| (BitVec.ofNat 16 (condCode q) <<< 13)) :: r

/-- An instruction of the syllables `syl` that, where it executes and `pre` holds, raises an exception with the core as before it
(spec/05 R117, R124): the device takes it with those syllables, the core's entry written back as it was. -/
def CoreTraps (i : Fin 32 → Cond → Instr) (syl : List Half) (pre : Fin 32 → Dev → Bool) (x : Fin 32 → Dev → Exc) : Prop :=
  ∀ (c : Fin 32) (q : Cond) (s : State), executes s.dev c q syl = true → pre c s.dev = true →
    let d := fetched s.dev c.val syl.length
    exec (i c q) s = .next { s with dev := instrExc (d.setCore c.val (d.core c.val)) c.val (x c s.dev) (coded q syl) }

/-- An instruction on the stack alone: `m` cells for `n`, with `f` on the cells taken, top first. -/
def StackDoes (i : Fin 32 → Cond → Instr) (syl : List Half) (cyc n m : Nat) (f : Core → List Word → Core × List Word) : Prop :=
  ∀ (c : Fin 32) (q : Cond) (s : State), executes s.dev c q syl = true → stackReady s.dev c.val n m = true →
    exec (i c q) s = .next { s with dev := ran syl.length cyc (fun k => k.apply (s.dev.tether c.val) n f) c s.dev }

/-! The tile engine. -/

/-- A tile instruction reaches its wait: the engine is there and on, the shape allowed, the address aligned and the whole operand
reachable (spec/15 R320, R328). -/
def tileIssues (d : Dev) (c : Fin 32) (op : Nat) (e : Word) : Bool :=
  let addr := if tileMem op then lget (d.core c.val).view 0 0 else 0
  unitPresent d.variant (tileU (penOf c.val)) && !shapeBad op e && addr.toNat % 4 == 0 &&
  (operandBad (begun 3 c d) c.val (d.core c.val).priv op e addr.toNat).isNone &&
  (d.unit (tileU (penOf c.val))).st != .off && (d.unit (tileU (penOf c.val))).st != .fenced

/-- The device with a tile instruction waiting at its own PC, counted where the engine is busy, the engine taking the next core it can
serve (spec/15 R318). -/
def tileAsked (op : Nat) (e : Word) (c : Fin 32) (q : Cond) (d : Dev) : Dev :=
  let k := d.core c.val
  let p := penOf c.val
  let w : TileWait :=
    { op := op, ext := e, addr := if tileMem op then lget k.view 0 0 else 0, priv := k.priv, pc := k.pc, next := k.pc + 6,
      syl := coded q (extSyl 5 op e) }
  let b := (begun 3 c d).updCore c.val fun k => { k with pc := w.pc, tileWait := some w }
  ended 0 false c (tileTake (if (b.pen p).te.op.isSome then updTile b p fun te =>
    let n := lget te.perCore (0, 0, 0) (c.val % 4)
    { te with perCore := lset te.perCore (c.val % 4) (n.1 + 1, n.2) } else b) p)

/-- A tile instruction, `n` cells on its stack: its issue, and its trap on a shape that R320 refuses (spec/15 R318, R320). -/
def TileRuns (i : Word → Fin 32 → Cond → Instr) (op n : Nat) : Prop :=
  (∀ (e : Word) (c : Fin 32) (q : Cond) (s : State), executes s.dev c q (extSyl 5 op e) = true → stackReady s.dev c.val n 0 = true →
    tileIssues s.dev c op e = true → exec (i e c q) s = .next { s with dev := tileAsked op e c q s.dev }) ∧
  ∀ e : Word, CoreTraps (i e) (extSyl 5 op e)
    (fun c d => stackReady d c.val n 0 && unitPresent d.variant (tileU (penOf c.val)) && shapeBad op e)
    (fun _ _ => { Exc.of 0x0B with detail := e })

/-- The byte that the result of a tile operation leaves at an offset, if it writes it. -/
def staged (r : TileRes) (a : Nat) : Option Byte := (r.1.reverse.find? fun x => x.1 == a).map fun x => x.2

/-- A staged number of `n` bytes. -/
def stagedNum (r : TileRes) (a n : Nat) : Nat := leRead (fun a => (staged r a).getD 0) a n

/-! Memory as a core reaches it. -/

/-- An aligned access of `n` bytes by core `c` at its own address `a` that is allowed, goes to its own local memory and not to a cell its
caches hold, and meets no ECC error (spec/05 R92, R101 to R103, spec/13 R268, R278). -/
def localOk (d : Dev) (c : Nat) (a : Word) (n : Nat) (k : Acc) : Bool :=
  let x := absAddr c a.toNat
  a.toNat % n == 0 && ownLocal c x && (accCheck d c (d.core c).priv x n k).isNone &&
  (cacheLoc (d.core c) c (x / 4 * 4)).isNone && eccOf d x == 0

/-- The same for an access that goes elsewhere, over Mycelium (spec/06 R130, spec/13 R280). -/
def remoteOk (d : Dev) (c : Nat) (a : Word) (n : Nat) (k : Acc) : Bool :=
  let x := absAddr c a.toNat
  a.toNat % n == 0 && !ownLocal c x && (accCheck d c (d.core c).priv x n k).isNone &&
  (cacheLoc (d.core c) c (x / 4 * 4)).isNone

/-- The address a base and a displacement give, before the instruction's own pops (spec/05 R101, spec/06 R121). -/
def effAddr (d : Dev) (c : Nat) (b : Base) (disp : Word) : Word := baseValue (d.core c) b (lget (d.core c).view 0 0) + disp

/-- Cells stored one after another into own local memory. -/
def storedLocal (c : Nat) (a : Word) (l : List Word) (d : Dev) : Dev :=
  match l with
  | [] => d
  | v :: r => storedLocal c (a + 4) r (plainWrite (d.updCore c fun k => k.count 1 1) (absAddr c a.toNat) v 4)

/-- Whether `n` cells from an address can be reached in own local memory. -/
def localCells (d : Dev) (c : Nat) (a : Word) (n : Nat) (k : Acc) : Bool :=
  (List.range n).all fun i => localOk d c (a + toWord (4 * i)) 4 k

/-! The return stack: in Drove a cache of entries, in Tether cells of memory (spec/05 R90, R93). -/

/-- An entry can be pushed without a spill or a refusal. -/
def retRoom (d : Dev) (c : Nat) : Bool :=
  if d.tether c then localOk d c ((d.core c).bank.spr - 4) 4 .w else decide ((d.core c).bank.rets.length ≤ 15)

/-- There is an entry, and it can be read without a fill or a refusal. -/
def retReady (d : Dev) (c : Nat) : Bool :=
  decide (0 < (d.core c).rdepthOf (d.tether c)) &&
  if d.tether c then localOk d c (d.core c).bank.spr 4 .r else !(d.core c).bank.rets.isEmpty

/-- The newest entry. -/
def retTop (d : Dev) (c : Nat) : Word :=
  let k := d.core c
  let x := absAddr c k.bank.spr.toNat
  if d.tether c then overlaySb k.sb x 4 (plainRead d x 4) else lget k.bank.rets 0 0

/-- An entry read: in Tether an access to memory. -/
def retRead (c : Nat) (d : Dev) : Dev := if d.tether c then d.updCore c fun k => k.count 1 1 else d

/-- An entry pushed. -/
def retPushed (c : Nat) (v : Word) (d : Dev) : Dev :=
  if d.tether c then
    (plainWrite (d.updCore c fun k => k.count 1 1) (absAddr c ((d.core c).bank.spr - 4).toNat) v 4).updCore c fun k =>
      k.setBank { k.bank with spr := k.bank.spr - 4, rdepth := k.bank.rdepth + 1 }
  else d.updCore c fun k => k.setBank { k.bank with spr := k.bank.spr - 4, rets := v :: k.bank.rets }

/-- An entry dropped. -/
def retDropped (c : Nat) (d : Dev) : Dev :=
  d.updCore c fun k => k.setBank { k.bank with spr := k.bank.spr + 4, rets := k.bank.rets.drop 1, rdepth := k.bank.rdepth - 1 }

/-- The extra cycle of an instruction whose return stack lies in memory (spec/06, table of the stack instructions). -/
def tetherExtra (c : Nat) (d : Dev) : Dev := if d.tether c then d.updCore c fun k => { k with cyc := k.cyc + 1 } else d

/-- Cells popped. -/
def popped (c n : Nat) (d : Dev) : Dev := d.updCore c fun k => (k.popCells (d.tether c) n).1

/-- Cells pushed, the first of the list on top. -/
def pushed (c : Nat) (l : List Word) (d : Dev) : Dev := d.updCore c fun k => k.pushCells (d.tether c) l

/-- A jump. -/
def jumped (c : Nat) (a : Word) (d : Dev) : Dev := d.updCore c fun k => { k with pc := a }

/-- The cell on top of the stack as an instruction reads it. -/
def topCell (d : Dev) (c : Nat) : Word := lget (d.core c).view 0 0

/-! Writes and reads by the hardware of a core: frames, blocks, the stacks written back (spec/05 R92, spec/09 R191). -/

/-- A cell of own local memory that the hardware of a core may access at a level, with no ECC error. -/
def hwOk (d : Dev) (c : Nat) (p : Priv) (a : Nat) (k : Acc) : Bool :=
  ownLocal c (absAddr c a) && (accCheck d c p (absAddr c a) 4 k).isNone && eccOf d (absAddr c a) == 0

/-- The accesses that `n` cells from an address make in transfers of 16 bytes (spec/07 R147, spec/10 R214). -/
def transfers (a n : Nat) : Nat := ((List.range n).filter fun i => i == 0 || (a + 4 * i) % 16 == 0).length

/-- Cells written from an address in transfers of 16 bytes. -/
def writtenBlock (c a : Nat) (l : List Word) (d : Dev) : Dev :=
  l.zipIdx.foldl (fun d x =>
    plainWrite (if x.2 == 0 || (a + 4 * x.2) % 16 == 0 then d.updCore c fun k => k.count 1 1 else d) (absAddr c (a + 4 * x.2)) x.1 4) d

/-- Cells written one after another to the addresses beside them, each an access of its own. -/
def written (c : Nat) (l : List (Nat × Word)) (d : Dev) : Dev :=
  l.foldl (fun d x => plainWrite (d.updCore c fun k => k.count 1 1) (absAddr c x.1) x.2 4) d

/-- Every resident window cell has been written. -/
def windowsKnown (k : Core) : Bool := (List.range k.bank.wn).all fun i => (tfind k.bank.wc (k.bank.winAddr i)).isSome

/-- The device an action leaves where it completes, and whether it does. -/
def completes {α : Type} (m : IM α) (d : Dev) : Bool := match m d with | .ok _ _ => true | .error _ _ => false
def leaves {α : Type} (m : IM α) (d : Dev) : Dev := match m d with | .ok _ e => e | .error _ e => e

/-- FLG as MFS reads it (spec/05 R98). -/
def flgBits (k : Core) (t : Bool) : Nat :=
  k.z.toNat + 2 * k.n.toNat + 4 * k.c.toNat + 8 * k.v.toNat + 16 * k.rpt.toNat +
  (if t then 32 * k.ie.toNat + 64 * k.xs.toNat + 256 * k.lvl + 32768 else 0) + 4096 * privNum k.priv

/-- The call through gate `n` by the steps of spec/09 R195, on a device whose PC already names the next instruction: `none` where a step
fails or waits. -/
def gateCall (c : Nat) (n : BitVec 8) (d : Dev) : Option Dev :=
  if spareBusy d c || decide (14 ≤ (d.core c).gdep) || decide (privNum (gateLevel n.toNat) < privNum (d.core c).priv) then none
  else match readGate c n.toNat d with
  | .error _ _ => none
  | .ok l d =>
    let k := d.core c
    let t := d.tether c
    let h := gateLevel n.toNat
    let g := k.gsb h
    let a := gateArgc l
    let args := (k.view.take a).reverse
    if gateBad d c n.toNat l || decide (k.depth t < a) || !(if t then bankRoom k a else decide (a ≤ k.bank.data.length)) ||
      (firstBadArg d (d.foldOfCore c) k.priv l args).isSome || !(t || windowsKnown k) then none
    else
      let tag := tagWord n.toNat k.priv h false (if t then k.lvl else 0) (gateRetc l)
      match writeCells c h qualGate (g - 64).toNat (frameCells k t k.pc (k.bank.spd + toWord (4 * a)) tag h) d with
      | .error _ _ => none
      | .ok _ d => some ((popped c a d).updCore c fun k =>
          { k.openFrame t h g (toWord (256 * gateFrame l)) args.reverse with
            pc := gcell l 0, cyc := k.cyc + 10 + ((List.range a).filter fun i => argKind l i != 0).length })

/-- The frame a return of a kind finds: its cells and the device after reading them. -/
def frameFound (c : Nat) (exc : Bool) (d : Dev) : Option (List Word × Dev) :=
  match readFrame c exc d with
  | .ok f d => some (f, d)
  | .error _ _ => none

/-- Whether the hardware of a core can reach `n` cells from an address of own local memory at a level. -/
def hwCells (d : Dev) (c : Nat) (p : Priv) (a n : Nat) (k : Acc) : Bool := (List.range n).all fun i => hwOk d c p (a + 4 * i) k

/-- `n` cells from an address as the core reads them. -/
def cellsAt (d : Dev) (c a n : Nat) : List Word := (List.range n).map fun i =>
  overlaySb (d.core c).sb (absAddr c (a + 4 * i)) 4 (plainRead d (absAddr c (a + 4 * i)) 4)

/-- `n` accesses at the local data port counted. -/
def hits (c n : Nat) (d : Dev) : Dev := (List.range n).foldl (fun d _ => d.updCore c fun k => k.count 1 1) d

/-- The sixteen cells of an exception frame with its record (spec/09 R191). -/
def excCells (d : Dev) (c : Nat) (x : Exc) (pc ret : Word) (syl : List Half) (slot : Nat) : List Word :=
  let k := d.core c
  let t := d.tether c
  let h := (handlerOf d c k.priv).1
  frameCells k t ret k.bank.spd (tagWord x.cause.toNat k.priv h true (if t then k.lvl else 0) 0) h ++ recordCells k t c x pc syl slot

/-- An exception can be entered: below M, with a valid gate-stack base, handler and frame size, the frame in own local memory (spec/09
R190, R191, R206). -/
def excReady (d : Dev) (c : Nat) : Bool :=
  let k := d.core c
  let h := (handlerOf d c k.priv).1
  k.priv != .m && !entryBad d c && (d.tether c || windowsKnown k) && hwCells d c h (k.gsb h - 64).toNat 16 .w

/-- The device after the entry to an exception handler: the frame written, the stacks switched, the PC at the handler, the exception
counted (spec/09 R190 to R192, R211). -/
def excEntered (d : Dev) (c : Nat) (x : Exc) (pc ret : Word) (syl : List Half) (slot : Nat) : Dev :=
  let k := d.core c
  let h := handlerOf d c k.priv
  let g := k.gsb h.1
  let e := (writtenBlock c (g - 64).toNat (excCells d c x pc ret syl slot) d).updCore c fun k =>
    { k.openFrame (d.tether c) h.1 g (toWord (256 * h.2.2)) [g - 32] with pc := h.2.1, cyc := k.cyc + 8 }
  excCount e c x.cause false

/-- Nothing else is due at a core's boundary (spec/05 R117). -/
def quiet (d : Dev) (c : Nat) : Bool :=
  coreWorks d c && !spareBusy d c && (entryDue d c).isNone && (d.core c).held.isNone && (levelLoad (d.core c)).isNone

/-! What the OTP may become. -/

/-- A key slot in which no bit has gone back (spec/18 R403). -/
def keyGrew (a b : OtpKey) : Bool :=
  a.bits &&& b.bits == a.bits && (!a.prog || b.prog) && (!a.revoked || b.revoked)

/-- An OTP in which no bit has gone back: no written key bit, PROG, REVOKED, counter bit or LOCKED is lost, and the factory values
stand. -/
def otpGrew (a b : Otp) : Bool :=
  (List.range 8).all (fun i => keyGrew (lget a.image OtpKey.blank i) (lget b.image OtpKey.blank i)) &&
  (List.range 22).all (fun i => keyGrew (lget a.role OtpKey.blank i) (lget b.role OtpKey.blank i)) &&
  a.arb &&& b.arb == a.arb && (!a.locked || b.locked) && a.coef == b.coef

/-- The fields of spec/18 R403: 8 image key slots, 22 role key generations, 64 factory values, and a counter that is a thermometer code of
0 to 64. -/
def otpShape (o : Otp) : Bool :=
  o.image.length == 8 && o.role.length == 22 && o.coef.length == 64 &&
  (List.range 65).any fun n => o.arb == BitVec.ofNat 64 (2 ^ n - 1)

/-! The instruction set at a glance. -/

/-- The core, the condition and the instruction that an instruction command names; `none` for every other command. -/
def insnOf (i : Instr) : Option (Fin 32 × Cond × Insn) :=
  match i with
  | .nop c k => some (c, k, bNop)
  | .dup c k => some (c, k, bDup)
  | .drop c k => some (c, k, bDrop)
  | .swap c k => some (c, k, bSwap)
  | .overTos c k => some (c, k, bOverTos)
  | .rot c k => some (c, k, bRot)
  | .nip c k => some (c, k, bNip)
  | .tuck c k => some (c, k, bTuck)
  | .twoDup c k => some (c, k, bTwoDup)
  | .twoDrop c k => some (c, k, bTwoDrop)
  | .rpush c k => some (c, k, bRpush)
  | .rpop c k => some (c, k, bRpop)
  | .rcopy c k => some (c, k, bRcopy)
  | .add c k => some (c, k, bAdd)
  | .sub c k => some (c, k, bSub)
  | .adc c k => some (c, k, bAdc)
  | .sbc c k => some (c, k, bSbc)
  | .and c k => some (c, k, bAnd)
  | .or c k => some (c, k, bOr)
  | .xor c k => some (c, k, bXor)
  | .not c k => some (c, k, bNot)
  | .neg c k => some (c, k, bNeg)
  | .inc c k => some (c, k, bInc)
  | .dec c k => some (c, k, bDec)
  | .cmp c k => some (c, k, bCmp)
  | .tst c k => some (c, k, bTst)
  | .shl c k => some (c, k, bShl)
  | .shr c k => some (c, k, bShr)
  | .sar c k => some (c, k, bSar)
  | .rol c k => some (c, k, bRol)
  | .ror c k => some (c, k, bRor)
  | .min c k => some (c, k, bMin)
  | .max c k => some (c, k, bMax)
  | .minu c k => some (c, k, bMinu)
  | .maxu c k => some (c, k, bMaxu)
  | .sexb c k => some (c, k, bSexb)
  | .sexh c k => some (c, k, bSexh)
  | .zexb c k => some (c, k, bZexb)
  | .zexh c k => some (c, k, bZexh)
  | .clz c k => some (c, k, bClz)
  | .popc c k => some (c, k, bPopc)
  | .bswap c k => some (c, k, bBswap)
  | .addi c k i => some (c, k, bAddi i)
  | .subi c k i => some (c, k, bSubi i)
  | .andi c k i => some (c, k, bAndi i)
  | .ori c k i => some (c, k, bOri i)
  | .xori c k i => some (c, k, bXori i)
  | .cmpi c k i => some (c, k, bCmpi i)
  | .litS c k i => some (c, k, bLitS i)
  | .lit c k i => some (c, k, bLit i)
  | .mul c k => some (c, k, bMul)
  | .mulu c k => some (c, k, bMulu)
  | .mac c k => some (c, k, bMac)
  | .macu c k => some (c, k, bMacu)
  | .div c k => some (c, k, bDiv)
  | .divu c k => some (c, k, bDivu)
  | .rem c k => some (c, k, bRem)
  | .remu c k => some (c, k, bRemu)
  | .par8 c k => some (c, k, bPar8)
  | .par32 c k => some (c, k, bPar32)
  | .brev8 c k => some (c, k, bBrev8)
  | .brev16 c k => some (c, k, bBrev16)
  | .brev32 c k => some (c, k, bBrev32)
  | .crcb c k => some (c, k, bCrcb)
  | .ldB c k b f => some (c, k, qLdB k b f)
  | .ldBu c k b f => some (c, k, qLdBu k b f)
  | .ldH c k b f => some (c, k, qLdH k b f)
  | .ldHu c k b f => some (c, k, qLdHu k b f)
  | .ldW c k b f => some (c, k, qLdW k b f)
  | .stB c k b f => some (c, k, bStB b f)
  | .stH c k b f => some (c, k, bStH b f)
  | .stW c k b f => some (c, k, bStW b f)
  | .stmW c k b m x => some (c, k, bStmW b m x)
  | .stmD c k b m x => some (c, k, bStmD b m x)
  | .ldmW c k b m => some (c, k, bLdmW b m)
  | .ldmD c k b m => some (c, k, bLdmD b m)
  | .brS c k i => some (c, k, bBrS i)
  | .br c k i => some (c, k, bBr i)
  | .call c k i => some (c, k, bCall i)
  | .ret c k => some (c, k, bRet)
  | .jmpt c k => some (c, k, bJmpt)
  | .callt c k => some (c, k, bCallt)
  | .enter c k => some (c, k, bEnter)
  | .leave c k => some (c, k, bLeave)
  | .stkwb c k => some (c, k, bStkwb)
  | .sync c k => some (c, k, bSync)
  | .wait c k => some (c, k, bWait)
  | .gate c k n => some (c, k, bGate n)
  | .gret c k => some (c, k, bGret)
  | .eret c k => some (c, k, bEret)
  | .reti c k => some (c, k, bReti)
  | .mfs c k n => some (c, k, bMfs n)
  | .mts c k n => some (c, k, bMts n)
  | .rpt c k => some (c, k, bRpt)
  | .movs c k z m => some (c, k, bMovs z m)
  | .fills c k z m => some (c, k, bFills z m)
  | .cmps c k z m => some (c, k, bCmps z m)
  | .scans c k z m => some (c, k, bScans z m)
  | .crcs c k m => some (c, k, bCrcs m)
  | .pars c k m => some (c, k, bPars m)
  | .customOpcode c k op => some (c, k, bCustomOpcode op)
  | .tzero c k e => some (c, k, qTzero k e)
  | .tld c k e => some (c, k, qTld k e)
  | .tstTile c k e => some (c, k, qTstTile k e)
  | .tadd c k e => some (c, k, qTadd k e)
  | .tsub c k e => some (c, k, qTsub k e)
  | .tmul c k e => some (c, k, qTmul k e)
  | .tmin c k e => some (c, k, qTmin k e)
  | .tmax c k e => some (c, k, qTmax k e)
  | .tmac c k e => some (c, k, qTmac k e)
  | .tsumr c k e => some (c, k, qTsumr k e)
  | .tcvt c k e => some (c, k, qTcvt k e)
  | .tlerp c k e => some (c, k, qTlerp k e)
  | _ => none

end Sys2Proof.Safety
end

