-- ==== Sys2Proof/Certificates/Slice0/Obligations.lean ====
section
/-! DEFINITION. The statements for the provers. -/

open Sys2Proof Sys2Proof.Machine Sys2Proof.Safety

/-! The block as a whole. -/

/-- What a step is: the front command, or nothing (log 1). -/
def Obligations.StepRunsFront : Prop :=
  (∀ (c : Instr) (r : List Instr) (s : State), s.pending = c :: r → step s = exec c { s with pending := r }) ∧
  ∀ s : State, s.pending = [] → step s = .next s

/-- No command of the table stops the block, and none adds to or takes from the queue. -/
def Obligations.EveryCommandRuns : Prop :=
  (∀ (i : Instr) (s : State), ∃ t, exec i s = .next t ∧ t.pending = s.pending) ∧
  ∀ s : State, ∃ t, step s = .next t ∧ t.pending = s.pending.drop 1

/-- The one-time-programmable memory is one-time (spec/18 R403). The BAD mark made at boot is no OTP bit. -/
def Obligations.OtpOnlyGrows : Prop :=
  (∀ s t : State, otpShape s.otp = true → step s = .next t → otpShape t.otp = true ∧ otpGrew s.otp t.otp = true) ∧
  ∀ (i : Instr) (s t : State), exec i s = .next t → t.otp = s.otp ∨
    (match i with
     | .bootSequence _ => true
     | .xBootKey _ _ _ => true
     | .xBootRevoke _ _ => true
     | .xBootRolekey _ _ _ _ _ => true
     | .xBootRolerevoke _ _ _ _ => true
     | .xBootArb _ _ => true
     | .xBootLock _ => true
     | _ => false) = true

/-- Reset (spec/04 R85). The variant at reset and the blank OTP are the model's choice (logs 4 and 16). -/
def Obligations.ResetState : Prop :=
  let started (d : Dev) (u : UnitId) : Prop :=
    (d.unit u).gen = 0 ∧ (d.unit u).sh = (d.unit u).st ∧ (d.unit u).st =
      (if unitPresent d.variant u = false then UState.absent
       else match u with
         | .pmu => UState.idle
         | .halt => UState.idle
         | .mg _ => UState.idle
         | .evr _ => UState.idle
         | _ => UState.off)
  otpShape State.reset.otp = true ∧ State.reset.dev.mem = [] ∧ Memory.wf State.reset.dev.mem = true ∧ State.reset.pending = [] ∧
  (∀ u : UnitId, started State.reset.dev u) ∧
  ∀ (d : Dev) (c : RstCause) (u : UnitId), started (deviceReset d c) u

/-- Bytes and cells of plain memory (spec/00 R6). The boot flash is written by flash commands alone. -/
def Obligations.LittleEndian : Prop :=
  (∀ (d : Dev) (a : Nat) (v : Word), (∀ i < 4, regionOf (a + i) ≠ .flash) →
    (∀ i < 4, plainByte (plainWrite d a v 4) (a + i) = (v >>> (8 * i)).setWidth 8) ∧
    plainRead (plainWrite d a v 4) a 4 = v ∧
    ∀ x, x < a ∨ a + 4 ≤ x → plainByte (plainWrite d a v 4) x = plainByte d x) ∧
  ∀ (d : Dev) (a : Nat), plainRead d a 4 = plainByte d (a + 3) ++ plainByte d (a + 2) ++ plainByte d (a + 1) ++ plainByte d a

/-- Conditions (spec/05 R99, R100). No repeat is pending; a squashed RPT takes the string instruction after it along (R110). The cycles
that pass as a wait ends are the model's choice (log 80). -/
def Obligations.Squash : Prop :=
  (∀ (i : Instr) (c : Fin 32) (q : Cond) (n : Insn) (s : State), insnOf i = some (c, q, n) → canRun s.dev c.val = true →
    fetchClean s.dev c.val n.syl.length = true → (s.dev.core c.val).rpt = false →
    ownLocal c.val (absAddr c.val (s.dev.core c.val).pc.toNat) = true → condMet (s.dev.core c.val) q = false →
    exec i s = .next { s with dev := s.dev.updCore c.val fun k =>
      { k with pc := k.pc + toWord (2 * n.syl.length), cyc := k.cyc + 1 + (if k.waiting then 3 else 0), waiting := false, delay := [],
               rptSquash := n.syl == [0x0A0], cnt := lset k.cnt 0 (lget k.cnt 0 0 + 1) } }) ∧
  (∀ (i : Instr) (c : Fin 32) (q : Cond) (n : Insn) (s : State), insnOf i = some (c, q, n) → canRun s.dev c.val = false →
    exec i s = .next s) ∧
  ∀ (k : Core) (q : Cond), condMet k q = true ↔
    (match q with
     | .always => True
     | .z => k.z = true
     | .nz => k.z = false
     | .n => k.n = true
     | .nn => k.n = false
     | .c => k.c = true
     | .nc => k.c = false
     | .v => k.v = true)

/-! Instructions on the data stack (spec/05 R89 to R93, R98 to R100, spec/06 R121 to R129). -/

/-- The stack instructions leave the cells of their row, top first in the lists, and change nothing else (spec/06, table of the stack
instructions). -/
def Obligations.StackShuffles : Prop :=
  CoreDoes .nop [0x000] 1 false (fun _ _ => true) (fun _ d => d) ∧
  StackDoes .dup [0x001] 1 1 2 (fun k l => (k, [lget l 0 0, lget l 0 0])) ∧
  StackDoes .drop [0x002] 1 1 0 (fun k _ => (k, [])) ∧
  StackDoes .swap [0x003] 1 2 2 (fun k l => (k, [lget l 0 1, lget l 0 0])) ∧
  (∀ (c : Fin 32) (q : Cond) (s : State), executes s.dev c q [0x004] = true → stackReady s.dev c.val 2 3 = true →
    exec (.overTos c q) s = .next { s with dev := ran 1 1 (fun k => k.pushCells (s.dev.tether c.val) [lget k.view 0 1]) c s.dev }) ∧
  StackDoes .rot [0x005] 1 3 3 (fun k l => (k, [lget l 0 2, lget l 0 0, lget l 0 1])) ∧
  StackDoes .nip [0x006] 1 2 1 (fun k l => (k, [lget l 0 0])) ∧
  StackDoes .tuck [0x007] 1 2 3 (fun k l => (k, [lget l 0 0, lget l 0 1, lget l 0 0])) ∧
  StackDoes .twoDup [0x008] 1 2 4 (fun k l => (k, [lget l 0 0, lget l 0 1, lget l 0 0, lget l 0 1])) ∧
  StackDoes .twoDrop [0x009] 1 2 0 (fun k _ => (k, []))

/-- Sums and differences with their flags; b is on top, a below it (spec/06 R125). -/
def Obligations.SumsAndDifferences : Prop :=
  StackDoes .add [0x020] 1 2 1 (binary fun _ a b => addFlags a b false) ∧
  StackDoes .sub [0x021] 1 2 1 (binary fun _ a b => subFlags a b true) ∧
  StackDoes .adc [0x022] 1 2 1 (binary fun f a b => addFlags a b f.c) ∧
  StackDoes .sbc [0x023] 1 2 1 (binary fun f a b => subFlags a b f.c) ∧
  StackDoes .neg [0x028] 1 1 1 (unary fun _ a => subFlags 0 a true) ∧
  StackDoes .inc [0x029] 1 1 1 (unary fun _ a => addFlags a 1 false) ∧
  StackDoes .dec [0x02A] 1 1 1 (unary fun _ a => subFlags a 1 true) ∧
  StackDoes .cmp [0x02B] 1 2 0 (fun k l => (k.setFlags (subFlags (lget l 0 1) (lget l 0 0) true).2, [])) ∧
  StackDoes .tst [0x02C] 1 1 1 (fun k l =>
    (k.setFlags { z := lget l 0 0 == 0, n := (lget l 0 0).msb, c := false, v := false }, [lget l 0 0]))

/-- The flags of a sum and of a difference, against exact arithmetic on the integers (spec/05 R98, spec/06 R125). -/
def Obligations.FlagsOfSums : Prop :=
  ∀ (a b : Word) (cin : Bool),
    let out (x : Int) : Bool := decide (x < -2 ^ 31) || decide (2 ^ 31 ≤ x)
    let s := addFlags a b cin
    let d := subFlags a b cin
    let ci : Nat := if cin then 1 else 0
    let bo : Nat := if cin then 0 else 1
    s.1.toNat = (a.toNat + b.toNat + ci) % 2 ^ 32 ∧
    s.2 = { z := decide (s.1 = 0), n := decide (s.1.toInt < 0), c := decide (2 ^ 32 ≤ a.toNat + b.toNat + ci),
            v := out (a.toInt + b.toInt + (ci : Int)) } ∧
    d.1.toInt = (a.toInt - b.toInt - (bo : Int)).bmod (2 ^ 32) ∧
    d.2 = { z := decide (d.1 = 0), n := decide (d.1.toInt < 0), c := decide (b.toNat + bo ≤ a.toNat),
            v := out (a.toInt - b.toInt - (bo : Int)) }

/-- The ALU instructions that set Z and N alone; b is on top, a below it. -/
def Obligations.LogicAndExtension : Prop :=
  StackDoes .and [0x024] 1 2 1 (binary (znOf fun a b => a &&& b)) ∧
  StackDoes .or [0x025] 1 2 1 (binary (znOf fun a b => a ||| b)) ∧
  StackDoes .xor [0x026] 1 2 1 (binary (znOf fun a b => a ^^^ b)) ∧
  StackDoes .not [0x027] 1 1 1 (unary (zn1 fun a => ~~~a)) ∧
  StackDoes .min [0x032] 1 2 1 (binary (znOf fun a b => if a.toInt < b.toInt then a else b)) ∧
  StackDoes .max [0x033] 1 2 1 (binary (znOf fun a b => if a.toInt < b.toInt then b else a)) ∧
  StackDoes .minu [0x034] 1 2 1 (binary (znOf fun a b => if a.toNat < b.toNat then a else b)) ∧
  StackDoes .maxu [0x035] 1 2 1 (binary (znOf fun a b => if a.toNat < b.toNat then b else a)) ∧
  StackDoes .sexb [0x036] 1 1 1 (unary (zn1 fun a => (a.setWidth 8).signExtend 32)) ∧
  StackDoes .sexh [0x037] 1 1 1 (unary (zn1 fun a => (a.setWidth 16).signExtend 32)) ∧
  StackDoes .zexb [0x038] 1 1 1 (unary (zn1 fun a => BitVec.ofNat 32 (a.toNat % 2 ^ 8))) ∧
  StackDoes .zexh [0x039] 1 1 1 (unary (zn1 fun a => BitVec.ofNat 32 (a.toNat % 2 ^ 16))) ∧
  StackDoes .clz [0x03A] 1 1 1 (unary (zn1 clz)) ∧
  StackDoes .popc [0x03B] 1 1 1 (unary (zn1 popc)) ∧
  StackDoes .bswap [0x03C] 1 1 1 (unary (zn1 bswap))

/-- Shifts and rotates with the carry of R126: for a count c from 1 to 31 it is bit 32 − c of x for SHL, bit c − 1 for SHR and SAR, bit 0 of
the result for ROL and bit 31 for ROR. -/
def Obligations.ShiftsAndRotates : Prop :=
  let by_ (g : Word → Nat → Word) (carry : Word → Nat → Word → Bool) (k : Core) (l : List Word) : Core × List Word :=
    let x := lget l 0 1
    let n := (lget l 0 0).toNat % 32
    let r := if n = 0 then x else g x n
    (k.setFlags { z := r == 0, n := r.msb, c := n != 0 && carry x n r, v := k.v }, [r])
  StackDoes .shl [0x02D] 1 2 1 (by_ (fun x n => BitVec.ofNat 32 (x.toNat * 2 ^ n)) fun x n _ => x.getLsbD (32 - n)) ∧
  StackDoes .shr [0x02E] 1 2 1 (by_ (fun x n => BitVec.ofNat 32 (x.toNat / 2 ^ n)) fun x n _ => x.getLsbD (n - 1)) ∧
  StackDoes .sar [0x02F] 1 2 1 (by_ (fun x n => BitVec.ofInt 32 (x.toInt / 2 ^ n)) fun x n _ => x.getLsbD (n - 1)) ∧
  StackDoes .rol [0x030] 1 2 1 (by_ (fun x n => x <<< n ||| x >>> (32 - n)) fun _ _ r => r.getLsbD 0) ∧
  StackDoes .ror [0x031] 1 2 1 (by_ (fun x n => x >>> n ||| x <<< (32 - n)) fun _ _ r => r.getLsbD 31)

/-- The instructions with an immediate in both forms, and the literals. -/
def Obligations.ImmediatesAndLiterals : Prop :=
  ∀ i : ImmForm,
    let x : Word := match i with | .imm16 y => BitVec.ofInt 32 y.toInt | .imm32 y => y
    StackDoes (fun c q => .addi c q i) (bAddi i).syl 1 1 1 (unary fun _ a => addFlags a x false) ∧
    StackDoes (fun c q => .subi c q i) (bSubi i).syl 1 1 1 (unary fun _ a => subFlags a x true) ∧
    StackDoes (fun c q => .andi c q i) (bAndi i).syl 1 1 1 (unary (zn1 fun a => a &&& x)) ∧
    StackDoes (fun c q => .ori c q i) (bOri i).syl 1 1 1 (unary (zn1 fun a => a ||| x)) ∧
    StackDoes (fun c q => .xori c q i) (bXori i).syl 1 1 1 (unary (zn1 fun a => a ^^^ x)) ∧
    StackDoes (fun c q => .cmpi c q i) (bCmpi i).syl 1 1 1 (fun k l => (k.setFlags (subFlags (lget l 0 0) x true).2, [lget l 0 0])) ∧
    StackDoes (fun c q => .lit c q i) (bLit i).syl 1 0 1 (fun k _ => (k, [x])) ∧
    ∀ j : BitVec 9, StackDoes (fun c q => .litS c q j) (bLitS j).syl 1 0 1 (fun k _ => (k, [BitVec.ofInt 32 j.toInt]))

/-- The multiplies where the extended state needs no save first (spec/05 R107, R113, spec/06 R127). -/
def Obligations.Multiplies : Prop :=
  let mul (signed acc : Bool) (c : Fin 32) (d : Dev) : Dev :=
    let k := ((d.core c.val).popCells (d.tether c.val) 2).1
    let l := ((d.core c.val).popCells (d.tether c.val) 2).2
    let a := lget l 0 1
    let b := lget l 0 0
    let p : BitVec 64 := if signed then BitVec.ofInt 64 (a.toInt * b.toInt) else BitVec.ofNat 64 (a.toNat * b.toNat)
    d.setCore c.val (k.issueMul (d.tether c.val) (if acc then k.lastProd + p else p))
  let pre (c : Fin 32) (d : Dev) : Bool := extReady d c.val && stackReady d c.val 2 0
  CoreDoes .mul [0x040] 1 false pre (mul true false) ∧
  CoreDoes .mulu [0x041] 1 false pre (mul false false) ∧
  CoreDoes .mac [0x042] 1 false pre (mul true true) ∧
  CoreDoes .macu [0x043] 1 false pre (mul false true)

/-- Division against integer division that truncates (spec/06 R128). -/
def Obligations.Divides : Prop :=
  let div (signed rem : Bool) (c : Fin 32) (d : Dev) : Dev :=
    d.updCore c.val fun k => (k.count 3 34).apply (d.tether c.val) 2 fun k l =>
      let a := lget l 0 1
      let b := lget l 0 0
      let x : Word :=
        if signed then BitVec.ofInt 32 (if rem then a.toInt.tmod b.toInt else a.toInt.tdiv b.toInt)
        else BitVec.ofNat 32 (if rem then a.toNat % b.toNat else a.toNat / b.toNat)
      (k.setFlags { z := x == 0, n := x.msb, c := k.c, v := signed && a == 0x80000000 && b == 0xFFFFFFFF }, [x])
  let pre (zero : Bool) (c : Fin 32) (d : Dev) : Bool :=
    stackReady d c.val 2 1 && (lget (d.core c.val).view 0 0 == 0) == zero
  (CoreDoes .div [0x044] 34 false (pre false) (div true false) ∧
   CoreDoes .divu [0x045] 34 false (pre false) (div false false) ∧
   CoreDoes .rem [0x046] 34 false (pre false) (div true true) ∧
   CoreDoes .remu [0x047] 34 false (pre false) (div false true)) ∧
  CoreTraps .div [0x044] (pre true) (fun _ _ => Exc.of 0x0A) ∧
  CoreTraps .divu [0x045] (pre true) (fun _ _ => Exc.of 0x0A) ∧
  CoreTraps .rem [0x046] (pre true) (fun _ _ => Exc.of 0x0A) ∧
  CoreTraps .remu [0x047] (pre true) (fun _ _ => Exc.of 0x0A)

/-- Parity, bit reverse and CRC: every bit of a reversed group stands at its mirror place (spec/06 R129). -/
def Obligations.ParityAndCrc : Prop :=
  let par (n : Nat) (k : Core) (l : List Word) : Core × List Word :=
    let odd := ((List.range n).filter fun i => (lget l 0 0).getLsbD i).length % 2
    (k.setFlags { z := odd == 0, n := false, c := k.c, v := k.v }, [BitVec.ofNat 32 odd])
  let crc (k : Core) (l : List Word) : Core × List Word :=
    let a := (List.range 8).foldl (fun (a : Word) i =>
      if a.getLsbD 0 != (lget l 0 0).getLsbD i then (a >>> 1) ^^^ k.cpoly else a >>> 1) k.cacc
    ({ k with cacc := a, z := a == 0 }, [])
  StackDoes .par8 [0x060] 1 1 1 (par 8) ∧
  StackDoes .par32 [0x061] 1 1 1 (par 32) ∧
  StackDoes .brev8 [0x062] 1 1 1 (unary (zn1 (bitRev 8))) ∧
  StackDoes .brev16 [0x063] 1 1 1 (unary (zn1 (bitRev 16))) ∧
  StackDoes .brev32 [0x064] 1 1 1 (unary (zn1 (bitRev 32))) ∧
  (∀ n, n ∈ [8, 16, 32] → ∀ (x : Word) (i : Nat), i < 32 → (bitRev n x).getLsbD (i / n * n + (n - 1 - i % n)) = x.getLsbD i) ∧
  CoreDoes .crcb [0x065] 1 false (fun c d => extReady d c.val && stackReady d c.val 1 0)
    (fun c d => d.updCore c.val fun k => k.apply (d.tether c.val) 1 crc)

/-! Loads, stores and multiple transfers (spec/05 R92, R101 to R105, spec/06 R130 to R134, spec/13 R280). -/

/-- Loads. The address is base plus displacement, DISP6 scaled by the size (spec/06, tables of the OP field and the displacements). -/
def Obligations.Loads : Prop :=
  let loads (i : Base → MemForm → Fin 32 → Cond → Instr) (op size : Nat) (signed : Bool) : Prop := ∀ (b : Base) (f : MemForm),
    let len := match f with | .short _ => 1 | .long _ => 2 | .ext _ => 3
    let disp : Word := match f with | .short x => toWord (x.toNat * size) | .long x => x.signExtend 32 | .ext x => x
    let plain (c : Fin 32) (d : Dev) : Bool :=
      stackReady d c.val (basePops b) 1 && !usesWindow (d.core c.val) b (effAddr d c.val b disp)
    CoreDoes (i b f) (memSyl op b f) 1 true (fun c d => plain c d && localOk d c.val (effAddr d c.val b disp) size .r)
      (fun c d =>
        let x := absAddr c.val (effAddr d c.val b disp).toNat
        let v := overlaySb (d.core c.val).sb x size (plainRead d x size)
        let d := d.updCore c.val fun k => k.count 1 1
        d.setCore c.val (pushedLoaded d c.val ((d.core c.val).popCells (d.tether c.val) (basePops b)).1 [extendCell size signed v])) ∧
    ∀ (c : Fin 32) (q : Cond) (s : State), executes s.dev c q (memSyl op b f) = true → plain c s.dev = true →
      remoteOk s.dev c.val (effAddr s.dev c.val b disp) size .r = true →
      forwarded (s.dev.core c.val) (absAddr c.val (effAddr s.dev c.val b disp).toNat) size = false →
      exec (i b f c q) s = .next { s with dev := ended 1 true c (
        let x := absAddr c.val (effAddr s.dev c.val b disp).toNat
        let d := begun len c s.dev
        let k := d.core c.val
        let cls := coreClass d c.val k.lvl
        let p : PendLoad :=
          { pc := (s.dev.core c.val).pc, next := k.pc, syl := coded q (memSyl op b f), addr := x, size := size, signed := signed,
            tos := b == .tos, priv := k.priv, cls := cls, err := none }
        charge (d.setCore c.val { k.count 2 1 with loads := tput k.loads k.lvl p, delay := [] }) (some (d.foldOfCore c.val)) 1 cls x) }
  loads (fun b f c q => .ldB c q b f) 0 1 true ∧
  loads (fun b f c q => .ldBu c q b f) 1 1 false ∧
  loads (fun b f c q => .ldH c q b f) 2 2 true ∧
  loads (fun b f c q => .ldHu c q b f) 3 2 false ∧
  loads (fun b f c q => .ldW c q b f) 4 4 false

/-- Stores. The bytes stored are `size` from the computed address; every other byte reads as before (spec/06 R130, spec/13 R280). -/
def Obligations.Stores : Prop :=
  let stores (i : Base → MemForm → Fin 32 → Cond → Instr) (op size : Nat) : Prop := ∀ (b : Base) (f : MemForm),
    let len := match f with | .short _ => 1 | .long _ => 2 | .ext _ => 3
    let disp : Word := match f with | .short x => toWord (x.toNat * size) | .long x => x.signExtend 32 | .ext x => x
    let plain (c : Fin 32) (d : Dev) : Bool :=
      stackReady d c.val (basePops b + 1) 0 && !usesWindow (d.core c.val) b (effAddr d c.val b disp)
    let popped (c : Fin 32) (d : Dev) : Dev := d.updCore c.val fun k => (k.popCells (d.tether c.val) (basePops b + 1)).1
    let value (c : Fin 32) (d : Dev) : Word := lget (d.core c.val).view 0 (basePops b)
    CoreDoes (i b f) (memSyl op b f) 1 false (fun c d => plain c d && localOk d c.val (effAddr d c.val b disp) size .w)
      (fun c d => popped c (plainWrite (d.updCore c.val fun k => k.count 1 1) (absAddr c.val (effAddr d c.val b disp).toNat) (value c d) size)) ∧
    CoreDoes (i b f) (memSyl op b f) 1 false
      (fun c d => plain c d && remoteOk d c.val (effAddr d c.val b disp) size .w && decide ((d.core c.val).sb.length < 8) &&
        (regStoreCheck d (coreReq d c.val (d.core c.val).priv) (absAddr c.val (effAddr d c.val b disp).toNat) (value c d) size).isNone)
      (fun c d =>
        let k := d.core c.val
        let e : SbEntry :=
          { addr := absAddr c.val (effAddr d c.val b disp).toNat, size := size, val := value c d, pc := k.pc - toWord (2 * len),
            cls := coreClass d c.val k.lvl, lvl := k.lvl, slot := k.slot.getD 0, priv := k.priv, issued := false }
        popped c (d.updCore c.val fun k => { k with sb := sbPush k.sb e }))
  (stores (fun b f c q => .stB c q b f) 5 1 ∧ stores (fun b f c q => .stH c q b f) 6 2 ∧ stores (fun b f c q => .stW c q b f) 7 4) ∧
  ∀ (d : Dev) (a : Nat) (v : Word) (n : Nat), 0x01000000 ≤ a → a + n ≤ 0x01200000 → ∀ x, x < a ∨ a + n ≤ x →
    (plainWrite d a v n).byte x = d.byte x

/-- The checks of a load and of a store, in their order (spec/05 R103). -/
def Obligations.AccessTraps : Prop :=
  let plain (b : Base) (f : MemForm) (size pop push : Nat) (c : Fin 32) (d : Dev) : Bool :=
    stackReady d c.val (basePops b + pop) push && !usesWindow (d.core c.val) b (effAddr d c.val b (memDisp f size))
  let odd (i : Base → MemForm → Fin 32 → Cond → Instr) (op size pop push : Nat) : Prop := ∀ (b : Base) (f : MemForm),
    CoreTraps (i b f) (memSyl op b f)
      (fun c d => plain b f size pop push c d && (effAddr d c.val b (memDisp f size)).toNat % size != 0)
      (fun c d => { Exc.of 0x07 with addr := effAddr d c.val b (memDisp f size) })
  let bars (i : Base → MemForm → Fin 32 → Cond → Instr) (op size pop push : Nat) (acc : Acc) : Prop := ∀ (b : Base) (f : MemForm),
    let bad (c : Fin 32) (d : Dev) : Option Byte :=
      let a := absAddr c.val (effAddr d c.val b (memDisp f size)).toNat
      (accCheck d c.val (d.core c.val).priv a size acc).filter fun e => !(e == 0x09 && acc == .w && !ownLocal c.val a)
    CoreTraps (i b f) (memSyl op b f)
      (fun c d => plain b f size pop push c d && (effAddr d c.val b (memDisp f size)).toNat % size == 0 && (bad c d).isSome)
      (fun c d => { Exc.of ((bad c d).getD 0) with addr := effAddr d c.val b (memDisp f size) })
  odd (fun b f c q => .ldH c q b f) 2 2 0 1 ∧ odd (fun b f c q => .ldHu c q b f) 3 2 0 1 ∧ odd (fun b f c q => .ldW c q b f) 4 4 0 1 ∧
  odd (fun b f c q => .stH c q b f) 6 2 1 0 ∧ odd (fun b f c q => .stW c q b f) 7 4 1 0 ∧
  bars (fun b f c q => .ldB c q b f) 0 1 0 1 .r ∧ bars (fun b f c q => .ldBu c q b f) 1 1 0 1 .r ∧
  bars (fun b f c q => .ldH c q b f) 2 2 0 1 .r ∧ bars (fun b f c q => .ldHu c q b f) 3 2 0 1 .r ∧
  bars (fun b f c q => .ldW c q b f) 4 4 0 1 .r ∧ bars (fun b f c q => .stB c q b f) 5 1 1 0 .w ∧
  bars (fun b f c q => .stH c q b f) 6 2 1 0 .w ∧ bars (fun b f c q => .stW c q b f) 7 4 1 0 .w

/-- Multiple transfers (spec/06 R133). The window is resident where one is moved, and its cells have been written
where they are stored (one that nothing has written holds a free value, log 22). -/
def Obligations.MultipleTransfers : Prop :=
  ∀ (b : Base) (m : MultiForm) (x : Option Nat),
    let sel := (List.range 16).filter fun i => m.mask.getLsbD i
    let n := sel.length
    let span := match sel.getLast? with | some h => h + 1 | none => 0
    let disp : Word := match m.disp with | none => 0 | some y => y.signExtend 32
    let addr (c : Fin 32) (d : Dev) : Word := effAddr d c.val b disp
    let p := basePops b
    let winVal (d : Dev) (c : Fin 32) (i : Nat) : Option Word := tfind (d.core c.val).bank.wc ((d.core c.val).bank.winAddr i)
    let resident (d : Dev) (c : Fin 32) : Bool := d.tether c.val || decide (16 ≤ (d.core c.val).bank.wn)
    let winOk (d : Dev) (c : Fin 32) : Bool := resident d c && sel.all fun i => (winVal d c i).isSome
    let popped (k : Nat) (c : Fin 32) (d : Dev) : Dev := d.updCore c.val fun j => (j.popCells (d.tether c.val) k).1
    let cycles (c : Fin 32) (d : Dev) : Dev := d.updCore c.val fun k => { k with cyc := k.cyc + n }
    let loaded (c : Fin 32) (d : Dev) : List Word := (List.range n).map fun i =>
      let a := absAddr c.val (addr c d + toWord (4 * i)).toNat
      overlaySb (d.core c.val).sb a 4 (plainRead d a 4)
    let counted (c : Fin 32) (d : Dev) : Dev := (List.range n).foldl (fun d _ => d.updCore c.val fun k => k.count 1 1) d
    (0 < n →
      CoreDoes (fun c q => .stmW c q b m none) (bStmW b m none).syl 1 false
        (fun c d => stackReady d c.val p 0 && winOk d c && localCells d c.val (addr c d) n .w)
        (fun c d => cycles c (popped p c (storedLocal c.val (addr c d) (sel.map fun i => (winVal d c i).getD 0) d))) ∧
      CoreDoes (fun c q => .stmD c q b m none) (bStmD b m none).syl 1 false
        (fun c d => stackReady d c.val (p + span) 0 && localCells d c.val (addr c d) n .w)
        (fun c d => cycles c (popped (p + span) c
          (storedLocal c.val (addr c d) (sel.map fun i => lget (d.core c.val).view 0 (p + i)) d))) ∧
      CoreDoes (fun c q => .ldmD c q b m) (bLdmD b m).syl 1 true
        (fun c d => stackReady d c.val p span && localCells d c.val (addr c d) n .r)
        (fun c d =>
          let cells := sel.zip (loaded c d)
          let e := popped p c (counted c d)
          cycles c (e.setCore c.val (pushedLoaded e c.val (e.core c.val) ((List.range span).map fun i => (tfind cells i).getD 0)))) ∧
      CoreDoes (fun c q => .ldmW c q b m) (bLdmW b m).syl 1 false
        (fun c d => stackReady d c.val p 0 && resident d c && localCells d c.val (addr c d) n .r)
        (fun c d => cycles c ((sel.zip (loaded c d)).foldl (fun e y => e.updCore c.val fun k =>
          k.setBank { k.bank with wc := tput k.bank.wc (k.bank.winAddr y.1) y.2 }) (popped p c (counted c d))))) ∧
    (m.mask = 0 →
      CoreDoes (fun c q => .stmW c q b m x) (bStmW b m x).syl 1 false (fun c d => stackReady d c.val p 0) (popped p) ∧
      CoreDoes (fun c q => .stmD c q b m x) (bStmD b m x).syl 1 false (fun c d => stackReady d c.val p 0) (popped p) ∧
      CoreDoes (fun c q => .ldmW c q b m) (bLdmW b m).syl 1 false (fun c d => stackReady d c.val p 0)
        (fun c d => (popped p c d).updCore c.val fun k => { k with delay := [] }) ∧
      CoreDoes (fun c q => .ldmD c q b m) (bLdmD b m).syl 1 true (fun c d => stackReady d c.val p 0)
        (fun c d => (popped p c d).updCore c.val fun k => { k with delay := [] }))

/-! The return stack, flow control and frame windows (spec/05 R90, R93 to R95, spec/06 R135). -/

/-- The instructions that move cells between the two stacks. -/
def Obligations.ReturnStack : Prop :=
  CoreDoes .rpush [0x00A] 1 false (fun c d => stackReady d c.val 1 0 && retRoom d c.val)
    (fun c d => tetherExtra c.val (retPushed c.val (topCell d c.val) (popped c.val 1 d))) ∧
  CoreDoes .rpop [0x00B] 1 false (fun c d => stackReady d c.val 0 1 && retReady d c.val)
    (fun c d => tetherExtra c.val (pushed c.val [retTop d c.val] (retDropped c.val (retRead c.val d)))) ∧
  CoreDoes .rcopy [0x00C] 1 false (fun c d => stackReady d c.val 0 1 && retReady d c.val)
    (fun c d => tetherExtra c.val (pushed c.val [retTop d c.val] (retRead c.val d))) ∧
  CoreTraps .rpop [0x00B] (fun c d => (d.core c.val).rdepthOf (d.tether c.val) == 0) (fun _ _ => Exc.of 0x06) ∧
  CoreTraps .rcopy [0x00C] (fun c d => (d.core c.val).rdepthOf (d.tether c.val) == 0) (fun _ _ => Exc.of 0x06)

/-- Flow control: no flag changes. -/
def Obligations.FlowControl : Prop :=
  (∀ i : BitVec 9, CoreDoes (fun c q => .brS c q i) (bBrS i).syl 2 false (fun _ _ => true)
    (fun c d => jumped c.val ((d.core c.val).pc - 2 + BitVec.ofInt 32 (2 * i.toInt)) d)) ∧
  (∀ i : ImmForm,
    let n := match i with | .imm16 _ => 2 | .imm32 _ => 3
    let off : Int := match i with | .imm16 y => y.toInt | .imm32 y => y.toInt
    let target (c : Fin 32) (d : Dev) : Word := (d.core c.val).pc - toWord (2 * n) + BitVec.ofInt 32 (2 * off)
    CoreDoes (fun c q => .br c q i) (bBr i).syl 2 false (fun _ _ => true) (fun c d => jumped c.val (target c d) d) ∧
    CoreDoes (fun c q => .call c q i) (bCall i).syl 2 false (fun c d => retRoom d c.val)
      (fun c d => tetherExtra c.val (jumped c.val (target c d) (retPushed c.val (d.core c.val).pc d)))) ∧
  CoreDoes .ret [0x080] 2 false (fun c d => retReady d c.val && !(retTop d c.val).getLsbD 0)
    (fun c d => tetherExtra c.val (jumped c.val (retTop d c.val) (retDropped c.val (retRead c.val d)))) ∧
  CoreDoes .jmpt [0x081] 2 false (fun c d => stackReady d c.val 1 0 && !(topCell d c.val).getLsbD 0)
    (fun c d => jumped c.val (topCell d c.val) (popped c.val 1 d)) ∧
  CoreDoes .callt [0x082] 2 false (fun c d => stackReady d c.val 1 0 && retRoom d c.val && !(topCell d c.val).getLsbD 0)
    (fun c d => tetherExtra c.val (jumped c.val (topCell d c.val) (retPushed c.val (d.core c.val).pc (popped c.val 1 d)))) ∧
  CoreTraps .ret [0x080] (fun c d => retReady d c.val && (retTop d c.val).getLsbD 0)
    (fun c d => { Exc.of 0x07 with addr := retTop d c.val }) ∧
  CoreTraps .ret [0x080] (fun c d => (d.core c.val).rdepthOf (d.tether c.val) == 0) (fun _ _ => Exc.of 0x06) ∧
  CoreTraps .jmpt [0x081] (fun c d => stackReady d c.val 1 0 && (topCell d c.val).getLsbD 0)
    (fun c d => { Exc.of 0x07 with addr := topCell d c.val }) ∧
  CoreTraps .callt [0x082] (fun c d => stackReady d c.val 1 0 && (topCell d c.val).getLsbD 0)
    (fun c d => { Exc.of 0x07 with addr := topCell d c.val })

/-- Frame windows. -/
def Obligations.FrameWindows : Prop :=
  let used (d : Dev) (c : Fin 32) : Nat := (d.core c.val).hiddenWins + winCount (d.core c.val).bank.wn
  CoreDoes .enter [0x083] 1 false (fun c d => if d.tether c.val then decide (used d c < 4) else decide ((d.core c.val).bank.wn ≤ 88))
    (fun c d => d.updCore c.val fun k =>
      let k := k.setBank { k.bank with fp := k.bank.fp - 48, wn := k.bank.wn + 12 }
      if d.tether c.val then
        { k with hwmWin := lset k.hwmWin k.lvl (max (lget k.hwmWin 0 k.lvl) (k.hiddenWins + winCount k.bank.wn - 1)) }
      else k) ∧
  CoreDoes .leave [0x084] 1 false
    (fun c d => if d.tether c.val then decide (1 < winCount (d.core c.val).bank.wn) else (d.core c.val).bank.fp != (d.core c.val).fbase)
    (fun c d => d.updCore c.val fun k =>
      let gone := (List.range 12).map fun i => (k.bank.fp + toWord (4 * i)).toNat
      k.setBank { k.bank with fp := k.bank.fp + 48, wn := k.bank.wn - 12, wc := k.bank.wc.filter fun x => !gone.contains x.1 }) ∧
  CoreTraps .enter [0x083] (fun c d => d.tether c.val && decide (4 ≤ used d c)) (fun _ _ => Exc.of 0x05) ∧
  CoreTraps .leave [0x084]
    (fun c d => if d.tether c.val then decide (winCount (d.core c.val).bank.wn ≤ 1) else (d.core c.val).bank.fp == (d.core c.val).fbase)
    (fun _ _ => Exc.of 0x06)

/-! System instructions, special registers, block repeat (spec/05 R96 to R98, R109 to R114, spec/06 R136 to R138). -/

/-- STKWB, SYNC, WAIT, RPT. Each cached cell lies in own local memory here; that a waiting SYNC
stands at its own PC while cycles pass is the model's form of waiting (logs 3 and 80). -/
def Obligations.WaitingAndWriteBack : Prop :=
  CoreDoes .stkwb [0x085] 1 false
    (fun c d =>
      let k := d.core c.val
      windowsKnown k && (k.spare.all fun x => hwOk d c.val k.sparePriv x.1 .w) &&
      ((k.hiddenCells ++ bankCells k.bank).all fun x => hwOk d c.val k.priv x.1 .w))
    (fun c d =>
      let k := d.core c.val
      let l := k.spare ++ k.hiddenCells ++ bankCells { k.bank with data := k.view }
      (written c.val l d).updCore c.val fun k => { k with cyc := k.cyc + l.length }) ∧
  CoreDoes .sync [0x086] 1 false (fun c d => (d.core c.val).sb.isEmpty) (fun _ d => d) ∧
  (∀ (c : Fin 32) (q : Cond) (s : State), executes s.dev c q [0x086] = true → (s.dev.core c.val).sb.isEmpty = false →
    exec (.sync c q) s = .next { s with dev := s.dev.updCore c.val fun k => { k with cyc := k.cyc + 3 } }) ∧
  CoreDoes .wait [0x087] 1 false
    (fun c d => d.tether c.val || match (d.core c.val).slot with
      | none => true
      | some s => !(slotOf (d.pen (penOf c.val)) s).woke && (d.core c.val).gdep != 0)
    (fun c d => d.updCore c.val fun k => { k with waiting := true }) ∧
  CoreDoes .wait [0x087] 1 false
    (fun c d => !d.tether c.val && (d.core c.val).gdep == 0 && match (d.core c.val).slot with
      | none => false
      | some s => !(slotOf (d.pen (penOf c.val)) s).woke)
    (fun c d => slotSettle (d.updCore c.val fun k => { k with waiting := true, preempt := some 0 }) (penOf c.val)
      (((d.core c.val).slot).getD 0)) ∧
  CoreDoes .wait [0x087] 1 false
    (fun c d => !d.tether c.val && match (d.core c.val).slot with
      | none => false
      | some s => (slotOf (d.pen (penOf c.val)) s).woke)
    (fun _ d => d) ∧
  CoreDoes .rpt [0x0A0] 1 false (fun c d => extReady d c.val && stackReady d c.val 1 0)
    (fun c d => (pushed c.val [] (popped c.val 1 d)).updCore c.val fun k => { k with rc := topCell d c.val, rpt := true })

/-- MFS by the table of the special registers (spec/05 R97). -/
def Obligations.MoveFromSpecial : Prop :=
  (∀ n : BitVec 5, n.toNat < 15 →
    let ext := 6 ≤ n.toNat ∧ n.toNat ≤ 12
    CoreDoes (fun c q => .mfs c q n) (bMfs n).syl 1 false
      (fun c d => stackReady d c.val 0 1 && (!decide ext || extReady d c.val) && ((d.core c.val).priv != .u || n.toNat != 13) &&
        (n.toNat != 14 || unitPresent d.variant (tileU (penOf c.val))))
      (fun c d =>
        let t := d.tether c.val
        let k := if n = 9 ∨ n = 10 then (d.core c.val).settle t else d.core c.val
        let v : Word := lget [k.bank.spd, k.bank.spr, k.bank.fp, k.gp, k.tp, toWord (flgBits k t), k.rc, k.rs, k.rd, k.prod.setWidth 32,
          (k.prod >>> 32).setWidth 32, k.cpoly, k.cacc, if t then 0 else k.tsbr, k.bank.tflg] 0 n.toNat
        d.setCore c.val (k.pushCells t [v]))) ∧
  (∀ n : BitVec 5, 15 ≤ n.toNat →
    CoreTraps (fun c q => .mfs c q n) [BitVec.ofNat 16 (0x0C0 + n.toNat)] (fun _ _ => true) (fun _ _ => Exc.of 0x01)) ∧
  CoreTraps (fun c q => .mfs c q 13) [0x0CD] (fun c d => (d.core c.val).priv == .u) (fun _ _ => Exc.of 0x02) ∧
  CoreTraps (fun c q => .mfs c q 14) [0x0CE] (fun c d => !unitPresent d.variant (tileU (penOf c.val))) (fun _ _ => Exc.of 0x0D)

/-- MTS by the table of the special registers (spec/05 R96 to R98). -/
def Obligations.MoveToSpecial : Prop :=
  (∀ n : BitVec 5, n.toNat < 15 →
    let ext := 6 ≤ n.toNat ∧ n.toNat ≤ 12
    CoreDoes (fun c q => .mts c q n) (bMts n).syl 1 false
      (fun c d =>
        let k := d.core c.val
        let t := d.tether c.val
        stackReady d c.val 1 0 && (!decide ext || extReady d c.val) && (k.priv != .u || !(n.toNat == 3 || n.toNat == 4 || n.toNat == 13)) &&
        !(n.toNat == 13 && t) && (n.toNat != 14 || unitPresent d.variant (tileU (penOf c.val))) &&
        (n.toNat != 0 || k.bank.data.length == 1) && (n.toNat != 1 || t || k.bank.rets.isEmpty) &&
        (n.toNat != 2 || !t && k.bank.wn == 0 && k.bank.wc.isEmpty))
      (fun c d =>
        let t := d.tether c.val
        let v := topCell d c.val
        let k := ((d.core c.val).popCells t 1).1
        let b := k.bank
        let p := k.settle t
        d.setCore c.val (match n.toNat with
          | 0 => k.setBank { b with spd := v }
          | 1 => k.setBank { b with spr := v }
          | 2 => k.setBank { b with fp := v }
          | 3 => { k with gp := v }
          | 4 => { k with tp := v }
          | 5 => { k with z := v.getLsbD 0, n := v.getLsbD 1, c := v.getLsbD 2, v := v.getLsbD 3,
                          ie := if t && k.priv != .u then v.getLsbD 5 else k.ie }
          | 6 => { k with rc := v }
          | 7 => { k with rs := v }
          | 8 => { k with rd := v }
          | 9 => { p with prod := (p.prod >>> 32).setWidth 32 ++ v }
          | 10 => { p with prod := v ++ p.prod.setWidth 32 }
          | 11 => { k with cpoly := v }
          | 12 => { k with cacc := v }
          | 13 => if (d.pen (penOf c.val)).rat.run then k else { k with tsbr := BitVec.ofNat 32 (v.toNat / 128 * 128) }
          | _ => k.setBank { b with tflg := v &&& 0x011F1F1F }))) ∧
  (∀ n : BitVec 5, 15 ≤ n.toNat →
    CoreTraps (fun c q => .mts c q n) [BitVec.ofNat 16 (0x0E0 + n.toNat)] (fun _ _ => true) (fun _ _ => Exc.of 0x01)) ∧
  CoreTraps (fun c q => .mts c q 13) [0x0ED] (fun c d => d.tether c.val) (fun _ _ => Exc.of 0x01) ∧
  (∀ n : BitVec 5, n ∈ [3#5, 4#5, 13#5] →
    CoreTraps (fun c q => .mts c q n) [BitVec.ofNat 16 (0x0E0 + n.toNat)]
      (fun c d => (d.core c.val).priv == .u && !(d.tether c.val && n.toNat == 13)) (fun _ _ => Exc.of 0x02)) ∧
  CoreTraps (fun c q => .mts c q 14) [0x0EE] (fun c d => !unitPresent d.variant (tileU (penOf c.val))) (fun _ _ => Exc.of 0x0D)

/-- The string instructions on own local memory. -/
def Obligations.StringElements : Prop :=
  let size (z : ESize) : Nat := match z with | .b => 1 | .h => 2 | .w => 4
  let code (z : ESize) : Nat := match z with | .b => 0 | .h => 1 | .w => 2
  let got (d : Dev) (c : Nat) (a : Word) (n : Nat) : Word := overlaySb (d.core c).sb (absAddr c a.toNat) n (plainRead d (absAddr c a.toNat) n)
  let hit (c : Fin 32) (d : Dev) : Dev := d.updCore c.val fun k => k.count 1 1
  let once (i : Option Nat → Fin 32 → Cond → Instr) (opc : Nat) (pre : Fin 32 → Dev → Bool) (f : Fin 32 → Dev → Dev) : Prop :=
    (∀ m, CoreDoes (i m) [BitVec.ofNat 16 opc] 0 false (fun c d => extReady d c.val && !(d.core c.val).rpt && pre c d) f) ∧
    ∀ (m : Option Nat) (c : Fin 32) (s : State), reaches s.dev c [BitVec.ofNat 16 opc] = true →
      (s.dev.core c.val).rpt = true → (s.dev.core c.val).rptSquash = false → extReady s.dev c.val = true →
      ((s.dev.core c.val).rc = 0 →
        exec (i m c .always) s = .next { s with dev := ended 0 false c ((begun 1 c s.dev).updCore c.val fun k => { k with rpt := false }) }) ∧
      ((s.dev.core c.val).rc = 1 → m ≠ some 0 → pre c s.dev = true →
        exec (i m c .always) s = .next { s with dev := ended 0 false c (
          (f c (begun 1 c s.dev)).updCore c.val fun k => { k with rc := 0, rpt := false }) })
  (∀ z,
    once (fun m c q => .movs c q z m) (0x0A1 + code z)
      (fun c d => localOk d c.val (d.core c.val).rs (size z) .r && localOk d c.val (d.core c.val).rd (size z) .w)
      (fun c d =>
        let k := d.core c.val
        (plainWrite (hit c (hit c d)) (absAddr c.val k.rd.toNat) (got d c.val k.rs (size z)) (size z)).updCore c.val fun k =>
          { k with rs := k.rs + toWord (size z), rd := k.rd + toWord (size z), cyc := k.cyc + 2 }) ∧
    once (fun m c q => .fills c q z m) (0x0A4 + code z) (fun c d => stackReady d c.val 1 1 && localOk d c.val (d.core c.val).rd (size z) .w)
      (fun c d =>
        (plainWrite (hit c d) (absAddr c.val (d.core c.val).rd.toNat) (topCell d c.val) (size z)).updCore c.val fun k =>
          { k with rd := k.rd + toWord (size z), cyc := k.cyc + 1 }) ∧
    once (fun m c q => .cmps c q z m) (0x0A7 + code z)
      (fun c d => localOk d c.val (d.core c.val).rs (size z) .r && localOk d c.val (d.core c.val).rd (size z) .r)
      (fun c d => (hit c (hit c d)).updCore c.val fun k =>
        { k.setFlags (subFlags (got d c.val k.rs (size z)) (got d c.val k.rd (size z)) true).2 with
          rs := k.rs + toWord (size z), rd := k.rd + toWord (size z), cyc := k.cyc + 2 }) ∧
    once (fun m c q => .scans c q z m) (0x0AA + code z) (fun c d => stackReady d c.val 1 1 && localOk d c.val (d.core c.val).rs (size z) .r)
      (fun c d => (hit c d).updCore c.val fun k =>
        { k.setFlags (subFlags (got d c.val k.rs (size z)) (extendCell (size z) false (topCell d c.val)) true).2 with
          rs := k.rs + toWord (size z), cyc := k.cyc + 1 })) ∧
  once (fun m c q => .crcs c q m) 0x0AD (fun c d => localOk d c.val (d.core c.val).rs 1 .r)
    (fun c d => (hit c d).updCore c.val fun k =>
      let a := crcByte k.cpoly k.cacc (got d c.val k.rs 1)
      { k with cacc := a, z := a == 0, rs := k.rs + 1, cyc := k.cyc + 1 }) ∧
  once (fun m c q => .pars c q m) 0x0AE (fun c d => localOk d c.val (d.core c.val).rs 1 .r)
    (fun c d => (hit c d).updCore c.val fun k =>
      let a := k.cacc ^^^ got d c.val k.rs 1
      { k with cacc := a, z := a == 0, rs := k.rs + 1, cyc := k.cyc + 1 })

/-! Exceptions, gates and returns, interrupt entry (spec/07 R152 to R154, spec/09 R190 to R199, spec/13 R282). -/

/-- What taking an exception saves and where it goes (spec/09 R190 to R192). -/
def Obligations.ExceptionEntry : Prop :=
  ∀ (d : Dev) (c : Nat) (x : Exc) (pc ret : Word) (syl : List Half) (slot : Nat), excReady (tileCutoff d c) c = true →
    let e := excEntered (tileCutoff d c) c x pc ret syl slot
    takeExc d c x pc ret syl slot = e ∧
    ((d.core c).lvl < (d.core c).banks.length →
      let k := d.core c
      let j := e.core c
      let t := d.tether c
      let h := handlerOf d c k.priv
      let g := k.gsb h.1
      j.pc = h.2.1 ∧ j.priv = h.1 ∧ j.z = false ∧ j.n = false ∧ j.c = false ∧ j.v = false ∧ j.ie = k.ie ∧ j.lvl = k.lvl ∧
      j.gdep = k.gdep + 1 ∧ j.gfr = g - 64 ∧ j.gsb h.1 = g - toWord (256 * h.2.2) ∧ j.bank.data = [g - 32] ∧
      j.bank.spr = g - 64 ∧ j.bank.spd = g - toWord (256 * h.2.2 / 4) - 4 ∧ j.bank.fp = g - toWord (256 * h.2.2 / 2) - 64 ∧
      j.gp = k.gp ∧ j.tp = k.tp ∧ j.rc = k.rc ∧ j.rs = k.rs ∧ j.rd = k.rd ∧ j.cacc = k.cacc ∧ j.prod = k.prod ∧ j.sb = k.sb ∧
      (e.pen (penOf c)).excLast = x.cause ∧ (e.pen (penOf c)).excTotal = satInc (d.pen (penOf c)).excTotal 0xFFFF ∧
      (∀ a, a < absAddr c (g - 64).toNat ∨ absAddr c (g - 64).toNat + 64 ≤ a → e.byte a = d.byte a) ∧
      t = e.tether c)

/-- Frames nest: the switch back undoes the switch (spec/09 R191). -/
def Obligations.ReturnReversesEntry : Prop :=
  ∀ (k : Core) (t : Bool) (h : Priv) (g frame ret spd tag : Word) (l : List Word), k.lvl < k.banks.length →
    let r := (k.openFrame t h g frame l).closeFrame t h (frameCells k t ret spd tag h)
    r.pc = ret ∧ r.bank.spd = spd ∧ r.bank.spr = k.bank.spr ∧ r.bank.fp = k.bank.fp ∧ r.gsb h = k.gsb h ∧ r.gfr = k.gfr ∧
    r.gdep = k.gdep ∧ r.gates = k.gates ∧ r.lvl = k.lvl ∧ r.bank.rdepth = k.bank.rdepth ∧
    (t = true → r.bank.data = k.bank.data ∧ r.bank.wc = k.bank.wc ∧ r.bank.wn = k.bank.wn) ∧
    (t = false → r.dbase = k.dbase ∧ r.rbase = k.rbase ∧ r.fbase = k.fbase)

/-- What is taken at a boundary; the core's tile wait is over with it (spec/09 R188, R205, spec/13 R282). -/
def Obligations.BoundaryExceptions : Prop :=
  (∀ (c : Fin 32) (x : ExcReq) (s : State) (b : BoundExc), coreWorks s.dev c.val = true → spareBusy s.dev c.val = false →
    entryDue s.dev c.val = none → levelLoad (s.dev.core c.val) = none → (s.dev.core c.val).held = some b →
    let d := s.dev.updCore c.val fun k => { k with bexc := tdel k.bexc k.lvl }
    let pc := boundaryPc (d.core c.val)
    exec (.exceptionEntry c x) s = .next
      { s with dev := takeExc d c.val { Exc.of b.cause with qual := b.qual, addr := b.addr } pc pc [] ((d.core c.val).slot.getD 0) }) ∧
  (∀ (c : Fin 32) (x : ExcReq) (s : State) (e : PostErr), quiet s.dev c.val = true → (s.dev.core c.val).perr = some e →
    (s.dev.tether c.val = true → (s.dev.core c.val).lvl ≤ e.lvl) →
    let d := s.dev.updCore c.val fun k => { k with perr := none }
    let q : Byte := if e.ecc then 0x30 else 0x10
    let t := takeExc d c.val { Exc.of 0x09 with qual := q, addr := e.addr } e.pc (boundaryPc (d.core c.val)) [] e.slot
    exec (.exceptionEntry c x) s = .next { s with dev := t } ∧ exec (.postedStoreError c) s = .next { s with dev := t }) ∧
  (∀ (c : Fin 32) (x : ExcReq) (s : State), quiet s.dev c.val = true → canRun s.dev c.val = true →
    1 ≤ x.cause.toNat → x.cause.toNat ≤ 13 →
    let k := s.dev.core c.val
    (x.cause ≠ 1 ∨ k.rpt = true ∨ condMet k x.cond = true →
      exec (.exceptionEntry c x) s = .next
        { s with dev := takeExc s.dev c.val { Exc.of x.cause with qual := x.qual, addr := x.addr } k.pc k.pc x.syl (k.slot.getD 0) }) ∧
    (x.cause = 1 → k.rpt = false → condMet k x.cond = false → 1 ≤ x.syl.length →
      exec (.exceptionEntry c x) s = .next { s with dev := ran x.syl.length 1 id c s.dev }))

/-- Gates and returns (spec/09 R193 to R197). -/
def Obligations.GatesAndReturns : Prop :=
  let flags (k : Core) (t : Bool) (flg : Word) : Core := { k with rpt := flg.getLsbD 4, ie := if t then flg.getLsbD 5 else k.ie }
  (∀ n : BitVec 8,
    CoreDoes (fun c q => .gate c q n) (bGate n).syl 1 false (fun c d => (gateCall c.val n (begun 1 c d)).isSome)
      (fun c d => (gateCall c.val n d).getD d) ∧
    (∀ (c : Fin 32) (d e : Dev), gateCall c.val n d = some e → (e.core c.val).priv = gateLevel n.toNat ∧
      (e.core c.val).z = false ∧ (e.core c.val).n = false ∧ (e.core c.val).c = false ∧ (e.core c.val).v = false) ∧
    CoreTraps (fun c q => .gate c q n) [BitVec.ofNat 16 (0x100 + n.toNat)]
      (fun c d => !spareBusy d c.val && (decide (14 ≤ (d.core c.val).gdep) || decide (privNum (gateLevel n.toNat) < privNum (d.core c.val).priv))) (fun _ _ => { Exc.of 0x03 with gate := n.toNat })) ∧
  CoreDoes .eret [0x08A] 1 false
    (fun c d => (d.core c.val).priv != .u && match frameFound c.val true (begun 1 c d) with
      | some (f, _) => !(lget f 0 0).getLsbD 0
      | none => false)
    (fun c d => match frameFound c.val true d with
      | none => d
      | some (f, e) => e.updCore c.val fun k =>
        let w := lget f 0 1
        { flags (k.closeFrame (d.tether c.val) k.priv f) (d.tether c.val) w with
          z := w.getLsbD 0, n := w.getLsbD 1, c := w.getLsbD 2, v := w.getLsbD 3, priv := returnPriv (lget f 0 5) k.priv,
          cyc := k.cyc + 4 }) ∧
  CoreDoes .gret [0x088] 1 false
    (fun c d => match frameFound c.val false (begun 1 c d) with
      | some (f, e) =>
        let m := fld (lget f 0 5) 16 2
        let k := e.core c.val
        !(lget f 0 0).getLsbD 0 && decide (m ≤ k.depth (d.tether c.val)) &&
        if d.tether c.val then (match k.gates with | g :: _ => decide (k.hidden + m ≤ 16) || g.lvl != k.lvl | [] => true)
        else decide (m ≤ k.bank.data.length)
      | none => false)
    (fun c d => match frameFound c.val false d with
      | none => d
      | some (f, e) =>
        let m := fld (lget f 0 5) 16 2
        pushed c.val ((e.core c.val).view.take m) ((popped c.val m e).updCore c.val fun k =>
          { flags (k.closeFrame (d.tether c.val) k.priv f) (d.tether c.val) (lget f 0 1) with
            priv := returnPriv (lget f 0 5) k.priv, cyc := k.cyc + 5 })) ∧
  CoreTraps .eret [0x08A] (fun c d => (d.core c.val).priv == .u) (fun _ _ => Exc.of 0x02) ∧
  CoreTraps .eret [0x08A] (fun c d => (d.core c.val).priv != .u && (d.core c.val).gdep == 0) (fun _ _ => Exc.of 0x03) ∧
  CoreTraps .gret [0x088] (fun c d => (d.core c.val).gdep == 0) (fun _ _ => Exc.of 0x03)

/-- Tether levels (spec/07 R152 to R154), with level-wise tile contexts off. -/
def Obligations.LevelsEnterAndReturn : Prop :=
  let one (d : Dev) (c : Nat) : Bool := !bitOf (lget (d.pen (penOf c)).te.ttxb 0 (c % 4)) 0
  (∀ (c : Fin 32) (s : State) (l : Nat), coreWorks s.dev c.val = true → entryDue s.dev c.val = some l →
    let d := (tileCutoff s.dev c.val).updCore c.val fun k => k.enterLevel l
    let a := ((d.pen (penOf c.val)).tvec + toWord (4 * l)).toNat
    let v := lget (cellsAt d c.val a 1) 0 0
    one s.dev c.val = true → hwOk d c.val (d.core c.val).priv (absAddr c.val a) .r = true → v.getLsbD 0 = false →
    exec (.interruptEntry c) s = .next { s with dev := jumped c.val v (hits c.val 1 d) }) ∧
  (∀ (k : Core) (l : Nat), l < 8 → k.spc.length = 8 → k.sflg.length = 8 → k.sxa.length = 8 → k.banks.length = 8 →
    let j := k.enterLevel l
    lget j.spc 0 l = boundaryPc k ∧ lget j.sflg 0 l = toWord (flgBits k true) ∧ j.lvl = l ∧ j.priv = (if k.keeper then .k else .f) ∧
    j.z = false ∧ j.n = false ∧ j.c = false ∧ j.v = false ∧ j.xs = false ∧ j.rpt = false ∧ j.ie = k.ie ∧
    lget j.sxa 0 l = (lget k.banks Bank.empty l).spr - 48 ∧ j.bank.spr = (lget k.banks Bank.empty l).spr - 48 ∧
    (∀ i, i ≠ l → lget j.banks Bank.empty i = lget k.banks Bank.empty i ∧ lget j.spc 0 i = lget k.spc 0 i)) ∧
  (let own (c : Fin 32) (d : Dev) : Bool := match (d.core c.val).gates with | g :: _ => g.lvl == (d.core c.val).lvl | [] => false
   let high (c : Fin 32) (d : Dev) : Bool := d.tether c.val && (d.core c.val).lvl != 0
   let back (c : Fin 32) (d : Dev) : Dev := d.updCore c.val fun k =>
     let w := lget k.sflg 0 k.lvl
     { k.setBank { k.bank with spr := lget k.sxa 0 k.lvl + 48 } with
       pc := lget k.spc 0 k.lvl, z := w.getLsbD 0, n := w.getLsbD 1, c := w.getLsbD 2, v := w.getLsbD 3, rpt := w.getLsbD 4,
       ie := w.getLsbD 5, xs := w.getLsbD 6, lvl := fld w 8 3, priv := privOfCode (fld w 12 2), nest := setBit k.nest k.lvl false,
       cyc := k.cyc + 4 }
   CoreDoes .reti [0x089] 1 false
     (fun c d => high c d && (d.core c.val).priv != .u && !own c d && !(d.core c.val).xs && one d c.val) back ∧
   CoreDoes .reti [0x089] 1 false
     (fun c d => high c d && (d.core c.val).priv != .u && !own c d && (d.core c.val).xs && one d c.val &&
       hwCells d c.val (d.core c.val).priv (lget (d.core c.val).sxa 0 (d.core c.val).lvl).toNat 8 .r)
     (fun c d => back c ((hits c.val (transfers (lget (d.core c.val).sxa 0 (d.core c.val).lvl).toNat 8) d).updCore c.val fun k =>
       let l := cellsAt d c.val (lget k.sxa 0 k.lvl).toNat 8
       { k with prod := lget l 0 1 ++ lget l 0 0, mulPipe := [], rc := lget l 0 2, rs := lget l 0 3, rd := lget l 0 4, cacc := lget l 0 5,
                cpoly := lget l 0 6, extOwner := fld (lget l 0 7) 0 3, cyc := k.cyc + 8 })) ∧
   CoreTraps .reti [0x089] (fun c d => !high c d) (fun _ _ => Exc.of 0x01) ∧
   CoreTraps .reti [0x089] (fun c d => high c d && (d.core c.val).priv == .u) (fun _ _ => Exc.of 0x02) ∧
   CoreTraps .reti [0x089] (fun c d => high c d && (d.core c.val).priv != .u && own c d) (fun _ _ => Exc.of 0x03))

/-! The engines beside a core's instructions: spill engine, store buffer, dispatcher, task switch, microcode (spec/05 R91, spec/07 R145 to
R148, spec/08 R165 to R172, spec/10 R220 to R223, spec/13 R280 to R284). -/

/-- The Drove spill engine, one cell a time (spec/05 R91, R118, spec/07 R146). A cell of own local memory needs no grant; a refused cell of the
spare bank is not tried again before its handler has returned (log 108). -/
def Obligations.SpillEngine : Prop :=
  (∀ (c : Fin 32) (s : State), ∃ t, exec (.spillCell c) s = .next t) ∧
  ∀ (c : Fin 32) (s : State),
    let k := s.dev.core c.val
    let b := k.bank
    let n := b.data.length - 1
    let idle := s.dev.tether c.val = false ∧ coreMoves s.dev c.val = true ∧ k.parked = none
    (∀ x r, idle → k.spare = x :: r → (k.held.isSome = true ∨ k.next.isSome = true ∨ k.slot = none) →
      (hwOk s.dev c.val k.sparePriv x.1 .w = true →
        exec (.spillCell c) s = .next
          { s with dev := (written c.val [x] s.dev).updCore c.val fun k => { ({ k with spare := r } : Core).count 4 1 with spillProm := 0 } }) ∧
      ∀ e, accCheck s.dev c.val k.sparePriv (absAddr c.val x.1) 4 .w = some e → x.1 < 2 ^ 32 → k.held = none →
        (s.dev.unit (coreU c.val)).st = .active →
        portsGrant s.dev (enginePorts c.val x.1) (spillClass s.dev c.val) (some (s.dev.foldOfCore c.val)) = true →
        exec (.spillCell c) s = .next { s with dev := s.dev.updCore c.val fun k =>
          { k.hold ⟨if e = 0x08 then 0x08 else 0x09, 0x01, toWord x.1⟩ with parked := some k.gdep } }) ∧
    (idle → k.held = none → k.next = none → k.slot.isSome = true → 40 ≤ b.wn → b.wn ≤ 76 → 20 < b.data.length →
      hwOk s.dev c.val k.priv (b.spd + toWord (4 * n)).toNat .w = true →
      exec (.spillCell c) s = .next
        { s with dev := (written c.val [((b.spd + toWord (4 * n)).toNat, lget b.data 0 n)] s.dev).updCore c.val fun k =>
          { ((k.count 4 1).setBank { k.bank with data := k.bank.data.dropLast }) with spillProm := 0 } }) ∧
    (s.dev.tether c.val = true ∨ engineMove k = none → exec (.spillCell c) s = .next s)

/-- The store buffer and outstanding loads (spec/13 R280 to R282, spec/06 R131). No drain of a power entry is under way. -/
def Obligations.StoreBuffer : Prop :=
  let plain (d : Dev) (a : Nat) : Bool := (regionOf a == .sram || regionOf a == .packet || regionOf a == .ret) && eccOf d a == 0
  (∀ (c : Fin 32) (s : State) (l r : List SbEntry) (e : SbEntry), s.dev.clocked = true →
    (s.dev.core c.val).sb = l ++ e :: r → (∀ x ∈ l, x.issued = true) → e.issued = false →
    let f := some (s.dev.foldOfCore c.val)
    (portsGrant s.dev [targetPort e.addr] e.cls f = false →
      exec (.storeIssue c) s = .next { s with dev := portWait s.dev [targetPort e.addr] e.cls f }) ∧
    (portsGrant s.dev [targetPort e.addr] e.cls f = true →
      let d := s.dev.updCore c.val fun k => { k.count 2 1 with sb := l ++ { e with issued := true } :: r }
      exec (.storeIssue c) s = .next { s with dev := charge d f 1 e.cls e.addr })) ∧
  (∀ (c : Fin 32) (s : State) (l r : List SbEntry) (e : SbEntry), s.dev.clocked = true → (s.dev.core c.val).sb = l ++ e :: r →
    l.length < 8 → (∀ x ∈ l, targetPort x.addr ≠ targetPort e.addr) → e.issued = true → s.dev.pmu.step = none → s.dev.pmu.due = [] →
    (plain s.dev e.addr = true →
      let d := plainWrite (s.dev.updCore c.val fun k => { k with sb := l ++ r }) e.addr (e.val &&& toWord (2 ^ (8 * e.size) - 1)) e.size
      exec (.storeAccept ⟨c, Fin.ofNat 8 l.length⟩) s = .next { s with dev := d } ∧
      ∀ x, e.addr + e.size ≤ 0x20000000 → x < e.addr ∨ e.addr + e.size ≤ x → d.byte x = s.dev.byte x) ∧
    (regionOf e.addr = .nothing → (s.dev.unit (coreU c.val)).st ≠ .fenced →
      let x : PostErr := { pc := e.pc, addr := toWord e.addr, lvl := e.lvl, slot := e.slot, ecc := false }
      exec (.storeAccept ⟨c, Fin.ofNat 8 l.length⟩) s = .next { s with dev := postError (s.dev.updCore c.val fun k => { k with sb := l ++ r }) c.val x })) ∧
  (∀ (c : Fin 32) (l : Fin 8) (s : State) (p : PendLoad), coreMoves s.dev c.val = true → p.err = none →
    tfind (s.dev.core c.val).loads l.val = some p → plain s.dev p.addr = true →
    portsGrant s.dev [targetPort p.addr] p.cls (some (s.dev.foldOfCore c.val)) = true →
    let k := (s.dev.core c.val).waited
    let v := extendCell p.size p.signed (overlaySb k.sb p.addr p.size (plainRead s.dev p.addr p.size))
    let j := { k with lvl := l.val, loads := tdel k.loads l.val }
    let j := if p.tos then (j.popCells (s.dev.tether c.val) 1).1 else j
    exec (.loadDataReturn c l) s = .next
      { s with dev := s.dev.setCore c.val { pushedLoaded s.dev c.val j [v] with lvl := k.lvl } })

/-- The dispatch decision (spec/10 R220 to R223). -/
def Obligations.DispatchDecision : Prop :=
  (∀ (p : Fin 8) (s : State) (c r : Nat) (n : Nat) (x : Slot), decides s.dev p.val = true → decisionCore s.dev p.val = some (c, r) →
    pickSlot ((settleCore s.dev p.val c).pen p.val) = some (n, x) → x.parity = false →
    exec (.dispatchDecision p) s = .next { s with dev := ratLevels (((updRat (updSlot (settleCore s.dev p.val c) p.val n fun x =>
        { x with ready := false, run := true, core := c % 4, reserved := x.cost * ruFine, woke := false }) p.val fun r =>
        { r with bal := clampBal (r.bal - (x.cost : Int)) }).updPen p.val fun k => { k with rr := lset k.rr x.pri ((n + 1) % 256) }).updCore c
        fun k => { k with next := some { slot := n, tsb := x.tsb, reason := r } }) p.val }) ∧
  (∀ (k : Pen) (n : Nat) (x : Slot), pickSlot k = some (n, x) →
    (n, x) ∈ k.slots ∧ x.valid = true ∧ x.ready = true ∧ x.run = false ∧ x.fault = false ∧ x.stop = false ∧
    (x.cls = 0 ∨ ((k.rat.floorEff + lget k.rat.thrEff 0 (x.cls - 1) : Nat) : Int) ≤ k.rat.bal - (x.cost : Int)) ∧
    ∀ y ∈ k.slots, slotCandidate k y.2 = true → y.2.pri ≤ x.pri) ∧
  (∀ (d : Dev) (p c n : Nat), (d.core c).slot = some n → (givesUp d c).isSome = true →
    let left : Int := ((slotOf (d.pen p) n).reserved : Int)
    settleCore d p c = updRat (updSlot d p n fun x => { x with reserved := 0 }) p fun r => debitFine r (-left)) ∧
  (∀ (p : Fin 8) (s : State), decides s.dev p.val = false ∨ decisionCore s.dev p.val = none → exec (.dispatchDecision p) s = .next s) ∧
  (∀ (p : Fin 8) (s : State) (c r : Nat), decides s.dev p.val = true → decisionCore s.dev p.val = some (c, r) →
    candidates ((settleCore s.dev p.val c).pen p.val) = [] →
    exec (.dispatchDecision p) s = .next { s with dev := settleCore s.dev p.val c })

/-- The Drove task switch (spec/07 R145 to R148). -/
def Obligations.TaskSwitch : Prop :=
  (∀ (c : Fin 32) (s : State) (t : NextTask), (s.dev.core c.val).next = some t → canSwitch s.dev c.val = true →
    (s.dev.core c.val).slot.isSome = true →
    let d := tileCutoff s.dev c.val
    windowsKnown (d.core c.val) = true → hwCells d c.val .f (d.core c.val).tsbr.toNat 20 .w = true →
    let r := switchReason d c.val t
    let d := d.updCore c.val fun k => k.flushMul.count 4 20
    let d := writtenBlock c.val (d.core c.val).tsbr.toNat (blockCells (d.core c.val) false r) d
    (exec (.taskSwitch ⟨c, true⟩) s = .next { s with dev := switchCut d c.val t r }) ∧
    (hwCells d c.val .f t.tsb.toNat 20 .r = true → tctxOk d c.val (lget (cellsAt d c.val t.tsb.toNat 20) 0 17) = true →
    exec (.taskSwitch ⟨c, false⟩) s = .next
      { s with dev := switchCommit (hits c.val (transfers t.tsb.toNat 20) d) c.val t r (cellsAt d c.val t.tsb.toNat 20) })) ∧
  (∀ (k : Core) (t : NextTask) (f : Nat) (l : List Word), k.lvl < k.banks.length →
    let v (i : Nat) : Word := lget l 0 i
    let j := k.restoreBlock t f true l
    j.pc = v 0 &&& 0xFFFFFFFE ∧ j.z = (v 1).getLsbD 0 ∧ j.n = (v 1).getLsbD 1 ∧ j.c = (v 1).getLsbD 2 ∧ j.v = (v 1).getLsbD 3 ∧
    j.rpt = (v 1).getLsbD 4 ∧ j.bank.spd = v 2 ∧ j.bank.spr = v 3 ∧ j.bank.fp = v 4 ∧ j.gp = v 5 ∧ j.tp = v 6 ∧ j.dbase = v 7 ∧
    j.rbase = v 8 ∧ j.prod = v 10 ++ v 9 ∧ j.rc = v 11 ∧ j.rs = v 12 ∧ j.rd = v 13 ∧ j.cacc = v 14 ∧ j.cpoly = v 15 ∧
    j.bank.tflg = v 16 ∧ j.tctx = v 17 ∧ j.fbase = v 18 ∧ j.slot = some t.slot ∧ j.next = none ∧ j.waiting = false ∧
    j.bank.data = [] ∧ j.bank.rets = [] ∧ j.bank.wn = 0 ∧ (k.spare = [] → j.spare = bankCells k.bank) ∧ j.sb = k.sb ∧ j.cyc = k.cyc + 24 ∧
    (f ≠ 0 → j.priv = .u ∨ j.priv = .f)) ∧
  (∀ (c : Fin 32) (s : State) (n r : Nat) (cut : Bool), (s.dev.core c.val).next = none → (s.dev.core c.val).slot = some n →
    givesUp s.dev c.val = some r → canSwitch s.dev c.val = true →
    let d := tileCutoff s.dev c.val
    windowsKnown (d.core c.val) = true → hwCells d c.val .f (d.core c.val).tsbr.toNat 20 .w = true →
    let d := d.updCore c.val fun k => k.flushMul.count 4 20
    let d := writtenBlock c.val (d.core c.val).tsbr.toNat (blockCells (d.core c.val) false r) d
    exec (.taskSwitch ⟨c, cut⟩) s = .next { s with dev := leaveSlot (dropTask d c.val) (penOf c.val) n r }) ∧
  (∀ (c : Fin 32) (s : State) (cut : Bool), canSwitch s.dev c.val = false → exec (.taskSwitch ⟨c, cut⟩) s = .next s)

/-- The microcode of a custom opcode (spec/08 R165 to R172). The temporaries begin free (log 60). -/
def Obligations.CustomOpcodes : Prop :=
  let word (k : Nat) : Nat := 10 * 2 ^ 22 + 11 * 2 ^ 26 + 2 * 2 ^ 30 + 2 ^ 36 + 2 * 2 ^ 61 + k * 2 ^ 74
  let clean (d : Dev) (c off n : Nat) : Bool :=
    (d.pen (penOf c)).cs.found.isNone && (List.range n).all fun i => !csParityBad (d.pen (penOf c)) (off + i)
  let done (c : Fin 32) (op : CustomOp) (k : Nat) (d : Dev) : Dev :=
    let r := addFlags (customParts op).2.2.1 ((BitVec.ofNat 17 k).signExtend 32) false
    let e := (begun (customParts op).2.1.length c d).updCore c.val fun j =>
      (j.setBank { j.bank with data := r.1 :: j.bank.data.drop 1 }).setFlags r.2
    ended 1 false c { e with free := d.free + 7 }
  (∀ (c : Fin 32) (q : Cond) (op : CustomOp) (s : State) (a k : Nat),
    let i := (customParts op).1
    let cs := (s.dev.pen (penOf c.val)).cs
    executes s.dev c q (customParts op).2.1 = true → stackReady s.dev c.val 1 1 = true → s.dev.tether c.val = false →
    clean s.dev c.val (0x10000 + 2 * i) 2 = true → clean s.dev c.val (16 * a) 16 = true → a < 0x1000 → k < 2 ^ 17 →
    csHalf cs (0x10000 + 2 * i) = 0x8000 + a → csNat cs (16 * a) 16 = word k →
    exec (.customOpcode c q op) s = .next { s with dev := done c op k s.dev }) ∧
  (∀ (c : Fin 32) (q : Cond) (op : CustomOp) (s : State) (a n k : Nat),
    let i := (customParts op).1
    let cs := (s.dev.pen (penOf c.val)).cs
    executes s.dev c q (customParts op).2.1 = true → stackReady s.dev c.val 1 1 = true → s.dev.tether c.val = true →
    clean s.dev c.val (0x10000 + 2 * i) 2 = true → clean s.dev c.val (3 * a) 3 = true →
    clean s.dev c.val (0xC000 + 16 * n) 16 = true → a < 0x4000 → n < 512 → k < 2 ^ 17 →
    csHalf cs (0x10000 + 2 * i) = 0x8000 + a → csNat cs (3 * a) 3 = n + 2 * 2 ^ 9 → csNat cs (0xC000 + 16 * n) 16 = word k →
    exec (.customOpcode c q op) s = .next { s with dev := done c op k s.dev }) ∧
  (∀ (i : Instr) (c : Fin 32) (q : Cond) (n : Insn) (s : State), insnOf i = some (c, q, n) →
    canRun s.dev c.val = true → fetchClean s.dev c.val n.syl.length = true → condMet (s.dev.core c.val) q = true →
    (s.dev.core c.val).rpt = false → (s.dev.core c.val).rptSquash = false →
    wordBad (s.dev.pen (penOf c.val)) (0x10000 + 2 * dispatchIndex (n.syl.headD 0)) = false →
    (csHalf (s.dev.pen (penOf c.val)).cs (0x10000 + 2 * dispatchIndex (n.syl.headD 0))).testBit 15 = false →
    let d := fetched s.dev c.val n.syl.length
    exec i s = .next { s with dev := instrExc (d.setCore c.val (d.core c.val)) c.val (Exc.of 0x01) (coded q n.syl) })

/-! The tile engine (spec/06 R139, spec/15). -/

/-- The issue of the tile instructions (spec/06 R139, spec/15 R318, R320). -/
def Obligations.TileInstructions : Prop :=
  TileRuns (fun e c q => .tzero c q e) 0 0 ∧
  TileRuns (fun e c q => .tld c q e) 1 1 ∧
  TileRuns (fun e c q => .tstTile c q e) 2 1 ∧
  TileRuns (fun e c q => .tadd c q e) 3 0 ∧
  TileRuns (fun e c q => .tsub c q e) 4 0 ∧
  TileRuns (fun e c q => .tmul c q e) 5 0 ∧
  TileRuns (fun e c q => .tmin c q e) 6 0 ∧
  TileRuns (fun e c q => .tmax c q e) 7 0 ∧
  TileRuns (fun e c q => .tmac c q e) 8 0 ∧
  TileRuns (fun e c q => .tsumr c q e) 9 0 ∧
  TileRuns (fun e c q => .tcvt c q e) 10 0 ∧
  TileRuns (fun e c q => .tlerp c q e) 11 1

/-- Integer tile arithmetic (spec/15 R322): operations 3 TADD, 4 TSUB, 5 TMUL, 6 TMIN, 7 TMAX; 0 TZERO, 8 TMAC, 9 TSUMR, 10 TCVT raise no
flags either. -/
def Obligations.IntegerTileOperations : Prop :=
  (∀ (op : Nat) (e : Word) (rd : Nat → Byte), op ≤ 10 → typeFp (extType e) = false → (op = 10 → typeFp (extStype e) = false) →
    (tileCompute op e rd).2 = 0) ∧
  (∀ (op : Nat) (e : Word) (rd : Nat → Byte) (r j : Nat), 3 ≤ op → op ≤ 7 → extType e ≤ 2 → r < extRows e →
    j < extBytes e / typeSize (extType e) →
    let n := typeSize (extType e)
    let x := BitVec.ofNat (8 * n) (leRead rd (elemAt (extTa e) r j n) n)
    let y := BitVec.ofNat (8 * n) (leRead rd (elemAt (extTb e) r j n) n)
    stagedNum (tileCompute op e rd) (elemAt (extTd e) r j n) n =
      (match op with
       | 3 => x + y
       | 4 => x - y
       | 5 => x * y
       | 6 => if x.slt y then x else y
       | _ => if x.slt y then y else x).toNat) ∧
  (∀ (op : Nat) (e : Word) (rd : Nat → Byte) (a : Nat), 3 ≤ op → op ≤ 7 → extType e ≤ 2 →
    (a / 1024 ≠ extTd e ∨ extRows e ≤ a % 1024 / 64 ∨ extBytes e ≤ a % 64) → staged (tileCompute op e rd) a = none)

/-- The commit (spec/15 R329, R331). The exception of a trap waits for an empty spare bank in Drove. -/
def Obligations.TileCommits : Prop :=
  let ready (t : Fin 8) (d : Dev) (o : TileOp) (w : TileWait) : Prop :=
    teLive d t.val = true ∧ (d.pen t.val).te.op = some o ∧ (d.core (4 * t.val + o.core)).tileWait = some w ∧ tileMem o.op = false ∧
    (d.pen t.val).te.injParity = false
  let result (t : Fin 8) (d : Dev) (o : TileOp) : TileRes := tileCompute o.op o.ext fun a => tget (tileCtx d t.val o.core).bytes 0 a
  let traps (t : Fin 8) (d : Dev) (o : TileOp) : Bool :=
    opFp o.op o.ext && ((d.core (4 * t.val + o.core)).bank.tflg >>> 8) &&& 0x1F &&& toWord (result t d o).2 != 0
  (∀ (t : Fin 8) (s : State) (o : TileOp) (w : TileWait), o.core < 4 → (result t s.dev o).2 < 32 → ready t s.dev o w →
    traps t s.dev o = false →
    let r := result t s.dev o
    let c := 4 * t.val + o.core
    let d := updCtx s.dev t.val o.core fun x => { x with bytes := r.1.foldl (fun b y => tset b 0 y.1 y.2) x.bytes }
    let d := updTile d t.val fun te => { te with op := none }
    let d := d.updCore c fun k =>
      let v := k.bank.tflg &&& 0x1F1F
      { k.setBank { k.bank with tflg := if opFp o.op o.ext then v ||| toWord r.2 ||| (toWord r.2 <<< 16) else v } with
        tileWait := none, pc := w.next, cyc := k.cyc + extRows o.ext + 4 }
    let d := updTile d t.val fun te => { te with commits := te.commits + 1, prom := 0 }
    let d := if (d.pen t.val).te.doneEv.getLsbD o.core then fireSource d (340 + 2 * t.val) else d
    exec (.tileCommit t) s = .next { s with dev := stepProgress (tileTake d t.val) }) ∧
  (∀ (t : Fin 8) (s : State) (o : TileOp) (w : TileWait), o.core < 4 → ready t s.dev o w → traps t s.dev o = true →
    spareBusy s.dev (4 * t.val + o.core) = false →
    let r := result t s.dev o
    let c := 4 * t.val + o.core
    let v := ((s.dev.core c).bank.tflg &&& 0x1F1F) ||| toWord (r.2 * 65536 + 0x1000000)
    let d := s.dev.updCore c fun k => k.setBank { k.bank with tflg := v }
    let d := updTile d t.val fun te =>
      let n := lget te.perCore (0, 0, 0) o.core
      { te with traps := satInc te.traps 0xFFFF, perCore := lset te.perCore o.core (n.1, n.2.1, n.2.2 ||| toWord r.2) }
    let d := if (d.pen t.val).te.trapEv.getLsbD o.core then fireSource d (341 + 2 * t.val) else d
    let d := (updTile d t.val fun te => { te with op := none }).updCore c fun k => { k with tileWait := none, cyc := k.cyc + 3 }
    let d := takeExc d c { Exc.of 0x0C with detail := v } w.pc w.pc w.syl ((d.core c).slot.getD 0)
    exec (.tileCommit t) s = .next { s with dev := stepProgress (tileTake d t.val) }) ∧
  (∀ (t : Fin 8) (s : State), (s.dev.pen t.val).te.op = none → exec (.tileCommit t) s = .next s)

/-- Context moves, TTXB and the verbs of the tile engine (spec/15 R332 to R334, R339 to R343). -/
def Obligations.TileContexts : Prop :=
  (∀ (t : Fin 8) (s : State) (i : Nat) (m : TileMove), teLive s.dev t.val = true → i < 4 →
    (∀ j < i, (tileCtx s.dev t.val j).move = none) → (tileCtx s.dev t.val i).move = some m → (s.dev.pen t.val).te.injCtx = false →
    areaOk s.dev (s.dev.pen t.val).fold m.area.toNat 0x2000 = true →
    let a := m.area.toNat
    let f := some (s.dev.pen t.val).fold
    let ports := [0, 256, 512, 768].map fun o => targetPort (a + o)
    let d := charge s.dev f 512 (engineClass s.dev t.val) a
    let after (d : Dev) : Dev := tileTake (portRun 16 (updTile d t.val fun te => { te with prom := 0 }) t.val) t.val
    (portsGrant s.dev ports (engineClass s.dev t.val) f = false →
      exec (.tileMoveComplete t) s = .next { s with dev := portWait s.dev ports (engineClass s.dev t.val) f }) ∧
    (portsGrant s.dev ports (engineClass s.dev t.val) f = true → m.save = true →
      let d := updCtx (ctxSave d a (tileCtx d t.val i).bytes) t.val i fun x => { x with move := none, holder := none, area := none }
      exec (.tileMoveComplete t) s = .next { s with dev := after d }) ∧
    (portsGrant s.dev ports (engineClass s.dev t.val) f = true → m.save = false → (∀ x ∈ s.dev.myc.ecc, x.1 < a ∨ a + 0x2000 ≤ x.1) →
      let l := (d.mem.filter fun x => a ≤ x.1 && x.1 < a + 0x2000).map fun x => (x.1 - a, x.2)
      let d := updCtx d t.val i fun x =>
        { x with bytes := l, holder := some m.owner, area := some m.area, move := none,
                 want := match x.want with | some (o, r) => if o == m.owner then none else some (o, r) | none => none }
      exec (.tileMoveComplete t) s = .next { s with dev := after d })) ∧
  (∀ (c : Fin 32) (v : Word),
    Writes (fun a => .ttxbWrite a c v) (fun q d => isF q (some (d.pen (penOf c.val)).fold)) (tileU (penOf c.val))
      (fun d => !v.getLsbD 0 || areaOk d (d.pen (penOf c.val)).fold (v &&& 0xFFFFFC00).toNat 0x10000)
      (ttxbSet (penOf c.val) (c.val % 4) v)) ∧
  (∀ (d : Dev) (c : Fin 32) (v : Word), (d.pen (penOf c.val)).te.ttxb.length = 4 →
    lget ((ttxbSet (penOf c.val) (c.val % 4) v d).pen (penOf c.val)).te.ttxb 0 (c.val % 4) = v &&& 0xFFFFFC01) ∧
  Reports (fun o => .tile o) .observe [] ∧
  (∀ t : Fin 8, Reports (fun o => .tileShow o t) .observe [.tile t] ∧ Reports (fun o => .xTileStat o t) .engineer [.tile t]) ∧
  (∀ (t : Fin 8) (l : List Nat), (∀ x ∈ l, x < 4) →
    Sets (fun o => .tileEv o t false l) .operate [.tile t] (.tile t) (fun _ => true)
      (fun d => updTile d t.val fun te => { te with doneEv := BitVec.ofNat 4 ((List.range 4).map fun i => if l.contains i then 2 ^ i else 0).sum }) ∧
    Sets (fun o => .tileEv o t true l) .operate [.tile t] (.tile t) (fun _ => true)
      (fun d => updTile d t.val fun te => { te with trapEv := BitVec.ofNat 4 ((List.range 4).map fun i => if l.contains i then 2 ^ i else 0).sum })) ∧
  (∀ (t : Fin 8) (c : Fin 32), penOf c.val = t.val →
    Sets (fun o => .tileTctx o t c none) .operate [.tile t] (.tile t) (fun _ => true) (ttxbSet t.val (c.val % 4) 0) ∧
    ∀ a : Nat, Sets (fun o => .tileTctx o t c (some a)) .operate [.tile t] (.tile t)
      (fun d => a < 0x100000000 && areaOk d (d.pen t.val).fold a 0x10000) (ttxbSet t.val (c.val % 4) (toWord a ||| 1))) ∧
  (∀ (t : Fin 8) (c : Fin 32) (n : Fin 8), penOf c.val = t.val → Reports (fun o => .xTilePeek o t c n.val none) .machine [.tile t]) ∧
  (∀ t : Fin 8,
    Does (fun o => .xTileInject o t true) .machine [.tile t] (fun _ _ => true) (fun _ d => updTile d t.val fun te => { te with injCtx := true }) ∧
    Does (fun o => .xTileInject o t false) .machine [.tile t] (fun _ _ => true)
      (fun _ d => updTile d t.val fun te => { te with injParity := true }))

/-! Reports. -/

/-- Commands that only read (spec/03 R54, R55, R61, and the control tables of the other sections). -/
def Obligations.ReportsOnlyReport : Prop :=
  Reports (fun o => .pwr o) .observe [] ∧ Reports (fun o => .shed o) .observe [] ∧ Reports (fun o => .clk o) .observe [] ∧
  Reports (fun o => .therm o) .observe [] ∧ Reports (fun o => .rtc o) .operate [] ∧ Reports (fun o => .xPwrVmon o) .observe [] ∧
  Reports (fun o => .xPwrLog o) .observe [] ∧ Reports (fun o => .inv o) .observe [] ∧ Reports (fun o => .who o) .observe [] ∧
  Reports (fun o => .sess o) .observe [] ∧ Reports (fun o => .ev o) .observe [] ∧ Reports (fun o => .xBrx o) .observe [] ∧
  (∀ t, Reports (fun o => .xCrc o t) .observe []) ∧ Reports (fun o => .help o none) .observe [] ∧
  (∀ n, 0 < n → n ≤ 256 → Reports (fun o => .log o (some n)) .observe []) ∧ Reports (fun o => .log o none) .observe [] ∧
  Reports (fun o => .unitList o) .observe [] ∧ (∀ u, Reports (fun o => .unitShow o u) .observe [u]) ∧
  (∀ u, Reports (fun o => .xState o u) .engineer [u]) ∧ Reports (fun o => .xStateLog o) .engineer [] ∧
  Reports (fun o => Instr.pen o) .observe [] ∧ (∀ p, Reports (fun o => .penShow o p) .observe [.pen p]) ∧ (∀ c, Reports (fun o => .xCore o c) .engineer [.core c]) ∧
  (∀ c, ReportsWhen (fun o => .xCoreTsb o c) .engineer [.core c] fun d => !d.tether c.val) ∧
  Reports (fun o => .ucode o) .observe [] ∧ (∀ p, Reports (fun o => .ucodePen o p) .observe [.pen p]) ∧
  (∀ p b g, b < 0x1080 → Reports (fun o => .xUcodePeek o p (16 * b) none g) .machine [.pen p]) ∧
  Reports (fun o => .exc o) .observe [] ∧ (∀ p, Reports (fun o => .excPen o p) .observe [.pen p]) ∧ Reports (fun o => .bw o) .observe [] ∧
  (∀ p n, n < 256 → Reports (fun o => .xGate o p n) .engineer [.pen p]) ∧
  Reports (fun o => .ration o) .observe [] ∧ (∀ p, Reports (fun o => .rationPen o p) .observe [.pen p]) ∧
  (∀ p, Reports (fun o => .task o p) .observe [.pen p]) ∧ (∀ p, Reports (fun o => .xRationCoef o p none) .engineer [.pen p]) ∧
  Reports (fun o => .evr o) .observe [] ∧ (∀ f, Reports (fun o => .evrFold o f) .observe [.fold f]) ∧
  (∀ n, n < 512 → Reports (fun o => .evrSrc o n) .observe []) ∧ (∀ p, Reports (fun o => .xEvrRace o p) .engineer [.pen p]) ∧
  Reports (fun o => .xEvrLatch o none) .engineer [] ∧ Reports (fun o => .halt o) .observe [] ∧
  Reports (fun o => .mem o) .observe [] ∧ (∀ f, Reports (fun o => .memFold o f) .observe [.fold f]) ∧
  Reports (fun o => .myc o) .observe [] ∧ Reports (fun o => .ecc o) .observe [] ∧ (∀ c, Reports (fun o => .xSb o c) .engineer [.core c]) ∧
  (∀ t, t < 50 → Reports (fun o => .xMycPort o t) .engineer []) ∧
  Reports (fun o => .dma o) .observe [] ∧ (∀ c, Reports (fun o => .dmaShow o c) .observe [.dma c]) ∧
  (∀ c, ReportsWhen (fun o => .xDmaDesc o c none) .engineer [.dma c] fun d => (d.chan c.val).head ≤ (d.chan c.val).rsize) ∧
  Reports (fun o => .xDmaMovers o) .observe [] ∧
  Reports (fun o => .port o) .observe [] ∧ (∀ u, Reports (fun o => .portShow o u) .observe [portUnit u]) ∧
  (∀ u, Reports (fun o => .xPortRegs o u) .engineer [portUnit u]) ∧ Reports (fun o => .ptab o none) .observe [] ∧
  (∀ u, Reports (fun o => .ptab o (some u)) .observe [portUnit u]) ∧
  (∀ a n, a < 1024 → 1 ≤ n → n ≤ 64 → Reports (fun o => .xPtabDump o (some (a, n))) .engineer []) ∧
  Reports (fun o => .pool o) .observe [] ∧ Reports (fun o => .xPoolMap o) .engineer [] ∧
  Reports (fun o => .afe o) .observe [.afe] ∧ Reports (fun o => .xAfeLast o) .engineer [.afe] ∧ Reports (fun o => .pwm o none) .observe [] ∧
  (∀ n, Reports (fun o => .pwm o (some n)) .observe [.pwm n]) ∧
  (∀ n, Reports (fun o => .xPwmRegs o n) .engineer [.pwm n]) ∧ Reports (fun o => .xGpioMism o false) .engineer [.gpio] ∧
  (∀ (o : Via) (s : State), allowed o .observe [] s.dev = true →
    ∃ data, exec (.boot o) s = .next { s with dev := answered o data okS (arrived o s.dev) })

/-! The power management unit (spec/02, spec/13 R284, R285, spec/19 R419, R431, R438, R439). -/

/-- Power states (spec/02 R22 to R25, spec/13 R284). No shedding step waits to be applied. -/
def Obligations.PowerStates : Prop :=
  let free (d : Dev) (t : PState) : Bool :=
    settled d .pmu && d.pmu.trans.isNone && d.pmu.step.isNone && !foldResetRunning d && t != d.pmu.cur &&
    !(t == .spore && d.pmu.wakeTarget == .idle) && !((t == .spore || t == .retain) && d.pmu.wakeEn == 0)
  let started (t : PState) (o : CmdOrigin) (d : Dev) : Dev := updPmu (bumpGen d .pmu) fun m =>
    { m with trans := some { target := t, origin := o, stage := .drain }, refused := false }
  let arrivedAt (t : PState) (d : Dev) : Dev :=
    let d := updPmu d fun m => { m with cur := t, trans := none, lock := m.lock && t != .retain && t != .spore && t != .off }
    pmuLog (if t == .off then { d with halter := { d.halter with driven := false } } else d) ("STATE " ++ pstateName t)
  let cmd (i : Agent → BitVec 16 → Instr) (t : PState) : Prop := ∀ (a : Agent) (g : BitVec 16) (s : State),
    isK (reqOf s.dev a) = true → settled s.dev .pmu = true →
    (g.toNat = (s.dev.unit .pmu).gen.toNat → free s.dev t = true →
      exec (i a g) s = .next { s with dev := arbLog (started t .reg s.dev) (reqOf s.dev a).src .pmu "write" .ok }) ∧
    (g.toNat ≠ (s.dev.unit .pmu).gen.toNat →
      exec (i a g) s = .next
        { s with dev := arbLog (updPmu s.dev fun m => { m with refused := true }) (reqOf s.dev a).src .pmu "write" .stale })
  let verb (i : Via → Instr) (role : Role) (t : PState) : Prop :=
    Denies i role [] ∧ ∀ (o : Via) (s : State), allowed o role [] s.dev = true → (o = .script → t = .run ∨ t = .slow) →
      let d := arrived o s.dev
      free d t = true →
        let d := started t (.via o) d
        let d := match viaPort o with | some p => d.updMg p fun k => { k with busy := some o } | none => d
        exec (i o) s = .next { s with dev := arbLog d (viaSrc o) .pmu "write" .ok }
  let there (i : Via → Instr) (t : PState) : Prop := ∀ (o : Via) (s : State), allowed o .operate [] s.dev = true →
    let d := arrived o s.dev
    settled d .pmu = true → d.pmu.trans = none → foldResetRunning d = false → d.pmu.cur = t →
      exec (i o) s = .next { s with dev := answered o [] okS (arbLog d (viaSrc o) .pmu "write" .ok) }
  cmd (fun a g => .pmuCmdRun a g) .run ∧ cmd (fun a g => .pmuCmdSlow a g) .slow ∧ cmd (fun a g => .pmuCmdIdle a g) .idle ∧
  cmd (fun a g => .pmuCmdRetain a g) .retain ∧ cmd (fun a g => .pmuCmdSpore a g) .spore ∧ cmd (fun a g => .pmuCmdOff a g) .off ∧
  there (fun o => .pwrRun o) .run ∧ there (fun o => .pwrSlow o) .slow ∧
  verb (fun o => .pwrRun o) .operate .run ∧ verb (fun o => .pwrSlow o) .operate .slow ∧ verb (fun o => .pwrIdle o) .operate .idle ∧
  verb (fun o => .pwrRetain o) .operate .retain ∧ verb (fun o => .pwrSpore o) .operate .spore ∧
  verb (fun o => .pwrOff o) .engineer .off ∧
  (∀ (s : State) (t : Trans), s.dev.pmu.trans = some t → t.stage = .drain → transDrained s.dev t.target = true →
    ((t.target = .run ∨ t.target = .slow) → t.origin = .reg → s.dev.pmu.due = [] →
      exec .powerDrainComplete s = .next { s with dev := arrivedAt t.target s.dev }) ∧
    (t.target ≠ .run → t.target ≠ .slow → t.origin = .reg →
      exec .powerDrainComplete s = .next { s with dev := updPmu s.dev fun m => { m with trans := some { t with stage := .entry } } }) ∧
    ∀ p, t.target ≠ .run → t.target ≠ .slow → t.origin = .via (.typed p) →
      exec .powerDrainComplete s = .next { s with dev := updPmu (s.dev.updMg p fun k =>
        { k with tx := k.tx ++ [.line "ok", .prompt], busy := none, deferred := some .power }) fun m =>
        { m with trans := some { t with stage := .wait p } } }) ∧
  Happens .powerDrainTimeout
    (fun d => match d.pmu.trans with
      | some t => t.stage == .drain && !transDrained d t.target && (match t.origin with | .reg => true | _ => false) && d.pmu.due.isEmpty
      | none => false)
    (fun d => updPmu d fun m => { m with trans := none, refused := true }) ∧
  (∀ (s : State) (t : Trans), s.dev.pmu.trans = some t → t.stage = .entry → s.dev.pmu.due = [] → s.dev.pmu.wakeLatched = none →
    t.target ≠ .run → t.target ≠ .slow → exec .powerStateEntryComplete s = .next { s with dev := arrivedAt t.target s.dev }) ∧
  (∀ w, Happens (.wakeFromIdle w) (fun d => d.pmu.cur == .idle && d.pmu.trans.isNone && wakesIdle d w)
    (fun d => noteWake (updPmu d fun m => { m with cur := if m.wakeTarget == .slow then .slow else .run }) w)) ∧
  (∀ w, Happens (.wakeFromRetain w .locked)
    (fun d => d.pmu.cur == .retain && d.pmu.trans.isNone && wakesDeep d w && !d.pmu.fallback && d.pmu.deferred.isEmpty &&
      d.pmu.heldSrc.isEmpty && d.evr.latch == 0 && d.pmu.due.isEmpty)
    (fun d => noteWake (updPmu d fun m => { m with cur := m.wakeTarget, lock := true, refOk := true }) w)) ∧
  (∀ w, Happens (.wakeFromSpore w)
    (fun d => d.pmu.cur == .spore && d.pmu.trans.isNone && wakesDeep d w && (match d.phase with | .reset _ => false | _ => true))
    (fun d => noteWake (deviceReset d .spore) w)) ∧
  (∀ (d : Dev) (w : WakeSrc), (noteWake d w).pmu.wakeCause.getLsbD (wakeBit w) = true ∧ (noteWake d w).pmu.wakeLatched = none)

/-- Resets and shedding (spec/02 R25 to R41, spec/13 R285). Voltages in hundredths of a volt, temperatures in quarters of a degree. -/
def Obligations.ResetsAndShedding : Prop :=
  let quietPhase (d : Dev) : Bool := match d.phase with | .reset _ => false | _ => true
  (∀ v x, Happens (.powerOnReset ⟨v, x⟩) (fun d => v < 250 || d.pmu.cur == .off && v < 410)
    (fun d => updPmu (setVin (deviceReset { d with pins := { d.pins with viosel := x } } .por) v) fun m =>
      { m with vinLow := m.vinNow, stopOv := false, stopOt := false })) ∧
  (∀ v, 250 ≤ v → Happens (.brownOutReset v) (fun d => d.pmu.cur != .off && quietPhase d) (fun d => deviceReset (setVin d v) .bor)) ∧
  (∀ v, 3800 < v → Happens (.overVoltageReset v) (fun d => d.pmu.cur != .off && quietPhase d)
    (fun d => updPmu (deviceReset (setVin d v) .ovr) fun m => { m with stopOv := true })) ∧
  (∀ k t, (660 : Int) ≤ t →
    Happens (.overTemperatureReset k t) (fun d => d.pmu.cur != .off && quietPhase d) 
      (fun d => updPmu (deviceReset (setTemp d k.val t) .otr) fun m => { m with stopOt := true })) ∧
  Happens .pinReset (fun d => d.pmu.cur != .off && quietPhase d) (fun d => deviceReset d .pin) ∧
  (∀ v t, 750 ≤ v → Happens (.resetRelease v t .locked)
    (fun d => (match d.phase with | .reset c => releaseOk d c v t | _ => false) && !d.pmu.fallback && d.pmu.deferred.isEmpty)
    (fun d =>
      let e := updPmu { d with phase := .boot, halter := { d.halter with driven := true } } fun m =>
        { m with stopOv := false, stopOt := false, vio := if d.phase = .reset .por then d.pins.viosel else m.vio }
      thermEval (updPmu (coolTo (setVin e v) t) fun m => { m with lock := true, refOk := true }))) ∧
  (∀ (d : Dev) (c : RstCause) (v : Nat) (t : Int), releaseOk d c v t = true ↔
    (if c = .por ∨ c = .bor then 440 < v else 410 ≤ v) ∧ (d.pmu.stopOv = true → v ≤ 3600) ∧ (d.pmu.stopOt = true → t ≤ 500)) ∧
  (∀ (v : Nat) (x : Int) (s : State) (c : RstCause), s.dev.phase = .reset c → releaseOk s.dev c v x = true →
    ∃ t, exec (.resetRelease v x .locked) s = .next t ∧ t.dev.phase = .boot ∧
      ∀ k : Fin 5, v < restoreLevel k → stepApplied t.dev k = true ∧ hasShedCause t.dev.pmu k .vin = true) ∧
  (∀ (d : Dev) (c : RstCause), (deviceReset d c).phase = .reset c ∧ (deviceReset d c).pmu.rstCause = c ∧ (deviceReset d c).flash = d.flash ∧
    (deviceReset d c).pins = d.pins ∧ (∀ p, (deviceReset d c).pen p = Pen.reset (referenceFold d.variant p)) ∧ (∀ n, (deviceReset d c).core n = Core.reset) ∧
    (c ≠ .por → (deviceReset d c).pmu.rtcSec = d.pmu.rtcSec ∧ (deviceReset d c).pmu.vinLow = d.pmu.vinLow)) ∧
  (∀ n v, v < shedThreshold n → Happens (.shedStepApply n .vin v) (fun d => quietPhase d && d.pmu.cur != .off)
    (fun d => (stepsUpTo n).foldl (shedDue .vin) (setVin d v))) ∧
  (∀ n v, Happens (.shedStepApply n .therm v) (fun d => quietPhase d && d.pmu.cur != .off && decide (n.val < 2) && decide (600 ≤ seenTj d))
    (fun d => (stepsUpTo n).foldl (shedDue .therm) d)) ∧
  (∀ (c : ShedCause) (k : Fin 5) (d : Dev), d.clocked = true → d.pmu.trans = none → d.pmu.step = none → d.pmu.due = [] →
    hasShedCause d.pmu k c = false → stepApplied d k = false → (k = 2 ∨ k = 3) →
    let e := emit (updPmu d fun m => addShedCause m k c) (some .pwr) none ("!SHED " ++ stepName k ++ " " ++ shedCauseName c)
    let e := pmuLog (fireSource e 356) ("SHED " ++ stepName k ++ " " ++ shedCauseName c)
    stepApplied (shedDue c d k) k = true ∧ (shedDue c d k).pmu.step = none ∧
    let e := updPmu e fun m => { m with due := [], step := some (k, .drain) }
    shedDue c d k = updPmu (shedUnits ((newlyShed e k).foldl (fun d i => d.updCore i fun n => { n with shedlost := 0 }) e) k) fun m =>
      { m with applied := setBit m.applied k.val true, step := none }) ∧
  Happens .tileCommitWindowExpiry
    (fun d => (match d.pmu.step with | some (0, .window) => true | _ => false) && noTileOps d && d.pmu.due.isEmpty) (fun d => finishStep d 0) ∧
  (∀ k : Fin 5, k ≠ 4 → Happens .shedDrainTimeout
    (fun d => (match d.pmu.step with | some (j, .drain) => j == k | _ => false) && d.pmu.due.isEmpty)
    (fun d => finishStep ((stepCores d k).foldl sbDiscard d) k)) ∧
  (∀ (d : Dev) (c : Nat), (d.core c).shedlost ≤ 15 →
    ((sbDiscard d c).core c).sb = (d.core c).sb.filter (·.issued) ∧
    ((sbDiscard d c).core c).shedlost = min 15 ((d.core c).shedlost + ((d.core c).sb.filter fun e => !e.issued).length)) ∧
  Happens .s5SaveCopy (fun d => (match d.pmu.step with | some (_, .copy) => true | _ => false) && d.pmu.cur == .retain)
    (fun d =>
      let n := fld d.pmu.s5len 0 6 * 256
      updPmu (d.setByteList 0x19002000 (d.bytes d.pmu.s5base.toNat n)) fun m => { m with step := none }) ∧
  (∀ (n : Fin 5) (v : Nat) (t : Int), Happens (.restoreEligible n v t)
    (fun d => d.pmu.thermSim.isNone && stepApplied (coolTo (setVin d v) t) n && causesClear (coolTo (setVin d v) t) n v t &&
      !(coolTo (setVin d v) t).pmu.elig.getLsbD n.val)
    (fun d => emit (pmuLog (fireSource (updPmu (coolTo (setVin d v) t) fun m => { m with elig := setBit m.elig n.val true }) 357)
      ("ELIG " ++ stepName n)) (some .pwr) none ("!ELIG " ++ stepName n))) ∧
  (∀ (k : Fin 10) (t : Int), 540 ≤ t →
    (Happens (.thermWarn k t)
      (fun d => let e := setTemp d k.val t; decide (seenTj e < 600) && decide (540 ≤ seenTj e) && !e.pmu.atWarn)
      (fun d => emit (pmuLog (fireSource (updPmu (notePeak (setTemp d k.val t)) fun m => { m with warn := true, atWarn := true }) 359) "THERM WARN")
        (some .pwr) none "!THERM WARN")) ∧
    (600 ≤ t → Happens (.thermTrip k t)
      (fun d => let e := setTemp d k.val t; decide (600 ≤ seenTj e) && !e.pmu.atWarn && !e.pmu.atTrip)
      (fun d =>
        let e := emit (pmuLog (fireSource (updPmu (notePeak (setTemp d k.val t)) fun m => { m with warn := true, atWarn := true }) 359) "THERM WARN")
          (some .pwr) none "!THERM WARN"
        let e := emit (pmuLog (fireSource (updPmu e fun m => { m with trip := true, atTrip := true }) 360) "THERM TRIP") (some .pwr) none "!THERM TRIP"
        shedDue .therm (shedDue .therm e 0) 1))) ∧
  (∀ b, Happens (.clkFail b) (fun d => d.clocked && !d.pmu.fallback)
    (fun d => clockFence (updPmu d fun m => { m with lock := false, refOk := m.refOk && !b, fallback := true }))) ∧
  Happens .pllRelock (fun d => d.clocked) (fun d => updPmu d fun m => { m with refOk := true, lock := true }) ∧
  (∀ p, Happens (.lineBreak p)
    (fun d => d.clocked && d.pmu.trans.isNone && d.pmu.cur != .idle && (d.mg p).ready && (d.unit (.mg p)).st != .fenced &&
      (d.unit (.mg p)).st != .off)
    (fun d =>
      let e := d.updMg p fun k =>
        { dropSession k with cfg := 0x00040480, rx := [], rxBad := false, rxOver := false, lastCr := false, lines := [] }
      (emit e (some .sess) none ("!SESS " ++ portName p ++ " BREAK")).updMg p fun k => { k with tx := k.tx ++ [.prompt] })) ∧
  Happens .rtcSecondTick (fun d => d.pmu.cur != .off && d.pmu.rtcSec + 1 != d.pmu.rtcAlm)
    (fun d =>
      let one (k : Console) : Console := { k with idle := k.idle + 1, chal := k.chal.map fun c => { c with age := c.age + 1 } }
      { updPmu d fun m => { m with rtcSec := m.rtcSec + 1 } with mga := one d.mga, mgb := one d.mgb }) ∧
  Happens .rtcSecondTick (fun d => d.pmu.cur != .off && d.pmu.rtcSec + 1 == d.pmu.rtcAlm && d.pmu.rtcAlm != 0xFFFFFFFF && !armed d .rtc)
    (fun d =>
      let one (k : Console) : Console := { k with idle := k.idle + 1, chal := k.chal.map fun c => { c with age := c.age + 1 } }
      let e := fireSource (updPmu d fun m => { m with rtcSec := m.rtcSec + 1 }) 362
      { e with mga := one e.mga, mgb := one e.mgb })

/-- PMU settings (spec/02 R23 to R42, R438). -/
def Obligations.PmuSettings : Prop :=
  let k (q : Req) (_ : Dev) : Bool := isK q
  (∀ v : Word, v &&& 3 ≠ 3 → Writes (fun a => .pmuWakeWrite a v) k .pmu (fun _ => true)
    (fun d => updPmu d fun m => { m with wakeTarget := if v &&& 3 = 1 then .slow else if v &&& 3 = 2 then .idle else .run })) ∧
  (∀ (n : Fin 5) (a : Agent) (s : State), isK (reqOf s.dev a) = true → settled s.dev .pmu = true → (restore n s.dev).2 = .ok →
    exec (.pmuRestoreWrite a (1 <<< n.val)) s = .next
      { s with dev := arbLog (restore n s.dev).1 (reqOf s.dev a).src .pmu "write" .ok }) ∧
  (∀ (n : Fin 5) (d : Dev) (k : Fin 5) (r : List (Fin 5)), appliedDeep d = k :: r →
    ((restore n d).2 = .ok ↔ d.pmu.elig.getLsbD k.val = true) ∧
    ((restore n d).2 = .ok → n.val ≤ k.val → stepApplied (restore n d).1 k = false ∧
      ((restore n d).1.unit .pmu).gen = (d.unit .pmu).gen + 1)) ∧
  (∀ v, Writes (fun a => .lwatchWrite a v) k .pmu (fun d => designFree d 3 && lwatchOk d v)
    (fun d => updPmu d fun m => { m with lwatch := v &&& 0x87 })) ∧
  (∀ v, Writes (fun a => .keepafeWrite a v) k .pmu (fun d => designFree d 2 && decide (popNat v.toNat 24 ≤ 4))
    (fun d => updPmu d fun m => { m with keepAfe := v &&& 0xFFFFFF })) ∧
  (∀ v, Writes (fun a => .keepportWrite a v) k .pmu
    (fun d => designFree d 2 && decide (popNat v.toNat 4 ≤ 2) && decide (popNat (v.toNat / 256) 4 ≤ 1))
    (fun d => updPmu d fun m => { m with keepPort := v &&& 0xF0F })) ∧
  (∀ v, Writes (fun a => .keepdmaWrite a false v) k .pmu (fun d => designFree d 3 && keepDmaOk d 0 v)
    (fun d => updPmu d fun m => { m with keepDmaLo := v }) ∧
    Writes (fun a => .keepdmaWrite a true v) k .pmu (fun d => designFree d 3 && keepDmaOk d 32 v)
    (fun d => updPmu d fun m => { m with keepDmaHi := v })) ∧
  (∀ v, Writes (fun a => .s5RegionWrite a false v) k .pmu (fun d => designFree d 4)
    (fun d => updPmu d fun m => { m with s5base := v &&& 0xFFFFFF00 }) ∧
    Writes (fun a => .s5RegionWrite a true v) k .pmu (fun d => designFree d 4 && decide (v.toNat ≤ 32))
    (fun d => updPmu d fun m => { m with s5len := v &&& 0x3F })) ∧
  Sets (fun o => .pwrWake o 0) .operate [] .pmu (fun _ => true) (fun d => updPmu d fun m => { m with wakeTarget := .run }) ∧
  Sets (fun o => .pwrWake o 1) .operate [] .pmu (fun _ => true) (fun d => updPmu d fun m => { m with wakeTarget := .slow }) ∧
  Sets (fun o => .pwrWake o 2) .operate [] .pmu (fun _ => true) (fun d => updPmu d fun m => { m with wakeTarget := .idle }) ∧
  (∀ w, Sets (fun o => .pwrArm o [w]) .operate [] .pmu (fun _ => true)
    (fun d => updPmu d fun m => { m with wakeEn := setBit m.wakeEn (armBit w) true }) ∧
    Sets (fun o => .pwrDisarm o [w]) .operate [] .pmu (fun _ => true)
    (fun d => updPmu d fun m => { m with wakeEn := setBit m.wakeEn (armBit w) false })) ∧
  (∀ n : Option (Fin 5), Does (fun o => .pwrRestore o n) .operate [] (fun _ d => settled d .pmu && (restore (n.getD 0) d).2 == .ok)
    (fun o d => arbLog (restore (n.getD 0) d).1 (viaSrc o) .pmu "write" .ok)) ∧
  (∀ p : Fin 8, Sets (fun o => .shedLastwatch o (some p)) .engineer [.pen p] .pmu
    (fun d => designFree d 3 && (d.pen p.val).pers == some true && unitPresent d.variant (.pen p))
    (fun d => updPmu d fun m => { m with lwatch := toWord (p.val + 128) })) ∧
  Sets (fun o => .shedLastwatch o none) .engineer [] .pmu (fun d => designFree d 3) (fun d => updPmu d fun m => { m with lwatch := 0 }) ∧
  (∀ n : Fin 24, Sets (fun o => .shedKeep o .afe [n.val]) .engineer [.afe] .pmu (fun d => designFree d 2)
    (fun d => updPmu d fun m => { m with keepAfe := toWord (2 ^ n.val) })) ∧
  (∀ n : Fin 4, Sets (fun o => .shedKeep o .can [n.val]) .engineer [.can n] .pmu
    (fun d => designFree d 2 && decide (popNat (d.pmu.keepPort.toNat / 256) 4 ≤ 1))
    (fun d => updPmu d fun m => { m with keepPort := (m.keepPort &&& 0xF00) ||| toWord (2 ^ n.val) })) ∧
  Sets (fun o => .shedKeep o .dma []) .engineer [] .pmu (fun d => designFree d 3)
    (fun d => updPmu d fun m => { m with keepDmaLo := 0, keepDmaHi := 0 }) ∧
  (∀ a n : Nat, a % 256 = 0 → n % 256 = 0 → n ≤ 8192 → 0x10000000 ≤ a → a + n ≤ 0x10780000 →
    Sets (fun o => .shedSave o (some (a, n))) .engineer [] .pmu (fun d => designFree d 4)
      (fun d => updPmu d fun m => { m with s5base := toWord a, s5len := toWord (n / 256) })) ∧
  Sets (fun o => .shedSave o none) .engineer [] .pmu (fun d => designFree d 4) (fun d => updPmu d fun m => { m with s5base := 0, s5len := 0 }) ∧
  (∀ n : Nat, n < 2 ^ 32 →
    Does (fun o => .rtcSet o n) .operate [] (fun _ d => toWord n != d.pmu.rtcAlm) (fun _ d => updPmu d fun m => { m with rtcSec := toWord n }) ∧
    Does (fun o => .rtcAlarm o (some n)) .operate [] (fun _ d => toWord n != d.pmu.rtcSec)
      (fun _ d => updPmu d fun m => { m with rtcAlm := toWord n })) ∧
  Does (fun o => .rtcAlarm o none) .operate [] (fun _ _ => true) (fun _ d => updPmu d fun m => { m with rtcAlm := 0xFFFFFFFF }) ∧
  (∀ n : Fin 5, Does (fun o => .xPwrSim o n) .engineer [] (fun _ d => !noSim d) (fun _ d => (stepsUpTo n).foldl (shedDue .sim) d)) ∧
  Does (fun o => .xPwrSimOff o) .engineer [] (fun _ d => !noSim d)
    (fun _ d => (List.finRange 5).foldl (fun e k =>
      if hasShedCause d.pmu k .sim && !hasShedCause d.pmu k .vin && !hasShedCause d.pmu k .therm then makeEligible e k else e)
      (updPmu d fun m => { m with scause := 0 })) ∧
  (∀ t : Int, -512 ≤ t → t < 512 → Does (fun o => .xThermSim o (some t)) .engineer [] (fun _ d => !noSim d)
    (fun _ d => thermEval (updPmu d fun m => { m with thermSim := some (BitVec.ofInt 12 (4 * t)) }))) ∧
  Does (fun o => .xThermSim o none) .engineer [] (fun _ d => !noSim d) (fun _ d => thermEval (updPmu d fun m => { m with thermSim := none })) ∧
  Does (fun o => .xClkRestore o) .engineer [] (fun _ d => d.pmu.refOk && d.pmu.lock && d.pmu.fallback)
    (fun _ d => updPmu d fun m => { m with fallback := false, clkFailPend := false })

/-! The management ports, sessions and Brenex (spec/03). -/

/-- Receiving and sending (spec/03 R44 to R63). -/
def Obligations.ConsoleLines : Prop :=
  (∀ (p : MgPort) (ch : Byte), 0x20 ≤ ch.toNat → ch.toNat ≤ 0x7E → Happens (.characterReceived p ch false)
    (fun d => portSends d p && (d.mg p).ready && !(d.mg p).rxOver && decide (rxUsed (d.mg p) < 512) && !rxGen (d.mg p))
    (fun d => d.updMg p fun k => { k with
      rx := k.rx ++ [ch], lastCr := false,
      tx := if k.cfg.getLsbD 18 && (k.rx != [] || ch != 0x23) then k.tx ++ [.echo ch] else k.tx })) ∧
  (∀ (p : MgPort) (ch : Byte), Happens (.characterReceived p ch true) (fun d => portSends d p && (d.mg p).ready)
    (fun d => d.updMg p fun k => { k with rxBad := true, lastCr := false, cntFraming := satInc k.cntFraming 0xFF })) ∧
  (∀ p : MgPort, Happens (.characterReceived p 0x0D false)
    (fun d => portSends d p && (d.mg p).ready && ((d.mg p).rxOver || decide (rxUsed (d.mg p) < 512))) (fun d => d.updMg p fun k => { k with
      lastCr := true, rx := [], rxBad := false, rxOver := false, 
      lines := k.lines ++ [{ text := k.rx, bad := k.rxBad, ovf := k.rxOver, stamp := nextStamp d, cut := false }],
      tx := if k.cfg.getLsbD 18 && !rxGen k then k.tx ++ [.echo 0x0D] else k.tx })) ∧
  (∀ p : MgPort, Happens (.characterReceived p 0x0A false) (fun d => portSends d p && (d.mg p).ready && (d.mg p).lastCr)
    (fun d => d.updMg p fun k => { k with lastCr := false })) ∧
  (∀ (p : MgPort) (s : State) (l : RxLine) (r : List RxLine), (s.dev.mg p).lines = l :: r → inTurn s.dev p l = true →
    lineUnfit l = none → printable l.text = true →
    let taken := s.dev.updMg p fun k => { k with lines := r }
    let typed := (lineArrives taken p false).updMg p fun k => { k with cut := l.cut }
    (l.text.head? ≠ some 0x23 → l.text.all (· == 0x20) = false →
      (∀ c, parseCommand (.typed p) false (lineText l.text) = .ok c →
        exec (.typedLine p) s = .next (runCmd c { s with dev := typed })) ∧
      ∀ e, parseCommand (.typed p) false (lineText l.text) = .error e →
        exec (.typedLine p) s = .next { s with dev := answered (.typed p) [] (syntaxEr e) typed }) ∧
    (l.text.head? = some 0x23 → ∀ body c, crcSplit (lineText l.text) = some (body, c) →
      let d := lineArrives taken p true
      ((crc16 (body.map fun x => BitVec.ofNat 8 x.toNat)).toNat ≠ c →
        let e := d.updMg p fun k => { k with cntCrc := satInc k.cntCrc 0xFFFF }
        exec (.generatedLine p) s = .next { s with dev := genStatus e p ((seqOf (lineText l.text)).map (·.1)) (er 70) }) ∧
      ((crc16 (body.map fun x => BitVec.ofNat 8 x.toNat)).toNat = c → ∀ q cmd, seqOf body.dropLast = some (q, cmd) →
        ((s.dev.mg p).kept = none → exec (.generatedLine p) s = .next (genRun p q cmd { s with dev := d })) ∧
        ∀ x xs, (s.dev.mg p).kept = some (q, String.ofList cmd, x :: xs) →
          exec (.generatedLine p) s = .next { s with dev := sendLines d (.gen p q) (x :: xs) }))) ∧
  (∀ (p : MgPort) (s : State) (e : Event) (r : List Event), portSends s.dev p = true → (s.dev.mg p).ready = true →
    (s.dev.mg p).busy = none → (s.dev.mg p).lostPend = 0 → (s.dev.mg p).evq = e :: r → (s.dev.mg p).rx = [] →
    exec (.eventTransmit p) s = .next { s with dev := s.dev.updMg p fun k => { k with
      evq := r, evCount := k.evCount + 1,
      tx := k.tx ++ [.line (if k.genForm then withCrc ("!" ++ toString k.evCount.toNat ++ " " ++ String.ofList (e.text.toList.drop 1))
        else e.text)] } }) ∧
  Happens .ready
    (fun d => d.phase == .run && !d.mga.ready && !d.mgb.ready && portSends d .mga && portSends d .mgb && !d.boot.secondary &&
      d.boot.scriptEnd.isNone)
    (fun d =>
      let line := "!READY " ++ variantName d.variant ++ " " ++ stepName' d.step ++ " " ++ rstName d.pmu.rstCause
      { d with mga := { d.mga with ready := true, evCount := d.mga.evCount + 1, tx := d.mga.tx ++ [.line line, .prompt] },
               mgb := { d.mgb with ready := true, evCount := d.mgb.evCount + 1, tx := d.mgb.tx ++ [.line line, .prompt] } }) ∧
  (∀ (p : MgPort) (s : State), let e := s.dev.updMg p fun k => { k with deferred := none }
    ((s.dev.mg p).deferred = none → exec (.statusLineSent p) s = .next s) ∧
    (∀ c, (s.dev.mg p).deferred = some (.baud c) →
      exec (.statusLineSent p) s = .next { s with dev := e.updMg p fun k => { k with cfg := c } }) ∧
    ((s.dev.mg p).deferred = some .resetDevice → exec (.statusLineSent p) s = .next { s with dev := deviceReset e .cmd }) ∧
    (∀ t, (s.dev.mg p).deferred = some .power → s.dev.pmu.trans = some t → t.stage = .wait p →
      exec (.statusLineSent p) s = .next { s with dev := updPmu e fun m => { m with trans := some { t with stage := .entry } } }))

/-- Sessions (spec/03 R54 to R66). The nonce is a free value. -/
def Obligations.Sessions : Prop :=
  let port (o : Via) : Bool := (viaPort o).isSome
  let onPort (f : Console → Console) (o : Via) (d : Dev) : Dev := match viaPort o with | some p => d.updMg p f | none => d
  let setOk (o : Via) (d : Dev) : Bool := match viaPort o with | some p => settled d (.mg p) | none => false
  let onSet (f : Console → Console) (o : Via) (d : Dev) : Dev :=
    match viaPort o with | some p => granted (viaSrc o) (.mg p) (fun d => d.updMg p f) d | none => d
  (∀ (o : Via) (p : MgPort) (r : Role) (f : Option (Fin 8)) (s : State), viaPort o = some p →
    allowed o .observe (match f with | some f => [.fold f] | none => []) s.dev = true → r ≠ .observe → (f.isSome = true → r = .operate) →
    (s.dev.mg p).authBlk = false → ¬ (r = .machine ∧ (s.dev.mg (otherPort p)).role = .machine) → (loginKey s.otp r f).isSome = true →
    let d := arrived o s.dev
    let e := { d with free := d.free + 1 }.updMg p fun k =>
      { k with chal := some { nonce := Config.nonce d.free, role := r, fold := f, age := 0 } }
    exec (.login o r f) s = .next { s with dev := answered o ["chal " ++ nonceText (Config.nonce d.free)] okS e }) ∧
  (∀ (o : Via) (p : MgPort) (m : BitVec 256) (s : State) (c : Chal), viaPort o = some p → allowed o .observe [] s.dev = true →
    (s.dev.mg p).chal = some c →
    let d := arrived o s.dev
    (authOk s.otp p c m = true → ¬ (c.role = .machine ∧ (s.dev.mg (otherPort p)).role = .machine) →
      let e := d.updMg p fun k => { k with chal := none, authFails := 0, role := c.role, scope := c.fold, idle := 0 }
      let text := "!SESS " ++ portName p ++ " " ++ roleName c.role ++ " " ++ scopeName c.fold
      exec (.auth o m) s = .next { s with dev := answered o [] okS (emit e (some .sess) (some (.mg p)) text) }) ∧
    (authOk s.otp p c m = false →
      let e := d.updMg p fun k =>
        { k with chal := none, cntAuth := satInc k.cntAuth 255, authFails := if 2 ≤ k.authFails then 0 else k.authFails + 1,
                 authBlk := k.authBlk || 2 ≤ k.authFails }
      let text := "!AUTH FAIL " ++ portName p ++ " " ++ roleName c.role
      exec (.auth o m) s = .next { s with dev := answered o [] (er 20) (emit e (some .sess) (some (.mg p)) text) })) ∧
  (∀ (otp : Otp) (p : MgPort) (c : Chal) (m : BitVec 256), 30 < c.age → authOk otp p c m = false) ∧
  (∀ p, Happens (.authBlockExpiry p) (fun _ => true) (fun d => d.updMg p fun k => { k with authBlk := false })) ∧
  (∀ p, Happens (.sessionTimeout p)
    (fun d => (d.mg p).role != .observe && (d.mg p).timeout != 0 && decide ((d.mg p).timeout ≤ (d.mg p).idle) && (d.mg p).busy.isNone)
    (fun d => emit (d.updMg p dropSession) (some .sess) (some (.mg p)) ("!SESS " ++ portName p ++ " TIMEOUT"))) ∧
  (∀ k : Console, (dropSession k).role = .observe ∧ (dropSession k).scope = none ∧ (dropSession k).lock = false) ∧
  Does (fun o => .logout o) .observe [] (fun o _ => port o) (onPort dropSession) ∧
  Refuses (fun o => .logout o) .observe [] (fun o _ => !port o) 60 ∧
  (∀ p, Does (fun o => .xSessKill o p) .engineer [] (fun o _ => viaPort o == some (otherPort p)) (fun _ d => d.updMg p dropSession)) ∧
  Does (fun o => .sessEcho o true) .observe [] setOk (onSet fun k => { k with cfg := k.cfg ||| 0x40000 }) ∧
  Does (fun o => .sessEcho o false) .observe [] setOk (onSet fun k => { k with cfg := k.cfg &&& 0xFFFBFFFF }) ∧
  (∀ (n : Nat) (f : Fin 4), 96 ≤ n → n ≤ 30000 → Does (fun o => .sessBaud o (100 * n) (some f)) .operate [] setOk
    (onSet fun k => { k with deferred := some (.baud (toWord (n + 65536 * f.val + 262144 * (k.cfg.getLsbD 18).toNat))) })) ∧
  (∀ n, 60 ≤ n → n ≤ 86400 → Does (fun o => .sessTimeout o n) .operate [] (fun o _ => port o) (onPort fun k => { k with timeout := n })) ∧
  Does (fun o => .sessLock o) .operate [] (fun o _ => port o) (onPort fun k => { k with lock := true }) ∧
  Does (fun o => .sessUnlock o) .operate [] (fun o _ => port o) (onPort fun k => { k with lock := false }) ∧
  (∀ b c, Does (fun o => .evSet o b [c]) .observe [] setOk
    (onSet fun k => { k with evMask := setBit k.evMask (classBit c) b })) ∧
  Does (fun o => .xBrxClear o) .operate [] (fun o _ => port o)
    (onPort fun k => { k with cntLines := 0, cntCrc := 0, cntFraming := 0, cntOverrun := 0, cntAuth := 0, cntLost := 0 }) ∧
  (∀ (a : Agent) (p : MgPort) (v : Word) (s : State), isK (reqOf s.dev a) = true → settled s.dev (.mg p) = true →
    (reqOf s.dev a).src ≠ portName p → 96 ≤ v.toNat % 65536 → v.toNat % 65536 ≤ 30000 →
    let set (d : Dev) : Dev := d.updMg p fun k => { k with cfg := v &&& 0x7FFFF }
    exec (.mgCfgWrite a p v) s = .next { s with dev := granted (reqOf s.dev a).src (.mg p) set s.dev }) ∧
  (∀ p v, Writes (fun a => .mgEvmaskWrite a p v) (fun q _ => isK q) (.mg p) (fun _ => true)
    (fun d => d.updMg p fun k => { k with evMask := v.setWidth 10 })) ∧
  (∀ (n : Nat) (o : Via) (s : State), allowed o .engineer [] s.dev = true → n % 4 = 0 → regionOf n = .sram →
    eccOf (arrived o s.dev) n = 0 →
    let line := joinSp [hex32 (toWord n), hex32 (plainRead (arrived o s.dev) n 4)]
    exec (.xPeek o n none) s = .next { s with dev := answered o [line] okS (manages (arrived o s.dev) n) }) ∧
  (∀ n v : Nat, n % 4 = 0 → regionOf n = .sram → v < 2 ^ 32 →
    Does (fun o => .xPoke o n v none) .engineer [] (fun _ d => eccOf d n == 0) (fun _ d => plainWrite (manages d n) n (toWord v) 4)) ∧
  (∀ (d : Dev) (a : Nat), manages d a = charge d none 1 .tether a)

/-! Units: requests, the sweep, resets (spec/04). -/

/-- Requests to units (spec/04 R67 to R88, spec/19 R435). -/
def Obligations.UnitRequests : Prop :=
  let open' (d : Dev) (u : UnitId) : Bool :=
    (d.unit u).st != .absent && !differs (d.unit u) && !parityLate (d.unit u) && !(d.unit u).resetting
  let clean (d : Dev) (u : UnitId) (g : Option Nat) : Bool := open' d u && (match g with | some n => n == (d.unit u).gen.toNat | none => true)
  let other (u : UnitId) : Bool := match u with | .pmu | .halt => false | _ => true
  let adoptOk (mgmt : Bool) (u : UnitId) (d : Dev) : Bool :=
    (d.unit u).dis && !hasCause (d.unit u) .shed && (!mgmt || (d.unit u).disMgmt.isSome)
  let adopted (mgmt : Bool) (u : UnitId) (d : Dev) : Dev :=
    let r := d.unit u
    let want := if mgmt then r.disMgmt.getD r.disData else r.disData
    let back := if want = .fenced ∨ want = .absent then r.prior else want
    let left := r.fcause &&& 0x3B
    let d := { d with disOrder := d.disOrder.filter (· != unitCode u) }
    let d := if mgmt then r.regDiff.foldl (fun d x => regSet d u x.1.toNat x.2) d else d
    let now := if left = 0 then back else .fenced
    let d := d.setUnit u { d.unit u with
      dis := false, disMgmt := none, disCfg := false, regDiff := [], shBad := false, fcause := left, prior := back, st := now, sh := now,
      gen := r.gen + 1 }
    if left ≠ 0 then d
    else
      let d := emit d (some .fence) (some u) ("!UNFENCE " ++ unitName u)
      let d := match u with | .pen p => redeliver d p.val | _ => d
      let d := (contents d u).foldl (fun d c => if hasCause (d.unit c) .parent then unfenceN 3 d c (causeBit .parent) else d) d
      followUp (settle d u) u
  let turns (i : Via → UnitId → Option Nat → Instr) (j : Agent → UnitId → Option (BitVec 16) → Instr) (role : Role) (name : String)
      (pre : UnitId → Dev → Bool) (f : UnitId → Dev → Dev) : Prop :=
    (∀ (u : UnitId) (g : Option Nat), (name ≠ "RESET" ∨ (u ≠ .fold 0 ∧ u ≠ .mg .mga ∧ u ≠ .mg .mgb)) →
      Does (fun o => i o u g) role [u] (fun _ d => clean d u g && pre u d) (fun o d => arbLog (f u d) (viaSrc o) u name .ok)) ∧
    (∀ (u : UnitId) (g : Nat) (o : Via) (s : State), (name ≠ "RESET" ∨ u ≠ .fold 0) → allowed o role [u] s.dev = true →
      open' (arrived o s.dev) u = true → g ≠ ((arrived o s.dev).unit u).gen.toNat → (∀ p, u = .mg p → name ≠ "RESET") →
      let d := arbLog (arrived o s.dev) (viaSrc o) u name .stale
      exec (i o u (some g)) s = .next { s with dev := answered o [] (codeStatus d u .stale) d }) ∧
    (∀ (u : UnitId) (g : Option (BitVec 16)) (a : Agent) (s : State),
      let q := reqOf s.dev a
      q.priv ≠ .u → (isK q = true ∨ ((s.dev.owner u).isSome = true ∧ s.dev.owner u = q.fold)) →
      clean s.dev u (g.map BitVec.toNat) = true → pre u s.dev = true →
      let d := arbLog (f u s.dev) q.src u name .ok
      exec (j a u g) s = .next { s with dev := setResult d q (resultWord d u .ok) }) ∧
    (∀ (u : UnitId) (g : BitVec 16) (a : Agent) (s : State),
      let q := reqOf s.dev a
      isK q = true → open' s.dev u = true → g.toNat ≠ (s.dev.unit u).gen.toNat →
      let d := setRefused (arbLog s.dev q.src u name .stale) u
      exec (j a u (some g)) s = .next { s with dev := setResult d q (resultWord d u .stale) }) ∧
    ∀ (u : UnitId) (g : Option (BitVec 16)) (a : Agent) (s : State),
      let q := reqOf s.dev a
      q.priv = .f → s.dev.owner u ≠ q.fold →
      exec (j a u g) s = .next { s with dev := setResult s.dev q (resultWord s.dev u .scope) }
  turns (fun o u g => .unitOn o u g) (fun a u g => .stateReqOn a u g) .operate "ON"
    (fun u d => (d.unit u).st == .off && onGuard d u) (fun u d => startWork (setUState (onClear d u) u .idle) u) ∧
  turns (fun o u g => .unitOff o u g) (fun a u g => .stateReqOff a u g) .operate "OFF"
    (fun u d => (d.unit u).st == .idle || (d.unit u).st == .fault) (fun u d => setUState d u .off) ∧
  turns (fun o u g => .fence o u g) (fun a u g => .stateReqFence a u g) .operate "FENCE"
    (fun u d => !hasCause (d.unit u) .shed) (fun u d => fence d u .cmd) ∧
  turns (fun o u g => .unfence o u g) (fun a u g => .stateReqUnfence a u g) .operate "UNFENCE"
    (fun u d => (d.unit u).fcause.getLsbD 0) (fun u d => unfence d u .cmd) ∧
  turns (fun o u g => .resetUnit o u g) (fun a u g => .stateReqReset a u g) .operate "RESET"
    (fun u d => other u && !resetImageBad d u && (withContents d u).all fun x => !hasCause (d.unit x) .shed && !(d.unit x).resetting)
    (fun u d => resetStart d u) ∧
  turns (fun o u g => .unitAdoptMgmt o u g) (fun a u g => .stateReqAdoptMgmt a u g) .engineer "ADOPT MGMT" (adoptOk true) (adopted true) ∧
  turns (fun o u g => .unitAdoptData o u g) (fun a u g => .stateReqAdoptData a u g) .engineer "ADOPT DATA" (adoptOk false) (adopted false) ∧
  (∀ g, Does (fun o => .resetUnit o (.fold 0) g) .engineer [.fold 0]
    (fun _ d => clean d (.fold 0) g && !resetImageBad d (.fold 0) &&
      (withContents d (.fold 0)).all fun x => !hasCause (d.unit x) .shed && !(d.unit x).resetting)
    (fun o d => arbLog (resetStart d (.fold 0)) (viaSrc o) (.fold 0) "RESET" .ok)) ∧
  (∀ p g, Does (fun o => .resetUnit o (.mg p) g) .operate [.mg p]
    (fun _ d => clean d (.mg p) g && !hasCause (d.unit (.mg p)) .shed)
    (fun o d => arbLog (if viaPort o = some p then d.updMg p fun k => { k with deferred := some .resetPort } else resetStart d (.mg p))
      (viaSrc o) (.mg p) "RESET" .ok)) ∧
  (∀ (o : Via) (p : MgPort) (s : State), viaPort o = some p →
    allowed o (if s.dev.bw.halt then .engineer else .machine) [] s.dev = true →
    exec (.resetDevice o) s = .next
      { s with dev := answered o [] okS ((arrived o s.dev).updMg p fun k => { k with deferred := some .resetDevice }) }) ∧
  (∀ s : State, s.dev.boot.inScript = true → exec (.resetDevice .script) s = .next { s with dev := answered .script [] (er 60) s.dev })

/-- The sweep and the ends of resets (spec/04 R74 to R86). The simulated shadow state and the detail of the record are free values (log 23,
24). -/
def Obligations.SweepAndResetEnds : Prop :=
  let found (u : UnitId) (mg : Option UState) (data : UState) (cfg : Bool) (d : Dev) : Dev :=
    let d := d.setUnit u { d.unit u with dis := true, disMgmt := mg, disData := data, disCfg := cfg }
    let d := fenceOne (fun d c => fenceN 2 d c .parent 0x12) { d with disOrder := d.disOrder ++ [unitCode u] } u .disagree 0x12
    followUp (emit d (some .state) (some u) ("!DISAGREE " ++ unitName u ++ " mgmt " ++ mgmtName mg ++ " data " ++ stateName data ++ " gen " ++
      toString (d.unit u).gen.toNat)) u
  let calm (u : UnitId) (d : Dev) : Bool :=
    unitPresent d.variant u && d.clocked && (d.unit u).st != .absent && !(d.unit u).dis && !(d.unit u).resetting && !differs (d.unit u)
  (∀ u, Happens (.shadowSweep u .none) (calm u) id) ∧
  (∀ u (k : Fin 6), Happens (.shadowSweep u (.shadowState k)) (fun d => calm u d && stateOfCode k.val != (d.unit u).st)
    (fun d => found u (some (stateOfCode k.val)) (d.unit u).st (decide ((d.unit u).regDiff ≠ []))
      (d.setUnit u { d.unit u with sh := stateOfCode k.val }))) ∧
  (∀ u, Happens (.shadowSweep u .parity) (calm u)
    (fun d => found u none (d.unit u).st (decide ((d.unit u).regDiff ≠ [])) (d.setUnit u { d.unit u with shBad := true }))) ∧
  (∀ u, Happens (.shadowSweep u (.hwState 0)) (calm u)
    (fun d => found u (some (d.unit u).st) .absent (decide ((d.unit u).regDiff ≠ [])) d)) ∧
  (∀ u (k : Fin 6), k ≠ 0 →
    Happens (.shadowSweep u (.hwState k)) (fun d => calm u d && stateOfCode k.val != (d.unit u).st)
      (fun d => found u (some (d.unit u).st) (stateOfCode k.val) (decide ((d.unit u).regDiff ≠ []))
        (d.setUnit u { d.unit u with st := stateOfCode k.val }))) ∧
  (∀ u, Does (fun o => .xStateSimDisagree o u) .engineer [u]
    (fun _ d => calm u d && (d.unit u).st != .fenced && (d.pmu.cur == .run || d.pmu.cur == .slow))
    (fun _ d =>
      let x := stateOfCode ((stateCode (d.unit u).st + 1 + (Config.freeCell d.free).toNat % 5) % 6)
      found u (some x) (d.unit u).st (decide ((d.unit u).regDiff ≠ []))
        (({ d with free := d.free + 1 } : Dev).setUnit u { d.unit u with sh := x }))) ∧
  (∀ (x : UState) (n : Nat), stateOfCode ((stateCode x + 1 + n % 5) % 6) ≠ x) ∧
  (∀ u, Happens (.unitResetComplete u) (fun d => (d.unit u).resetting && !containerResetting d u && !beatsLeft d u)
    (fun d =>
      let all := resetOrder d u
      let held := all.filterMap fun x => if (d.unit x).held = [] then none else some (x, (d.unit x).held)
      let e := all.foldl (fun e x => resetOne e x (scopeOf u)) ((resetPens d u).foldl csLoad d)
      let e := emit e (some .state) (some u) ("!RESET " ++ unitName u ++ " gen " ++ toString (e.unit u).gen.toNat ++
        (match resetSb d u with | some n => " sb " ++ toString n | none => ""))
      let e := held.foldl (fun e x => x.2.foldl (fun e h => fenceHeld e x.1 h) e) e
      (resetPens d u).foldl shedAtLoad e)) ∧
  (∀ (d : Dev) (u : UnitId) (h : HeldFence), (d.unit u).st ≠ .absent → (d.unit u).resetting = false → hasCause (d.unit u) h.cause = false →
    h.cause ≠ .disagree → differs (d.unit u) = false → (d.unit u).fcause = 0 → contents d u = [] → above d u = [] →
    let r := (fenceHeld d u h).unit u
    r.st = .fenced ∧ hasCause r h.cause = true ∧ r.prior = (d.unit u).st ∧ r.gen = (d.unit u).gen + 1) ∧
  (∀ (d : Dev) (c : Fin 64) (n : Nat), (d.unit (.dma c)).st ≠ .absent →
    let r := (resetOne d (.dma c) n).unit (.dma c)
    let kept := (d.unit (.dma c)).fcause &&& (if d.pmu.fallback then 0x18 else 0x08)
    r.resetting = false ∧ r.gen = (d.unit (.dma c)).gen + 1 ∧ r.fcause = kept ∧ r.st = (if kept = 0 then .off else .fenced) ∧ r.sh = r.st ∧
    r.dis = false ∧ r.held = []) ∧
  ∀ u, Happens (.resetTimeout u) (fun d => (d.unit u).resetting && !containerResetting d u)
    (fun d =>
      let all := resetOrder d u
      let held := all.filterMap fun x => if (d.unit x).held = [] then none else some (x, (d.unit x).held)
      let e := fence (all.foldl (fun e x => e.setUnit x { e.unit x with resetting := false, held := [] }) d) u .mcheck
      let e := bwRecord { e with free := e.free + 1 } 6 u 0x12 (Config.freeCell e.free) 0 0
      held.foldl (fun e x => x.2.foldl (fun e h => fenceHeld e x.1 h) e) e)

/-! Pens, the control store and the Bellwether (spec/07 R143, R161; spec/08 R174 to R187; spec/09 R201 to R211). -/

/-- The control store (spec/07 R143, spec/08 R174 to R187). -/
def Obligations.ControlStore : Prop :=
  let genOk (d : Dev) (u : UnitId) (g : Option Nat) : Bool := match g with | some n => n == (d.unit u).gen.toNat | none => true
  let canTake (d : Dev) (p : Nat) (t : Bool) : Bool := (t || !isLastWatch d p) && lget d.golden.baseHeld false (if t then 1 else 0)
  let onUse (d : Dev) (p off : Nat) : Dev :=
    emit (machineCheck (updCs d p fun c => { c with usepar := satInc c.usepar 255 }) (penU p) 0x10 (toWord off) 0 0)
      (some .state) (some (penU p)) ("!UCODE PARITY pen" ++ toString p ++ " " ++ offText off ++ " use")
  let passed (c : CStore) : CStore :=
    if c.beat = 4223 then { c with beat := 0, passes := c.passes + 1, found := none } else { c with beat := c.beat + 1, found := none }
  let source (d : Dev) (p : Fin 8) : Nat := goldenAddr (csTether (d.pen p.val)) (csOverlay (d.pen p.val)) (16 * (d.pen p.val).cs.beat)
  let fold (d : Dev) (p : Fin 8) : Option Nat := some (d.pen p.val).fold
  let fetched (d : Dev) (p : Fin 8) : Dev := charge d (fold d p) 1 .bulk (source d p)
  let recent (now t : Word × Nat) : Bool := now.1 == t.1 || (now.1 == t.1 + 1 && now.2 < t.2)
  let repaired (p : Fin 8) (b : Nat) (weak : Bool) (d : Dev) : Dev :=
    let k := d.pen p.val
    let c := ((List.range 16).map (16 * b + ·)).foldl (fun c o => csPut (csTether k) c o (goldenByte d k o)) k.cs
    let now := (d.pmu.rtcSec, (Config.micros d.free).toNat)
    let times := (c.times.filter fun t => recent now t.2) ++ [(b, now)]
    updCs { d with free := d.free + 1 } p.val fun _ => { c with
      repairs := satInc c.repairs 0xFFFF, last := b, lastValid := true, found := some (b, true),
      times := if weak then times.filter fun t => t.1 != b else times, weak := if weak then satInc c.weak 255 else c.weak }
  let repairsNow (d : Dev) (p : Fin 8) (b : Nat) : Nat := ((d.pen p.val).cs.times.filter fun t => recent (d.pmu.rtcSec, (Config.micros d.free).toNat) t.2 && t.1 == b).length + 1
  let rewritten (d : Dev) (a : Nat) (l : List Byte) : Dev :=
    let e := ((((List.range ((l.length + 15) / 16)).foldl (fun d i => charge d none 1 .urgent (a + 16 * i)) d).clearRange a l.length).setByteList a l)
    { e with myc := { e.myc with ecc := e.myc.ecc.filter fun x => x.1 < a || a + l.length ≤ x.1 } }
  let flip (d : Dev) (p off : Nat) : Dev := updCs d p fun c =>
    let u := parityUnit (csTether (d.pen p)) off
    { c with flips := if c.flips.contains u then c.flips.filter (· != u) else c.flips ++ [u] }
  (∀ (p : Fin 8) (t : Bool) (g : Option Nat), Does (fun o => .penPers o p t g) .engineer [.pen p]
    (fun _ d => settled d (.pen p) && genOk d (.pen p) g && canTake d p.val t)
    (fun o => granted (viaSrc o) (.pen p) fun d => d.updPen p.val fun k => { k with persNext := t })) ∧
  (∀ (p : Fin 8) (v : Word) (a : Agent) (s : State),
    let t := v.getLsbD 0
    let d := if v.getLsbD 1 then s.dev.updPen p.val fun k => { k with persRefused := false } else s.dev
    let q := reqOf s.dev a
    isK q = true → settled s.dev (.pen p) = true → unitPresent s.dev.variant (.pen p) = true →
    (genOk s.dev (.pen p) (some (v >>> 16).toNat) = true →
      (canTake s.dev p.val t = true →
        exec (.persselWrite a p v) s = .next
          { s with dev := granted q.src (.pen p) (fun d => d.updPen p.val fun k => { k with persNext := t }) d }) ∧
      (canTake s.dev p.val t = false →
        let e := (arbLog d q.src (.pen p) "write" .invalid).updPen p.val fun k => { k with persRefused := true }
        exec (.persselWrite a p v) s = .next { s with dev := e })) ∧
    (genOk s.dev (.pen p) (some (v >>> 16).toNat) = false →
      let e := (arbLog d q.src (.pen p) "write" .stale).updPen p.val fun k => { k with persRefused := true }
      exec (.persselWrite a p v) s = .next { s with dev := e })) ∧
  (∀ (p : Fin 8) (v : Word) (a : Agent) (s : State),
    let q := reqOf s.dev a
    let t := v.getLsbD 0
    let d := s.dev
    isK q = true → (d.unit (.pen p)).resetting = true → unitPresent d.variant (.pen p) = true → v.getLsbD 1 = false →
    genOk d (.pen p) (some (v >>> 16).toNat) = true → canTake d p.val t = true →
    exec (.persselWrite a p v) s = .next { s with dev :=
      (arbLog (bumpGen (d.updPen p.val fun k => { k with persNext := t }) (.pen p)) q.src (.pen p) "write" .ok) }) ∧
  (∀ p : Fin 8, Does (fun o => .xPenHwmClear o p) .engineer [.pen p] (fun _ _ => true) (fun _ d =>
    [0, 1, 2, 3].foldl (fun d i => d.updCore (4 * p.val + i) fun k =>
      { k with hwmDepth := List.replicate 8 0, hwmWin := List.replicate 8 0 }) d)) ∧
  (∀ p : Fin 8,
    let at' (d : Dev) : Nat := (d.pen p.val).cs.beat
    let due (d : Dev) : Bool := scrubRuns d p.val && (d.pen p.val).cs.found.isNone
    let unread (d : Dev) : Bool := due d && grantOk d ⟨targetPort (source d p), .bulk, fold d p⟩
    let found (d : Dev) (b : Bool) : Bool := scrubRuns d p.val && (match (d.pen p.val).cs.found with | some (_, x) => x == b | none => false)
    let beat (d : Dev) : Nat := match (d.pen p.val).cs.found with | some (b, _) => b | none => 0
    Happens (.scrubSteal p) (fun d => due d && !grantOk d ⟨targetPort (source d p), .bulk, fold d p⟩)
      (fun d => portWait d [targetPort (source d p)] .bulk (fold d p)) ∧
    Happens (.scrubSteal p) (fun d => unread d && (goldenBad (fetched d p) p.val (at' d)).isNone && !beatBad (fetched d p) p.val (at' d))
      (fun d => updCs (fetched d p) p.val passed) ∧
    Happens (.scrubSteal p) (fun d => unread d && (goldenBad (fetched d p) p.val (at' d)).isNone && beatBad (fetched d p) p.val (at' d))
      (fun d => updCs (fetched d p) p.val fun c => { c with found := some (at' d, false) }) ∧
    (∀ a : Nat, Happens (.scrubSteal p) (fun d => unread d && goldenBad (fetched d p) p.val (at' d) == some a)
      (fun d =>
        let k := d.pen p.val
        let slot := if k.cs.ovl && inOvl (csTether k) (16 * at' d) then some k.fold else none
        updCs (goldenError (fetched d p) (csTether k) slot (16 * at' d + a % 16) (.pen p)) p.val passed)) ∧
    Happens (.scrubSteal p) (fun d => found d false && decide (repairsNow d p (beat d) < 3)) (fun d => repaired p (beat d) false d) ∧
    Happens (.scrubSteal p) (fun d => found d false && decide (3 ≤ repairsNow d p (beat d)))
      (fun d => emit (repaired p (beat d) true d) (some .state) (some (.pen p))
        ("!UCODE WEAK pen" ++ toString p.val ++ " " ++ offText (16 * beat d))) ∧
    Happens (.scrubSteal p) (fun d => found d true && !beatBad d p.val (beat d)) (fun d => updCs d p.val passed) ∧
    Happens (.scrubSteal p) (fun d => found d true && beatBad d p.val (beat d))
      (fun d => emit (onUse (updCs d p.val fun c => { c with found := none }) p.val (16 * beat d)) (some .state) (some (.pen p))
        ("!UCODE STUCK pen" ++ toString p.val ++ " " ++ offText (16 * beat d))) ∧
    Happens (.scrubPassLate p) (fun d => scrubRuns d p.val && d.pmu.cur == .run)
      (fun d => updCs d p.val fun c => { c with late := true })) ∧
  (∀ (c : Fin 32) (off : Nat), off < 0x10800 →
    Happens (.ucodeParity c off) (fun d => wordBad (d.pen (penOf c.val)) off && (d.unit (coreU c.val)).st == .active)
      (fun d => onUse d (penOf c.val) off)) ∧
  (∀ (t : Bool) (off : Nat), off < 0x10800 → Happens (.ucodeGolden (.base t) off) (fun _ => true) (fun d =>
    let a := baseAddr t + off
    let i := if t then 1 else 0
    let d := setEcc d a 3
    let d := mcheckReport { d with golden := { d.golden with baseBad := lset d.golden.baseBad i true } } (.fold 0) 0x11 (toWord off) 0 (toWord a)
    emit d (some .state) none ("!UCODE GOLDEN " ++ persName t ++ " " ++ offText off))) ∧
  (∀ (f : Fin 8) (t : Bool) (off : Nat), inOvl t off = true → Happens (.ucodeGolden (.overlay f t) off) (fun _ => true) (fun d =>
    let a := goldenAddr t (some (ovlAddr f.val t)) off
    let d := setEcc d a 3
    let d := mcheckReport { d with golden := { d.golden with ovlBad := lset d.golden.ovlBad (ovlSlot f.val t) true } } (.fold f) 0x11
      (toWord off) 0 (toWord a)
    emit d (some .state) none ("!UCODE GOLDEN fold" ++ toString f.val ++ " " ++ persName t ++ " " ++ offText off))) ∧
  (∀ (t : Bool) (s : State) (img : BootImg) (off len hash : Nat), s.dev.boot.img = some img →
    (if t then img.tether else img.drove) = some (off, len, hash) → lget s.dev.golden.baseBad false (if t then 1 else 0) = true →
    lget s.dev.golden.baseHeld false (if t then 1 else 0) = true → s.dev.bw.halt = false →
    let l := bytesAt (flashAt s.dev (img.base + off)) 0 len
    (beNat (sha256 l) = hash →
      let e := rewritten s.dev (baseAddr t) l
      let e := { e with golden := { e.golden with baseBad := lset e.golden.baseBad (if t then 1 else 0) false } }
      exec (.goldenReload (.base t)) s = .next { s with dev := e }) ∧
    (beNat (sha256 l) ≠ hash →
      let e := emit s.dev (some .state) none ("!UCODE GOLDEN " ++ persName t ++ " FAIL")
      exec (.goldenReload (.base t)) s = .next
        { s with dev := { e with golden := { e.golden with baseHeld := lset e.golden.baseHeld (if t then 1 else 0) false } } })) ∧
  (∀ (f : Fin 8) (t : Bool) (s : State) (img : BootImg) (off len hash : Nat), s.dev.boot.img = some img →
    tfind img.ovls (ovlSlot f.val t) = some (off, len, hash) → lget s.dev.golden.ovlBad false (ovlSlot f.val t) = true →
    lget s.dev.golden.active false (ovlSlot f.val t) = true → s.dev.bw.halt = false →
    let l := bytesAt (flashAt s.dev (img.base + off)) 0 len
    (beNat (sha256 l) = hash →
      let e := rewritten s.dev (ovlAddr f.val t) (l.drop 0x80)
      let e := { e with golden := { e.golden with ovlBad := lset e.golden.ovlBad (ovlSlot f.val t) false } }
      exec (.goldenReload (.overlay f t)) s = .next { s with dev := e }) ∧
    (beNat (sha256 l) ≠ hash →
      let e := emit s.dev (some .state) none ("!UCODE GOLDEN fold" ++ toString f.val ++ " " ++ persName t ++ " FAIL")
      exec (.goldenReload (.overlay f t)) s = .next
        { s with dev := { e with boot := { e.boot with img := some { img with ovls := tdel img.ovls (ovlSlot f.val t) } } } })) ∧
  (∀ (p : Fin 8) (v : Word), bitOf v 31 = true → fld v 0 13 < 4224 →
    Pokes (fun a => .csInjGo a p v) (fun q _ => q.priv == .m) (.pen p) (fun d => unitPresent d.variant (.pen p))
      (fun d => flip d p.val (16 * fld v 0 13 + 4 * fld v 13 2))) ∧
  ∀ (p : Fin 8) (off : Nat), off < 0x10800 → Does (fun o => .xUcodeInject o p off) .machine [.pen p]
    (fun _ d => (d.unit (.pen p)).st != .fenced) (fun _ d => flip d p.val off)

/-- Overlays and the Bellwether (spec/08 R175, R176; spec/09 R201 to R211). -/
def Obligations.OverlaysAndBellwether : Prop :=
  let fenced (u : UnitId) (d : Dev) : Dev :=
    let d := fence d u .mcheck
    mcheckReport d u 0x12 (toWord (d.unit u).fcause.toNat) 0 0
  let with' (s : State) (o : Via) : State := { s with dev := arrived o s.dev }
  let inUse (d : Dev) (f : Nat) (t : Bool) : Bool := (foldPens d f).any fun p => (d.pen p).pers == some t
  let staged' (d : Dev) (x : Staged) : Dev :=
    let d := emit { d with golden := { d.golden with staged := some x } } (some .state) (some (foldU x.fold))
      ("!UCODE STAGED fold" ++ toString x.fold ++ " " ++ persName x.tether)
    if inUse d x.fold x.tether then d else ucodeCommit d
  let asked (r : HookReq) (d : Dev) : Dev :=
    let op : Option UOp := match r.op with
      | .on => some .on | .off => some .off | .fence => some .fence | .unfence => some .unfence | .reset => some .reset | .other => none
    match op with
    | some x => if x = .reset ∧ (withContents d r.unit).any (fun y => hasCause (d.unit y) .shed || hasCause (d.unit y) .disagree) = true
        then arbLog d "bw" r.unit "HOOK" .invalid else (unitRequest d "bw" r.unit x none).1
    | none => arbLog d "bw" r.unit "HOOK" .invalid
  (∀ a, Denies (fun o => .xUcodeCheck o a) .engineer [] ∧ ∀ (o : Via) (s : State), allowed o .engineer [] s.dev = true →
    exec (.xUcodeCheck o a) s =
      .next { s with dev := answered o [] ((loaderCheck (with' s o) a none).getD okS) (arrived o s.dev) }) ∧
  (∀ (f : Fin 8) (t : Bool) (a : Nat), Denies (fun o => .xUcodeLoad o f t a) .machine [.fold f] ∧
    ∀ (o : Via) (s : State), allowed o .machine [.fold f] s.dev = true →
      (s.dev.golden.staged.isNone = true → loaderCheck (with' s o) a (some (f.val, t)) = none →
        let d := arrived o s.dev
        let e := (d.clearRange stagingAddr 0x4800).setByteList stagingAddr (bytesAt (memAt d a) 0x80 0x4800)
        let e := staged' e { fold := f.val, tether := t, empty := false, arb := cellAt (memAt d a) 8 }
        exec (.xUcodeLoad o f t a) s = .next { s with dev := answered o [] okS e }) ∧
      (s.dev.golden.staged.isSome = true → exec (.xUcodeLoad o f t a) s = .next { s with dev := answered o [] (er 40) (arrived o s.dev) })) ∧
  (∀ (s : State) (a : Nat) (w : Option (Nat × Bool)), loaderCheck s a w = none →
    let g (i : Nat) : Byte := memAt s.dev (a + 0x80) i
    a % 4 = 0 ∧ envelopeCheck s.otp (memAt s.dev a) = 0 ∧ cellAt g 0 = 0x564F594B ∧
    ∃ h, ovlHeader g = some h ∧ (w = none ∨ w = some h) ∧ ovlRule h.2 g (memAt s.dev (baseAddr true)) = none) ∧
  (∀ (f : Fin 8) (t : Bool), Does (fun o => .xUcodeUnload o f t) .machine [.fold f] (fun _ d => d.golden.staged.isNone)
    (fun _ d => staged' (d.clearRange stagingAddr 0x4800) { fold := f.val, tether := t, empty := true, arb := 0 })) ∧
  Does (fun o => .xUcodeCancel o) .machine [] (fun _ _ => true)
    (fun _ d =>
      let e := d.clearRange stagingAddr 0x4800
      { e with golden := { e.golden with staged := none } }) ∧
  (∀ u, Happens (.machineCheck u 0x12 []) (fun d => (d.unit u).st != .absent) (fun d => fenced u d)) ∧
  (∀ u, Happens (.machineCheck u 0x10 []) (fun d => (d.unit u).st != .absent)
    (fun d => mcheckReport (fence { d with free := d.free + 1 } u .mcheck) u 0x10 (Config.freeCell d.free) 0 0)) ∧
  (∀ u, Happens (.machineCheck u 0x11 []) (fun d => (d.unit u).st != .absent)
    (fun d => mcheckReport { d with free := d.free + 1 } u 0x11 (Config.freeCell d.free) 0 0)) ∧
  (∀ (u : UnitId) (r : HookReq), Happens (.machineCheck u 0x12 [r]) (fun d => (d.unit u).st != .absent && d.bw.hook && !d.bw.halt)
    (fun d =>
      let e := asked r (fenced u d)
      { e with bw := { e.bw with hookRun := 0 } })) ∧
  (∀ (d : Dev) (u : UnitId) (code : Byte) (x pc a : Word), d.bw.halt = false →
    mcheckReport d u code x pc a =
      (let e := emit (bwRecord d 1 u code x pc a) (some .fence) (some u) ("!MCHK " ++ hex8 code.toNat ++ " " ++ unitName u)
       if d.bw.hook then { e with bw := { e.bw with hookRun := e.bw.hookRun + 1 } } else e)) ∧
  Happens .hookTimeout (fun d => decide (0 < d.bw.hookRun) && !d.bw.halt && decide (d.bw.hookAbn ≤ 3))
    (fun d =>
      let a := 0xF0008000 + 32 * d.bw.head
      let e := bwRecord d 4 .pmu 0 0 0 0
      let e := (e.setCell (a + 8) (Config.freeCell e.free)).setCell (a + 24) (Config.freeCell (e.free + 1))
      let n := min (d.bw.hookAbn + 1) 3
      { e with free := e.free + 2, bw := { e.bw with hookRun := d.bw.hookRun - 1, hookAbn := n, hook := e.bw.hook && decide (n < 3) } }) ∧
  Happens .lockstepMismatch (fun d => !d.bw.halt)
    (fun d => emit { d with bw := { d.bw with halt := true, hookRun := 0 } } none none "!BW HALT") ∧
  (∀ (p : Fin 8) (n : Nat) (xs : List Nat), n < 256 → (∀ x ∈ xs, x < 2 ^ 32) →
    Denies (fun o => .xGateTry o p n xs) .engineer [.pen p] ∧
    ∀ (o : Via) (s : State), allowed o .engineer [.pen p] s.dev = true →
      let d := arrived o s.dev
      let l := peekGate d p.val n
      xs.length = gateArgc l →
      let r := match firstBadArg d (d.pen p.val).fold .u l (xs.map toWord) with
        | some i => toString i ++ " " ++ hex32 (lget (xs.map toWord) 0 i)
        | none => "pass"
      exec (.xGateTry o p n xs) s = .next { s with dev := answered o [r] okS d }) ∧
  (∀ (c : Fin 32) (n : Nat), 1 ≤ n → n ≤ 13 → Does (fun o => .xExcInject o c n) .machine [.core c] (fun _ _ => true)
    (fun _ d => d.updCore c.val fun k => { k with bexc := tput k.bexc k.lvl ⟨BitVec.ofNat 8 n, 0, 0⟩ })) ∧
  (∀ p : Fin 8, Does (fun o => .xExcClear o p) .operate [.pen p] (fun _ _ => true)
    (fun _ d => d.updPen p.val fun k => { k with excTotal := 0, excDf := 0, excLast := 0 })) ∧
  Does (fun o => .xBwHook o false) .machine [] (fun _ _ => true) (fun _ d => { d with bw := { d.bw with hook := false } }) ∧
  Does (fun o => .xBwHook o true) .machine [] (fun _ d => decide (d.bw.hookAbn < 3) && d.bw.hookEntry != 0)
    (fun _ d => { d with bw := { d.bw with hook := true } })

/-! The ration accounts and task slots (spec/10). -/

/-- Ration (spec/10 R213 to R233). Charges are counted in units of 2^-24 RU. -/
def Obligations.RationAccounts : Prop :=
  let one : Nat := 2 ^ 24
  let clamp (b : Int) : Int := max (-1048576) (min 1048575 b)
  let live (d : Dev) (p : Fin 8) : Bool :=
    d.clocked && !(d.pen p.val).rat.frozen && (d.unit (.pen p)).st != .fenced && unitPresent d.variant (.pen p)
  let taken (r : Sys2Proof.Machine.Rat) (n : Nat) : Sys2Proof.Machine.Rat :=
    { r with bal := clamp (r.bal - ((r.accFrac + n) / one : Nat)), accFrac := (r.accFrac + n) % one }
  let factor (r : Sys2Proof.Machine.Rat) (t : Int) (n : Nat) : Prop :=
    (n = 16 ∧ ∀ e ∈ r.derate, e.en = true → t < 4 * (e.tj : Int)) ∨
    ∃ e ∈ r.derate, e.en = true ∧ 4 * (e.tj : Int) ≤ t ∧ n = e.factor ∧ ∀ x ∈ r.derate, x.en = true → 4 * (x.tj : Int) ≤ t → x.tj ≤ e.tj
  let canWake (d : Dev) (p : Fin 8) (s : Nat) : Bool :=
    (d.pen p.val).pers == some false && (slotOf (d.pen p.val) s).valid && !(slotOf (d.pen p.val) s).fault
  let woken (d : Dev) (p : Fin 8) (s : Nat) : Dev :=
    let x := slotOf (d.pen p.val) s
    let c := 4 * p.val + x.core
    let k := d.core c
    if x.run = false then updSlot d p.val s fun x => { x with ready := true }
    else if k.waiting = true ∧ k.slot = some s ∧ k.gdep ≠ 0 then d.updCore c fun k => { k with waiting := false }
    else if k.waiting = true ∧ k.slot = some s then updSlot d p.val s fun x => { x with ready := true }
    else updSlot d p.val s fun x => { x with woke := true }
  (∀ p : Fin 8, Happens (.rationTick p) (fun d => live d p)
    (fun d =>
      let t := (lget d.pmu.temps 0 p.val).toInt
      let d := updRat d p.val fun r =>
        let static := r.scale * lget r.coef 0 7 * 256
        let f := derateFactor r.derate t
        let q := taken r (r.acc + static)
        let sum := r.rate * f + r.frac
        let b := clamp (q.bal + (sum / 16 : Nat))
        { q with
          rateEff := r.rate, capEff := r.cap, floorEff := r.floor, thrEff := [r.thr1, r.thr2, r.thr3], factor := f, est := r.est + static,
          acc := 0, frac := sum % 16, bal := min b r.cap, paused := false,
          overflows := if (r.cap : Int) < b then min 255 (r.overflows + (b - r.cap).toNat) else r.overflows }
      let d := [0, 1, 2, 3].foldl (fun d i =>
        d.updCore (4 * p.val + i) fun k => if k.slot.isSome then { k with slotTicks := k.slotTicks + 1 } else k) d
      ratLevels d p.val)) ∧
  (∀ (r : Sys2Proof.Machine.Rat) (t : Int), factor r t (derateFactor r.derate t)) ∧
  (∀ (d : Dev) (p : Fin 8), (d.pen p.val).pers = some false →
    let r := (d.pen p.val).rat
    let low := decide (r.bal < (r.floorEff : Int))
    let e := updRat d p.val fun r => { r with lowState := low }
    ratLevels d p.val =
      if low && !r.lowState then emit (fireSource e (364 + p.val)) (some .state) (some (.pen p)) ("!RATION LOW pen" ++ toString p.val)
      else if !low && r.lowState then emit e (some .state) (some (.pen p)) ("!RATION OK pen" ++ toString p.val)
      else e) ∧
  (∀ (d : Dev) (p : Fin 8), (d.pen p.val).pers = some true →
    let r := (d.pen p.val).rat
    r.lowState = decide (r.bal < (r.floorEff : Int)) → r.bal < 0 → r.overArmed = true →
    ratLevels d p.val = emit (updRat d p.val fun r => { r with overArmed := false }) (some .state) (some (.pen p))
      ("!RATION OVER pen" ++ toString p.val)) ∧
  (∀ (c : Fin 32) (tile idle : Nat),
    let p := penOf c.val
    let task (d : Dev) : Nat :=
      let r := (d.pen p).rat
      let k := d.core c.val
      r.scale * (lget r.coef 0 0 * lget k.cnt 0 0 + lget r.coef 0 1 * lget k.cnt 0 1 + lget r.coef 0 2 * lget k.cnt 0 2 +
        lget r.coef 0 3 * lget k.cnt 0 3 + lget r.coef 0 4 * lget k.cnt 0 4 + lget r.coef 0 5 * tile)
    let rest (d : Dev) : Nat := (d.pen p).rat.scale * (lget (d.pen p).rat.coef 0 6 * idle)
    let counted (d : Dev) : Dev := updRat (d.updCore c.val fun k => { k with cnt := List.replicate 8 0 }) p fun r =>
      { r with est := r.est + task d + rest d, acc := r.acc + rest d }
    let free (d : Dev) : Bool := live d (Fin.ofNat 8 p) && !(d.pen p).rat.paused && ((d.core c.val).slot.isNone || d.tether c.val)
    Happens (.estimateUpdate c tile idle) free
      (fun d => ratLevels (updRat (counted d) p fun r => { r with acc := r.acc + task d }) p) ∧
    ∀ s : Nat,
      let x (d : Dev) : Slot := slotOf (d.pen p) s
      let busy (d : Dev) : Bool := live d (Fin.ofNat 8 p) && !(d.pen p).rat.paused && !d.tether c.val && (d.core c.val).slot == some s
      let charged (d : Dev) : Dev := updSlot (counted d) p s fun x =>
        { x with used := x.used + task d, reserved := x.reserved - min x.reserved (task d) }
      Happens (.estimateUpdate c tile idle) (fun d => busy d && decide (task d ≤ (x d).reserved)) (fun d => ratLevels (charged d) p) ∧
      Happens (.estimateUpdate c tile idle) (fun d => busy d && decide ((x d).reserved < task d))
        (fun d =>
          let e := updRat (charged d) p fun r => taken r (task d - (x d).reserved)
          let r := (e.pen p).rat
          let thr := if (x d).cls = 0 then 0 else lget r.thrEff 0 ((x d).cls - 1)
          let out := decide ((x d).cls ≠ 0) && decide (r.bal < ((r.floorEff + thr : Nat) : Int)) && (d.core c.val).preempt.isNone
          ratLevels (if out then e.updCore c.val fun k => { k with preempt := some 2 } else e) p)) ∧
  (∀ (c : Fin 32) (s : Nat), Happens (.sliceExpiry c)
    (fun d =>
      let k := d.pen (penOf c.val)
      let pri := (slotOf k s).pri
      decides d (penOf c.val) && coreServes d c.val && (d.core c.val).slot == some s && k.rat.slice != 0 &&
      decide (k.rat.slice ≤ (d.core c.val).slotTicks) && (candidates k).any (fun x => x.2.pri == pri))
    (fun d =>
      let p := penOf c.val
      let first := match decisionCore d p with
        | some (n, r) => if r = 0 ∨ n < c.val then (n, r) else (c.val, 1)
        | none => (c.val, 1)
      decideFor 257 (settleCore d p first.1) p first.1 first.2)) ∧
  (∀ (p : Fin 8) (l : Fin 64), Happens (.bindingWake p l)
    (fun d => (d.pen p.val).deliv.getLsbD l.val && (bindOf (d.pen p.val) l.val).en && !(bindOf (d.pen p.val) l.val).parity &&
      canWake d p (bindOf (d.pen p.val) l.val).slot)
    (fun d => woken (d.updPen p.val fun k => { k with deliv := setBit k.deliv l.val false }) p (bindOf (d.pen p.val) l.val).slot)) ∧
  (∀ (p : Fin 8) (l : Fin 64), Happens (.bindingWake p l)
    (fun d => (d.pen p.val).deliv.getLsbD l.val && (bindOf (d.pen p.val) l.val).parity)
    (fun d =>
      let d := d.updPen p.val fun k =>
        { k with deliv := setBit k.deliv l.val false, binds := tset k.binds Bind.reset l.val { bindOf k l.val with en := false, parity := false } }
      emit (updRat d p.val fun r => { r with faults := satInc r.faults 255 }) (some .state) (some (.pen p))
        ("!TASK FAULT pen" ++ toString p.val ++ " slot- parity"))) ∧
  (∀ (p : Fin 8) (v : Word), Pokes (fun a => .ratWakeWrite a p v) (fun q d => isF q (some (d.pen p.val).fold)) (.pen p)
    (fun d => unitPresent d.variant (.pen p) && canWake d p (v &&& 0xFF).toNat) (fun d => woken d p (v &&& 0xFF).toNat)) ∧
  (∀ (p : Fin 8) (n : Fin 256) (v : Word),
    let f (q : Req) (d : Dev) : Bool := isF q (some (d.pen p.val).fold)
    let x (d : Dev) : Slot := slotOf (d.pen p.val) n.val
    let pen (d : Dev) : Bool := unitPresent d.variant (.pen p) && (d.pen p.val).pers != some true
    let names (x : Slot) : Slot := { x with pri := (v &&& 31).toNat, cls := (v >>> 5 &&& 3).toNat, ready := false, fault := false }
    let set (d : Dev) (g : Slot → Slot) : Dev := updSlot d p.val n.val g
    (v.getLsbD 10 = true → v.getLsbD 7 = true →
      Writes (fun a => .slotCtlWrite a p n v) f (.pen p) (fun d => pen d && (x d).fault && (x d).valid)
      (fun d => set d fun x => { x with fault := false })) ∧
    (v.getLsbD 10 = false → v.getLsbD 7 = true → Writes (fun a => .slotCtlWrite a p n v) f (.pen p) (fun d => pen d && !(x d).valid)
      (fun d => set d fun x => { names x with valid := true, run := false, stop := false, woke := false })) ∧
    (v.getLsbD 7 = false → Writes (fun a => .slotCtlWrite a p n v) f (.pen p) (fun d => pen d && (x d).run)
      (fun d => set d fun x => { x with pri := (v &&& 31).toNat, cls := (v >>> 5 &&& 3).toNat, stop := true })) ∧
    (v.getLsbD 7 = false → Writes (fun a => .slotCtlWrite a p n v) f (.pen p) (fun d => pen d && !(x d).run)
      (fun d => set d fun x => { names x with valid := false })) ∧
    Pokes (fun a => .slotCtlWrite a p n v) f (.pen p) (fun d => unitPresent d.variant (.pen p) && (d.pen p.val).pers == some true) id) ∧
  (∀ (p q : Fin 8) (n : Nat), n < 65536 → p ≠ q →
    let v := toWord (n + 65536 * q.val)
    let may (d : Dev) : Bool := unitPresent d.variant (.pen p) && unitPresent d.variant (.pen q) &&
      decide ((d.pen q.val).fold = (d.pen p.val).fold) && decide (n ≤ (d.pen p.val).rat.rate) && decide ((d.pen q.val).rat.rate + n ≤ 65535)
    let move (d : Dev) : Dev := updRat (updRat d p.val fun r => { r with rate := r.rate - n }) q.val fun r => { r with rate := r.rate + n }
    Writes (fun a => .ratXferWrite a p v) (fun r d => isF r (some (d.pen p.val).fold)) (.pen p) may move ∧
    Sets (fun o => .rationMove o p q n) .operate [.pen p, .pen q] (.pen p) may move) ∧
  ∀ (p : Fin 8) (v : Word), Writes (fun a => .ratCtlWrite a p v) (fun r d => isF r (some (d.pen p.val).fold)) (.pen p)
    (fun d => unitPresent d.variant (.pen p))
    (fun d => updRat d p.val fun r => { r with run := v.getLsbD 0, slice := (v >>> 4 &&& 15).toNat })

/-- Ration and task verbs (spec/10 R231, R232). -/
def Obligations.RationVerbs : Prop :=
  let here (p : Fin 8) (d : Dev) : Bool := unitPresent d.variant (.pen p)
  let drove (p : Fin 8) (d : Dev) : Bool := here p d && (d.pen p.val).pers != some true
  let setR (i : Via → Instr) (p : Fin 8) (f : Sys2Proof.Machine.Rat → Sys2Proof.Machine.Rat) : Prop :=
    Sets i .engineer [.pen p] (.pen p) (here p) (fun d => updRat d p.val f)
  (∀ p n, n < 65536 → setR (fun o => .rationPenSet o p .rate n) p fun r => { r with rate := n }) ∧
  (∀ p n, n < 1048576 → setR (fun o => .rationPenSet o p .cap n) p (fun r => { r with cap := n }) ∧
    setR (fun o => .rationPenSet o p .floor n) p (fun r => { r with floor := n }) ∧
    setR (fun o => .rationPenThr o p 1 n) p (fun r => { r with thr1 := n }) ∧
    setR (fun o => .rationPenThr o p 2 n) p (fun r => { r with thr2 := n }) ∧
    setR (fun o => .rationPenThr o p 3 n) p (fun r => { r with thr3 := n })) ∧
  (∀ p n, 128 ≤ n → n ≤ 512 → setR (fun o => .xRationScale o p n) p fun r => { r with scale := n }) ∧
  (∀ p (e : Fin 8) t f, t < 256 → f ≤ 16 → setR (fun o => .xRationDerate o p e.val (some (t, f))) p fun r =>
    { r with derate := lset r.derate e.val ⟨t, f, true⟩ }) ∧
  (∀ p (e : Fin 8), Sets (fun o => .xRationDerate o p e.val none) .engineer [.pen p] (.pen p)
    (fun d =>
      let x := lget (d.pen p.val).rat.derate ⟨0, 0, false⟩ e.val
      here p d && decide (x.tj < 256) && decide (x.factor ≤ 16))
    (fun d => updRat d p.val fun r => { r with derate := lset r.derate e.val { lget r.derate ⟨0, 0, false⟩ e.val with en := false } })) ∧
  (∀ p (k : Fin 8) v, v < 65536 → setR (fun o => .xRationCoef o p (some (k.val, v))) p fun r => { r with coef := lset r.coef k.val v }) ∧
  (∀ p on n, n < 16 → setR (fun o => .xRationRun o p on (some n)) p fun r => { r with run := on, slice := n }) ∧
  (∀ p on, Sets (fun o => .xRationRun o p on none) .engineer [.pen p] (.pen p) (fun d => here p d && decide ((d.pen p.val).rat.slice < 16))
    (fun d => updRat d p.val fun r => { r with run := on })) ∧
  (∀ p, setR (fun o => .xRationBoot o p none) p fun r => { r with boot := 0 }) ∧
  (∀ p n, n < 2 ^ 25 → setR (fun o => .xRationBoot o p (some (128 * n))) p fun r => { r with boot := toWord (128 * n + 1) }) ∧
  (∀ p (l : Fin 64) n, n < 256 → Sets (fun o => .xRationBind o p l.val (some n)) .engineer [.pen p] (.pen p) (drove p)
    (fun d => d.updPen p.val fun k => { k with binds := tset k.binds Bind.reset l.val ⟨n, true, false⟩ })) ∧
  (∀ p (l : Fin 64), Sets (fun o => .xRationBind o p l.val none) .engineer [.pen p] (.pen p) (drove p)
    (fun d => d.updPen p.val fun k => { k with binds := tset k.binds Bind.reset l.val ⟨0, false, false⟩ })) ∧
  (∀ (f : Fin 8) (n : Nat),
    let rates (d : Dev) : List (Nat × Nat) := shareRates ((foldPens d f.val).map fun p => (p, (d.pen p).rat.rate)) n
    Does (fun o => .rationFoldRate o f n) .engineer [.fold f]
      (fun _ d => !(rates d).isEmpty && (rates d).all fun x => decide (x.2 < 65536) && settled d (penU x.1))
      (fun o d => (rates d).foldl (fun e x => granted (viaSrc o) (penU x.1) (fun e => updRat e x.1 fun r => { r with rate := x.2 }) e) d)) ∧
  (∀ (l : List (Nat × Nat)) (n : Nat), l ≠ [] →
    ((shareRates l n).map (·.1)) = l.map (·.1) ∧ ((shareRates l n).map (·.2)).sum = n) ∧
  (∀ p n, n < 256 → Does (fun o => .taskWake o p n) .operate [.pen p]
    (fun _ d => here p d && (d.unit (.pen p)).st != .absent && (d.unit (.pen p)).st != .fenced) (fun _ d => wakeSlot d p.val n)) ∧
  (∀ p n, n < 256 → Sets (fun o => .taskStop o p n) .operate [.pen p] (.pen p)
    (fun d => drove p d && (slotOf (d.pen p.val) n).run && decide ((slotOf (d.pen p.val) n).pri < 32) && decide ((slotOf (d.pen p.val) n).cls < 4))
    (fun d => updSlot d p.val n fun x => { x with stop := true })) ∧
  (∀ p n, n < 256 → Sets (fun o => .taskClear o p n) .operate [.pen p] (.pen p) (fun d => drove p d && (slotOf (d.pen p.val) n).fault && (slotOf (d.pen p.val) n).valid)
    (fun d => updSlot d p.val n fun x => { x with fault := false })) ∧
  (∀ p n, n < 256 → Does (fun o => .taskClear o p n) .operate [.pen p] (fun _ d => !(slotOf (d.pen p.val) n).fault) (fun _ d => d)) ∧
  ∀ p n (x : TaskSet), n < 256 → x.pri < 32 → x.cls < 4 → x.cost < 1048576 → x.tsb < 2 ^ 32 → x.tsb % 128 = 0 →
    Does (fun o => .xTaskSet o p n x) .engineer [.pen p] (fun _ d => settled d (.pen p) && drove p d && !(slotOf (d.pen p.val) n).valid)
      (fun o d =>
        let w (f : Slot → Slot) (d : Dev) : Dev := granted (viaSrc o) (.pen p) (fun d => updSlot d p.val n f) d
        let d := w (fun y => { y with tsb := toWord x.tsb }) d
        let d := w (fun y => { y with cost := x.cost }) d
        let named (y : Slot) : Slot := { y with pri := x.pri, cls := x.cls, valid := true, woke := false }
        w (fun y => { named y with ready := false, run := false, stop := false, fault := false }) d)

/-! The event router and the halter map (spec/11). -/

/-- The event router (spec/11 R234 to R258). -/
def Obligations.EventRouter : Prop :=
  let edge (d : Dev) (n : Nat) (l : Bool) : Bool :=
    let m := (srcMap d n).mode
    if m = 2 then !l else m == 3 || l
  let still (d : Dev) : Bool := d.pmu.cur == .retain || d.pmu.cur == .spore
  let armOf (i : PinId) : Option ArmSrc := match i with | .wake n => some (.wake n) | .halt n => some (.halt n) | .gpio _ => none
  let pass (d : Dev) (f l : Nat) : Dev := passLine (d.updSlice f fun s => { s with tokens := s.tokens - 1, cnt := s.cnt + 1 }) f l
  let calm (d : Dev) (f : Nat) : Dev :=
    let s := d.slice f
    if s.storm = true ∧ s.held = 0 ∧ s.tokens = s.depth then
      emit (d.updSlice f fun s => { s with storm := false }) (some .evr) (some (evrU f)) ("!EVR CALM fold" ++ toString f)
    else d
  let slice (d : Dev) (f : Fin 8) : Bool :=
    (d.unit (.evr f)).st != .off && (d.unit (.evr f)).st != .fenced && !(d.unit (.evr f)).resetting
  let tether (b : Bool) (d : Dev) (p : Nat) : Bool := unitPresent d.variant (penU p) && ((d.pen p).pers == some true) == b
  let may (p : Nat) (q : Req) (d : Dev) : Bool := isF q (some (d.pen p).fold)
  let bits (hi : Bool) (v : Word) : List Nat := ((List.range 32).filter fun i => v.getLsbD i).map fun i => if hi then i + 32 else i
  let wide (hi : Bool) (v : Word) : BitVec 64 := if hi then v.setWidth 64 <<< 32 else v.setWidth 64
  (∀ (i : PinId) (l : Bool),
    let n := pinSource i
    let turn (d : Dev) : Dev := setPin d n l
    Happens (.pinInputEdge i l) (fun d => pinLevel d n != l && !still d && !edge d n l) turn ∧
    Happens (.pinInputEdge i l) (fun d => pinLevel d n != l && !still d && edge d n l)
      (fun d => match armOf i with | some a => wakeArrives (fireSource (turn d) n) (.arm a) | none => fireSource (turn d) n) ∧
    Happens (.pinInputEdge i l) (fun d => pinLevel d n != l && still d) (fun d =>
      let e := turn d
      if n < 24 ∧ edge d n l = true then { e with evr := { e.evr with latch := setBit e.evr.latch n true } } else e)) ∧
  (∀ (i : Fin 24) (l : Bool), Happens (.asyncLatchCapture i l) (fun d => pinLevel d i.val != l && still d && edge d i.val l)
    (fun d =>
      let e := setPin d i.val l
      { e with evr := { e.evr with latch := setBit e.evr.latch i.val true } })) ∧
  (∀ n : Fin 512, Happens (.pendingSet n) (fun d => decide (88 ≤ n.val) || pinLevel d n.val && (srcMap d n.val).mode == 0)
    (fun d => fireSource d n.val)) ∧
  (∀ (d : Dev) (n : Nat), sourceReserved n = false → still d = false → d.pmu.cur ≠ .off →
    (∀ u, sourceUnit n = some u → (d.unit u).st ≠ .fenced ∧ (d.unit u).st ≠ .absent) →
    fireSource d n = if (srcMap d n).en then fireLine d (srcMap d n).fold (srcMap d n).line else d) ∧
  (∀ (d : Dev) (a b : Nat), still d = false → d.pmu.cur ≠ .off → srcMap d a = srcMap d b → (srcMap d a).fold < 8 → (srcMap d a).line < 64 →
    (∀ n ∈ [a, b], sourceReserved n = false ∧ ∀ u, sourceUnit n = some u → (d.unit u).st ≠ .fenced ∧ (d.unit u).st ≠ .absent) →
    fireSources d [a, b] = fireSource d a) ∧
  (∀ (d : Dev) (f : Fin 8) (l : Nat), slice d f = true → (lineCfg d f.val l).en = true → (d.slice f.val).held.getLsbD l = false →
    (0 < (d.slice f.val).tokens ∨ (d.slice f.val).exempt ≤ (lineCfg d f.val l).prio → fireLine d f.val l = pass d f.val l) ∧
    ((d.slice f.val).tokens = 0 → (lineCfg d f.val l).prio < (d.slice f.val).exempt → (d.slice f.val).storm = false →
      fireLine d f.val l = emit (d.updSlice f.val fun s => { s with held := setBit s.held l true, storm := true })
        (some .evr) (some (.evr f)) ("!EVR STORM fold" ++ toString f.val))) ∧
  (∀ f : Fin 8, Happens (.limiterTick f) (fun d => d.clocked && slice d f && (d.slice f.val).held == 0)
    (fun d => calm (d.updSlice f.val fun s => { s with tokens := min s.depth (s.tokens + s.rate) }) f.val)) ∧
  (∀ (f : Fin 8) (l : Fin 64), Happens (.limiterTick f)
    (fun d => d.clocked && slice d f && (d.slice f.val).held == 1 <<< l.val && decide (0 < (d.slice f.val).rate) &&
      decide ((lineCfg d f.val l.val).prio < 8))
    (fun d =>
      let e := passLine (d.updSlice f.val fun s => { s with held := 0, cnt := s.cnt + 1 }) f.val l.val
      calm (e.updSlice f.val fun s => { s with tokens := min s.depth (s.tokens + ((d.slice f.val).rate - 1)) }) f.val)) ∧
  (∀ (d : Dev) (f : Nat) (ls : List Nat), ls.Pairwise (· < ·) → (lineOrder d f ls).Pairwise fun a b =>
    (lineCfg d f b).prio < (lineCfg d f a).prio ∨ ((lineCfg d f a).prio = (lineCfg d f b).prio ∧ a < b)) ∧
  (∀ (v : Word) (a : Agent) (s : State),
    let n := 384 + (v &&& 0x7F).toNat
    let q := reqOf s.dev a
    let ok := isK q || (srcMap s.dev n).open_ || q.fold == some (srcMap s.dev n).fold
    q.priv ≠ .u →
    (ok = true → exec (.evrDoorWrite a v) s = .next { s with dev := fireSource s.dev n }) ∧
    (ok = false → exec (.evrDoorWrite a v) s = .next { s with dev := { s.dev with evr := { s.dev.evr with refused := true } } })) ∧
  (∀ (f : Fin 8) (hi : Bool) (v : Word), Pokes (fun a => .evrSetWrite a f hi v) (fun q _ => isF q (some f.val)) (.evr f) (fun _ => true)
    (fun d => (lineOrder d f.val (bits hi v)).foldl (fun d l => fireLine d f.val l) d)) ∧
  (∀ (f : Fin 8) (l : Nat), l < 64 → Does (fun o => .evrSet o f l) .operate [.fold f]
    (fun _ d => (d.unit (.evr f)).st != .absent && (d.unit (.evr f)).st != .fenced && decide ((lineCfg d f.val l).prio < 8))
    (fun _ d => fireLine d f.val l)) ∧
  (∀ (n : Fin 512) (m : SrcMap), m.fold < 8 → m.line < 64 → m.mode < 4 →
    let ok (d : Dev) : Bool := !sourceReserved n.val && (decide (n.val < 332 ∨ 340 ≤ n.val) || n.val - 332 == m.fold) &&
      (match sourceUnit n.val with
       | none => true
       | some u => unitPresent d.variant u && ((d.owner u).isNone || d.owner u == some m.fold))
    let put (d : Dev) : Dev :=
      let e := updMap d n.val m
      if n.val < 24 ∧ d.evr.latch.getLsbD n.val = true ∧ m.en = true ∧ d.clocked = true then
        fireSource { e with evr := { e.evr with latch := setBit e.evr.latch n.val false } } n.val
      else e
    Writes (fun a => .evrMapWrite a n (mapWord m)) (fun q _ => isK q) (evrU m.fold) ok put ∧
    (∀ (f : Fin 8) (x : Fin 4), m.fold = f.val → m.mode = x.val → m.en = true →
      Sets (fun o => .evrMap o n.val f m.line (some x) m.open_) .engineer
        (match sourceUnit n.val with | some u => [.fold f, u] | none => [.fold f]) (.evr f) ok put)) ∧
  (∀ n : Fin 512, Does (fun o => .evrUnmap o n.val) .engineer (match sourceUnit n.val with | some u => [u] | none => [])
    (fun _ d =>
      let m := srcMap d n.val
      settled d (evrU m.fold) && mapAllowed d n.val m.fold && decide (m.fold < 8 ∧ m.line < 64 ∧ m.mode < 4))
    (fun o d => granted (viaSrc o) (evrU (srcMap d n.val).fold) (fun e => updMap e n.val { srcMap d n.val with en := false }) d)) ∧
  (∀ (f : Fin 8) (l : Fin 64) (c : LineCfg), c.prio < 8 →
    let ok (d : Dev) : Bool := decide (c.prio ≤ (d.slice f.val).maxpri)
    let put (d : Dev) : Dev := d.updSlice f.val fun s => { s with lines := tset s.lines LineCfg.reset l.val c }
    Writes (fun a => .evrLineWrite a f l (lineWord c)) (fun q _ => isF q (some f.val)) (.evr f) ok put ∧
    Sets (fun o => .evrLine o f l.val { prio := c.prio, pens := some (bitsOf c.pens.toNat 8), oneshot := some c.oneshot, en := some c.en })
      .operate (.fold f :: (bitsOf c.pens.toNat 8).map penU) (.evr f) ok put) ∧
  (∀ (f : Fin 8) (r n e m : Nat), r < 65536 → 0 < n → n < 4096 → e ≤ 8 → m ≤ 7 →
    Sets (fun o => .evrLimit o f r n (some e) (some m)) .engineer [.fold f] (.evr f) (fun _ => true)
      (fun d => d.updSlice f.val fun s => { s with rate := r, depth := n, tokens := min s.tokens n, exempt := e, maxpri := m })) ∧
  (∀ n c : Nat, n < 88 → c < 16 → Does (fun o => .evrFilter o n c) .engineer [] (fun _ _ => true) (fun _ d =>
    let k := 4 * (n % 8)
    let w := (lget d.evr.flt 0 (n / 8) &&& ~~~(15#32 <<< k)) ||| (BitVec.ofNat 32 c <<< k)
    { d with evr := { d.evr with flt := lset d.evr.flt (n / 8) w } })) ∧
  (∀ n : Nat, n < 512 → sourceReserved n = false → Does (fun o => .xEvrRaise o n) .engineer
    (match sourceUnit n with | some u => [u] | none => []) (fun _ _ => true) (fun _ d => fireSource d n)) ∧
  (∀ (p : Fin 8) (hi : Bool) (v : Word),
    Pokes (fun a => .psetWrite a p hi v) (may p.val) (.pen p) (fun d => tether true d p.val)
      (fun d => (bits hi v).foldl (fun d l => setPending d p.val l) d) ∧
    Pokes (fun a => .pclrWrite a p hi v) (may p.val) (.pen p) (fun d => tether true d p.val)
      (fun d => d.updPen p.val fun k => { k with pend := k.pend &&& ~~~(wide hi v) }) ∧
    Pokes (fun a => .maskWrite a p hi v) (may p.val) (.pen p) (fun d => tether false d p.val)
      (fun d => (bits hi v).foldl
        (fun e l => if !(d.pen p.val).mask.getLsbD l && (e.pen p.val).pend.getLsbD l && penServed e p.val then deliver e p.val l else e)
        (d.updPen p.val fun k => { k with mask := (k.mask &&& ~~~(wide hi 0xFFFFFFFF)) ||| wide hi v })) ∧
    Pokes (fun a => .pendWrite a p hi v) (fun q d => may p.val q d && q.core.isNone) (.pen p) (fun d => tether false d p.val)
      (fun d => (bits hi v).foldl (fun d l => setPending d p.val l)
        (d.updPen p.val fun k => { k with pend := k.pend &&& ~~~(wide hi (~~~v)) }))) ∧
  (∀ (c : Fin 32) (hi : Bool) (v : Word),
    let p := penOf c.val
    Pokes (fun a => .msetWrite a c hi v) (may p) (penU p) (fun d => tether true d p)
      (fun d => d.updCore c.val fun k => { k with mask := k.mask ||| wide hi v }) ∧
    Pokes (fun a => .mclrWrite a c hi v) (may p) (penU p) (fun d => tether true d p)
      (fun d => d.updCore c.val fun k => { k with mask := k.mask &&& ~~~(wide hi v) }) ∧
    Pokes (fun a => .pendWrite a (Fin.ofNat 8 p) hi v) (fun q d => may p q d && q.core == some c.val) (penU p) (fun d => tether false d p)
      (fun d =>
        let lost := (d.core c.val).newRec &&& (d.pen p).pend &&& wide hi (~~~v)
        let e := if lost = 0 then d else
          emit (d.updCore c.val fun k =>
            { k with race := k.race ||| lost, lost := min (k.lost + (bitsOf lost.toNat 64).length) 0xFFFF })
            (some .evr) (some (penU p)) ("!EVR RACE pen" ++ toString p ++ " core" ++ toString c.val ++ " lines " ++ hex64 lost.toNat)
        (bits hi v).foldl (fun d l => setPending d p l) (e.updPen p fun k => { k with pend := k.pend &&& ~~~(wide hi (~~~v)) })) ∧
    Happens (.pendRead c hi)
      (fun d => tether false d p && coreMoves d c.val && (d.core c.val).priv != .u && (d.core c.val).loads.isEmpty)
      (fun d => d.updCore c.val fun k => { k with newRec := k.newRec &&& ~~~(wide hi 0xFFFFFFFF) })) ∧
  ∀ p : Fin 8, Does (fun o => .xEvrRaceClear o p) .engineer [.pen p] (fun _ _ => true) (fun _ d =>
    [0, 1, 2, 3].foldl (fun d i => d.updCore (4 * p.val + i) fun k => { k with race := 0, lost := 0 }) d)

/-- The halter map (spec/11 R248 to R258). -/
def Obligations.HalterMapping : Prop :=
  let live (d : Dev) : Bool :=
    d.pmu.cur != .off && (match d.phase with | .reset .por | .reset .bor | .reset .ovr | .reset .otr => false | _ => true)
  let active (d : Dev) (i : Fin 8) : Bool := d.halter.level.getLsbD i.val != d.halter.pol.getLsbD i.val
  let seen (i : Fin 8) (on : Bool) (d : Dev) : Dev := updHalt d fun h => { h with level := setBit h.level i.val (on != h.pol.getLsbD i.val) }
  let trips (i : Fin 8) (d : Dev) : Dev := haltTrips d ((List.range 8).filter fun j => (haltMap d.halter j).ins.getLsbD i.val)
  let unlocked (d : Dev) : Bool := !d.halter.lock
  let store (j : Fin 8) (m : HaltMap) (d : Dev) : Dev :=
    haltSettle (updHalt d fun h => { h with maps := lset h.maps j.val m, bad := setBit h.bad j.val false })
  let sound (d : Dev) (j : Nat) : Bool := (haltMap d.halter j).ins &&& haltInputs d.halter == 0 && !d.halter.bad.getLsbD j
  let cleared (j : Nat) (d : Dev) : Dev :=
    emit (updHalt d fun h => { h with trip := setBit h.trip j false, forced := setBit h.forced j false }) (some .evr) (some .halt)
      ("!HALT CLEAR out" ++ toString j)
  (∀ (d : Dev) (j : Nat), (d.halter.trip.getLsbD j = true → haltTrip d j = d) ∧
    (d.halter.trip.getLsbD j = false →
      let e := updHalt d fun h => { h with trip := setBit h.trip j true }
      let e := (List.range 16).foldl (fun d n => d.updPwm n fun k => if k.hen && k.hlink == j then { k with due := true } else k) e
      let e := fireSources e [372 + j]
      haltTrip d j = emit e (some .evr) (some .halt) ("!HALT TRIP out" ++ toString j ++ " in " ++ hex8 (haltActive e.halter j).toNat))) ∧
  (∀ i : Fin 8,
    Happens (.haltInputActive i) (fun d => live d && (lget d.halter.sims none i.val).isNone && !active d i)
      (fun d => haltSettle (trips i (seen i true d))) ∧
    Happens (.haltInputActive i) (fun d => live d && ((lget d.halter.sims none i.val).isSome || active d i))
      (fun d => haltSettle (seen i true d)) ∧
    Happens (.haltInputInactive i) live (fun d => haltSettle (seen i false d)) ∧
    Happens (.haltInputActive i) (fun d => !live d) (seen i true) ∧
    Happens (.haltInputInactive i) (fun d => !live d) (seen i false)) ∧
  (∀ (d : Dev) (j : Fin 8), (haltSettle d).halter.trip.getLsbD j.val =
    (d.halter.trip.getLsbD j.val && ((haltMap d.halter j.val).latch || d.halter.forced.getLsbD j.val || d.halter.bad.getLsbD j.val ||
      haltActive d.halter j.val != 0))) ∧
  (∀ (h : Halter) (j : Nat), haltLevel h j =
    if h.driven = true ∧ (haltMap h j).arm = true ∧ h.trip.getLsbD j = false ∧ haltActive h j = 0 then !(haltMap h j).safe
    else (haltMap h j).safe) ∧
  (∀ v : Word, Pokes (fun a => .haltForceWrite a v) (fun q _ => atLeast q .f) .halt (fun _ => true)
    (fun d => haltTrips (updHalt d fun h => { h with forced := h.forced ||| v.setWidth 8 }) ((List.range 8).filter fun j => v.getLsbD j))) ∧
  (∀ v : Word, Pokes (fun a => .haltClrWrite a v) (fun q _ => isK q) .halt (fun _ => true)
    (fun d => ((List.range 8).filter fun j => v.getLsbD j).foldl
      (fun d j => if d.halter.trip.getLsbD j && sound d j then cleared j d else d) d)) ∧
  (∀ v : Word, v.getLsbD 0 = true → Pokes (fun a => .haltLockWrite a v) (fun q _ => isK q) .halt (fun _ => true)
    (fun d => updHalt d fun h => { h with lock := true })) ∧
  (∀ j : Fin 8, Happens (.haltCfgMismatch j) (fun d => live d && !d.halter.bad.getLsbD j.val)
    (fun d => bwRecord (emit (haltTrip (updHalt d fun h => { h with bad := setBit h.bad j.val true }) j.val) (some .evr) (some .halt)
      ("!HALT CFG out" ++ toString j.val)) 2 .halt 0x12 0 0 0)) ∧
  (∀ (j : Fin 8) (n : Nat) (safe latch : Bool), n < 256 →
    Does (fun o => .haltMap o j.val n (some safe) (some latch)) .engineer [] (fun _ d => unlocked d && settled d .halt)
      (fun o d => granted (viaSrc o) .halt
        (store j { haltMap d.halter j.val with ins := BitVec.ofNat 8 n, safe := safe, latch := latch }) d)) ∧
  (∀ (j : Fin 8) (on : Bool),
    let m (d : Dev) : HaltMap := { haltMap d.halter j.val with arm := on }
    (on = true → Does (fun o => .haltArm o j.val) .engineer [] (fun _ d => unlocked d && settled d .halt)
      (fun o d => granted (viaSrc o) .halt (store j (m d)) d)) ∧
    (on = false → Does (fun o => .haltDisarm o j.val) .engineer [] (fun _ d => unlocked d && settled d .halt)
      (fun o d => granted (viaSrc o) .halt (store j (m d)) d))) ∧
  (∀ (i : Fin 8) (low : Bool) (n : Fin 4), Does (fun o => .haltInput o i.val low (some (10 * n.val))) .engineer []
    (fun _ d => unlocked d && settled d .halt && d.halter.pol.getLsbD i.val == low && d.halter.flt.length == 8 && d.halter.flt.all (· < 4))
    (fun o d => granted (viaSrc o) .halt (fun d =>
      haltSettle (updHalt d fun h => { h with flt := lset h.flt i.val n.val })) d)) ∧
  (∀ (i : Fin 8) (low : Bool), Does (fun o => .haltInput o i.val low none) .engineer []
    (fun _ d => unlocked d && settled d .halt && d.halter.pol.getLsbD i.val != low && (lget d.halter.sims none i.val).isNone &&
      d.halter.flt.length == 8 && d.halter.flt.all (· < 4))
    (fun o d => granted (viaSrc o) .halt (fun d =>
      let e := updHalt d fun h => { h with pol := setBit h.pol i.val low }
      haltSettle (if active d i then e else trips i e)) d)) ∧
  (∀ j : Fin 8, Does (fun o => .haltForce o j.val) .operate []
    (fun o d => (d.unit .halt).st != .absent && (d.unit .halt).st != .fenced &&
      (match viaScope d o with | some f => (srcMap d (372 + j.val)).en && (srcMap d (372 + j.val)).fold == f.val | none => true))
    (fun _ d => haltTrip (updHalt d fun h => { h with forced := setBit h.forced j.val true }) j.val)) ∧
  (∀ j : Fin 8, Does (fun o => .haltClear o j.val) .operate []
    (fun _ d => (d.unit .halt).st != .absent && (d.unit .halt).st != .fenced && d.halter.trip.getLsbD j.val && sound d j.val)
    (fun _ d => cleared j.val d)) ∧
  Does (fun o => .haltLock o) .engineer [] (fun _ d => (d.unit .halt).st != .absent && (d.unit .halt).st != .fenced && unlocked d)
    (fun _ d => updHalt d fun h => { h with lock := true }) ∧
  Refuses (fun o => .haltLock o) .engineer [] (fun _ d => d.halter.lock) 60 ∧
  (∀ i : Fin 8,
    Does (fun o => .xHaltSim o i.val true) .engineer [] (fun _ d => unlocked d && !(haltInputs d.halter).getLsbD i.val)
      (fun _ d => haltSettle (trips i (updHalt d fun h => { h with sims := lset h.sims i.val (some true) }))) ∧
    Does (fun o => .xHaltSim o i.val false) .engineer [] (fun _ d => unlocked d)
      (fun _ d => haltSettle (updHalt d fun h => { h with sims := lset h.sims i.val (some false) })))

/-! Mycelium: windows, credit, promotion, ECC (spec/13). -/

/-- Mycelium (spec/13 R271 to R292). -/
def Obligations.Mycelium : Prop :=
  let oneRow (d : Dev) (w : Window) : Bool := decide (winLo w < winHi w) && (windowRow d (winLo w)).isSome &&
    windowRow d (winLo w) == windowRow d (winHi w - 1)
  let isOk (d : Dev) (w : Window) : Bool := !w.base.getLsbD 0 || oneRow d w
  let setWin (f : Fin 8) (i : Nat) (w : Window) (d : Dev) : Dev := d.updFoldMem f.val fun m => { m with wins := lset m.wins i w }
  let winOf (d : Dev) (f : Fin 8) (i : Nat) : Window := lget (d.foldMem f.val).wins ⟨0, 0⟩ i
  let others (d : Dev) (f : Fin 8) : Nat := (((List.range 8).filter (· != f.val)).map fun g => (d.foldMem g).share).sum
  let refusedNow (src : String) (f : Fin 8) (d : Dev) : Dev := updMyc (arbLog d src (.fold f) "write" .invalid) fun m => { m with refused := true }
  let corrected (d : Dev) (a : Nat) : Dev := updMyc (setEcc d a 0) fun m =>
    { m with corr := min (m.corr + 1) 0xFFFF, eccAddr := toWord (a / 4 * 4), corrSince := m.corrSince + 1 }
  let raised (c : MClass) : MClass := match c with | .bulk => .drove | .drove => .tether | c => c
  (∀ (f : Fin 8) (i : Fin 16) (v : Word) (lim : Bool),
    let new (d : Dev) : Window :=
      if lim then { winOf d f i.val with lim := v &&& 0xFFFFF03F } else { winOf d f i.val with base := v &&& 0xFFFFF001 }
    Writes (fun a => .mycWindowWrite a f i lim v) (fun q _ => isK q) (.fold f)
      (fun d => d.myc.folds.length == 8 && (d.foldMem f.val).wins.length == 16 && isOk d (new d)) (fun d => setWin f i.val (new d) d) ∧
    ∀ (a : Agent) (s : State), isK (reqOf s.dev a) = true → settled s.dev (.fold f) = true → s.dev.myc.folds.length = 8 →
      (s.dev.foldMem f.val).wins.length = 16 → isOk s.dev (new s.dev) = false →
      exec (.mycWindowWrite a f i lim v) s = .next { s with dev := refusedNow (reqOf s.dev a).src f s.dev }) ∧
  (∀ (f : Fin 8) (i : Fin 16) (b l : Nat) (ps : List (Fin 6)), b < 2 ^ 32 → l < 2 ^ 32 → b % 4096 = 0 → l % 4096 = 0 →
    let w : Window := ⟨toWord (b + 1), toWord (l + ps.foldl (fun m p => m ||| 1 <<< p.val) 0)⟩
    Sets (fun o => .memWin o f i.val (some { base := b, limit := l, perms := ps })) .engineer [.fold f] (.fold f) (fun d => oneRow d w)
      (setWin f i.val w)) ∧
  (∀ (f : Fin 8) (i : Fin 16), Sets (fun o => .memWin o f i.val none) .engineer [.fold f] (.fold f)
    (fun _ => true)
    (fun d => setWin f i.val { winOf d f i.val with base := (winOf d f i.val).base &&& 0xFFFFF000 } d)) ∧
  (∀ (f : Fin 8) (n : Nat), n < 2048 →
    Writes (fun a => .mycShareWrite a f (toWord n)) (fun q _ => isK q) (.fold f) (fun d => decide (others d f + n ≤ 512))
      (fun d => d.updFoldMem f.val fun m => { m with share := n }) ∧
    ∀ (a : Agent) (s : State), isK (reqOf s.dev a) = true → settled s.dev (.fold f) = true → 512 < others s.dev f + n →
      exec (.mycShareWrite a f (toWord n)) s = .next { s with dev := refusedNow (reqOf s.dev a).src f s.dev }) ∧
  (∀ (f : Fin 8) (n b : Nat) (x : Bool), n ≤ 512 → 16 ≤ b → b ≤ 4095 →
    Sets (fun o => .mycShare o f n (some b) (some x)) .engineer [.fold f] (.fold f) (fun d => decide (others d f + n ≤ 512))
      (fun d => d.updFoldMem f.val fun m => { m with share := n, burst := b, spare := x }) ∧
    Sets (fun o => .mycShare o f n none none) .engineer [.fold f] (.fold f)
      (fun d => decide (others d f + n ≤ 512) && decide (16 ≤ (d.foldMem f.val).burst ∧ (d.foldMem f.val).burst ≤ 4095))
      (fun d => d.updFoldMem f.val fun m => { m with share := n })) ∧
  Happens .creditPeriod (fun d => d.clocked) (fun d => updMyc d fun m => { m with folds := m.folds.map fun x =>
    if (x.burst : Int) < x.credit + x.share then { x with credit := x.burst, idleper := min (x.idleper + 1) 0xFFFF }
    else { x with credit := x.credit + x.share } }) ∧
  (∀ c : Fin 32,
    (∀ (e : SbEntry) (l : List SbEntry) (s : State), (s.dev.core c.val).sb = e :: l → e.issued = false →
      let e' := s.dev.updCore c.val fun k => { k with sb := { e with cls := raised e.cls } :: l }
      exec (.requestPromotion (.core c)) s = .next { s with dev := e' }) ∧
    Happens (.requestPromotion (.core c)) (fun d => (d.core c.val).sb.isEmpty)
      (fun d => d.updCore c.val fun k => { k with loads := k.loads.map fun x => (x.1, { x.2 with cls := raised x.2.cls }) }) ∧
    Happens (.remoteAccessPriority c) (fun d => d.coresClocked && (d.pen (penOf c.val)).pers == some false)
      (fun d => d.updCore c.val fun k => { k with cyc := k.cyc + 1 })) ∧
  (∀ m : Fin 4, Happens (.requestPromotion (.mover m)) (fun _ => true)
    (fun d => { d with dma := { d.dma with movers := d.dma.movers.zipIdx.map fun (x : Mover × Nat) =>
      if x.2 == m.val && x.1.busy then { x.1 with prom := x.1.prom + 1 } else x.1 } })) ∧
  (∀ t : Fin 8, Happens (.requestPromotion (.tile t)) (fun _ => true) (fun d => updTile d t.val fun te => { te with prom := te.prom + 1 })) ∧
  (∀ c : Fin 32, Happens (.requestPromotion (.spill c)) (fun _ => true)
    (fun d => d.updCore c.val fun k => { k with spillProm := k.spillProm + 1 })) ∧
  (∀ (d : Dev) (p : Nat) (k : MClass) (f : Option Nat), grantOk d ⟨p, k, f⟩ = true →
    ∀ a ∈ waitingReqs d, a.port = p → classNum a.cls < classNum k → mayGo d ((waitingReqs d).filter fun o => o.port == p) a = false) ∧
  (∀ (d : Dev) (p : Nat) (k : MClass) (f : Nat), k = .drove ∨ k = .bulk → grantOk d ⟨p, k, some f⟩ = true →
    0 < (d.foldMem f).credit ∨ ((d.foldMem f).spare = true ∧ ∀ o ∈ waitingReqs d, o.port = p → o.cls = .drove ∨ o.cls = .bulk →
      (o.fold.all fun g => decide ((d.foldMem g).credit ≤ 0)) = true)) ∧
  Happens .eccPatrolRead (fun d => d.clocked && d.myc.patrolEn && !grantOk d ⟨targetPort (patrolAddr d.myc.patrolAt), .bulk, none⟩)
    (fun d => portWait d [targetPort (patrolAddr d.myc.patrolAt)] .bulk none) ∧
  Happens .eccPatrolRead (fun d => d.clocked && d.myc.patrolEn && grantOk d ⟨targetPort (patrolAddr d.myc.patrolAt), .bulk, none⟩) (fun d =>
    let a := patrolAddr d.myc.patrolAt
    let e := [a, a + 4, a + 8, a + 12].foldl patrolCell (charge d none 1 .bulk a)
    updMyc e fun m =>
      if m.patrolAt = 541695 then { m with patrolAt := 0, passes := m.passes + 1 } else { m with patrolAt := m.patrolAt + 1 }) ∧
  (∀ (d : Dev) (a : Nat), (eccOf d a = 0 → patrolCell d a = d) ∧ (eccOf d a = 1 → patrolCell d a = corrected d a) ∧
    (2 ≤ eccOf d a → goldenAt a = none → patrolCell d a = eccUncorrect d a "patrol" (.fold 0)) ∧
    ∀ t o off, 2 ≤ eccOf d a → goldenAt a = some (t, o, off) →
      patrolCell d a = goldenError d t o off (match o with | some f => foldU f | none => .fold 0)) ∧
  (∀ (d : Dev) (a : Nat) (who : String) (u : UnitId),
    let n := tget d.myc.uePages 0 (a / 4096) + 1
    let e := updMyc (setEcc d a 3) fun m =>
      { m with uncorr := min (m.uncorr + 1) 255, ueAddr := toWord (a / 4 * 4), uePages := tset m.uePages 0 (a / 4096) n }
    let e := emit e (some .fence) (some u) ("!ECC UNCORR " ++ hex32 (toWord (a / 4 * 4)) ++ " " ++ who)
    let e := mcheckReport e u 0x11 0 0 (toWord (a / 4 * 4))
    eccUncorrect d a who u =
      if n = 16 then emit e (some .fence) (some u) ("!ECC PAGE " ++ hex32 (toWord (a / 4096 * 4096))) else e) ∧
  Happens .eccCorrReport (fun d => d.myc.corrSince != 0) (fun d =>
    emit (updMyc d fun m => { m with corrSince := 0 }) (some .state) none
      ("!ECC CORR " ++ toString d.myc.corrSince ++ " " ++ hex32 d.myc.eccAddr)) ∧
  Happens .memoryInitComplete (fun d => match d.phase with | .reset _ => false | _ => true)
    (fun d => updMyc d fun m => { m with init := true }) ∧
  (∀ (a : Nat) (two : Bool), a < 2 ^ 32 → a % 4 = 0 → eccRegion (regionOf a) = true →
    let bad (d : Dev) : Dev := setEcc d a (if eccOf d a = 3 then 3 else if two then 2 else if eccOf d a = 0 then 1 else if eccOf d a = 1 then 0 else 2)
    Does (fun o => .xEccInject o a two) .machine [] (fun _ _ => true) (fun _ d => bad d) ∧
    ∀ (g : Agent) (s : State), (reqOf s.dev g).priv = .m →
      exec (.mycInjGo g (toWord (a + (if two then 3 else 1)))) s = .next { s with dev := bad s.dev }) ∧
  Does (fun o => .eccClear o) .operate [] (fun _ _ => true) (fun _ d => updMyc d fun m => { m with corr := 0, uncorr := 0 }) ∧
  ∀ on, Does (fun o => .xEccPatrol o on) .engineer [] (fun _ _ => true) (fun _ d => updMyc d fun m => { m with patrolEn := on })

/-! The DMA engine (spec/14). -/

/-- The DMA engine (spec/14 R293 to R315). -/
def Obligations.DmaEngine : Prop :=
  let genOk (d : Dev) (u : UnitId) (g : Option Nat) : Bool := match g with | some n => n == (d.unit u).gen.toNat | none => true
  let up (d : Dev) (c : Fin 64) : Bool := ((d.unit (.dma c)).st == .idle || (d.unit (.dma c)).st == .active) && !(d.unit (.dma c)).resetting
  let quiet (d : Dev) (c : Fin 64) : Bool := (d.unit (.dma c)).st == .off || (d.unit (.dma c)).st == .idle
  let mine (c : Fin 64) (q : Req) (d : Dev) : Bool := isF q (d.chan c.val).own
  let set (c : Fin 64) (f : Channel → Channel) (d : Dev) : Dev := d.updChan c.val f
  let reaches (d : Dev) (c : Fin 64) (n : Nat) : Bool := n == 0 || (match queueUnit n, (d.chan c.val).own with
    | some u, some f => foldReaches d f u | _, _ => false)
  let sets (i : Via → Option Nat → Instr) (role : Role) (c : Fin 64) (pre : Dev → Bool) (f : Dev → Dev) : Prop :=
    ∀ g, Does (fun o => i o g) role [.dma c] (fun _ d => settled d (.dma c) && genOk d (.dma c) g && pre d)
      (fun o => granted (viaSrc o) (.dma c) f)
  let cmd (i : Agent → Fin 64 → Option (BitVec 16) → Instr) (j : Via → Fin 64 → Option Nat → Instr) (name : String)
      (pre : Fin 64 → Dev → Bool) (f : Fin 64 → Dev → Dev) : Prop := ∀ c : Fin 64,
    (∀ (a : Agent) (g : Option (BitVec 16)) (s : State), mine c (reqOf s.dev a) s.dev = true → settled s.dev (.dma c) = true →
      genOk s.dev (.dma c) (g.map BitVec.toNat) = true → pre c s.dev = true →
      exec (i a c g) s = .next { s with dev := arbLog (f c s.dev) (reqOf s.dev a).src (.dma c) name .ok }) ∧
    ∀ g, Does (fun o => j o c g) .operate [.dma c] (fun _ d => settled d (.dma c) && genOk d (.dma c) g && pre c d)
      (fun o d => arbLog (f c d) (viaSrc o) (.dma c) name .ok)
  let cellsOk (d : Dev) (c : Fin 64) (l : List Nat) (k : Acc) : Bool :=
    !(d.chan c.val).injErr && l.all fun a => (dmaCheck d c.val a 4 k).isNone && eccOf d a == 0
  let grants (d : Dev) (c : Fin 64) (as : List Nat) : Bool := portsGrant d (as.map targetPort) (chanClassNow d c.val) (d.chan c.val).own
  let waits (d : Dev) (c : Fin 64) (as : List Nat) : Dev := portWait d (as.map targetPort) (chanClassNow d c.val) (d.chan c.val).own
  let status (own short : Bool) (code done : Nat) : Word :=
    toWord ((if own then 2 ^ 31 else 0) + (if short then 2 ^ 28 else 0) + code * 2 ^ 24 + done)
  let at' (d : Dev) (c : Fin 64) : Nat := (d.chan c.val).rbase.toNat + 32 * (d.chan c.val).head
  let cells (a : Nat) : List Nat := [a, a + 4, a + 8, a + 12, a + 16, a + 28]
  let got (d : Dev) (c : Fin 64) : Desc :=
    let w (i : Nat) : Word := plainRead d (at' d c + i) 4
    { src := w 0, dst := w 4, len := w 8, ctl := w 12, pstride := w 16, status := w 28 }
  let fetched (d : Dev) (c : Fin 64) : Dev := dmaCharge (dmaCharge d c.val (at' d c)) c.val (at' d c + 16)
  let kept (d : Dev) (c : Fin 64) (done : Nat) : Dev := set c (fun k =>
    if k.done = done then k
    else { k with done := done, cntReslost := min (k.cntReslost + k.resid.length) 255, resid := [], lastElem := [] }) d
  let wrote (d : Dev) (c : Fin 64) (v : Word) : Dev := plainWrite (dmaCharge d c.val (at' d c + 28)) (at' d c + 28) v 4
  (∀ (c : Fin 64) (v : Word), Writes (fun a => .dmaOwnWrite a c v) (fun q _ => isK q) (.dma c)
    (fun d => (d.unit (.dma c)).st == .off) (set c fun k => { k with own := if v.getLsbD 7 then some (v &&& 7).toNat else none })) ∧
  (∀ (c : Fin 64) (f : Option (Fin 8)), sets (fun o g => .dmaOwn o c f g) .engineer c (fun d => (d.unit (.dma c)).st == .off)
    (set c fun k => { k with own := f.map (·.val) })) ∧
  (∀ (c : Fin 64) (v : Word), (v >>> 4 &&& 3) ≠ 0 → Writes (fun a => .dmaCtlWrite a c v)
    (fun q d => mine c q d && ((v >>> 4 &&& 3) != 1 || isK q)) (.dma c) (fun d => quiet d c)
    (set c fun k =>
      { k with
        prio := (v &&& 3).toNat, cls := (v >>> 4 &&& 3).toNat, retry := (v >>> 8 &&& 7).toNat, backoff := (v >>> 12 &&& 15).toNat,
        movers := (v >>> 16 &&& 15).toNat })) ∧
  (∀ (c : Fin 64) (v : Word), Writes (fun a => .dmaReqWrite a c v) (mine c) (.dma c) (fun d => quiet d c && reaches d c (v &&& 127).toNat)
    (set c fun k => { k with src := (v &&& 127).toNat })) ∧
  (∀ (c : Fin 64) (h l : Nat), l < h → h < 4096 → Writes (fun a => .dmaMarkWrite a c (toWord (h + 65536 * l))) (mine c) (.dma c)
    (fun d => quiet d c) (set c fun k => { k with high := h, low := l })) ∧
  (∀ (c : Fin 64) (p x r b m : Nat), p < 4 → 1 ≤ x → x ≤ 3 → r < 8 → b < 16 → m < 16 →
    sets (fun o g => .dmaCfg o c { prio := some p, cls := some x, retry := some r, backoff := some b, movers := some m } g)
      (if x = 1 then .engineer else .operate) c (fun d => quiet d c)
      (set c fun k => { k with prio := p, cls := x, retry := r, backoff := b, movers := m })) ∧
  (∀ (c : Fin 64) (n h l : Nat), l < h → h < 4096 → sets (fun o g => .dmaPace o c n h l g) .operate c (fun d => quiet d c && reaches d c n && (queueUnit n).all fun u => unitPresent d.variant u)
    (set c fun k => { k with src := n, high := h, low := l })) ∧
  (∀ (c : Fin 64) (b n h : Nat), b < 2 ^ 32 → b % 32 = 0 → 1 ≤ n → n ≤ 256 → h < 256 →
    sets (fun o g => .dmaRing o c b n (some h) g) .operate c (fun d => quiet d c)
      (set c fun k => { k with rbase := toWord b, rsize := n - 1, head := h })) ∧
  cmd (fun a c g => .dmaCmdKick a c g) (fun o c g => .dmaKick o c g) "KICK"
    (fun c d => (d.unit (.dma c)).st == .idle && (d.chan c.val).stage == .idle) (fun c => set c fun k => { k with stage := .fetch, tries := 0 }) ∧
  cmd (fun a c g => .dmaCmdStop a c g) (fun o c g => .dmaStop o c g) "STOP"
    (fun c d => (d.unit (.dma c)).st == .active && (d.chan c.val).stage == .data && (moverOf d c.val).isNone && !(d.chan c.val).backing &&
      cellsOk d c [at' d c + 28] .w)
    (fun c d =>
      let e := wrote (set c (fun k => { k with stage := .stopping }) d) c (status true (d.chan c.val).descShort 1 (d.chan c.val).done)
      hwMove (set c (fun k => { k with stage := .idle, code := 1, desc := none, tries := 0, stopReq := false }) e) (.dma c) .idle) ∧
  cmd (fun a c g => .dmaCmdStop a c g) (fun o c g => .dmaStop o c g) "STOP"
    (fun c d => (d.unit (.dma c)).st == .active && (moverOf d c.val).isSome) (fun c => set c fun k => { k with stopReq := true }) ∧
  (∀ (c : Fin 64) (g : Option Nat), Does (fun o => .dmaClear o c g) .operate [.dma c]
    (fun _ d => settled d (.dma c) && genOk d (.dma c) g && ((d.unit (.dma c)).st == .fault || (d.unit (.dma c)).st == .idle) &&
      (d.chan c.val).own.isSome)
    (fun o d => arbLog (setUState (arbLog (setUState d (.dma c) .off) (viaSrc o) (.dma c) "OFF" .ok) (.dma c) .idle) (viaSrc o) (.dma c) "ON" .ok)) ∧
  (∀ (c : Fin 64) (w : Bool), Does (fun o => .xDmaInject o c w) .engineer [.dma c] (fun _ d => d.pmu.cur == .run || d.pmu.cur == .slow)
    (fun _ => set c fun k => { k with injWith := k.injWith || w, injErr := k.injErr || !w })) ∧
  (∀ c : Fin 64, Happens (.dmaRequestAssert c)
    (fun d =>
      let k := d.chan c.val
      unitPresent d.variant (.dma c) && d.clocked && k.src != 0 && k.own.isSome && !k.req && queueUp d k.src && decide (k.high ≤ chanLevel d c.val))
    (set c fun k => { k with req := true })) ∧
  (∀ (c : Fin 64) (n : Nat), Happens (.dmaRequestWithdraw c n)
    (fun d => (d.chan c.val).req && (moverOf d c.val).isNone &&
      (!queueUp d (d.chan c.val).src || decide (chanLevel d c.val ≤ (d.chan c.val).low)))
    (set c fun k => { k with req := false })) ∧
  (∀ c : Fin 64,
    let fetching (d : Dev) : Bool := up d c && d.clocked && (d.chan c.val).stage == .fetch && !(d.chan c.val).backing &&
      cellsOk (fetched d c) c (cells (at' d c)) .r && grants d c [at' d c, at' d c + 16]
    Happens (.descriptorFetch c) (fun d => up d c && d.clocked && (d.chan c.val).stage == .fetch && !(d.chan c.val).backing &&
      !grants d c [at' d c, at' d c + 16]) (fun d => waits d c [at' d c, at' d c + 16]) ∧
    Happens (.descriptorFetch c) (fun d => fetching d && !(got d c).status.getLsbD 31)
      (fun d => hwMove (set c (fun k => { k with stage := .idle, desc := none, tries := 0 }) (fetched d c)) (.dma c) .idle) ∧
    (∀ e y : Nat, Happens (.descriptorFetch c)
      (fun d => fetching d && (got d c).status.getLsbD 31 &&
        descBad (kept (fetched d c) c ((got d c).status &&& 0xFFFFFF).toNat) c.val (got d c) (at' d c) == some (e, y))
      (fun d => dmaHalt (kept (fetched d c) c ((got d c).status &&& 0xFFFFFF).toNat) c.val e y)) ∧
    Happens (.descriptorFetch c)
      (fun d => fetching d && (got d c).status.getLsbD 31 &&
        (descBad (kept (fetched d c) c ((got d c).status &&& 0xFFFFFF).toNat) c.val (got d c) (at' d c)).isNone)
      (fun d =>
        let x := got d c
        let n := ((x.len &&& 0xFFFFFF).toNat)
        let e := set c (fun k =>
          let h := n / 2 / max 1 (descU x) * descU x
          { k with
            desc := some x, code := 0, tries := 0, descShort := x.status.getLsbD 28, halfDone := decide (h ≠ 0 ∧ h ≤ k.done), buf := none,
            stage := if n = 0 then .writeback else if n ≤ k.done then .readback else .data })
          (kept (fetched d c) c (x.status &&& 0xFFFFFF).toNat)
        hwMove e (.dma c) .active) ∧
    Happens (.dmaRetry c) (fun d => up d c && d.clocked && (d.chan c.val).backing && (d.chan c.val).stage == .fetch &&
        cellsOk (fetched d c) c (cells (at' d c)) .r && grants d c [at' d c, at' d c + 16] && !(got d c).status.getLsbD 31)
      (fun d => hwMove (set c (fun k =>
        { k with backing := false, cntRetry := min (k.cntRetry + 1) 0xFFFF, stage := .idle, desc := none, tries := 0 }) (fetched d c)) (.dma c) .idle)) ∧
  (∀ (c : Fin 64) (i : Fin 4) (x : Desc),
    let next (d : Dev) : Bool := !moversHeld d && [3, 2, 1, 0].findSome? (fun p => nextChan d p) == some c.val && moverFor d c.val == some i.val
    Happens .dmaBurstStart
      (fun d => next d && (d.chan c.val).desc == some x && !(x.ctl.getLsbD 20) && decide (0 < burstLen d c.val x))
      (fun d =>
        let e := { d with dma := { d.dma with rr := lset d.dma.rr (d.chan c.val).prio c.val } }
        let e := hwMove e (.dma c) .active
        { e with dma := { e.dma with movers := lset e.dma.movers i.val { ch := c.val, busy := true, bytes := burstLen d c.val x, ports := burstPorts d c.val x (burstLen d c.val x), prom := 0, cut := none } } })) ∧
  (∀ (d : Dev) (c : Nat) (x : Desc), burstLen d c x ≤ 256 ∧ (descU x ≠ 0 → burstLen d c x % descU x = 0) ∧
    ((d.chan c).done ≤ descLen x → (d.chan c).done + burstLen d c x ≤ descLen x)) ∧
  (∀ (i : Fin 4) (c : Fin 64) (ps : List Nat),
    let stands (d : Dev) : Bool :=
      let m := lget d.dma.movers Mover.reset i.val
      m.busy && m.cut.isNone && m.ch == c.val && m.ports == ps && d.clocked && !(d.chan c.val).backing
    let cls (d : Dev) : MClass := chanClassNow d c.val
    Happens (.dmaBurstComplete i) (fun d => stands d && !portsGrant d ps (cls d) (d.chan c.val).own)
      (fun d => portWait d ps (cls d) (d.chan c.val).own)) ∧
  (∀ (i : Fin 4) (c : Fin 64) (x : Desc) (ps : List Nat), x.ctl = 0x0E →
    let m : Mover := { ch := c.val, busy := true, bytes := 4, ports := ps, prom := 0, cut := none }
    let src (d : Dev) : Nat := x.src.toNat + (d.chan c.val).done
    let dst (d : Dev) : Nat := x.dst.toNat + (d.chan c.val).done
    Happens (.dmaBurstComplete i)
      (fun d =>
        let k := d.chan c.val
        d.clocked && portsGrant d ps (chanClassNow d c.val) k.own && lget d.dma.movers { m with busy := false } i.val == m && k.desc == some x && !k.backing && k.resid.isEmpty &&
        k.stage == .data && !k.stopReq && k.done % 4 == 0 && decide (k.done + 4 ≤ descLen x) && !isRegs (src d) && !isRegs (dst d) &&
        src d % 4 == 0 && dst d % 4 == 0 && cellsOk d c [src d] .r && cellsOk d c [dst d] .w)
      (fun d =>
        let e := dmaCharge d c.val (src d)
        let v := plainRead e (src d) 4
        let e := plainWrite (dmaCharge e c.val (dst d)) (dst d) v 4
        let e := set c (fun k => { k with done := k.done + 4, lastElem := bytesOf v 4, tries := 0, resid := [] }) e
        let e := dmaCutoff e c.val
        if descLen x ≤ (d.chan c.val).done + 4 then set c (fun k => { k with stage := .readback }) e else e)) ∧
  (∀ (x : Desc) (l : List Byte) (i : Nat), (x.ctl >>> 4 &&& 7).toNat = descForm x ∧
    (l.length = 2 → i < 2 → descForm x = 1 → (transformUnit x l).getD i 0 = l.getD (1 - i) 0) ∧
    (l.length = 4 → i < 4 → (descForm x = 2 → (transformUnit x l).getD i 0 = l.getD (3 - i) 0) ∧
      (descForm x = 4 → (transformUnit x l).getD i 0 = l.getD ((i + 2) % 4) 0)) ∧
    (l.length = 8 → i < 8 → (descForm x = 3 → (transformUnit x l).getD i 0 = l.getD (7 - i) 0) ∧
      (descForm x = 5 → (transformUnit x l).getD i 0 = l.getD (6 - i / 2 * 2 + i % 2) 0)) ∧
    (descForm x = 0 ∨ descForm x = 6 → transformUnit x l = l)) ∧
  (∀ (x : Desc) (l : List Byte) (i j : Fin 32), descForm x = 7 →
    ((transformUnit x l).getD (4 * j.val + i.val / 8) 0).getLsbD (i.val % 8) = (l.getD (4 * i.val + j.val / 8) 0).getLsbD (j.val % 8)) ∧
  (∀ (c : Fin 64) (x : Desc),
    let k (d : Dev) : Channel := d.chan c.val
    let ends (d : Dev) : Bool := up d c && d.clocked && !(k d).backing && (k d).stage == .writeback && (k d).desc == some x &&
      !x.ctl.getLsbD 20 && grants d c [at' d c + 28] && cellsOk d c [at' d c + 28] .w
    let full (d : Dev) : Dev :=
      let e := set c (fun k => { k with full := k.full || x.ctl.getLsbD 17, half := k.half || k.halfPend, halfPend := false }) d
      if x.ctl.getLsbD 17 = true ∨ (k d).halfPend = true then fireSource e (104 + 2 * c.val) else e
    let counted (k : Channel) : Channel :=
      { k with
        cntDesc := (k.cntDesc + 1) % 65536, code := 0, tries := 0, done := 0, resid := [], halfDone := false, descShort := false, buf := none,
        lastElem := [], stopReq := false }
    Happens (.dmaDescriptorComplete c) (fun d => ends d && !x.ctl.getLsbD 21)
      (fun d =>
        let last := x.ctl.getLsbD 19 || (k d).stopReq
        let e := full (wrote d c (status false (k d).descShort 0 (descLen x)))
        let e := set c (fun k =>
          { counted k with desc := none, head := (k.head + 1) % (k.rsize + 1), stage := if last then .idle else .fetch }) e
        if last then hwMove e (.dma c) .idle else e) ∧
    Happens (.dmaDescriptorComplete c) (fun d => ends d && x.ctl.getLsbD 21)
      (fun d =>
        let e := full (wrote d c (status true (k d).descShort 0 (descLen x)))
        let e := set c (fun k =>
          { counted k with stage := if k.stopReq then .idle else if descLen x = 0 then .writeback else .data }) e
        if (k d).stopReq then hwMove e (.dma c) .idle else e)) ∧
  (∀ (d : Dev) (c code a : Nat), (code = 6 → (d.chan c).tries < (d.chan c).retry →
      dmaRefused d c code a = d.updChan c fun k => { k with backing := true }) ∧
    (code ≠ 6 ∨ (d.chan c).retry ≤ (d.chan c).tries → dmaRefused d c code a = dmaHalt d c code a))

/-! The field ports, the buffer pool and the partner table (spec/16). -/

/-- Frames and buffers of the field ports (spec/16 R347 to R368), for frames of one buffer. -/
def Obligations.PortFrames : Prop :=
  let upd (u : FieldPort) (f : Port → Port) (d : Dev) : Dev := d.updPort (portId u) f
  let one (d : Dev) (i f n : Nat) (b : Nat) : Bool :=
    !(d.port i).injNobuf && bufAvail d i && freeBuf d == some b && (subQ (d.port i) f).recs.length < 32 && 1 ≤ n && n ≤ 256
  let taken (b f r : Nat) (d : Dev) : Dev := poolWatch { d with pool := { d.pool with tags := tput d.pool.tags b ⟨f, r⟩ } }
  let placed (i f b stat : Nat) (px : Option Nat) (l : List Byte) (d : Dev) : Dev :=
    let info := l.length + 2 ^ 9 + 2 ^ 10 + stat * 2 ^ 11 + (match px with | some n => 2 ^ 15 + n * 2 ^ 16 | none => 0)
    let e := updSub (portStore d (0x18000000 + 256 * b) l) i f fun q =>
      { q with recs := q.recs ++ [{ addr := toWord (0x18000000 + 256 * b), info := toWord info, fold := f }] }
    let e := e.updPort i fun k => { k with rxok := (k.rxok + 1) % 65536 }
    if (e.port i).own = some f then fireSource e (portSource i 0) else e
  let ends (i f b : Nat) (l : List Byte) (nid : Nat) (d : Dev) : Dev :=
    let x := partnerLookup (taken b f i d) i (macKey l) f nid
    placed i f b 0 x.2 l x.1
  let quiet (d : Dev) (u : FieldPort) : Bool :=
    portLive d u && !(d.port (portId u)).injFcs && !(d.port (portId u)).dropNext && (d.port (portId u)).held.isEmpty
  let free (d : Dev) (f : Nat) : Bool := (d.unit (foldU f)).st != .fenced
  let table (d : Dev) : Bool := (d.unit .ptab).st != .fenced && !(d.unit .ptab).resetting
  let none' (d : Dev) (u : FieldPort) : Bool := !(d.port (portId u)).injNobuf && !bufAvail d (portId u)
  let slot (d : Dev) (p : Fin 4) (n : Byte) : Bool := (d.port p.val).cfg.getLsbD 0 && (d.port p.val).plcaOk && n != 255
  let t1sFold (d : Dev) (p : Fin 4) (n : Byte) (l : List Byte) : Nat :=
    let own := (d.port p.val).own.getD 0
    let e := tget d.nid 0 (p.val * 256 + n.toNat)
    if slot d p n then (if 128 ≤ e then e % 8 else own)
    else match partnerFind d p.val (macKey l) with | some (_, x) => x.fold | none => own
  let heard (p : Fin 4) (n : Byte) (d : Dev) : Dev := if slot d p n then upd (.t1s p) (fun k => { k with curTo := n }) d else d
  (∀ (p : Fin 4) (n : Byte) (l : List Byte) (b : Nat), 60 ≤ l.length →
    Happens (.t1sFrameReceived p n l true)
      (fun d => quiet d (.t1s p) && free d (t1sFold d p n l) && table d && one d p.val (t1sFold d p n l) l.length b)
      (fun d => ends p.val (t1sFold d p n l) b l (if slot d p n then n.toNat else 255) (heard p n d))) ∧
  (∀ (p : Fin 4) (n : Byte) (l : List Byte), 60 ≤ l.length → l.length ≤ 256 →
    Happens (.t1sFrameReceived p n l true) (fun d => quiet d (.t1s p) && free d (t1sFold d p n l) && none' d (.t1s p))
      (fun d => upd (.t1s p) (fun k => { k with nobuf := min (k.nobuf + 1) 255 }) (heard p n d)) ∧
    Happens (.t1sFrameReceived p n l false) (fun d => portLive d (.t1s p) && !(d.port p.val).injFcs)
      (upd (.t1s p) fun k => { k with err := min (k.err + 1) 255 })) ∧
  (∀ (m : Fin 2) (l : List Byte) (b : Nat), 60 ≤ l.length → Happens (.gbeFrameReceived m l true)
    (fun d => quiet d (.gbe m) && table d && one d (8 + m.val) ((d.port (8 + m.val)).own.getD 0) l.length b)
    (fun d => ends (8 + m.val) ((d.port (8 + m.val)).own.getD 0) b l 255 d)) ∧
  (∀ (m : Fin 2) (l : List Byte),
    (l.length ≤ 1518 → Happens (.gbeFrameReceived m l false) (fun d => portLive d (.gbe m) && !(d.port (8 + m.val)).injFcs)
      (upd (.gbe m) fun k => { k with err := min (k.err + 1) 255 })) ∧
    (1518 < l.length → Happens (.gbeFrameReceived m l true) (fun d => portLive d (.gbe m) && !(d.port (8 + m.val)).injFcs)
      (upd (.gbe m) fun k => { k with ovf := min (k.ovf + 1) 255 }))) ∧
  (∀ (p : Fin 4) (fr : CanFrame), canWell fr = true →
    let u : FieldPort := .can p
    let ready (d : Dev) : Bool := portLive d u && !(d.port (4 + p.val)).cfg.getLsbD 2 && !(d.port (4 + p.val)).injFcs
    let isOk (d : Dev) : Bool := ready d && (!fr.fd || (d.port (4 + p.val)).cfg.getLsbD 0)
    Happens (.canFrameReceived p fr false) ready (upd u fun k => { k with err := min (k.err + 1) 255 }) ∧
    Happens (.canFrameReceived p fr true) (fun d => isOk d && (canFold d p.val (canIdWord fr)).isNone)
      (upd u fun k => { k with unowned := min (k.unowned + 1) 255 }) ∧
    Happens (.canFrameReceived p fr true)
      (fun d => isOk d && (canFold d p.val (canIdWord fr)).isSome && decide (4 ≤ (d.port (4 + p.val)).rxWait.length))
      (upd u fun k => { k with ovf := min (k.ovf + 1) 255 }) ∧
    ∀ (f b : Nat), Happens (.canFrameReceived p fr true)
      (fun d => isOk d && canFold d p.val (canIdWord fr) == some f && table d && (d.port (4 + p.val)).rxWait.isEmpty &&
        (d.port (4 + p.val)).held.isEmpty && one d (4 + p.val) f (canBytes d fr).length b)
      (fun d =>
        let x := partnerLookup { d with free := d.free + 1 } (4 + p.val) (canIdWord fr) f 255
        placed (4 + p.val) f b 0 x.2 (canBytes d fr) (taken b f (4 + p.val) x.1))) ∧
  (∀ (u : Fin 8) (c : Byte) (bad gap : Bool), Happens (.uartCharacterReceived u c bad gap)
    (fun d =>
      let k := d.port (10 + u.val)
      portLive d (.uart u) && !k.txBusy && !uartDue k && !k.held.isEmpty && (uartMode k != 2 || k.sentence || c == 0x24 || c == 0x21))
    (upd (.uart u) fun k =>
      { k with
        rxStat := if bad then 1 else if uartMode k = 1 ∧ gap = true ∧ k.rxBuf ≠ [] then 2 else k.rxStat, rxBuf := k.rxBuf ++ [c],
        sentence := true, crSeen := decide (uartMode k = 2 ∧ c = 10 ∧ k.rxBuf.getLast? = some 13) })) ∧
  (∀ (u : Fin 8) (b : Nat),
    let i := 10 + u.val
    Happens (.uartBufferClose u)
      (fun d =>
        let k := d.port i
        portLive d (.uart u) && uartMode k == 0 && !k.rxBuf.isEmpty && decide (k.rxBuf.length ≤ 256) &&
        (k.rxBuf.length == 256 || fld k.tmr 8 8 != 0) && k.held == [b] && k.rxWait.isEmpty && decide ((subQ k (k.own.getD 0)).recs.length < 32))
      (fun d =>
        let k := d.port i
        let f := k.own.getD 0
        let e := upd (.uart u) (fun k => { k with held := [], rxBuf := [], rxStat := 0, sentence := false, crSeen := false })
          { d with pool := { d.pool with tags := tput d.pool.tags b ⟨f, i⟩ } }
        placed i f b k.rxStat none k.rxBuf (fireSource e (portSource i 2)))) ∧
  (∀ (r : ReqId) (b : Nat),
    Happens (.bufferRequest [r]) (fun d => d.clocked && asks d r && askAvail d r && freeBuf d == some b)
      (fun d => askGranted (taken b (askFold d r) (reqIdNum r) d) r b) ∧
    Happens (.bufferRequest [r]) (fun d => d.clocked && asks d r && !askAvail d r) (fun d => askRefused d r false)) ∧
  (∀ (d : Dev) (l : List ReqId) (r : ReqId), bestAsk d l = some r → r ∈ l ∧ askAvail d r = true ∧
    ∀ x ∈ l, askAvail d x = true → reqRank d (reqIdNum r) ≤ reqRank d (reqIdNum x)) ∧
  (∀ (d : Dev) (x y : ReqId), designated d (reqIdNum x) = true → designated d (reqIdNum y) = false →
    reqRank d (reqIdNum x) < reqRank d (reqIdNum y)) ∧
  (∀ (c : Fin 32) (b : Nat),
    let f (d : Dev) : Nat := d.foldOfCore c.val
    let reads (d : Dev) : Bool := coreMoves d c.val && (d.core c.val).loads.isEmpty
    Happens (.poolAllocRead c) (fun d => reads d && bufAvail d (96 + f d) && freeBuf d == some b) (fun d => taken b (f d) (96 + f d) d) ∧
    Happens (.poolAllocRead c) (fun d => reads d && !bufAvail d (96 + f d)) id) ∧
  (∀ (v : Word) (a : Agent) (s : State),
    let d := s.dev
    let q := reqOf d a
    let b := (v.toNat - 0x18000000) / 256
    let isBuf := decide (0x18000000 ≤ v.toNat ∧ v.toNat < 0x18040000 ∧ v.toNat % 256 = 0)
    let own := match tfind d.pool.tags b with | some t => isK q || q.fold == some t.fold | none => false
    q.fold ≠ none ∨ isK q = true →
    let e := if isBuf && own then poolReturn d b else { d with pool := { d.pool with badFree := true } }
    exec (.poolFreeWrite a v) s = .next { s with dev := e }) ∧
  (∀ (u : FieldPort) (c : Fin 32) (p : Priv),
    let i := portId u
    let reads (d : Dev) : Bool := unitPresent d.variant (portUnit u) && (d.unit (portUnit u)).st != .fenced && coreMoves d c.val &&
      (d.core c.val).loads.isEmpty && portReader d (reqOf d (.core c p)) i
    let q (d : Dev) : SubQ := subQ (d.port i) (d.foldOfCore c.val)
    Happens (.rxqRead (.core c p) u) (fun d => reads d && !(q d).recs.isEmpty && !(q d).half)
      (fun d => updSub d i (d.foldOfCore c.val) fun x => { x with half := true }) ∧
    Happens (.rxqRead (.core c p) u) (fun d => reads d && !(q d).recs.isEmpty && (q d).half && (d.port i).rxWait.isEmpty)
      (fun d => updSub d i (d.foldOfCore c.val) fun x => { x with recs := x.recs.drop 1, half := false })) ∧
  (∀ (u : FieldPort) (v : Word) (a : Agent) (s : State) (f : Nat),
    let d := s.dev
    let i := portId u
    let q := reqOf d a
    q.fold = some f → q.priv ≠ .u → portAccess d i f = true → unitPresent d.variant (portUnit u) = true →
    (d.unit (portUnit u)).st ≠ .fenced → (d.port i).txq.length < 16 →
    ((subQ (d.port i) f).tx0 = none →
      exec (.txqWrite a u v) s = .next { s with dev := updSub d i f fun x => { x with tx0 := some v, last := v } }) ∧
    ∀ w, (subQ (d.port i) f).tx0 = some w →
      let e := d.updPort i fun k => { k with txq := k.txq ++ [{ addr := w, info := v, fold := f }] }
      exec (.txqWrite a u v) s = .next { s with dev := updSub e i f fun x => { x with tx0 := none, last := v } }) ∧
  (∀ (u : FieldPort) (r : Rec) (l : List Rec),
    let i := portId u
    let head (d : Dev) : Bool := portLive d u && !(d.port i).txBusy && !(portClass i == 1 && (d.port i).cfg.getLsbD 1) &&
      (d.port i).txFrame.isEmpty && (d.port i).txq == r :: l
    Happens (.txRecordHead u) (fun d => head d && r.info.getLsbD 9 && txRecOk d i r)
      (upd u fun k => { k with txFrame := [r], txq := l, txBusy := r.info.getLsbD 10 }) ∧
    Happens (.txRecordHead u) (fun d => head d && r.info.getLsbD 10 && (!r.info.getLsbD 9 || !txRecOk d i r))
      (fun d => fireSource (txReturn (upd u (fun k => { k with txFrame := [], txq := l, txref := min (k.txref + 1) 255 }) d) [r]) (portSource i 3)) ∧
    Happens (.frameTransmitComplete u) (fun d => portLive d u && (d.port i).txBusy && !(portClass i == 1 && (d.port i).cfg.getLsbD 2))
      (fun d =>
        let k := d.port i
        let e := upd u (fun k =>
          { k with txFrame := [], txBusy := false, txok := (k.txok + 1) % 65536, sent := k.sent ++ [txBytes d k.txFrame] }) d
        fireSource (txReturn e k.txFrame) (portSource i 1)) ∧
    Happens (.transmitFailure u)
      (fun d => (d.port i).txBusy && (match u with
        | .t1s _ => portLive d u | .can _ => (d.port i).errState == 2 && (d.unit (portUnit u)).st != .fenced | _ => false))
      (fun d => fireSource (txReturn (upd u (fun k => { k with txFrame := [], txBusy := false, txref := min (k.txref + 1) 255 }) d)
        (d.port i).txFrame) (portSource i 3))) ∧
  ∀ (d : Dev) (r : Rec), r.info.getLsbD 11 = true → ∀ t, tfind d.pool.tags (bufOfAddr r.addr) = some t →
    txReturn d [r] = if t.fold = r.fold then poolReturn d (bufOfAddr r.addr) else d

/-- Line events, partners and settings of the field ports (spec/16 R344 to R372). -/
def Obligations.PortSettings : Prop :=
  let on (d : Dev) (u : FieldPort) : Bool :=
    d.clocked && !(d.unit (portUnit u)).resetting && ((d.unit (portUnit u)).st == .active || (d.unit (portUnit u)).st == .idle)
  let upd (u : FieldPort) (f : Port → Port) (d : Dev) : Dev := d.updPort (portId u) f
  let event (u : FieldPort) (t : String) (d : Dev) : Dev := emit d (some .port) (some (portUnit u)) t
  let here (u : FieldPort) (d : Dev) : Bool := unitPresent d.variant (portUnit u)
  let off (u : FieldPort) (d : Dev) : Bool := here u d && (d.unit (portUnit u)).st == .off
  let sets (i : Via → Instr) (role : Role) (u : FieldPort) (pre : Dev → Bool) (f : Dev → Dev) : Prop :=
    Sets i role [portUnit u] (portUnit u) (fun d => here u d && pre d) f
  let owned (u : FieldPort) (f : Option Nat) : Dev → Dev := upd u fun k => { k with own := f }
  let table (d : Dev) : Bool := (d.unit .ptab).st != .absent && (d.unit .ptab).st != .fenced
  let setFloor (r : ReqId) (n : Nat) (d : Dev) : Dev := regSet d .ptab (0x6100 + 4 * reqIdNum r) (toWord n)
  let cleared (c : Word) (m : Word) : Word := c &&& ~~~m
  (∀ p : Fin 4,
    let u : FieldPort := .t1s p
    Happens (.plcaLost p) (fun d => on d u && (d.port p.val).cfg.getLsbD 0 && (d.port p.val).plcaOk)
      (fun d => hwMove (event u ("!PLCA t1s" ++ toString p.val ++ " LOST")
        (fireSource (upd u (fun k => { k with plcaOk := false }) d) (portSource p.val 2))) (.t1s p) .idle) ∧
    Happens (.plcaOk p) (fun d => on d u && (d.port p.val).cfg.getLsbD 0 && !(d.port p.val).plcaOk)
      (fun d => hwMove (event u ("!PLCA t1s" ++ toString p.val ++ " OK") (upd u (fun k => { k with plcaOk := true }) d)) (.t1s p) .active)) ∧
  (∀ m : Fin 2,
    let u : FieldPort := .gbe m
    Happens (.gbeLinkDown m) (fun d => on d u && (d.port (8 + m.val)).link)
      (fun d => hwMove (event u ("!PORT gbe" ++ toString m.val ++ " DOWN") (upd u (fun k => { k with link := false }) d)) (.gbe m) .idle) ∧
    ∀ (x : Fin 4) (h : Bool), x ≠ 0 → Happens (.gbeLinkUp m x h) (fun d => on d u && !(d.port (8 + m.val)).link)
      (fun d => hwMove (event u ("!PORT gbe" ++ toString m.val ++ " UP")
        (upd u (fun k => { k with link := true, hdx := h, speed := x.val }) d)) (.gbe m) (if h then .idle else .active))) ∧
  (∀ p : Fin 4,
    let u : FieldPort := .can p
    (∀ t r : Byte, 128 ≤ t.toNat ∨ 128 ≤ r.toNat → Happens (.canErrorPassive p t r) (fun d => on d u && (d.port (4 + p.val)).errState == 0)
      (fun d => event u ("!CAN can" ++ toString p.val ++ " PASSIVE") (upd u (fun k => { k with errState := 1, tec := t, rec_ := r }) d))) ∧
    Happens (.canBusOff p) (fun d => on d u && (d.port (4 + p.val)).errState != 2)
      (fun d => event u ("!CAN can" ++ toString p.val ++ " BUSOFF")
        (hwMove (upd u (fun k => { k with errState := 2, integrated := false }) d) (.can p) .fault)) ∧
    Happens (.canIntegrated p) (fun d => on d u && !(d.port (4 + p.val)).integrated && (d.port (4 + p.val)).errState != 2)
      (fun d => hwMove (upd u (fun k => { k with integrated := true }) d) (.can p) .active)) ∧
  (∀ (m : Fin 2) (v : Word),
    Pokes (fun a => .mdioTransaction a m v) (fun q d => isF q (d.port (8 + m.val)).own) (.gbe m) (fun d => here (.gbe m) d)
      (upd (.gbe m) fun k => if k.mdio.getLsbD 11 then k else { k with mdio := v &&& 0xFFFF0FFF }) ∧
    Happens (.mdioComplete m none) (fun d => (d.port (8 + m.val)).mdio.getLsbD 11)
      (upd (.gbe m) fun k => { k with mdio := (k.mdio &&& 0xFFFFF7FF) ||| 0x1000 }) ∧
    ∀ x : BitVec 16, Happens (.mdioComplete m (some x)) (fun d => (d.port (8 + m.val)).mdio.getLsbD 11 && !(d.port (8 + m.val)).mdio.getLsbD 10)
      (upd (.gbe m) fun k => { k with mdio := (k.mdio &&& 0x0000F7FF) ||| (x.setWidth 32 <<< 16) })) ∧
  Happens .partnerAgeTick (fun d => d.clocked && table d && !(d.unit .ptab).resetting)
    (fun d => (List.range 8).foldl (fun d f => updPq d f fun q => { q with fullTick := false })
      ((d.ptab.entries.map (·.1)).foldl agePartner d)) ∧
  (∀ (d : Dev) (i : Nat) (e : Partner), tfind d.ptab.entries i = some e →
    let age := lget d.ptab.ages 5000 e.port
    let idle := min (e.idle + 1) 65535
    let older := setPartner d i { e with idle := idle }
    agePartner d i = if e.stat = false ∧ age ≠ 0 ∧ age ≤ idle then partnerLeave older i 0 else older) ∧
  (∀ (f : Fin 8) (c : Fin 32) (p : Priv), Happens (.partnerEvRead (.core c p) f)
    (fun d => coreMoves d c.val && (d.core c.val).loads.isEmpty && isF (reqOf d (.core c p)) (some f.val))
    (fun d => updPq d f.val fun q => { q with recs := q.recs.drop 1 })) ∧
  (∀ v : Word,
    Pokes (fun a => .ptabAddWrite a v) (fun q _ => isK q) .ptab table
      (fun d => (ptabAdd d (v >>> 16 &&& 31).toNat (d.ptab.addLo.toNat + (v &&& 0xFFFF).toNat * 2 ^ 32) (v >>> 24 &&& 7).toNat).1) ∧
    Pokes (fun a => .ptabDelWrite a v) (fun q _ => isK q) .ptab table (fun d => partnerLeave d (v &&& 1023).toNat 2)) ∧
  (∀ (u : FieldPort) (key i : Nat) (f : Fin 8),
    let e : Partner := { stat := true, port := portId u, fold := f.val, nid := 255, key := key, idle := 0, frames := 0 }
    Does (fun o => .ptabAdd o u key f) .engineer [portUnit u]
      (fun _ d => table d && here u d && keyFits d (portId u) key && (partnerFind d (portId u) key).isNone && partnerFree d == some i)
      (fun _ d => joinEvent (partnerRec (setPartner d i e) f.val i 1 0 (portId u) key) i (portId u) key f.val)) ∧
  (∀ i : Nat, Does (fun o => .ptabDel o i) .operate []
    (fun o d => table d && (match tfind d.ptab.entries i, viaScope d o with
      | some e, some f => e.fold == f.val | some _, none => true | _, _ => false))
    (fun _ d => partnerLeave d i 2)) ∧
  (∀ (u : FieldPort) (n : Nat), n < 65536 → Does (fun o => .ptabAge o u n) .operate [portUnit u] (fun _ d => table d)
    (fun _ d => { d with ptab := { d.ptab with ages := lset d.ptab.ages (portId u) n } })) ∧
  (∀ (u : FieldPort) (v : Word), Writes (fun a => .portOwnWrite a u v) (fun q _ => isK q) (portUnit u) (off u)
    (owned u (if v.getLsbD 7 then some (v &&& 7).toNat else none))) ∧
  (∀ (u : FieldPort) (f : Option (Fin 8)), sets (fun o => .portOwn o u f) .engineer u (off u) (owned u (f.map (·.val)))) ∧
  (∀ (r : ReqId) (n : Nat), n ≤ 64 →
    let may (d : Dev) : Bool := decide ((allReqs.map fun x => if x = reqIdNum r then n else floorOf d x).sum ≤ 512)
    Writes (fun a => .poolFloorWrite a r (toWord n)) (fun q _ => isK q) .ptab may (setFloor r n) ∧
    Sets (fun o => .poolFloor o r n) .engineer (reqUnits r) .ptab may (setFloor r n)) ∧
  (∀ (d : Dev) (r : ReqId) (n : Nat), n ≤ 64 → floorOf (setFloor r n d) (reqIdNum r) = n) ∧
  (∀ (i : Fin 4) (v : Word),
    let h (d : Dev) : List Word := lset d.pool.hdes i.val (v &&& (if i = 0 then 0x3FFFF else if i = 3 then 0xFF else 0xFFFFFFFF))
    Writes (fun a => .poolHdesWrite a i v) (fun q _ => isK q) .ptab (fun d => decide (hdesCount (h d) ≤ 8))
      (fun d => { d with pool := { d.pool with hdes := h d } })) ∧
  (∀ rs : List ReqId, hdesCount (hdesOf rs) ≤ 8 → Sets (fun o => .poolHalter o rs) .engineer (rs.flatMap reqUnits) .ptab (fun _ => true)
    (fun d => { d with pool := { d.pool with hdes := hdesOf rs } })) ∧
  (∀ (d : Dev) (rs : List ReqId) (r : ReqId), r ∈ rs → designated { d with pool := { d.pool with hdes := hdesOf rs } } (reqIdNum r) = true) ∧
  (∀ (p : Fin 4) (n b t : Nat), 1 ≤ n → n ≤ 255 → b ≤ 255 → 20 ≤ t → t ≤ 255 →
    sets (fun o => .t1sPlcaCoord o p n (some b) (some t)) .engineer (.t1s p) (fun _ => true)
      (fun d => quietMove (upd (.t1s p) (fun k =>
        { k with cfg := cleared k.cfg 0xFFFFFF03 ||| toWord (3 + n * 2 ^ 16 + b * 2 ^ 24), tmr := cleared k.tmr 0xFF ||| toWord t }) d) (.t1s p))) ∧
  (∀ (p : Fin 4) (n b t : Nat), 1 ≤ n → n ≤ 254 → b ≤ 255 → 20 ≤ t → t ≤ 255 →
    sets (fun o => .t1sPlcaFollow o p n (some b) (some t)) .engineer (.t1s p) (fun _ => true)
      (fun d => quietMove (upd (.t1s p) (fun k =>
        { k with cfg := cleared k.cfg 0xFF00FF03 ||| toWord (1 + n * 2 ^ 8 + b * 2 ^ 24), tmr := cleared k.tmr 0xFF ||| toWord t }) d) (.t1s p))) ∧
  (∀ p : Fin 4, sets (fun o => .t1sPlcaOff o p) .engineer (.t1s p) (fun _ => true)
    (fun d => quietMove (upd (.t1s p) (fun k => { k with cfg := k.cfg &&& 0xFFFFFFFE }) d) (.t1s p))) ∧
  (∀ (p : Fin 4) (n : Nat) (f : Option (Fin 8)), n ≤ 254 → sets (fun o => .t1sNode o p [n] f) .engineer (.t1s p) (fun _ => true)
    (fun d => { d with nid := tset d.nid 0 (256 * p.val + n) (match f with | some x => 128 + x.val | none => 0) })) ∧
  (∀ (m : Fin 2) (x : Fin 4) (t r : Bool), sets (fun o => .gbeSpeed o m x (some t) (some r)) .operate (.gbe m) (fun _ => true)
    (upd (.gbe m) fun k => { k with cfg := cleared k.cfg 15 ||| toWord (x.val + (if t then 4 else 0) + (if r then 8 else 0)) })) ∧
  (∀ (p : Fin 4) (t : CanTiming) (l : Bool), timingOk t 256 256 128 128 = true →
    sets (fun o => .canRate o p t none (some l)) .operate (.can p) (off (.can p)) (upd (.can p) fun k =>
      { k with
        tmr := toWord (t.brp - 1 + (t.tseg1 - 1) * 2 ^ 8 + (t.tseg2 - 1) * 2 ^ 16 + (t.sjw - 1) * 2 ^ 23),
        cfg := cleared k.cfg 2 ||| (if l then 2 else 0) })) ∧
  (∀ (p : Fin 4) (n : Fin 32) (x : CanFilt), x.id < (if x.ext then 0x20000000 else 2048) → x.mask < 0x20000000 →
    let w : Filt := ⟨toWord (x.id + (if x.ext then 2 ^ 29 else 0) + (if x.rx then 2 ^ 30 else 0) + (if x.tx then 2 ^ 31 else 0)),
      toWord (x.mask + x.fold.val * 2 ^ 29)⟩
    sets (fun o => .canFilter o p n.val (some x)) .engineer (.can p) (fun _ => true)
      (fun d => { d with filts := tset d.filts ⟨0, 0⟩ (32 * p.val + n.val) w })) ∧
  (∀ (p : Fin 4) (n : Fin 32), sets (fun o => .canFilter o p n.val none) .engineer (.can p) (fun _ => true)
    (fun d =>
      let x : Filt := tget d.filts ⟨0, 0⟩ (32 * p.val + n.val)
      { d with filts := tset d.filts ⟨0, 0⟩ (32 * p.val + n.val) { x with a := x.a &&& 0x3FFFFFFF } })) ∧
  (∀ (u : Fin 8) (b l t i : Nat) (f : Fin 4) (m : Fin 3), 300 ≤ b → b ≤ 3000000 → l ≤ 15 → t ≤ 15 → i ≤ 255 →
    sets (fun o => .uartCfg o u { baud := b, fmt := some f, mode := m, rs485 := some (l, t), idle := some i }) .operate (.uart u)
      (fun _ => true) (upd (.uart u) fun k =>
      { k with
        cfg := cleared k.cfg 0x07FFFFFF ||| toWord (b + f.val * 2 ^ 22 + m.val * 2 ^ 24 + 2 ^ 26),
        tmr := cleared k.tmr 0xFFFF ||| toWord (l + t * 16 + i * 256) })) ∧
  ∀ (u : FieldPort) (x : Bool), Does (fun o => .xPortInject o u x) .engineer [portUnit u]
    (fun _ d => d.pmu.cur == .run || d.pmu.cur == .slow)
    (fun _ => upd u fun k => { k with injNobuf := k.injNobuf || x, injFcs := k.injFcs || !x })

/-! The analog front end, the PWM channels and the GPIO unit (spec/17). -/

/-- What the AFE, the PWM channels and the GPIO unit do (spec/17 R373 to R393). -/
def Obligations.AfePwmGpio : Prop :=
  let afe (f : Afe → Afe) (d : Dev) : Dev := { d with afe := f d.afe }
  let ch (d : Dev) (k : Nat) : AfeCh := lget d.afe.chans AfeCh.reset k
  let valid (d : Dev) (c : AfeCh) (k : Nat) : Bool :=
    c.old.getD c.mode != 0 && c.discard == 0 && !d.pmu.afeShed.getLsbD k && (d.unit .afe).st == .active
  let raw (c : AfeCh) (x : Int) : Int := match c.test with | none => x | some false => c.lo.toInt - 1 | some true => c.hi.toInt + 1
  let code (c : AfeCh) (x : Int) : Int := max (-8388608) (min 8388607 (raw c x))
  let dir (c : AfeCh) (x : Int) : Nat := if code c x < c.lo.toInt then 1 else if c.hi.toInt < code c x then 2 else 0
  let count (c : AfeCh) (x : Int) : Nat := if dir c x = c.runDir then min (c.run + 1) 15 else 1
  let fault (c : AfeCh) (x : Int) : Nat := if c.fcnt ≤ count c x then dir c x else c.fault
  let cell (d : Dev) (c : AfeCh) (x : Int) : Word :=
    (BitVec.ofInt 24 (code c x)).setWidth 32 + toWord ((if fault c x = 1 then 2 ^ 24 else 0) + (if fault c x = 2 then 2 ^ 25 else 0) +
      (if code c x ≠ raw c x then 2 ^ 26 else 0) + d.afe.seq * 2 ^ 28)
  let idle (d : Dev) (c : AfeCh) : Word :=
    toWord ((if c.fault = 1 then 2 ^ 24 else 0) + (if c.fault = 2 then 2 ^ 25 else 0) + 2 ^ 27 + d.afe.seq * 2 ^ 28)
  let next (d : Dev) (c : AfeCh) (k : Nat) (x : Int) : AfeCh :=
    let e : AfeCh :=
      if valid d c k then { c with runDir := dir c x, run := count c x, fault := fault c x, last := cell d c x }
      else { c with last := idle d c, discard := if c.old.getD c.mode = 0 then c.discard else c.discard - 1 }
    if c.old.isSome then { e with old := none, discard := 4 } else e
  let nexts (d : Dev) (xs : List Int) : List AfeCh := (d.afe.chans.zip xs).zipIdx.map fun x => next d x.1.1 x.2 x.1.2
  let built (d : Dev) (xs : List Int) : Dev := afe (fun a =>
    { a with chans := nexts d xs, seq := (a.seq + 1) % 16, frames := (a.frames + 1) % 65536, ovrWait := a.ovrWait - 1 }) d
  let works (d : Dev) : Bool := d.clocked && !(d.unit .afe).resetting && ((d.unit .afe).st == .active || (d.unit .afe).st == .fault)
  let steady (d : Dev) (xs : List Int) : Bool := d.afe.chans.length == 24 && (nexts d xs).map (·.fault) == d.afe.chans.map (·.fault)
  let here (u : UnitId) (d : Dev) : Bool := unitPresent d.variant u
  let up (n : Fin 16) (f : Pwm → Pwm) (d : Dev) : Dev := d.updPwm n.val f
  let runsP (d : Dev) (n : Fin 16) : Bool := d.clocked && (d.unit (.pwm n)).st == .active && !(d.unit (.pwm n)).resetting
  let tripped (d : Dev) (n : Fin 16) : Bool :=
    let k := d.pwm n.val
    k.hen && d.halter.trip.getLsbD k.hlink || (k.foldsafe && k.own.any fun f => (d.unit (foldU f)).st == .fenced || (d.unit (foldU f)).resetting)
  let hold (n : Fin 16) : Dev → Dev := up n fun k => { k with held := true, running := false, due := false }
  let sp (k : Pwm) : Nat := match k.spq with | [] => k.sp | x :: _ => x
  let eff (k : Pwm) : Nat := if k.dhalf = 0 then sp k else if k.dpos < k.dhalf then min (sp k + k.damp) 65535 else sp k - k.damp
  let starts (n : Fin 16) : Dev → Dev := up n fun k =>
    let t := eff k * k.per + k.acc
    { k with
      sp := sp k, spq := k.spq.drop 1, running := true,
      h := if eff k = 0 then 0 else if eff k = 65535 then k.per else t / 65536,
      acc := if eff k = 0 then 0 else if eff k = 65535 then 0 else t % 65536,
      dpos := if k.dhalf = 0 then 0 else (k.dpos + 1) % (2 * k.dhalf) }
  let ends (n : Fin 16) (d : Dev) : Dev := if (d.pwm n.val).running && (d.pwm n.val).pev then fireSource d (88 + n.val) else d
  let wake (n : Fin 16) (d : Dev) : Dev := if (d.unit (.pwm n)).st = .idle then hwMove d (.pwm n) .active else d
  let gp (f : Gpio → Gpio) (d : Dev) : Dev := { d with gpio := f d.gpio }
  let half (x : BitVec 64) (hi : Bool) : Word := if hi then (x >>> 32).setWidth 32 else x.setWidth 32
  let join (x : BitVec 64) (hi : Bool) (w : Word) : BitVec 64 :=
    if hi then (w.setWidth 64 <<< 32) ||| (x &&& 0xFFFFFFFF) else (x &&& 0xFFFFFFFF00000000) ||| w.setWidth 64
  let outs (hi : Bool) (f : Word → Word) : Dev → Dev := gp fun g => { g with out := join g.out hi (f (half g.out hi)) }
  let own (d : Dev) (i : Nat) : Option Nat := lget d.gpio.own none i
  let mine (ns : List Nat) (o : Via) (d : Dev) : Bool := !ns.isEmpty && ns.all (· < 64) && (match viaScope d o with
    | none => true | some f => ns.all fun i => own d i == some f.val)
  let gset (ns : List Nat) (o : Via) (d : Dev) : Bool := mine ns o d && settled d .gpio
  let pins (ns : List Nat) (x : BitVec 64) (b : Bool) : BitVec 64 := ns.foldl (fun x i =>
    if b then x ||| BitVec.ofNat 64 (2 ^ i) else x &&& ~~~(BitVec.ofNat 64 (2 ^ i))) x
  let live (d : Dev) : Bool := d.clocked && (d.unit .gpio).st != .fenced && !(d.unit .gpio).resetting
  let drives (d : Dev) (i : Nat) : Bool := d.gpio.dir.getLsbD i && !(d.gpio.odrn.getLsbD i && d.gpio.out.getLsbD i)
  let ball (d : Dev) (i : Nat) : Bool := if drives d i then d.gpio.out.getLsbD i else d.pins.gpio.getLsbD i
  (∀ xs : List Int, xs.length = 24 →
    Happens (.afeConversionPeriod xs) (fun d => works d && steady d xs && decide (d.afe.queue.length + 24 ≤ 384))
      (fun d =>
        let e := afe (fun a => { a with queue := a.queue ++ (nexts d xs).map (·.last), dry := false }) (built d xs)
        if d.afe.frev then fireSource e 328 else e) ∧
    Happens (.afeConversionPeriod xs) (fun d => works d && steady d xs && decide (384 < d.afe.queue.length + 24))
      (fun d =>
        let e := fireSource (afe (fun a => { a with ovr := min (a.ovr + 1) 65535 }) (built d xs)) 329
        if d.afe.ovrWait - 1 = 0 then
          emit (afe (fun a => { a with ovrWait := max 1 (4 >>> a.rate) }) e) (some .afe) (some .afe) "!AFE OVERRUN"
        else e)) ∧
  (∀ (d : Dev) (k : Nat) (x : Int), k < d.afe.chans.length → (d.unit .afe).st = .active → valid d (ch d k) k = true →
    let f := fault (ch d k) x
    let e := afe (fun a => { a with chans := lset a.chans k (next d (ch d k) k x) }) d
    afeConvert d k x =
      if f = (ch d k).fault then e
      else if f = 0 then emit e (some .afe) (some .afe) ("!AFE LOOP ch" ++ toString k ++ " ok")
      else emit (fireSource e (304 + k)) (some .afe) (some .afe) ("!AFE LOOP ch" ++ toString k ++ (if f = 1 then " low" else " high"))) ∧
  Happens (.afeReferenceCheck false)
    (fun d => d.clocked && !(d.unit .afe).resetting && ((d.unit .afe).st == .active || (d.unit .afe).st == .idle))
    (fun d => emit (hwMove (afe (fun a => { a with refok := false }) d) .afe .fault) (some .afe) (some .afe) "!AFE FAULT ref") ∧
  Happens (.afeReferenceCheck true) (fun _ => true) id ∧
  (∀ (c : Fin 32) (p : Priv),
    let reads (d : Dev) : Bool := coreMoves d c.val && (d.core c.val).loads.isEmpty
    Happens (.afeFrameqRead (.core c p))
      (fun d => reads d && here .afe d && d.afe.own == some (d.foldOfCore c.val) && !d.afe.queue.isEmpty)
      (afe fun a => { a with queue := a.queue.drop 1 }) ∧
    Happens (.gpioSnapqRead (.core c p)) (fun d => reads d && (p != .u) && !d.gpio.snapq.isEmpty)
      (gp fun g => { g with snapq := g.snapq.drop 1 })) ∧
  (∀ v : Word,
    let o : Option Nat := if v.getLsbD 7 then some (v &&& 7).toNat else none
    Writes (fun a => .afeOwnWrite a v) (fun q _ => isK q) .afe (fun d => here .afe d && (d.unit .afe).st == .off)
      (afe fun a => { a with own := o }) ∧
    ∀ n : Fin 16, Writes (fun a => .pwmOwnWrite a n v) (fun q _ => isK q) (.pwm n) (fun d => (d.unit (.pwm n)).st == .off)
      (up n fun k => { k with own := o, safe := v.getLsbD 8, oe := v.getLsbD 9 })) ∧
  (∀ f : Option (Fin 8),
    Sets (fun o => .afeOwn o f) .engineer [.afe] .afe (fun d => (d.unit .afe).st == .off) (afe fun a => { a with own := f.map (·.val) }) ∧
    ∀ n : Fin 16, Sets (fun o => .pwmOwn o n f) .engineer [.pwm n] (.pwm n) (fun d => (d.unit (.pwm n)).st == .off)
      (up n fun k => { k with own := f.map (·.val) })) ∧
  (∀ r : Nat, r < 8 →
    Sets (fun o => .afeRate o (lget [4000, 2000, 1000, 500, 250, 100, 50, 10] 0 r)) .operate [.afe] .afe
      (fun d => (d.unit .afe).st != .active && d.afe.chans.length == 24)
      (afe fun a => { a with rate := r, chans := if r = a.rate then a.chans else a.chans.map fun c => { c with discard := 4 } })) ∧
  (∀ (k : Fin 24) (m : Fin 3), Sets (fun o => .afeCh o [k.val] m) .operate [.afe] .afe (fun d => (ch d k.val).mode != m.val)
    (fun d => quietMove (afe (fun a =>
      let c : AfeCh := { ch d k.val with mode := m.val }
      let e : AfeCh := if (d.unit .afe).st = .active then { c with old := some (c.old.getD (ch d k.val).mode) } else { c with discard := 4 }
      { a with chans := lset a.chans k.val e }) d) .afe)) ∧
  (∀ (k : Fin 24) (lo hi : Int) (n : Nat), -8388608 ≤ lo → lo ≤ 8388607 → -8388608 ≤ hi → hi ≤ 8388607 → 1 ≤ n → n ≤ 15 →
    Sets (fun o => .afeLoopSet o [k.val] lo hi (some n)) .operate [.afe] .afe (fun _ => true) (afe fun a =>
      let c := lget a.chans AfeCh.reset k.val
      { a with chans := lset a.chans k.val { c with lo := BitVec.ofInt 24 lo, hi := BitVec.ofInt 24 hi, fcnt := n, run := 0, runDir := 0 } })) ∧
  (∀ (k : Fin 24) (x : Option Bool), Does (fun o => .xAfeTest o k.val x) .engineer [.afe]
    (fun _ d => d.pmu.cur == .run || d.pmu.cur == .slow)
    (fun _ => afe fun a => { a with chans := lset a.chans k.val { lget a.chans AfeCh.reset k.val with test := x } })) ∧
  (∀ n : Fin 16,
    Happens (.pwmPeriodStart n) (fun d => runsP d n && !(d.pwm n.val).due && !(d.pwm n.val).held) (fun d => starts n (ends n d)) ∧
    Happens (.pwmPeriodStart n) (fun d => runsP d n && !(d.pwm n.val).due && (d.pwm n.val).held) (ends n) ∧
    Happens (.pwmPeriodStart n) (fun d => runsP d n && (d.pwm n.val).due) (fun d => hold n (ends n d)) ∧
    Happens (.pwmHalterHold n) (fun d => tripped d n && !(d.unit (.pwm n)).resetting) (hold n) ∧
    Happens (.pwmBallSample n true) (fun d => runsP d n && (d.pwm n.val).running) (up n fun k => { k with mism := 0 }) ∧
    Happens (.pwmBallSample n false) (fun d => runsP d n && (d.pwm n.val).running && decide ((d.pwm n.val).mism < 2))
      (up n fun k => { k with mism := k.mism + 1 }) ∧
    Happens (.pwmBallSample n false) (fun d => runsP d n && (d.pwm n.val).running && (d.pwm n.val).mism == 2)
      (fun d => emit (fireSource (hwMove (up n (fun k => { k with mism := 0, ballf := true, running := false }) d) (.pwm n) .fault) (88 + n.val))
        (some .state) (some (.pwm n)) ("!PWM FAULT pwm" ++ toString n.val)) ∧
    (let owner (q : Req) (d : Dev) : Bool := isF q (d.pwm n.val).own
    let set (v : Word) : Dev → Dev := up n fun k =>
      { k with sp := (v &&& 0xFFFF).toNat, spq := [], qdrop := min (k.qdrop + k.spq.length) 255 }
    let free (d : Dev) : Bool := !tripped d n && !(d.pwm n.val).due
    let on (d : Dev) : Bool := (d.unit (.pwm n)).st != .absent && (d.unit (.pwm n)).st != .fenced
    (∀ v : Word,
      Pokes (fun a => .pwmSpWrite a n v) owner (.pwm n) (fun _ => true) (fun d => wake n (set v d)) ∧
      Pokes (fun a => .pwmSpqWrite a n v) owner (.pwm n) (fun d => decide ((d.pwm n.val).spq.length < 8))
        (fun d => wake n (up n (fun k => { k with spq := k.spq ++ [(v &&& 0xFFFF).toNat], lastSpq := v.setWidth 16 }) d)) ∧
      Writes (fun a => .pwmPeriodWrite a n true v) owner (.pwm n)
        (fun d => decide (4000 ≤ ((d.pwm n.val).pre + 1) * (v &&& 0xFFFF).toNat)) (up n fun k => { k with per := (v &&& 0xFFFF).toNat }) ∧
      Writes (fun a => .pwmPeriodWrite a n false v) owner (.pwm n)
        (fun d => decide (4000 ≤ ((v &&& 15).toNat + 1) * (d.pwm n.val).per)) (up n fun k =>
          { k with
            pre := (v &&& 15).toNat, polLow := v.getLsbD 4, pev := v.getLsbD 5, foldsafe := v.getLsbD 6, hen := v.getLsbD 7,
            hlink := (v >>> 8 &&& 7).toNat })) ∧
    Pokes (fun a => .pwmCmdResume a n) owner (.pwm n) free (up n fun k => { k with held := false }) ∧
    Pokes (fun a => .pwmCmdResume a n) owner (.pwm n) (fun d => !free d) id ∧
    Does (fun o => .pwmResume o n) .operate [.pwm n] (fun _ d => free d && on d) (fun _ => up n fun k => { k with held := false }) ∧
    Refuses (fun o => .pwmResume o n) .operate [.pwm n] (fun _ d => !free d && on d) 40 ∧
    (∀ x : Nat, x < 65536 → Does (fun o => .pwmSet o n x) .operate [.pwm n] (fun _ => on) (fun _ d => wake n (set (toWord x) d))) ∧
    (∀ a h : Nat, a < 65536 → 1 ≤ h → h ≤ 255 → Sets (fun o => .pwmDither o n (some (a, h))) .operate [.pwm n] (.pwm n) (fun _ => true)
      (up n fun k => { k with damp := a, dhalf := h, dpos := 0 })) ∧
    (∀ h oe : Bool, Sets (fun o => .pwmSafe o n h (some oe)) .engineer [.pwm n] (.pwm n) (fun d => (d.unit (.pwm n)).st == .off)
      (up n fun k => { k with safe := h, oe := oe })) ∧
    ∀ (p c : Nat) (pol f e : Bool) (j : Fin 8), p < 16 → c < 65536 → 4000 ≤ (p + 1) * c →
      Sets (fun o => .pwmCfg o n { pre := p, per := c, polHigh := some pol, halter := some (some j.val), foldsafe := some f, pev := some e })
        .operate [.pwm n] (.pwm n) (fun _ => true) (up n fun k =>
          { k with pre := p, per := c, polLow := !pol, pev := e, foldsafe := f, hen := true, hlink := j.val }))) ∧
  (∀ (hi : Bool) (v : Word),
    let reach (q : Req) (d : Dev) (m : Word) : Bool := decide (m = if isK q then 0xFFFFFFFF else
      toWord (((List.range 32).filter fun i => q.fold.isSome && own d (if hi then i + 32 else i) == q.fold).map (2 ^ ·)).sum)
    ∀ m : Word,
      let may (q : Req) (d : Dev) : Bool := q.priv != .u && reach q d m
      Pokes (fun a => .gpioOutWrite a hi v) may .gpio (fun _ => true) (outs hi fun x => (x &&& ~~~m) ||| (v &&& m)) ∧
      Pokes (fun a => .gpioOsetWrite a hi v) may .gpio (fun _ => true) (outs hi fun x => x ||| (v &&& m)) ∧
      Pokes (fun a => .gpioOclrWrite a hi v) may .gpio (fun _ => true) (outs hi fun x => x &&& ~~~(v &&& m))) ∧
  Happens .gpioSnapshot (fun d => live d && d.gpio.snapEn && decide (d.gpio.snapq.length < 32))
    (fun d => gp (fun g =>
      let seen := (List.range 32).filter fun i => ball d (if g.snapBank then i + 32 else i)
      { g with snapq := g.snapq ++ [toWord (seen.map (2 ^ ·)).sum], dry := false }) d) ∧
  Happens .gpioSnapshot (fun d => live d && d.gpio.snapEn && decide (32 ≤ d.gpio.snapq.length))
    (gp fun g => { g with ovr := min (g.ovr + 1) 65535 }) ∧
  (∀ i : Fin 64,
    let set : Dev → Dev := gp fun g => { g with mism := pins [i.val] g.mism true }
    Happens (.gpioMismatch i) (fun d => live d && drives d i.val && tfind d.gpio.mismSec i.val == some d.pmu.rtcSec) set ∧
    Happens (.gpioMismatch i) (fun d => live d && drives d i.val && tfind d.gpio.mismSec i.val != some d.pmu.rtcSec)
      (fun d => emit (gp (fun g => { g with mismSec := tput g.mismSec i.val d.pmu.rtcSec }) (set d)) (some .state) (some .gpio)
        ("!GPIO MISMATCH " ++ toString i.val)) ∧
    Happens (.gpioMismatch i) (fun d => !drives d i.val) id) ∧
  (∀ j : Fin 8, Happens (.haltBallMismatch j) (fun d => haltLive d && d.halter.driven && d.clocked && !d.jtag)
    (fun d => emit (gp (fun g => { g with hoMism := g.hoMism ||| BitVec.ofNat 8 (2 ^ j.val) }) d) (some .evr) (some .halt)
      ("!HALT BALL out" ++ toString j.val))) ∧
  (∀ (o : Via) (s : State), allowed o .observe [] s.dev = true →
    ∃ data, exec (.gpio o) s = .next { s with dev := answered o data okS (hoLevels (arrived o s.dev)).1 }) ∧
  (∀ d : Dev, (hoLevels d).1 = if d.jtag then { d with free := d.free + 1 } else d) ∧
  (∀ (ns : List Nat) (f : Option (Fin 8)), Does (fun o => .gpioOwn o ns f) .engineer [] (gset ns)
    (fun o => granted (viaSrc o) .gpio (gp fun g => { g with own := ns.foldl (fun l i => lset l i (f.map (·.val))) g.own }))) ∧
  (∀ (ns : List Nat) (out od : Bool) (p : Fin 3), Does (fun o => .gpioDir o ns out od (some p)) .operate [] (gset ns)
    (fun o => granted (viaSrc o) .gpio (gp fun g =>
      { g with dir := pins ns g.dir out, odrn := pins ns g.odrn od, pull := ns.foldl (fun l i => lset l i p.val) g.pull }))) ∧
  (∀ ns : List Nat,
    let on (o : Via) (d : Dev) : Bool := mine ns o d && (d.unit .gpio).st != .absent && (d.unit .gpio).st != .fenced
    Does (fun o => .gpioSet o ns) .operate [] on (fun _ => gp fun g => { g with out := pins ns g.out true }) ∧
    Does (fun o => .gpioClr o ns) .operate [] on (fun _ => gp fun g => { g with out := pins ns g.out false }) ∧
    Refuses (fun o => .gpioSet o ns) .operate [] (fun o d => !mine ns o d && !ns.isEmpty && ns.all (· < 64)) 20) ∧
  (∀ b n : Nat, b < 2 → 100 ≤ n → n ≤ 65535 → Sets (fun o => .gpioSnap o (some (b, n))) .operate [.gpio] .gpio (fun _ => true)
    (gp fun g => { g with snapEn := true, snapBank := b == 1, snapPer := n })) ∧
  Sets (fun o => .gpioSnap o none) .operate [.gpio] .gpio (fun _ => true) (gp fun g => { g with snapEn := false }) ∧
  Sets (fun o => .xGpioMism o true) .engineer [.gpio] .gpio (fun _ => true)
    (gp fun g => { g with mism := 0, hoMism := 0 })

/-! Boot, OTP, flash and boundary scan; registers written by address (spec/18; spec/00 R2, R7, R9). -/

/-- The boot sequence, the OTP, the boot flash and boundary scan (spec/18 R395 to R411), registers by address (spec/00 R7, R9). -/
def Obligations.BootAndOtp : Prop :=
  let upB (f : Boot → Boot) (d : Dev) : Dev := { d with boot := f d.boot }
  let count (p : Otp) : Nat := ((List.range 64).filter fun i => p.arb.getLsbD i).length
  let marked (p : Otp) : Otp :=
    let bad (k : OtpKey) : OtpKey := { k with bad := k.bad || (!k.prog && k.bits != 0) }
    { p with image := p.image.map bad, role := p.role.map bad }
  let synced (p : Otp) : Dev → Dev := upB fun b => { b with arb := count p, locked := p.locked }
  let result (n : Nat) : Dev → Dev := upB fun b => { b with code := if b.code = 0 then n else b.code }
  let ended (ph : Phase) (d : Dev) : Dev :=
    { d with phase := ph, pmu := { d.pmu with cur := if d.pmu.rstCause = .spore then d.pmu.wakeTarget else .run } }
  let begins (s : State) : Bool := s.dev.phase == .boot && !s.dev.boot.inScript
  let seen (s : State) : Dev := synced (marked s.otp) s.dev
  let check (s : State) (second : Bool) : Option (Nat × Nat) := checkFlashImage (seen s) (marked s.otp) second
  let usable (p : Otp) (n : Nat) : Bool :=
    let k := lget p.image OtpKey.blank n
    k.prog && !k.revoked && !k.bad && !(n == 7 && p.locked)
  let otpSets (i : Via → Instr) (us : List UnitId) (pre : State → Bool) (f : Otp → Otp) : Prop :=
    ∀ (o : Via) (s : State), allowed o .machine us s.dev = true →
      let d := arrived o s.dev
      (d.pmu.cur = .run ∨ d.pmu.cur = .slow) → 750 ≤ d.pmu.vinNow.toNat → d.bw.halt = false → pre { s with dev := d } = true →
        exec (i o) s = .next { s with otp := f s.otp, dev := answered o [] okS (synced (f s.otp) d) }
  let otpErr (i : Via → Instr) (us : List UnitId) (pre : State → Bool) (c : Nat) : Prop :=
    ∀ (o : Via) (s : State), allowed o .machine us s.dev = true →
      let d := arrived o s.dev
      (d.pmu.cur = .run ∨ d.pmu.cur = .slow) → 750 ≤ d.pmu.vinNow.toNat → d.bw.halt = false → pre { s with dev := d } = true →
        exec (i o) s = .next { s with dev := answered o [] (er c) d }
  let blank (k : OtpKey) : Bool := !k.prog && !k.bad
  let key (k : OtpKey) (l : List Byte) : OtpKey := { k with bits := k.bits ||| BitVec.ofNat 512 (beNat l), prog := true }
  let roles (r : Role) (f : Option (Fin 8)) : Nat :=
    match r, f with | .operate, none => 0 | .engineer, _ => 1 | .machine, _ => 2 | _, some x => 3 + x.val | _, _ => 99
  let folds (f : Option (Fin 8)) : List UnitId := match f with | some x => [.fold x] | none => []
  let gen (p : Otp) (n g : Nat) : OtpKey := lget p.role OtpKey.blank (2 * n + g)
  let flashOn (d : Dev) : Bool := d.flash.fitted && d.flash.octal
  let flash (f : List (Nat × Byte) → List (Nat × Byte)) (d : Dev) : Dev := { d with flash := { d.flash with data := f d.flash.data } }
  (∀ (s : State) (n : Option Nat), begins s = true → flashOn s.dev = false →
    let d := result 1 (seen s)
    exec (.bootSequence n) s = .next { s with otp := marked s.otp, dev := ended .recovery d }) ∧
  (∀ (s : State) (n : Option Nat) (c i c' i' : Nat), begins s = true → flashOn s.dev = true → check s false = some (c, i) →
    check s true = some (c', i') →
    let d := result c' (upB (fun b => { b with bfailCode := c, bfailSection := i }) (seen s))
    exec (.bootSequence n) s = .next { s with otp := marked s.otp, dev := ended .recovery d }) ∧
  (∀ s : State, begins s = true → flashOn s.dev = true → check s false = none →
    let d := bootImage (seen s) (marked s.otp) false
    d.boot.script ≠ [] → exec (.bootSequence (some 0)) s = .next { s with otp := marked s.otp, dev := d }) ∧
  (∀ (s : State) (c i : Nat), begins s = true → flashOn s.dev = true → check s false = some (c, i) → check s true = none →
    let d := bootImage (upB (fun b => { b with bfailCode := c, bfailSection := i, secondary := true }) (seen s)) (marked s.otp) true
    d.boot.script ≠ [] → exec (.bootSequence (some 0)) s = .next { s with otp := marked s.otp, dev := d }) ∧
  (∀ (d : Dev) (p : Otp) (g : Nat → Byte) (size : Nat), imageCheck d p g size = none →
    cellAt g 0 = 0x4B59494D ∧ cellAt g 4 = 1 ∧ usable p (cellAt g 0x10 % 8) = true ∧ count p ≤ cellAt g 0xC ∧
    (cellAt g 0x10).testBit (7 + d.variant) = true ∧ signedBy p g (cellAt g 0x10 % 8) 0x80 0x80 = true ∧
    sha256 (bytesAt g 0x100 (48 * cellAt g 0x14)) = bytesAt g 0x40 32 ∧ 1 ≤ cellAt g 0x14 ∧ cellAt g 0x14 ≤ 64 ∧
    cellAt g 8 ≤ 0x400000 ∧ ∀ x ∈ sectionsOf g, sha256 (bytesAt g x.off x.len) = x.hash ∧ x.off + x.len ≤ cellAt g 8 ∧ 1 ≤ x.type ∧
      x.type ≤ 8 ∧ (x.type = 6 → x.len ≤ 0x4000) ∧ (x.type = 3 → x.len = 0x4880 ∧ envelopeCheck p (fun i => g (x.off + i)) = 0)) ∧
  (∀ (p : Otp) (g : Nat → Byte), envelopeCheck p g = 0 →
    cellAt g 0 = 0x4B594F56 ∧ usable p (cellAt g 4 % 8) = true ∧ count p ≤ cellAt g 8 ∧ cellAt g 0xC = 0x4800 ∧
    signedBy p g (cellAt g 4 % 8) 0x40 0x40 = true ∧ sha256 (bytesAt g 0x80 0x4800) = bytesAt g 0x10 32) ∧
  (∀ (g : Nat → Byte) (d : Dev) (x : Section) (a : Nat), x.type = 4 → 0x10000000 ≤ x.load → x.load + x.len ≤ 0x10780000 →
    0x10000000 ≤ a → a < 0x10780000 →
    plainByte (placeSection g d x) a = if x.load ≤ a ∧ a < x.load + x.len then g (x.off + (a - x.load)) else plainByte d a) ∧
  (∀ (d : Dev) (c v : Nat) (r : List (Nat × Nat)),
    let d' := upB (fun b => { b with records := b.records + 1 }) d
    let w := anyWrite d' bwReq (c / 4 * 4) (toWord v) 4
    let skip := (addrUnit (c / 4 * 4)).any fun u => c.testBit 0 && !unitPresent d.variant u || hasCause (d.unit u) .shed
    let kept := d.pmu.rstCause = .spore ∧ d.halter.lock = true
    (c.testBit 1 = true ∨ recordOk (c / 4 * 4) = false → runRecords d ((c, v) :: r) = result 9 d') ∧
    (c.testBit 1 = false → recordOk (c / 4 * 4) = true → skip = true →
      runRecords d ((c, v) :: r) = runRecords (upB (fun b => { b with skipped := min (b.skipped + 1) 255 }) d') r) ∧
    (c.testBit 1 = false → recordOk (c / 4 * 4) = true → skip = false → ¬ kept →
      (∀ u, addrUnit (c / 4 * 4) = some u → (∀ k, u ≠ .core k) ∧ ∀ k, u ≠ .tile k) →
      runRecords d ((c, v) :: r) = if w.2 = .done then runRecords w.1 r else result 9 w.1)) ∧
  (∀ (s : State) (l : List Byte) (r : List (List Byte)), s.dev.phase = .boot → s.dev.boot.inScript = true →
    s.dev.boot.script = l :: r → r ≠ [] →
    (l.all (· == 0x20) = true → s.dev.boot.scriptEnd = none →
      exec (.bootSequence (some 1)) s = .next { s with dev := upB (fun b => { b with script := r, scriptLines := b.scriptLines + 1 }) s.dev }) ∧
    (255 < l.length → lockSurvived s.dev = false → l.all (· == 0x20) = false →
      let d := result 10 (upB (fun b => { b with script := [], scriptEnd := some (b.scriptLines + 1, 10) }) s.dev)
      exec (.bootSequence (some 1)) s = .next { s with dev := bootFinish d })) ∧
  (∀ (s : State) (n : Option Nat) (i : BootImg), s.dev.phase = .boot → s.dev.boot.inScript = true → s.dev.boot.script = [] →
    s.dev.boot.img = some i →
    let d := upB (fun b => { b with inScript := false }) s.dev
    exec (.bootSequence n) s = .next { s with dev := ended .run (bootRelease d i.kpen i.kentry) }) ∧
  Happens .scriptTimeout (fun d => d.phase == .boot && d.boot.inScript)
    (fun d => bootFinish (result 10 (upB (fun b => { b with scriptEnd := some (b.scriptLines + 1, 0) }) d))) ∧
  (∀ (d : Dev) (k p : Nat) (e : Word),
    ((d.pen k).fold ≠ 0 → bootRelease d k e = result 11 d) ∧
    (k < countPens d.variant → p < countPens d.variant → (d.pen k).fold = 0 → (d.pen p).pers ≠ none → (d.unit (penU p)).st ≠ .fenced →
      ((bootRelease d k e).pen p).released = true) ∧
    (k < countPens d.variant → (d.pen k).fold = 0 → (d.pen k).pers ≠ none → (d.unit (penU k)).st ≠ .fenced →
      ((bootRelease d k e).core (4 * k)).keeper = true ∧
      ((d.pen k).pers = some true → ((bootRelease d k e).pen k).tvec = e &&& 0xFFFFFFE0 ∧
        (((d.unit (coreU (4 * k))).st = .idle) → ((bootRelease d k e).unit (coreU (4 * k))).st = .active)) ∧
      ((d.pen k).pers = some false → ((bootRelease d k e).pen k).rat.boot = (e &&& 0xFFFFFF80) ||| 1 ∧
        ((bootRelease d k e).pen k).rat.run = true))) ∧
  (∀ (n : Fin 8) (a : Nat) (l : List Byte),
    otpSets (fun o => .xBootKey o n.val ⟨a, none⟩) [] (fun s => keyBytes s.dev a 64 == some l && blank (lget s.otp.image OtpKey.blank n.val))
      (fun p => { p with image := lset p.image n.val (key (lget p.image OtpKey.blank n.val) l) })) ∧
  (∀ (n : Fin 8) (a : Nat), otpErr (fun o => .xBootKey o n.val ⟨a, none⟩) [] (fun s => !blank (lget s.otp.image OtpKey.blank n.val)) 10) ∧
  (∀ n : Fin 8,
    let gone (p : Otp) : Otp := { p with image := lset p.image n.val { lget p.image OtpKey.blank n.val with revoked := true } }
    otpSets (fun o => .xBootRevoke o n.val) [] (fun s => (List.range 8).any (usable (gone s.otp))) gone ∧
    otpErr (fun o => .xBootRevoke o n.val) [] (fun s => !(List.range 8).any (usable (gone s.otp))) 40) ∧
  (∀ (r : Role) (f : Option (Fin 8)) (g : Fin 2) (a : Nat) (l : List Byte), roles r f < 11 → (f = none ∨ r = .operate) →
    let i := 2 * roles r f + g.val
    otpSets (fun o => .xBootRolekey o r f g.val ⟨a, none⟩) (folds f)
      (fun s => keyBytes s.dev a 32 == some l && blank (gen s.otp (roles r f) g.val))
      (fun p => { p with role := lset p.role i (key (gen p (roles r f) g.val) l) }) ∧
    otpSets (fun o => .xBootRolerevoke o r f g.val) (folds f) (fun _ => true)
      (fun p => { p with role := lset p.role i { gen p (roles r f) g.val with revoked := true } })) ∧
  (∀ n : Nat,
    let top (s : State) : Nat := match s.dev.boot.img with | some i => min i.arb 64 | none => 0
    let held (s : State) : Bool := match s.dev.golden.staged with | some g => !g.empty && decide (g.arb < n) | none => false
    otpSets (fun o => .xBootArb o n) [] (fun s => decide (count s.otp < n ∧ n ≤ top s) && !held s)
      (fun p => { p with arb := p.arb ||| BitVec.ofNat 64 (2 ^ n - 1) }) ∧
    otpErr (fun o => .xBootArb o n) [] (fun s => decide (n ≤ count s.otp ∨ top s < n)) 10 ∧
    otpErr (fun o => .xBootArb o n) [] (fun s => decide (count s.otp < n ∧ n ≤ top s) && held s) 40) ∧
  otpSets (fun o => .xBootLock o) [] (fun _ => true) (fun p => { p with locked := true }) ∧
  Refuses (fun o => .xBootLock o) .machine [] (fun _ d =>
    !(d.pmu.cur == .run || d.pmu.cur == .slow) || decide (d.pmu.vinNow.toNat < 750)) 60 ∧
  (∀ b : Bool, Does (fun o => .xBootJtag o b) .machine [] (fun _ _ => true) (fun _ => upB fun x => { x with jtagEn := b })) ∧
  (∀ (b : Bool) (o : Via) (s : State), allowed o .engineer [] s.dev = true → flashOn s.dev = true →
    let d := arrived o s.dev
    let e : Status := match checkFlashImage d s.otp b with | none => okS | some (c, i) => er 70 (bootName c ++ " " ++ toString i)
    exec (.xBootVerify o b) s = .next { s with dev := answered o [] e d }) ∧
  (∀ a n : Nat, a % 4096 = 0 → n % 4096 = 0 → 0 < n →
    Does (fun o => .xFlashErase o a n) .machine [] (fun _ d => flashOn d && decide (a + n ≤ d.flash.density))
      (fun _ => flash fun l => l.filter fun x => x.1 < a || a + n ≤ x.1)) ∧
  (∀ (a : Nat) (l : List Byte), 1 ≤ l.length → l.length ≤ 64 →
    Does (fun o => .xFlashWrite o a l) .machine [] (fun _ d => flashOn d && decide (a + l.length ≤ d.flash.density))
      (fun _ => flash fun t => l.zipIdx.foldl (fun t x => tset t 0xFF (a + x.2) x.1) t)) ∧
  (∀ s : State,
    (s.dev.jtag = false → s.dev.pmu.cur ≠ .off → (s.otp.locked = false ∨ s.dev.boot.jtagEn = true) →
      exec .jtagExtest s = .next { s with dev := emit { s.dev with jtag := true } (some .fence) none "!JTAG EXTEST" }) ∧
    (s.otp.locked = true → s.dev.boot.jtagEn = false → exec .jtagExtest s = .next s)) ∧
  Happens .jtagExtestEnd (fun _ => true) (fun d => { d with jtag := false }) ∧
  (∀ v : Word,
    (∀ (a : Agent) (s : State) (i : Nat), i < 0x4000 → exec (.registerWrite a (toWord (0x403F0000 + 4 * i)) v) s = .next s) ∧
    Writes (fun a => .registerWrite a 0x40300000 v) (fun q d => isF q d.afe.own) .afe
      (fun d => unitPresent d.variant .afe && fld v 0 3 == d.afe.rate) (fun d => { d with afe := { d.afe with frev := v.getLsbD 8 } }) ∧
    (∀ (a : Agent) (s : State), unitPresent s.dev.variant .afe = false →
      exec (.registerWrite a 0x40300000 v) s = .next { s with dev := agentError s.dev a 0x0D 0x40300000 }) ∧
    (∀ (a : Agent) (s : State), unitPresent s.dev.variant .afe = true → isF (reqOf s.dev a) s.dev.afe.own = false →
      exec (.registerWrite a 0x40300000 v) s = .next { s with dev := agentError s.dev a 0x08 0x40300000 }) ∧
    ∀ n : Fin 16, Writes (fun a => .registerWrite a (toWord (0x40350014 + 64 * n.val)) v) (fun q d => isF q (d.pwm n.val).own) (.pwm n)
      (fun _ => true) (fun d => d.updPwm n.val fun k => { k with damp := fld v 0 16, dhalf := fld v 16 8, dpos := 0 }))
end

