-- ==== Sys2Proof/Laws/State.lean ====
section
/-! SUPPORT. What the named updates of the device leave in each of its fields. -/
namespace Sys2Proof.Laws

open Sys2Proof.Machine

/-! `setUnit`. -/

@[simp] theorem setUnit_variant (d : Dev) (u : UnitId) (r : UnitRec) : (d.setUnit u r).variant = d.variant := rfl
@[simp] theorem setUnit_step (d : Dev) (u : UnitId) (r : UnitRec) : (d.setUnit u r).step = d.step := rfl
@[simp] theorem setUnit_phase (d : Dev) (u : UnitId) (r : UnitRec) : (d.setUnit u r).phase = d.phase := rfl
@[simp] theorem setUnit_free (d : Dev) (u : UnitId) (r : UnitRec) : (d.setUnit u r).free = d.free := rfl
@[simp] theorem setUnit_jtag (d : Dev) (u : UnitId) (r : UnitRec) : (d.setUnit u r).jtag = d.jtag := rfl
@[simp] theorem setUnit_mem (d : Dev) (u : UnitId) (r : UnitRec) : (d.setUnit u r).mem = d.mem := rfl
@[simp] theorem setUnit_flash (d : Dev) (u : UnitId) (r : UnitRec) : (d.setUnit u r).flash = d.flash := rfl
@[simp] theorem setUnit_cs1 (d : Dev) (u : UnitId) (r : UnitRec) : (d.setUnit u r).cs1 = d.cs1 := rfl
@[simp] theorem setUnit_pmu (d : Dev) (u : UnitId) (r : UnitRec) : (d.setUnit u r).pmu = d.pmu := rfl
@[simp] theorem setUnit_mga (d : Dev) (u : UnitId) (r : UnitRec) : (d.setUnit u r).mga = d.mga := rfl
@[simp] theorem setUnit_mgb (d : Dev) (u : UnitId) (r : UnitRec) : (d.setUnit u r).mgb = d.mgb := rfl
@[simp] theorem setUnit_stateSel (d : Dev) (u : UnitId) (r : UnitRec) : (d.setUnit u r).stateSel = d.stateSel := rfl
@[simp] theorem setUnit_stateResult (d : Dev) (u : UnitId) (r : UnitRec) : (d.setUnit u r).stateResult = d.stateResult := rfl
@[simp] theorem setUnit_disOrder (d : Dev) (u : UnitId) (r : UnitRec) : (d.setUnit u r).disOrder = d.disOrder := rfl
@[simp] theorem setUnit_arbLog (d : Dev) (u : UnitId) (r : UnitRec) : (d.setUnit u r).arbLog = d.arbLog := rfl
@[simp] theorem setUnit_cores (d : Dev) (u : UnitId) (r : UnitRec) : (d.setUnit u r).cores = d.cores := rfl
@[simp] theorem setUnit_pens (d : Dev) (u : UnitId) (r : UnitRec) : (d.setUnit u r).pens = d.pens := rfl
@[simp] theorem setUnit_evr (d : Dev) (u : UnitId) (r : UnitRec) : (d.setUnit u r).evr = d.evr := rfl
@[simp] theorem setUnit_halter (d : Dev) (u : UnitId) (r : UnitRec) : (d.setUnit u r).halter = d.halter := rfl
@[simp] theorem setUnit_pins (d : Dev) (u : UnitId) (r : UnitRec) : (d.setUnit u r).pins = d.pins := rfl
@[simp] theorem setUnit_myc (d : Dev) (u : UnitId) (r : UnitRec) : (d.setUnit u r).myc = d.myc := rfl
@[simp] theorem setUnit_dma (d : Dev) (u : UnitId) (r : UnitRec) : (d.setUnit u r).dma = d.dma := rfl
@[simp] theorem setUnit_ports (d : Dev) (u : UnitId) (r : UnitRec) : (d.setUnit u r).ports = d.ports := rfl
@[simp] theorem setUnit_nid (d : Dev) (u : UnitId) (r : UnitRec) : (d.setUnit u r).nid = d.nid := rfl
@[simp] theorem setUnit_filts (d : Dev) (u : UnitId) (r : UnitRec) : (d.setUnit u r).filts = d.filts := rfl
@[simp] theorem setUnit_ptab (d : Dev) (u : UnitId) (r : UnitRec) : (d.setUnit u r).ptab = d.ptab := rfl
@[simp] theorem setUnit_pool (d : Dev) (u : UnitId) (r : UnitRec) : (d.setUnit u r).pool = d.pool := rfl
@[simp] theorem setUnit_afe (d : Dev) (u : UnitId) (r : UnitRec) : (d.setUnit u r).afe = d.afe := rfl
@[simp] theorem setUnit_pwms (d : Dev) (u : UnitId) (r : UnitRec) : (d.setUnit u r).pwms = d.pwms := rfl
@[simp] theorem setUnit_gpio (d : Dev) (u : UnitId) (r : UnitRec) : (d.setUnit u r).gpio = d.gpio := rfl
@[simp] theorem setUnit_bw (d : Dev) (u : UnitId) (r : UnitRec) : (d.setUnit u r).bw = d.bw := rfl
@[simp] theorem setUnit_golden (d : Dev) (u : UnitId) (r : UnitRec) : (d.setUnit u r).golden = d.golden := rfl
@[simp] theorem setUnit_boot (d : Dev) (u : UnitId) (r : UnitRec) : (d.setUnit u r).boot = d.boot := rfl

/-! `setCore`. -/

@[simp] theorem setCore_variant (d : Dev) (c : Nat) (k : Core) : (d.setCore c k).variant = d.variant := rfl
@[simp] theorem setCore_step (d : Dev) (c : Nat) (k : Core) : (d.setCore c k).step = d.step := rfl
@[simp] theorem setCore_phase (d : Dev) (c : Nat) (k : Core) : (d.setCore c k).phase = d.phase := rfl
@[simp] theorem setCore_free (d : Dev) (c : Nat) (k : Core) : (d.setCore c k).free = d.free := rfl
@[simp] theorem setCore_jtag (d : Dev) (c : Nat) (k : Core) : (d.setCore c k).jtag = d.jtag := rfl
@[simp] theorem setCore_mem (d : Dev) (c : Nat) (k : Core) : (d.setCore c k).mem = d.mem := rfl
@[simp] theorem setCore_flash (d : Dev) (c : Nat) (k : Core) : (d.setCore c k).flash = d.flash := rfl
@[simp] theorem setCore_cs1 (d : Dev) (c : Nat) (k : Core) : (d.setCore c k).cs1 = d.cs1 := rfl
@[simp] theorem setCore_pmu (d : Dev) (c : Nat) (k : Core) : (d.setCore c k).pmu = d.pmu := rfl
@[simp] theorem setCore_mga (d : Dev) (c : Nat) (k : Core) : (d.setCore c k).mga = d.mga := rfl
@[simp] theorem setCore_mgb (d : Dev) (c : Nat) (k : Core) : (d.setCore c k).mgb = d.mgb := rfl
@[simp] theorem setCore_units (d : Dev) (c : Nat) (k : Core) : (d.setCore c k).units = d.units := rfl
@[simp] theorem setCore_stateSel (d : Dev) (c : Nat) (k : Core) : (d.setCore c k).stateSel = d.stateSel := rfl
@[simp] theorem setCore_stateResult (d : Dev) (c : Nat) (k : Core) : (d.setCore c k).stateResult = d.stateResult := rfl
@[simp] theorem setCore_disOrder (d : Dev) (c : Nat) (k : Core) : (d.setCore c k).disOrder = d.disOrder := rfl
@[simp] theorem setCore_arbLog (d : Dev) (c : Nat) (k : Core) : (d.setCore c k).arbLog = d.arbLog := rfl
@[simp] theorem setCore_pens (d : Dev) (c : Nat) (k : Core) : (d.setCore c k).pens = d.pens := rfl
@[simp] theorem setCore_evr (d : Dev) (c : Nat) (k : Core) : (d.setCore c k).evr = d.evr := rfl
@[simp] theorem setCore_halter (d : Dev) (c : Nat) (k : Core) : (d.setCore c k).halter = d.halter := rfl
@[simp] theorem setCore_pins (d : Dev) (c : Nat) (k : Core) : (d.setCore c k).pins = d.pins := rfl
@[simp] theorem setCore_myc (d : Dev) (c : Nat) (k : Core) : (d.setCore c k).myc = d.myc := rfl
@[simp] theorem setCore_dma (d : Dev) (c : Nat) (k : Core) : (d.setCore c k).dma = d.dma := rfl
@[simp] theorem setCore_ports (d : Dev) (c : Nat) (k : Core) : (d.setCore c k).ports = d.ports := rfl
@[simp] theorem setCore_nid (d : Dev) (c : Nat) (k : Core) : (d.setCore c k).nid = d.nid := rfl
@[simp] theorem setCore_filts (d : Dev) (c : Nat) (k : Core) : (d.setCore c k).filts = d.filts := rfl
@[simp] theorem setCore_ptab (d : Dev) (c : Nat) (k : Core) : (d.setCore c k).ptab = d.ptab := rfl
@[simp] theorem setCore_pool (d : Dev) (c : Nat) (k : Core) : (d.setCore c k).pool = d.pool := rfl
@[simp] theorem setCore_afe (d : Dev) (c : Nat) (k : Core) : (d.setCore c k).afe = d.afe := rfl
@[simp] theorem setCore_pwms (d : Dev) (c : Nat) (k : Core) : (d.setCore c k).pwms = d.pwms := rfl
@[simp] theorem setCore_gpio (d : Dev) (c : Nat) (k : Core) : (d.setCore c k).gpio = d.gpio := rfl
@[simp] theorem setCore_bw (d : Dev) (c : Nat) (k : Core) : (d.setCore c k).bw = d.bw := rfl
@[simp] theorem setCore_golden (d : Dev) (c : Nat) (k : Core) : (d.setCore c k).golden = d.golden := rfl
@[simp] theorem setCore_boot (d : Dev) (c : Nat) (k : Core) : (d.setCore c k).boot = d.boot := rfl

/-! `updCore`. -/

@[simp] theorem updCore_variant (d : Dev) (c : Nat) (f : Core → Core) : (d.updCore c f).variant = d.variant := rfl
@[simp] theorem updCore_step (d : Dev) (c : Nat) (f : Core → Core) : (d.updCore c f).step = d.step := rfl
@[simp] theorem updCore_phase (d : Dev) (c : Nat) (f : Core → Core) : (d.updCore c f).phase = d.phase := rfl
@[simp] theorem updCore_free (d : Dev) (c : Nat) (f : Core → Core) : (d.updCore c f).free = d.free := rfl
@[simp] theorem updCore_jtag (d : Dev) (c : Nat) (f : Core → Core) : (d.updCore c f).jtag = d.jtag := rfl
@[simp] theorem updCore_mem (d : Dev) (c : Nat) (f : Core → Core) : (d.updCore c f).mem = d.mem := rfl
@[simp] theorem updCore_flash (d : Dev) (c : Nat) (f : Core → Core) : (d.updCore c f).flash = d.flash := rfl
@[simp] theorem updCore_cs1 (d : Dev) (c : Nat) (f : Core → Core) : (d.updCore c f).cs1 = d.cs1 := rfl
@[simp] theorem updCore_pmu (d : Dev) (c : Nat) (f : Core → Core) : (d.updCore c f).pmu = d.pmu := rfl
@[simp] theorem updCore_mga (d : Dev) (c : Nat) (f : Core → Core) : (d.updCore c f).mga = d.mga := rfl
@[simp] theorem updCore_mgb (d : Dev) (c : Nat) (f : Core → Core) : (d.updCore c f).mgb = d.mgb := rfl
@[simp] theorem updCore_units (d : Dev) (c : Nat) (f : Core → Core) : (d.updCore c f).units = d.units := rfl
@[simp] theorem updCore_stateSel (d : Dev) (c : Nat) (f : Core → Core) : (d.updCore c f).stateSel = d.stateSel := rfl
@[simp] theorem updCore_stateResult (d : Dev) (c : Nat) (f : Core → Core) : (d.updCore c f).stateResult = d.stateResult := rfl
@[simp] theorem updCore_disOrder (d : Dev) (c : Nat) (f : Core → Core) : (d.updCore c f).disOrder = d.disOrder := rfl
@[simp] theorem updCore_arbLog (d : Dev) (c : Nat) (f : Core → Core) : (d.updCore c f).arbLog = d.arbLog := rfl
@[simp] theorem updCore_pens (d : Dev) (c : Nat) (f : Core → Core) : (d.updCore c f).pens = d.pens := rfl
@[simp] theorem updCore_evr (d : Dev) (c : Nat) (f : Core → Core) : (d.updCore c f).evr = d.evr := rfl
@[simp] theorem updCore_halter (d : Dev) (c : Nat) (f : Core → Core) : (d.updCore c f).halter = d.halter := rfl
@[simp] theorem updCore_pins (d : Dev) (c : Nat) (f : Core → Core) : (d.updCore c f).pins = d.pins := rfl
@[simp] theorem updCore_myc (d : Dev) (c : Nat) (f : Core → Core) : (d.updCore c f).myc = d.myc := rfl
@[simp] theorem updCore_dma (d : Dev) (c : Nat) (f : Core → Core) : (d.updCore c f).dma = d.dma := rfl
@[simp] theorem updCore_ports (d : Dev) (c : Nat) (f : Core → Core) : (d.updCore c f).ports = d.ports := rfl
@[simp] theorem updCore_nid (d : Dev) (c : Nat) (f : Core → Core) : (d.updCore c f).nid = d.nid := rfl
@[simp] theorem updCore_filts (d : Dev) (c : Nat) (f : Core → Core) : (d.updCore c f).filts = d.filts := rfl
@[simp] theorem updCore_ptab (d : Dev) (c : Nat) (f : Core → Core) : (d.updCore c f).ptab = d.ptab := rfl
@[simp] theorem updCore_pool (d : Dev) (c : Nat) (f : Core → Core) : (d.updCore c f).pool = d.pool := rfl
@[simp] theorem updCore_afe (d : Dev) (c : Nat) (f : Core → Core) : (d.updCore c f).afe = d.afe := rfl
@[simp] theorem updCore_pwms (d : Dev) (c : Nat) (f : Core → Core) : (d.updCore c f).pwms = d.pwms := rfl
@[simp] theorem updCore_gpio (d : Dev) (c : Nat) (f : Core → Core) : (d.updCore c f).gpio = d.gpio := rfl
@[simp] theorem updCore_bw (d : Dev) (c : Nat) (f : Core → Core) : (d.updCore c f).bw = d.bw := rfl
@[simp] theorem updCore_golden (d : Dev) (c : Nat) (f : Core → Core) : (d.updCore c f).golden = d.golden := rfl
@[simp] theorem updCore_boot (d : Dev) (c : Nat) (f : Core → Core) : (d.updCore c f).boot = d.boot := rfl

/-! `setPen`. -/

@[simp] theorem setPen_variant (d : Dev) (p : Nat) (k : Pen) : (d.setPen p k).variant = d.variant := rfl
@[simp] theorem setPen_step (d : Dev) (p : Nat) (k : Pen) : (d.setPen p k).step = d.step := rfl
@[simp] theorem setPen_phase (d : Dev) (p : Nat) (k : Pen) : (d.setPen p k).phase = d.phase := rfl
@[simp] theorem setPen_free (d : Dev) (p : Nat) (k : Pen) : (d.setPen p k).free = d.free := rfl
@[simp] theorem setPen_jtag (d : Dev) (p : Nat) (k : Pen) : (d.setPen p k).jtag = d.jtag := rfl
@[simp] theorem setPen_mem (d : Dev) (p : Nat) (k : Pen) : (d.setPen p k).mem = d.mem := rfl
@[simp] theorem setPen_flash (d : Dev) (p : Nat) (k : Pen) : (d.setPen p k).flash = d.flash := rfl
@[simp] theorem setPen_cs1 (d : Dev) (p : Nat) (k : Pen) : (d.setPen p k).cs1 = d.cs1 := rfl
@[simp] theorem setPen_pmu (d : Dev) (p : Nat) (k : Pen) : (d.setPen p k).pmu = d.pmu := rfl
@[simp] theorem setPen_mga (d : Dev) (p : Nat) (k : Pen) : (d.setPen p k).mga = d.mga := rfl
@[simp] theorem setPen_mgb (d : Dev) (p : Nat) (k : Pen) : (d.setPen p k).mgb = d.mgb := rfl
@[simp] theorem setPen_units (d : Dev) (p : Nat) (k : Pen) : (d.setPen p k).units = d.units := rfl
@[simp] theorem setPen_stateSel (d : Dev) (p : Nat) (k : Pen) : (d.setPen p k).stateSel = d.stateSel := rfl
@[simp] theorem setPen_stateResult (d : Dev) (p : Nat) (k : Pen) : (d.setPen p k).stateResult = d.stateResult := rfl
@[simp] theorem setPen_disOrder (d : Dev) (p : Nat) (k : Pen) : (d.setPen p k).disOrder = d.disOrder := rfl
@[simp] theorem setPen_arbLog (d : Dev) (p : Nat) (k : Pen) : (d.setPen p k).arbLog = d.arbLog := rfl
@[simp] theorem setPen_cores (d : Dev) (p : Nat) (k : Pen) : (d.setPen p k).cores = d.cores := rfl
@[simp] theorem setPen_evr (d : Dev) (p : Nat) (k : Pen) : (d.setPen p k).evr = d.evr := rfl
@[simp] theorem setPen_halter (d : Dev) (p : Nat) (k : Pen) : (d.setPen p k).halter = d.halter := rfl
@[simp] theorem setPen_pins (d : Dev) (p : Nat) (k : Pen) : (d.setPen p k).pins = d.pins := rfl
@[simp] theorem setPen_myc (d : Dev) (p : Nat) (k : Pen) : (d.setPen p k).myc = d.myc := rfl
@[simp] theorem setPen_dma (d : Dev) (p : Nat) (k : Pen) : (d.setPen p k).dma = d.dma := rfl
@[simp] theorem setPen_ports (d : Dev) (p : Nat) (k : Pen) : (d.setPen p k).ports = d.ports := rfl
@[simp] theorem setPen_nid (d : Dev) (p : Nat) (k : Pen) : (d.setPen p k).nid = d.nid := rfl
@[simp] theorem setPen_filts (d : Dev) (p : Nat) (k : Pen) : (d.setPen p k).filts = d.filts := rfl
@[simp] theorem setPen_ptab (d : Dev) (p : Nat) (k : Pen) : (d.setPen p k).ptab = d.ptab := rfl
@[simp] theorem setPen_pool (d : Dev) (p : Nat) (k : Pen) : (d.setPen p k).pool = d.pool := rfl
@[simp] theorem setPen_afe (d : Dev) (p : Nat) (k : Pen) : (d.setPen p k).afe = d.afe := rfl
@[simp] theorem setPen_pwms (d : Dev) (p : Nat) (k : Pen) : (d.setPen p k).pwms = d.pwms := rfl
@[simp] theorem setPen_gpio (d : Dev) (p : Nat) (k : Pen) : (d.setPen p k).gpio = d.gpio := rfl
@[simp] theorem setPen_bw (d : Dev) (p : Nat) (k : Pen) : (d.setPen p k).bw = d.bw := rfl
@[simp] theorem setPen_golden (d : Dev) (p : Nat) (k : Pen) : (d.setPen p k).golden = d.golden := rfl
@[simp] theorem setPen_boot (d : Dev) (p : Nat) (k : Pen) : (d.setPen p k).boot = d.boot := rfl

/-! `updPen`. -/

@[simp] theorem updPen_variant (d : Dev) (p : Nat) (f : Pen → Pen) : (d.updPen p f).variant = d.variant := rfl
@[simp] theorem updPen_step (d : Dev) (p : Nat) (f : Pen → Pen) : (d.updPen p f).step = d.step := rfl
@[simp] theorem updPen_phase (d : Dev) (p : Nat) (f : Pen → Pen) : (d.updPen p f).phase = d.phase := rfl
@[simp] theorem updPen_free (d : Dev) (p : Nat) (f : Pen → Pen) : (d.updPen p f).free = d.free := rfl
@[simp] theorem updPen_jtag (d : Dev) (p : Nat) (f : Pen → Pen) : (d.updPen p f).jtag = d.jtag := rfl
@[simp] theorem updPen_mem (d : Dev) (p : Nat) (f : Pen → Pen) : (d.updPen p f).mem = d.mem := rfl
@[simp] theorem updPen_flash (d : Dev) (p : Nat) (f : Pen → Pen) : (d.updPen p f).flash = d.flash := rfl
@[simp] theorem updPen_cs1 (d : Dev) (p : Nat) (f : Pen → Pen) : (d.updPen p f).cs1 = d.cs1 := rfl
@[simp] theorem updPen_pmu (d : Dev) (p : Nat) (f : Pen → Pen) : (d.updPen p f).pmu = d.pmu := rfl
@[simp] theorem updPen_mga (d : Dev) (p : Nat) (f : Pen → Pen) : (d.updPen p f).mga = d.mga := rfl
@[simp] theorem updPen_mgb (d : Dev) (p : Nat) (f : Pen → Pen) : (d.updPen p f).mgb = d.mgb := rfl
@[simp] theorem updPen_units (d : Dev) (p : Nat) (f : Pen → Pen) : (d.updPen p f).units = d.units := rfl
@[simp] theorem updPen_stateSel (d : Dev) (p : Nat) (f : Pen → Pen) : (d.updPen p f).stateSel = d.stateSel := rfl
@[simp] theorem updPen_stateResult (d : Dev) (p : Nat) (f : Pen → Pen) : (d.updPen p f).stateResult = d.stateResult := rfl
@[simp] theorem updPen_disOrder (d : Dev) (p : Nat) (f : Pen → Pen) : (d.updPen p f).disOrder = d.disOrder := rfl
@[simp] theorem updPen_arbLog (d : Dev) (p : Nat) (f : Pen → Pen) : (d.updPen p f).arbLog = d.arbLog := rfl
@[simp] theorem updPen_cores (d : Dev) (p : Nat) (f : Pen → Pen) : (d.updPen p f).cores = d.cores := rfl
@[simp] theorem updPen_evr (d : Dev) (p : Nat) (f : Pen → Pen) : (d.updPen p f).evr = d.evr := rfl
@[simp] theorem updPen_halter (d : Dev) (p : Nat) (f : Pen → Pen) : (d.updPen p f).halter = d.halter := rfl
@[simp] theorem updPen_pins (d : Dev) (p : Nat) (f : Pen → Pen) : (d.updPen p f).pins = d.pins := rfl
@[simp] theorem updPen_myc (d : Dev) (p : Nat) (f : Pen → Pen) : (d.updPen p f).myc = d.myc := rfl
@[simp] theorem updPen_dma (d : Dev) (p : Nat) (f : Pen → Pen) : (d.updPen p f).dma = d.dma := rfl
@[simp] theorem updPen_ports (d : Dev) (p : Nat) (f : Pen → Pen) : (d.updPen p f).ports = d.ports := rfl
@[simp] theorem updPen_nid (d : Dev) (p : Nat) (f : Pen → Pen) : (d.updPen p f).nid = d.nid := rfl
@[simp] theorem updPen_filts (d : Dev) (p : Nat) (f : Pen → Pen) : (d.updPen p f).filts = d.filts := rfl
@[simp] theorem updPen_ptab (d : Dev) (p : Nat) (f : Pen → Pen) : (d.updPen p f).ptab = d.ptab := rfl
@[simp] theorem updPen_pool (d : Dev) (p : Nat) (f : Pen → Pen) : (d.updPen p f).pool = d.pool := rfl
@[simp] theorem updPen_afe (d : Dev) (p : Nat) (f : Pen → Pen) : (d.updPen p f).afe = d.afe := rfl
@[simp] theorem updPen_pwms (d : Dev) (p : Nat) (f : Pen → Pen) : (d.updPen p f).pwms = d.pwms := rfl
@[simp] theorem updPen_gpio (d : Dev) (p : Nat) (f : Pen → Pen) : (d.updPen p f).gpio = d.gpio := rfl
@[simp] theorem updPen_bw (d : Dev) (p : Nat) (f : Pen → Pen) : (d.updPen p f).bw = d.bw := rfl
@[simp] theorem updPen_golden (d : Dev) (p : Nat) (f : Pen → Pen) : (d.updPen p f).golden = d.golden := rfl
@[simp] theorem updPen_boot (d : Dev) (p : Nat) (f : Pen → Pen) : (d.updPen p f).boot = d.boot := rfl

/-! `updPort`. -/

@[simp] theorem updPort_variant (d : Dev) (i : Nat) (f : Port → Port) : (d.updPort i f).variant = d.variant := rfl
@[simp] theorem updPort_step (d : Dev) (i : Nat) (f : Port → Port) : (d.updPort i f).step = d.step := rfl
@[simp] theorem updPort_phase (d : Dev) (i : Nat) (f : Port → Port) : (d.updPort i f).phase = d.phase := rfl
@[simp] theorem updPort_free (d : Dev) (i : Nat) (f : Port → Port) : (d.updPort i f).free = d.free := rfl
@[simp] theorem updPort_jtag (d : Dev) (i : Nat) (f : Port → Port) : (d.updPort i f).jtag = d.jtag := rfl
@[simp] theorem updPort_mem (d : Dev) (i : Nat) (f : Port → Port) : (d.updPort i f).mem = d.mem := rfl
@[simp] theorem updPort_flash (d : Dev) (i : Nat) (f : Port → Port) : (d.updPort i f).flash = d.flash := rfl
@[simp] theorem updPort_cs1 (d : Dev) (i : Nat) (f : Port → Port) : (d.updPort i f).cs1 = d.cs1 := rfl
@[simp] theorem updPort_pmu (d : Dev) (i : Nat) (f : Port → Port) : (d.updPort i f).pmu = d.pmu := rfl
@[simp] theorem updPort_mga (d : Dev) (i : Nat) (f : Port → Port) : (d.updPort i f).mga = d.mga := rfl
@[simp] theorem updPort_mgb (d : Dev) (i : Nat) (f : Port → Port) : (d.updPort i f).mgb = d.mgb := rfl
@[simp] theorem updPort_units (d : Dev) (i : Nat) (f : Port → Port) : (d.updPort i f).units = d.units := rfl
@[simp] theorem updPort_stateSel (d : Dev) (i : Nat) (f : Port → Port) : (d.updPort i f).stateSel = d.stateSel := rfl
@[simp] theorem updPort_stateResult (d : Dev) (i : Nat) (f : Port → Port) : (d.updPort i f).stateResult = d.stateResult := rfl
@[simp] theorem updPort_disOrder (d : Dev) (i : Nat) (f : Port → Port) : (d.updPort i f).disOrder = d.disOrder := rfl
@[simp] theorem updPort_arbLog (d : Dev) (i : Nat) (f : Port → Port) : (d.updPort i f).arbLog = d.arbLog := rfl
@[simp] theorem updPort_cores (d : Dev) (i : Nat) (f : Port → Port) : (d.updPort i f).cores = d.cores := rfl
@[simp] theorem updPort_pens (d : Dev) (i : Nat) (f : Port → Port) : (d.updPort i f).pens = d.pens := rfl
@[simp] theorem updPort_evr (d : Dev) (i : Nat) (f : Port → Port) : (d.updPort i f).evr = d.evr := rfl
@[simp] theorem updPort_halter (d : Dev) (i : Nat) (f : Port → Port) : (d.updPort i f).halter = d.halter := rfl
@[simp] theorem updPort_pins (d : Dev) (i : Nat) (f : Port → Port) : (d.updPort i f).pins = d.pins := rfl
@[simp] theorem updPort_myc (d : Dev) (i : Nat) (f : Port → Port) : (d.updPort i f).myc = d.myc := rfl
@[simp] theorem updPort_dma (d : Dev) (i : Nat) (f : Port → Port) : (d.updPort i f).dma = d.dma := rfl
@[simp] theorem updPort_nid (d : Dev) (i : Nat) (f : Port → Port) : (d.updPort i f).nid = d.nid := rfl
@[simp] theorem updPort_filts (d : Dev) (i : Nat) (f : Port → Port) : (d.updPort i f).filts = d.filts := rfl
@[simp] theorem updPort_ptab (d : Dev) (i : Nat) (f : Port → Port) : (d.updPort i f).ptab = d.ptab := rfl
@[simp] theorem updPort_pool (d : Dev) (i : Nat) (f : Port → Port) : (d.updPort i f).pool = d.pool := rfl
@[simp] theorem updPort_afe (d : Dev) (i : Nat) (f : Port → Port) : (d.updPort i f).afe = d.afe := rfl
@[simp] theorem updPort_pwms (d : Dev) (i : Nat) (f : Port → Port) : (d.updPort i f).pwms = d.pwms := rfl
@[simp] theorem updPort_gpio (d : Dev) (i : Nat) (f : Port → Port) : (d.updPort i f).gpio = d.gpio := rfl
@[simp] theorem updPort_bw (d : Dev) (i : Nat) (f : Port → Port) : (d.updPort i f).bw = d.bw := rfl
@[simp] theorem updPort_golden (d : Dev) (i : Nat) (f : Port → Port) : (d.updPort i f).golden = d.golden := rfl
@[simp] theorem updPort_boot (d : Dev) (i : Nat) (f : Port → Port) : (d.updPort i f).boot = d.boot := rfl

/-! `updChan`. -/

@[simp] theorem updChan_variant (d : Dev) (c : Nat) (f : Channel → Channel) : (d.updChan c f).variant = d.variant := rfl
@[simp] theorem updChan_step (d : Dev) (c : Nat) (f : Channel → Channel) : (d.updChan c f).step = d.step := rfl
@[simp] theorem updChan_phase (d : Dev) (c : Nat) (f : Channel → Channel) : (d.updChan c f).phase = d.phase := rfl
@[simp] theorem updChan_free (d : Dev) (c : Nat) (f : Channel → Channel) : (d.updChan c f).free = d.free := rfl
@[simp] theorem updChan_jtag (d : Dev) (c : Nat) (f : Channel → Channel) : (d.updChan c f).jtag = d.jtag := rfl
@[simp] theorem updChan_mem (d : Dev) (c : Nat) (f : Channel → Channel) : (d.updChan c f).mem = d.mem := rfl
@[simp] theorem updChan_flash (d : Dev) (c : Nat) (f : Channel → Channel) : (d.updChan c f).flash = d.flash := rfl
@[simp] theorem updChan_cs1 (d : Dev) (c : Nat) (f : Channel → Channel) : (d.updChan c f).cs1 = d.cs1 := rfl
@[simp] theorem updChan_pmu (d : Dev) (c : Nat) (f : Channel → Channel) : (d.updChan c f).pmu = d.pmu := rfl
@[simp] theorem updChan_mga (d : Dev) (c : Nat) (f : Channel → Channel) : (d.updChan c f).mga = d.mga := rfl
@[simp] theorem updChan_mgb (d : Dev) (c : Nat) (f : Channel → Channel) : (d.updChan c f).mgb = d.mgb := rfl
@[simp] theorem updChan_units (d : Dev) (c : Nat) (f : Channel → Channel) : (d.updChan c f).units = d.units := rfl
@[simp] theorem updChan_stateSel (d : Dev) (c : Nat) (f : Channel → Channel) : (d.updChan c f).stateSel = d.stateSel := rfl
@[simp] theorem updChan_stateResult (d : Dev) (c : Nat) (f : Channel → Channel) : (d.updChan c f).stateResult = d.stateResult := rfl
@[simp] theorem updChan_disOrder (d : Dev) (c : Nat) (f : Channel → Channel) : (d.updChan c f).disOrder = d.disOrder := rfl
@[simp] theorem updChan_arbLog (d : Dev) (c : Nat) (f : Channel → Channel) : (d.updChan c f).arbLog = d.arbLog := rfl
@[simp] theorem updChan_cores (d : Dev) (c : Nat) (f : Channel → Channel) : (d.updChan c f).cores = d.cores := rfl
@[simp] theorem updChan_pens (d : Dev) (c : Nat) (f : Channel → Channel) : (d.updChan c f).pens = d.pens := rfl
@[simp] theorem updChan_evr (d : Dev) (c : Nat) (f : Channel → Channel) : (d.updChan c f).evr = d.evr := rfl
@[simp] theorem updChan_halter (d : Dev) (c : Nat) (f : Channel → Channel) : (d.updChan c f).halter = d.halter := rfl
@[simp] theorem updChan_pins (d : Dev) (c : Nat) (f : Channel → Channel) : (d.updChan c f).pins = d.pins := rfl
@[simp] theorem updChan_myc (d : Dev) (c : Nat) (f : Channel → Channel) : (d.updChan c f).myc = d.myc := rfl
@[simp] theorem updChan_ports (d : Dev) (c : Nat) (f : Channel → Channel) : (d.updChan c f).ports = d.ports := rfl
@[simp] theorem updChan_nid (d : Dev) (c : Nat) (f : Channel → Channel) : (d.updChan c f).nid = d.nid := rfl
@[simp] theorem updChan_filts (d : Dev) (c : Nat) (f : Channel → Channel) : (d.updChan c f).filts = d.filts := rfl
@[simp] theorem updChan_ptab (d : Dev) (c : Nat) (f : Channel → Channel) : (d.updChan c f).ptab = d.ptab := rfl
@[simp] theorem updChan_pool (d : Dev) (c : Nat) (f : Channel → Channel) : (d.updChan c f).pool = d.pool := rfl
@[simp] theorem updChan_afe (d : Dev) (c : Nat) (f : Channel → Channel) : (d.updChan c f).afe = d.afe := rfl
@[simp] theorem updChan_pwms (d : Dev) (c : Nat) (f : Channel → Channel) : (d.updChan c f).pwms = d.pwms := rfl
@[simp] theorem updChan_gpio (d : Dev) (c : Nat) (f : Channel → Channel) : (d.updChan c f).gpio = d.gpio := rfl
@[simp] theorem updChan_bw (d : Dev) (c : Nat) (f : Channel → Channel) : (d.updChan c f).bw = d.bw := rfl
@[simp] theorem updChan_golden (d : Dev) (c : Nat) (f : Channel → Channel) : (d.updChan c f).golden = d.golden := rfl
@[simp] theorem updChan_boot (d : Dev) (c : Nat) (f : Channel → Channel) : (d.updChan c f).boot = d.boot := rfl

/-! `updPwm`. -/

@[simp] theorem updPwm_variant (d : Dev) (n : Nat) (f : Pwm → Pwm) : (d.updPwm n f).variant = d.variant := rfl
@[simp] theorem updPwm_step (d : Dev) (n : Nat) (f : Pwm → Pwm) : (d.updPwm n f).step = d.step := rfl
@[simp] theorem updPwm_phase (d : Dev) (n : Nat) (f : Pwm → Pwm) : (d.updPwm n f).phase = d.phase := rfl
@[simp] theorem updPwm_free (d : Dev) (n : Nat) (f : Pwm → Pwm) : (d.updPwm n f).free = d.free := rfl
@[simp] theorem updPwm_jtag (d : Dev) (n : Nat) (f : Pwm → Pwm) : (d.updPwm n f).jtag = d.jtag := rfl
@[simp] theorem updPwm_mem (d : Dev) (n : Nat) (f : Pwm → Pwm) : (d.updPwm n f).mem = d.mem := rfl
@[simp] theorem updPwm_flash (d : Dev) (n : Nat) (f : Pwm → Pwm) : (d.updPwm n f).flash = d.flash := rfl
@[simp] theorem updPwm_cs1 (d : Dev) (n : Nat) (f : Pwm → Pwm) : (d.updPwm n f).cs1 = d.cs1 := rfl
@[simp] theorem updPwm_pmu (d : Dev) (n : Nat) (f : Pwm → Pwm) : (d.updPwm n f).pmu = d.pmu := rfl
@[simp] theorem updPwm_mga (d : Dev) (n : Nat) (f : Pwm → Pwm) : (d.updPwm n f).mga = d.mga := rfl
@[simp] theorem updPwm_mgb (d : Dev) (n : Nat) (f : Pwm → Pwm) : (d.updPwm n f).mgb = d.mgb := rfl
@[simp] theorem updPwm_units (d : Dev) (n : Nat) (f : Pwm → Pwm) : (d.updPwm n f).units = d.units := rfl
@[simp] theorem updPwm_stateSel (d : Dev) (n : Nat) (f : Pwm → Pwm) : (d.updPwm n f).stateSel = d.stateSel := rfl
@[simp] theorem updPwm_stateResult (d : Dev) (n : Nat) (f : Pwm → Pwm) : (d.updPwm n f).stateResult = d.stateResult := rfl
@[simp] theorem updPwm_disOrder (d : Dev) (n : Nat) (f : Pwm → Pwm) : (d.updPwm n f).disOrder = d.disOrder := rfl
@[simp] theorem updPwm_arbLog (d : Dev) (n : Nat) (f : Pwm → Pwm) : (d.updPwm n f).arbLog = d.arbLog := rfl
@[simp] theorem updPwm_cores (d : Dev) (n : Nat) (f : Pwm → Pwm) : (d.updPwm n f).cores = d.cores := rfl
@[simp] theorem updPwm_pens (d : Dev) (n : Nat) (f : Pwm → Pwm) : (d.updPwm n f).pens = d.pens := rfl
@[simp] theorem updPwm_evr (d : Dev) (n : Nat) (f : Pwm → Pwm) : (d.updPwm n f).evr = d.evr := rfl
@[simp] theorem updPwm_halter (d : Dev) (n : Nat) (f : Pwm → Pwm) : (d.updPwm n f).halter = d.halter := rfl
@[simp] theorem updPwm_pins (d : Dev) (n : Nat) (f : Pwm → Pwm) : (d.updPwm n f).pins = d.pins := rfl
@[simp] theorem updPwm_myc (d : Dev) (n : Nat) (f : Pwm → Pwm) : (d.updPwm n f).myc = d.myc := rfl
@[simp] theorem updPwm_dma (d : Dev) (n : Nat) (f : Pwm → Pwm) : (d.updPwm n f).dma = d.dma := rfl
@[simp] theorem updPwm_ports (d : Dev) (n : Nat) (f : Pwm → Pwm) : (d.updPwm n f).ports = d.ports := rfl
@[simp] theorem updPwm_nid (d : Dev) (n : Nat) (f : Pwm → Pwm) : (d.updPwm n f).nid = d.nid := rfl
@[simp] theorem updPwm_filts (d : Dev) (n : Nat) (f : Pwm → Pwm) : (d.updPwm n f).filts = d.filts := rfl
@[simp] theorem updPwm_ptab (d : Dev) (n : Nat) (f : Pwm → Pwm) : (d.updPwm n f).ptab = d.ptab := rfl
@[simp] theorem updPwm_pool (d : Dev) (n : Nat) (f : Pwm → Pwm) : (d.updPwm n f).pool = d.pool := rfl
@[simp] theorem updPwm_afe (d : Dev) (n : Nat) (f : Pwm → Pwm) : (d.updPwm n f).afe = d.afe := rfl
@[simp] theorem updPwm_gpio (d : Dev) (n : Nat) (f : Pwm → Pwm) : (d.updPwm n f).gpio = d.gpio := rfl
@[simp] theorem updPwm_bw (d : Dev) (n : Nat) (f : Pwm → Pwm) : (d.updPwm n f).bw = d.bw := rfl
@[simp] theorem updPwm_golden (d : Dev) (n : Nat) (f : Pwm → Pwm) : (d.updPwm n f).golden = d.golden := rfl
@[simp] theorem updPwm_boot (d : Dev) (n : Nat) (f : Pwm → Pwm) : (d.updPwm n f).boot = d.boot := rfl

/-! `updSlice`. -/

@[simp] theorem updSlice_variant (d : Dev) (n : Nat) (f : Slice → Slice) : (d.updSlice n f).variant = d.variant := rfl
@[simp] theorem updSlice_step (d : Dev) (n : Nat) (f : Slice → Slice) : (d.updSlice n f).step = d.step := rfl
@[simp] theorem updSlice_phase (d : Dev) (n : Nat) (f : Slice → Slice) : (d.updSlice n f).phase = d.phase := rfl
@[simp] theorem updSlice_free (d : Dev) (n : Nat) (f : Slice → Slice) : (d.updSlice n f).free = d.free := rfl
@[simp] theorem updSlice_jtag (d : Dev) (n : Nat) (f : Slice → Slice) : (d.updSlice n f).jtag = d.jtag := rfl
@[simp] theorem updSlice_mem (d : Dev) (n : Nat) (f : Slice → Slice) : (d.updSlice n f).mem = d.mem := rfl
@[simp] theorem updSlice_flash (d : Dev) (n : Nat) (f : Slice → Slice) : (d.updSlice n f).flash = d.flash := rfl
@[simp] theorem updSlice_cs1 (d : Dev) (n : Nat) (f : Slice → Slice) : (d.updSlice n f).cs1 = d.cs1 := rfl
@[simp] theorem updSlice_pmu (d : Dev) (n : Nat) (f : Slice → Slice) : (d.updSlice n f).pmu = d.pmu := rfl
@[simp] theorem updSlice_mga (d : Dev) (n : Nat) (f : Slice → Slice) : (d.updSlice n f).mga = d.mga := rfl
@[simp] theorem updSlice_mgb (d : Dev) (n : Nat) (f : Slice → Slice) : (d.updSlice n f).mgb = d.mgb := rfl
@[simp] theorem updSlice_units (d : Dev) (n : Nat) (f : Slice → Slice) : (d.updSlice n f).units = d.units := rfl
@[simp] theorem updSlice_stateSel (d : Dev) (n : Nat) (f : Slice → Slice) : (d.updSlice n f).stateSel = d.stateSel := rfl
@[simp] theorem updSlice_stateResult (d : Dev) (n : Nat) (f : Slice → Slice) : (d.updSlice n f).stateResult = d.stateResult := rfl
@[simp] theorem updSlice_disOrder (d : Dev) (n : Nat) (f : Slice → Slice) : (d.updSlice n f).disOrder = d.disOrder := rfl
@[simp] theorem updSlice_arbLog (d : Dev) (n : Nat) (f : Slice → Slice) : (d.updSlice n f).arbLog = d.arbLog := rfl
@[simp] theorem updSlice_cores (d : Dev) (n : Nat) (f : Slice → Slice) : (d.updSlice n f).cores = d.cores := rfl
@[simp] theorem updSlice_pens (d : Dev) (n : Nat) (f : Slice → Slice) : (d.updSlice n f).pens = d.pens := rfl
@[simp] theorem updSlice_halter (d : Dev) (n : Nat) (f : Slice → Slice) : (d.updSlice n f).halter = d.halter := rfl
@[simp] theorem updSlice_pins (d : Dev) (n : Nat) (f : Slice → Slice) : (d.updSlice n f).pins = d.pins := rfl
@[simp] theorem updSlice_myc (d : Dev) (n : Nat) (f : Slice → Slice) : (d.updSlice n f).myc = d.myc := rfl
@[simp] theorem updSlice_dma (d : Dev) (n : Nat) (f : Slice → Slice) : (d.updSlice n f).dma = d.dma := rfl
@[simp] theorem updSlice_ports (d : Dev) (n : Nat) (f : Slice → Slice) : (d.updSlice n f).ports = d.ports := rfl
@[simp] theorem updSlice_nid (d : Dev) (n : Nat) (f : Slice → Slice) : (d.updSlice n f).nid = d.nid := rfl
@[simp] theorem updSlice_filts (d : Dev) (n : Nat) (f : Slice → Slice) : (d.updSlice n f).filts = d.filts := rfl
@[simp] theorem updSlice_ptab (d : Dev) (n : Nat) (f : Slice → Slice) : (d.updSlice n f).ptab = d.ptab := rfl
@[simp] theorem updSlice_pool (d : Dev) (n : Nat) (f : Slice → Slice) : (d.updSlice n f).pool = d.pool := rfl
@[simp] theorem updSlice_afe (d : Dev) (n : Nat) (f : Slice → Slice) : (d.updSlice n f).afe = d.afe := rfl
@[simp] theorem updSlice_pwms (d : Dev) (n : Nat) (f : Slice → Slice) : (d.updSlice n f).pwms = d.pwms := rfl
@[simp] theorem updSlice_gpio (d : Dev) (n : Nat) (f : Slice → Slice) : (d.updSlice n f).gpio = d.gpio := rfl
@[simp] theorem updSlice_bw (d : Dev) (n : Nat) (f : Slice → Slice) : (d.updSlice n f).bw = d.bw := rfl
@[simp] theorem updSlice_golden (d : Dev) (n : Nat) (f : Slice → Slice) : (d.updSlice n f).golden = d.golden := rfl
@[simp] theorem updSlice_boot (d : Dev) (n : Nat) (f : Slice → Slice) : (d.updSlice n f).boot = d.boot := rfl

/-! `updFoldMem`. -/

@[simp] theorem updFoldMem_variant (d : Dev) (n : Nat) (f : FoldMem → FoldMem) : (d.updFoldMem n f).variant = d.variant := rfl
@[simp] theorem updFoldMem_step (d : Dev) (n : Nat) (f : FoldMem → FoldMem) : (d.updFoldMem n f).step = d.step := rfl
@[simp] theorem updFoldMem_phase (d : Dev) (n : Nat) (f : FoldMem → FoldMem) : (d.updFoldMem n f).phase = d.phase := rfl
@[simp] theorem updFoldMem_free (d : Dev) (n : Nat) (f : FoldMem → FoldMem) : (d.updFoldMem n f).free = d.free := rfl
@[simp] theorem updFoldMem_jtag (d : Dev) (n : Nat) (f : FoldMem → FoldMem) : (d.updFoldMem n f).jtag = d.jtag := rfl
@[simp] theorem updFoldMem_mem (d : Dev) (n : Nat) (f : FoldMem → FoldMem) : (d.updFoldMem n f).mem = d.mem := rfl
@[simp] theorem updFoldMem_flash (d : Dev) (n : Nat) (f : FoldMem → FoldMem) : (d.updFoldMem n f).flash = d.flash := rfl
@[simp] theorem updFoldMem_cs1 (d : Dev) (n : Nat) (f : FoldMem → FoldMem) : (d.updFoldMem n f).cs1 = d.cs1 := rfl
@[simp] theorem updFoldMem_pmu (d : Dev) (n : Nat) (f : FoldMem → FoldMem) : (d.updFoldMem n f).pmu = d.pmu := rfl
@[simp] theorem updFoldMem_mga (d : Dev) (n : Nat) (f : FoldMem → FoldMem) : (d.updFoldMem n f).mga = d.mga := rfl
@[simp] theorem updFoldMem_mgb (d : Dev) (n : Nat) (f : FoldMem → FoldMem) : (d.updFoldMem n f).mgb = d.mgb := rfl
@[simp] theorem updFoldMem_units (d : Dev) (n : Nat) (f : FoldMem → FoldMem) : (d.updFoldMem n f).units = d.units := rfl
@[simp] theorem updFoldMem_stateSel (d : Dev) (n : Nat) (f : FoldMem → FoldMem) : (d.updFoldMem n f).stateSel = d.stateSel := rfl
@[simp] theorem updFoldMem_stateResult (d : Dev) (n : Nat) (f : FoldMem → FoldMem) : (d.updFoldMem n f).stateResult = d.stateResult := rfl
@[simp] theorem updFoldMem_disOrder (d : Dev) (n : Nat) (f : FoldMem → FoldMem) : (d.updFoldMem n f).disOrder = d.disOrder := rfl
@[simp] theorem updFoldMem_arbLog (d : Dev) (n : Nat) (f : FoldMem → FoldMem) : (d.updFoldMem n f).arbLog = d.arbLog := rfl
@[simp] theorem updFoldMem_cores (d : Dev) (n : Nat) (f : FoldMem → FoldMem) : (d.updFoldMem n f).cores = d.cores := rfl
@[simp] theorem updFoldMem_pens (d : Dev) (n : Nat) (f : FoldMem → FoldMem) : (d.updFoldMem n f).pens = d.pens := rfl
@[simp] theorem updFoldMem_evr (d : Dev) (n : Nat) (f : FoldMem → FoldMem) : (d.updFoldMem n f).evr = d.evr := rfl
@[simp] theorem updFoldMem_halter (d : Dev) (n : Nat) (f : FoldMem → FoldMem) : (d.updFoldMem n f).halter = d.halter := rfl
@[simp] theorem updFoldMem_pins (d : Dev) (n : Nat) (f : FoldMem → FoldMem) : (d.updFoldMem n f).pins = d.pins := rfl
@[simp] theorem updFoldMem_dma (d : Dev) (n : Nat) (f : FoldMem → FoldMem) : (d.updFoldMem n f).dma = d.dma := rfl
@[simp] theorem updFoldMem_ports (d : Dev) (n : Nat) (f : FoldMem → FoldMem) : (d.updFoldMem n f).ports = d.ports := rfl
@[simp] theorem updFoldMem_nid (d : Dev) (n : Nat) (f : FoldMem → FoldMem) : (d.updFoldMem n f).nid = d.nid := rfl
@[simp] theorem updFoldMem_filts (d : Dev) (n : Nat) (f : FoldMem → FoldMem) : (d.updFoldMem n f).filts = d.filts := rfl
@[simp] theorem updFoldMem_ptab (d : Dev) (n : Nat) (f : FoldMem → FoldMem) : (d.updFoldMem n f).ptab = d.ptab := rfl
@[simp] theorem updFoldMem_pool (d : Dev) (n : Nat) (f : FoldMem → FoldMem) : (d.updFoldMem n f).pool = d.pool := rfl
@[simp] theorem updFoldMem_afe (d : Dev) (n : Nat) (f : FoldMem → FoldMem) : (d.updFoldMem n f).afe = d.afe := rfl
@[simp] theorem updFoldMem_pwms (d : Dev) (n : Nat) (f : FoldMem → FoldMem) : (d.updFoldMem n f).pwms = d.pwms := rfl
@[simp] theorem updFoldMem_gpio (d : Dev) (n : Nat) (f : FoldMem → FoldMem) : (d.updFoldMem n f).gpio = d.gpio := rfl
@[simp] theorem updFoldMem_bw (d : Dev) (n : Nat) (f : FoldMem → FoldMem) : (d.updFoldMem n f).bw = d.bw := rfl
@[simp] theorem updFoldMem_golden (d : Dev) (n : Nat) (f : FoldMem → FoldMem) : (d.updFoldMem n f).golden = d.golden := rfl
@[simp] theorem updFoldMem_boot (d : Dev) (n : Nat) (f : FoldMem → FoldMem) : (d.updFoldMem n f).boot = d.boot := rfl

/-! `updMg`. -/

@[simp] theorem updMg_variant (d : Dev) (p : MgPort) (f : Console → Console) : (d.updMg p f).variant = d.variant := by cases p <;> rfl
@[simp] theorem updMg_step (d : Dev) (p : MgPort) (f : Console → Console) : (d.updMg p f).step = d.step := by cases p <;> rfl
@[simp] theorem updMg_phase (d : Dev) (p : MgPort) (f : Console → Console) : (d.updMg p f).phase = d.phase := by cases p <;> rfl
@[simp] theorem updMg_free (d : Dev) (p : MgPort) (f : Console → Console) : (d.updMg p f).free = d.free := by cases p <;> rfl
@[simp] theorem updMg_jtag (d : Dev) (p : MgPort) (f : Console → Console) : (d.updMg p f).jtag = d.jtag := by cases p <;> rfl
@[simp] theorem updMg_mem (d : Dev) (p : MgPort) (f : Console → Console) : (d.updMg p f).mem = d.mem := by cases p <;> rfl
@[simp] theorem updMg_flash (d : Dev) (p : MgPort) (f : Console → Console) : (d.updMg p f).flash = d.flash := by cases p <;> rfl
@[simp] theorem updMg_cs1 (d : Dev) (p : MgPort) (f : Console → Console) : (d.updMg p f).cs1 = d.cs1 := by cases p <;> rfl
@[simp] theorem updMg_pmu (d : Dev) (p : MgPort) (f : Console → Console) : (d.updMg p f).pmu = d.pmu := by cases p <;> rfl
@[simp] theorem updMg_units (d : Dev) (p : MgPort) (f : Console → Console) : (d.updMg p f).units = d.units := by cases p <;> rfl
@[simp] theorem updMg_stateSel (d : Dev) (p : MgPort) (f : Console → Console) : (d.updMg p f).stateSel = d.stateSel := by cases p <;> rfl
@[simp] theorem updMg_stateResult (d : Dev) (p : MgPort) (f : Console → Console) : (d.updMg p f).stateResult = d.stateResult := by cases p <;> rfl
@[simp] theorem updMg_disOrder (d : Dev) (p : MgPort) (f : Console → Console) : (d.updMg p f).disOrder = d.disOrder := by cases p <;> rfl
@[simp] theorem updMg_arbLog (d : Dev) (p : MgPort) (f : Console → Console) : (d.updMg p f).arbLog = d.arbLog := by cases p <;> rfl
@[simp] theorem updMg_cores (d : Dev) (p : MgPort) (f : Console → Console) : (d.updMg p f).cores = d.cores := by cases p <;> rfl
@[simp] theorem updMg_pens (d : Dev) (p : MgPort) (f : Console → Console) : (d.updMg p f).pens = d.pens := by cases p <;> rfl
@[simp] theorem updMg_evr (d : Dev) (p : MgPort) (f : Console → Console) : (d.updMg p f).evr = d.evr := by cases p <;> rfl
@[simp] theorem updMg_halter (d : Dev) (p : MgPort) (f : Console → Console) : (d.updMg p f).halter = d.halter := by cases p <;> rfl
@[simp] theorem updMg_pins (d : Dev) (p : MgPort) (f : Console → Console) : (d.updMg p f).pins = d.pins := by cases p <;> rfl
@[simp] theorem updMg_myc (d : Dev) (p : MgPort) (f : Console → Console) : (d.updMg p f).myc = d.myc := by cases p <;> rfl
@[simp] theorem updMg_dma (d : Dev) (p : MgPort) (f : Console → Console) : (d.updMg p f).dma = d.dma := by cases p <;> rfl
@[simp] theorem updMg_ports (d : Dev) (p : MgPort) (f : Console → Console) : (d.updMg p f).ports = d.ports := by cases p <;> rfl
@[simp] theorem updMg_nid (d : Dev) (p : MgPort) (f : Console → Console) : (d.updMg p f).nid = d.nid := by cases p <;> rfl
@[simp] theorem updMg_filts (d : Dev) (p : MgPort) (f : Console → Console) : (d.updMg p f).filts = d.filts := by cases p <;> rfl
@[simp] theorem updMg_ptab (d : Dev) (p : MgPort) (f : Console → Console) : (d.updMg p f).ptab = d.ptab := by cases p <;> rfl
@[simp] theorem updMg_pool (d : Dev) (p : MgPort) (f : Console → Console) : (d.updMg p f).pool = d.pool := by cases p <;> rfl
@[simp] theorem updMg_afe (d : Dev) (p : MgPort) (f : Console → Console) : (d.updMg p f).afe = d.afe := by cases p <;> rfl
@[simp] theorem updMg_pwms (d : Dev) (p : MgPort) (f : Console → Console) : (d.updMg p f).pwms = d.pwms := by cases p <;> rfl
@[simp] theorem updMg_gpio (d : Dev) (p : MgPort) (f : Console → Console) : (d.updMg p f).gpio = d.gpio := by cases p <;> rfl
@[simp] theorem updMg_bw (d : Dev) (p : MgPort) (f : Console → Console) : (d.updMg p f).bw = d.bw := by cases p <;> rfl
@[simp] theorem updMg_golden (d : Dev) (p : MgPort) (f : Console → Console) : (d.updMg p f).golden = d.golden := by cases p <;> rfl
@[simp] theorem updMg_boot (d : Dev) (p : MgPort) (f : Console → Console) : (d.updMg p f).boot = d.boot := by cases p <;> rfl

/-! `setByte`. -/

@[simp] theorem setByte_variant (d : Dev) (a : Nat) (b : Byte) : (d.setByte a b).variant = d.variant := rfl
@[simp] theorem setByte_step (d : Dev) (a : Nat) (b : Byte) : (d.setByte a b).step = d.step := rfl
@[simp] theorem setByte_phase (d : Dev) (a : Nat) (b : Byte) : (d.setByte a b).phase = d.phase := rfl
@[simp] theorem setByte_free (d : Dev) (a : Nat) (b : Byte) : (d.setByte a b).free = d.free := rfl
@[simp] theorem setByte_jtag (d : Dev) (a : Nat) (b : Byte) : (d.setByte a b).jtag = d.jtag := rfl
@[simp] theorem setByte_flash (d : Dev) (a : Nat) (b : Byte) : (d.setByte a b).flash = d.flash := rfl
@[simp] theorem setByte_cs1 (d : Dev) (a : Nat) (b : Byte) : (d.setByte a b).cs1 = d.cs1 := rfl
@[simp] theorem setByte_pmu (d : Dev) (a : Nat) (b : Byte) : (d.setByte a b).pmu = d.pmu := rfl
@[simp] theorem setByte_mga (d : Dev) (a : Nat) (b : Byte) : (d.setByte a b).mga = d.mga := rfl
@[simp] theorem setByte_mgb (d : Dev) (a : Nat) (b : Byte) : (d.setByte a b).mgb = d.mgb := rfl
@[simp] theorem setByte_units (d : Dev) (a : Nat) (b : Byte) : (d.setByte a b).units = d.units := rfl
@[simp] theorem setByte_stateSel (d : Dev) (a : Nat) (b : Byte) : (d.setByte a b).stateSel = d.stateSel := rfl
@[simp] theorem setByte_stateResult (d : Dev) (a : Nat) (b : Byte) : (d.setByte a b).stateResult = d.stateResult := rfl
@[simp] theorem setByte_disOrder (d : Dev) (a : Nat) (b : Byte) : (d.setByte a b).disOrder = d.disOrder := rfl
@[simp] theorem setByte_arbLog (d : Dev) (a : Nat) (b : Byte) : (d.setByte a b).arbLog = d.arbLog := rfl
@[simp] theorem setByte_cores (d : Dev) (a : Nat) (b : Byte) : (d.setByte a b).cores = d.cores := rfl
@[simp] theorem setByte_pens (d : Dev) (a : Nat) (b : Byte) : (d.setByte a b).pens = d.pens := rfl
@[simp] theorem setByte_evr (d : Dev) (a : Nat) (b : Byte) : (d.setByte a b).evr = d.evr := rfl
@[simp] theorem setByte_halter (d : Dev) (a : Nat) (b : Byte) : (d.setByte a b).halter = d.halter := rfl
@[simp] theorem setByte_pins (d : Dev) (a : Nat) (b : Byte) : (d.setByte a b).pins = d.pins := rfl
@[simp] theorem setByte_myc (d : Dev) (a : Nat) (b : Byte) : (d.setByte a b).myc = d.myc := rfl
@[simp] theorem setByte_dma (d : Dev) (a : Nat) (b : Byte) : (d.setByte a b).dma = d.dma := rfl
@[simp] theorem setByte_ports (d : Dev) (a : Nat) (b : Byte) : (d.setByte a b).ports = d.ports := rfl
@[simp] theorem setByte_nid (d : Dev) (a : Nat) (b : Byte) : (d.setByte a b).nid = d.nid := rfl
@[simp] theorem setByte_filts (d : Dev) (a : Nat) (b : Byte) : (d.setByte a b).filts = d.filts := rfl
@[simp] theorem setByte_ptab (d : Dev) (a : Nat) (b : Byte) : (d.setByte a b).ptab = d.ptab := rfl
@[simp] theorem setByte_pool (d : Dev) (a : Nat) (b : Byte) : (d.setByte a b).pool = d.pool := rfl
@[simp] theorem setByte_afe (d : Dev) (a : Nat) (b : Byte) : (d.setByte a b).afe = d.afe := rfl
@[simp] theorem setByte_pwms (d : Dev) (a : Nat) (b : Byte) : (d.setByte a b).pwms = d.pwms := rfl
@[simp] theorem setByte_gpio (d : Dev) (a : Nat) (b : Byte) : (d.setByte a b).gpio = d.gpio := rfl
@[simp] theorem setByte_bw (d : Dev) (a : Nat) (b : Byte) : (d.setByte a b).bw = d.bw := rfl
@[simp] theorem setByte_golden (d : Dev) (a : Nat) (b : Byte) : (d.setByte a b).golden = d.golden := rfl
@[simp] theorem setByte_boot (d : Dev) (a : Nat) (b : Byte) : (d.setByte a b).boot = d.boot := rfl

/-! `clearRange`. -/

@[simp] theorem clearRange_variant (d : Dev) (a n : Nat) : (d.clearRange a n).variant = d.variant := rfl
@[simp] theorem clearRange_step (d : Dev) (a n : Nat) : (d.clearRange a n).step = d.step := rfl
@[simp] theorem clearRange_phase (d : Dev) (a n : Nat) : (d.clearRange a n).phase = d.phase := rfl
@[simp] theorem clearRange_free (d : Dev) (a n : Nat) : (d.clearRange a n).free = d.free := rfl
@[simp] theorem clearRange_jtag (d : Dev) (a n : Nat) : (d.clearRange a n).jtag = d.jtag := rfl
@[simp] theorem clearRange_flash (d : Dev) (a n : Nat) : (d.clearRange a n).flash = d.flash := rfl
@[simp] theorem clearRange_cs1 (d : Dev) (a n : Nat) : (d.clearRange a n).cs1 = d.cs1 := rfl
@[simp] theorem clearRange_pmu (d : Dev) (a n : Nat) : (d.clearRange a n).pmu = d.pmu := rfl
@[simp] theorem clearRange_mga (d : Dev) (a n : Nat) : (d.clearRange a n).mga = d.mga := rfl
@[simp] theorem clearRange_mgb (d : Dev) (a n : Nat) : (d.clearRange a n).mgb = d.mgb := rfl
@[simp] theorem clearRange_units (d : Dev) (a n : Nat) : (d.clearRange a n).units = d.units := rfl
@[simp] theorem clearRange_stateSel (d : Dev) (a n : Nat) : (d.clearRange a n).stateSel = d.stateSel := rfl
@[simp] theorem clearRange_stateResult (d : Dev) (a n : Nat) : (d.clearRange a n).stateResult = d.stateResult := rfl
@[simp] theorem clearRange_disOrder (d : Dev) (a n : Nat) : (d.clearRange a n).disOrder = d.disOrder := rfl
@[simp] theorem clearRange_arbLog (d : Dev) (a n : Nat) : (d.clearRange a n).arbLog = d.arbLog := rfl
@[simp] theorem clearRange_cores (d : Dev) (a n : Nat) : (d.clearRange a n).cores = d.cores := rfl
@[simp] theorem clearRange_pens (d : Dev) (a n : Nat) : (d.clearRange a n).pens = d.pens := rfl
@[simp] theorem clearRange_evr (d : Dev) (a n : Nat) : (d.clearRange a n).evr = d.evr := rfl
@[simp] theorem clearRange_halter (d : Dev) (a n : Nat) : (d.clearRange a n).halter = d.halter := rfl
@[simp] theorem clearRange_pins (d : Dev) (a n : Nat) : (d.clearRange a n).pins = d.pins := rfl
@[simp] theorem clearRange_myc (d : Dev) (a n : Nat) : (d.clearRange a n).myc = d.myc := rfl
@[simp] theorem clearRange_dma (d : Dev) (a n : Nat) : (d.clearRange a n).dma = d.dma := rfl
@[simp] theorem clearRange_ports (d : Dev) (a n : Nat) : (d.clearRange a n).ports = d.ports := rfl
@[simp] theorem clearRange_nid (d : Dev) (a n : Nat) : (d.clearRange a n).nid = d.nid := rfl
@[simp] theorem clearRange_filts (d : Dev) (a n : Nat) : (d.clearRange a n).filts = d.filts := rfl
@[simp] theorem clearRange_ptab (d : Dev) (a n : Nat) : (d.clearRange a n).ptab = d.ptab := rfl
@[simp] theorem clearRange_pool (d : Dev) (a n : Nat) : (d.clearRange a n).pool = d.pool := rfl
@[simp] theorem clearRange_afe (d : Dev) (a n : Nat) : (d.clearRange a n).afe = d.afe := rfl
@[simp] theorem clearRange_pwms (d : Dev) (a n : Nat) : (d.clearRange a n).pwms = d.pwms := rfl
@[simp] theorem clearRange_gpio (d : Dev) (a n : Nat) : (d.clearRange a n).gpio = d.gpio := rfl
@[simp] theorem clearRange_bw (d : Dev) (a n : Nat) : (d.clearRange a n).bw = d.bw := rfl
@[simp] theorem clearRange_golden (d : Dev) (a n : Nat) : (d.clearRange a n).golden = d.golden := rfl
@[simp] theorem clearRange_boot (d : Dev) (a n : Nat) : (d.clearRange a n).boot = d.boot := rfl

/-! Events touch the management ports only. -/

@[simp] theorem emit_variant (d : Dev) (c : Option EvClass) (u : Option UnitId) (t : String) : (emit d c u t).variant = d.variant := rfl
@[simp] theorem emit_step (d : Dev) (c : Option EvClass) (u : Option UnitId) (t : String) : (emit d c u t).step = d.step := rfl
@[simp] theorem emit_phase (d : Dev) (c : Option EvClass) (u : Option UnitId) (t : String) : (emit d c u t).phase = d.phase := rfl
@[simp] theorem emit_free (d : Dev) (c : Option EvClass) (u : Option UnitId) (t : String) : (emit d c u t).free = d.free := rfl
@[simp] theorem emit_jtag (d : Dev) (c : Option EvClass) (u : Option UnitId) (t : String) : (emit d c u t).jtag = d.jtag := rfl
@[simp] theorem emit_mem (d : Dev) (c : Option EvClass) (u : Option UnitId) (t : String) : (emit d c u t).mem = d.mem := rfl
@[simp] theorem emit_flash (d : Dev) (c : Option EvClass) (u : Option UnitId) (t : String) : (emit d c u t).flash = d.flash := rfl
@[simp] theorem emit_cs1 (d : Dev) (c : Option EvClass) (u : Option UnitId) (t : String) : (emit d c u t).cs1 = d.cs1 := rfl
@[simp] theorem emit_pmu (d : Dev) (c : Option EvClass) (u : Option UnitId) (t : String) : (emit d c u t).pmu = d.pmu := rfl
@[simp] theorem emit_units (d : Dev) (c : Option EvClass) (u : Option UnitId) (t : String) : (emit d c u t).units = d.units := rfl
@[simp] theorem emit_stateSel (d : Dev) (c : Option EvClass) (u : Option UnitId) (t : String) : (emit d c u t).stateSel = d.stateSel := rfl
@[simp] theorem emit_stateResult (d : Dev) (c : Option EvClass) (u : Option UnitId) (t : String) : (emit d c u t).stateResult = d.stateResult := rfl
@[simp] theorem emit_disOrder (d : Dev) (c : Option EvClass) (u : Option UnitId) (t : String) : (emit d c u t).disOrder = d.disOrder := rfl
@[simp] theorem emit_arbLog (d : Dev) (c : Option EvClass) (u : Option UnitId) (t : String) : (emit d c u t).arbLog = d.arbLog := rfl
@[simp] theorem emit_cores (d : Dev) (c : Option EvClass) (u : Option UnitId) (t : String) : (emit d c u t).cores = d.cores := rfl
@[simp] theorem emit_pens (d : Dev) (c : Option EvClass) (u : Option UnitId) (t : String) : (emit d c u t).pens = d.pens := rfl
@[simp] theorem emit_evr (d : Dev) (c : Option EvClass) (u : Option UnitId) (t : String) : (emit d c u t).evr = d.evr := rfl
@[simp] theorem emit_halter (d : Dev) (c : Option EvClass) (u : Option UnitId) (t : String) : (emit d c u t).halter = d.halter := rfl
@[simp] theorem emit_pins (d : Dev) (c : Option EvClass) (u : Option UnitId) (t : String) : (emit d c u t).pins = d.pins := rfl
@[simp] theorem emit_myc (d : Dev) (c : Option EvClass) (u : Option UnitId) (t : String) : (emit d c u t).myc = d.myc := rfl
@[simp] theorem emit_dma (d : Dev) (c : Option EvClass) (u : Option UnitId) (t : String) : (emit d c u t).dma = d.dma := rfl
@[simp] theorem emit_ports (d : Dev) (c : Option EvClass) (u : Option UnitId) (t : String) : (emit d c u t).ports = d.ports := rfl
@[simp] theorem emit_nid (d : Dev) (c : Option EvClass) (u : Option UnitId) (t : String) : (emit d c u t).nid = d.nid := rfl
@[simp] theorem emit_filts (d : Dev) (c : Option EvClass) (u : Option UnitId) (t : String) : (emit d c u t).filts = d.filts := rfl
@[simp] theorem emit_ptab (d : Dev) (c : Option EvClass) (u : Option UnitId) (t : String) : (emit d c u t).ptab = d.ptab := rfl
@[simp] theorem emit_pool (d : Dev) (c : Option EvClass) (u : Option UnitId) (t : String) : (emit d c u t).pool = d.pool := rfl
@[simp] theorem emit_afe (d : Dev) (c : Option EvClass) (u : Option UnitId) (t : String) : (emit d c u t).afe = d.afe := rfl
@[simp] theorem emit_pwms (d : Dev) (c : Option EvClass) (u : Option UnitId) (t : String) : (emit d c u t).pwms = d.pwms := rfl
@[simp] theorem emit_gpio (d : Dev) (c : Option EvClass) (u : Option UnitId) (t : String) : (emit d c u t).gpio = d.gpio := rfl
@[simp] theorem emit_bw (d : Dev) (c : Option EvClass) (u : Option UnitId) (t : String) : (emit d c u t).bw = d.bw := rfl
@[simp] theorem emit_golden (d : Dev) (c : Option EvClass) (u : Option UnitId) (t : String) : (emit d c u t).golden = d.golden := rfl
@[simp] theorem emit_boot (d : Dev) (c : Option EvClass) (u : Option UnitId) (t : String) : (emit d c u t).boot = d.boot := rfl

/-! A console read back. -/

@[simp] theorem mg_updMg_same (d : Dev) (p : MgPort) (f : Console → Console) : (d.updMg p f).mg p = f (d.mg p) := by cases p <;> rfl
@[simp] theorem mg_updMg_other (d : Dev) (p : MgPort) (f : Console → Console) :
    (d.updMg p f).mg (otherPort p) = d.mg (otherPort p) := by cases p <;> rfl

/-! Lifting. -/

@[simp] theorem lift_eq (f : Dev → Dev) (s : State) : lift f s = .next { s with dev := f s.dev } := rfl

end Sys2Proof.Laws
end

