-- ==== Sys2Proof/Laws/Table.lean ====
section
/-! SUPPORT. Sorted tables: what a write leaves at its own index and at the others, and that every operation on memory keeps memory's
canonical form. -/
namespace Sys2Proof.Laws

open Sys2Proof.Machine

variable {α : Type}

/-! Reading after a write. -/

@[simp] theorem tget_tdel_same (t : List (Nat × α)) (d : α) (k : Nat) : tget (tdel t k) d k = d := by
  induction t with
  | nil => rfl
  | cons x r ih =>
    obtain ⟨i, w⟩ := x
    unfold tdel at ih ⊢
    by_cases h : i = k
    · simpa [h] using ih
    · simpa [h, tget] using ih

theorem tget_tdel_other (t : List (Nat × α)) (d : α) (k j : Nat) (n : j ≠ k) : tget (tdel t k) d j = tget t d j := by
  induction t with
  | nil => rfl
  | cons x r ih =>
    obtain ⟨i, w⟩ := x
    unfold tdel at ih ⊢
    by_cases h : i = k
    · subst h; simpa [tget, Ne.symm n] using ih
    · simp [h, tget, ih]

/-- The index unlisted twice. -/
@[simp] theorem tdel_tdel (t : List (Nat × α)) (k : Nat) : tdel (tdel t k) k = tdel t k := by
  unfold tdel; rw [List.filter_filter]; simp

theorem tdel_of_absent {t : List (Nat × α)} {k : Nat} (h : ∀ x ∈ t, x.1 ≠ k) : tdel t k = t :=
  List.filter_eq_self.mpr fun x hx => by simpa using h x hx

theorem absent_tdel (t : List (Nat × α)) (k : Nat) : ∀ x ∈ tdel t k, x.1 ≠ k := fun x hx => by
  simpa using (List.mem_filter.mp hx).2

/-- What was inserted is taken out again. -/
theorem tdel_tins (t : List (Nat × α)) (k : Nat) (v : α) (h : ∀ x ∈ t, x.1 ≠ k) : tdel (tins t k v) k = t := by
  induction t with
  | nil => simp [tins, tdel]
  | cons x r ih =>
    obtain ⟨i, w⟩ := x
    have hi : i ≠ k := h (i, w) (by simp)
    have hr := ih fun x hx => h x (List.mem_cons_of_mem _ hx)
    unfold tins
    split
    · have : tdel r k = r := tdel_of_absent fun x hx => h x (List.mem_cons_of_mem _ hx)
      unfold tdel at this ⊢
      simp [hi, this]
    · unfold tdel at hr ⊢
      simp [hi, hr]

theorem tget_tins_same (t : List (Nat × α)) (d : α) (k : Nat) (v : α) (h : ∀ x ∈ t, x.1 ≠ k) : tget (tins t k v) d k = v := by
  induction t with
  | nil => simp [tins, tget]
  | cons x r ih =>
    obtain ⟨i, w⟩ := x
    have hi : i ≠ k := h (i, w) (by simp)
    unfold tins
    split
    · simp [tget]
    · simp only [tget, if_neg hi]; exact ih fun x hx => h x (List.mem_cons_of_mem _ hx)

theorem tget_tins_other (t : List (Nat × α)) (d : α) (k j : Nat) (v : α) (h : j ≠ k) : tget (tins t k v) d j = tget t d j := by
  induction t with
  | nil => simp [tins, tget, Ne.symm h]
  | cons x r ih =>
    obtain ⟨i, w⟩ := x
    unfold tins
    split
    · simp only [tget, if_neg (Ne.symm h)]
    · simp only [tget, ih]

/-- A listed index reads back what was listed. -/
@[simp] theorem tget_tput_same (t : List (Nat × α)) (d : α) (k : Nat) (v : α) : tget (tput t k v) d k = v :=
  tget_tins_same _ _ _ _ (absent_tdel t k)

/-- Another index reads as before. -/
theorem tget_tput_other (t : List (Nat × α)) (d : α) (k j : Nat) (v : α) (h : j ≠ k) : tget (tput t k v) d j = tget t d j := by
  unfold tput; rw [tget_tins_other _ _ _ _ _ h, tget_tdel_other _ _ _ _ h]

/-- The last of two writes to one index stands. -/
@[simp] theorem tset_tset [DecidableEq α] (t : List (Nat × α)) (d : α) (k : Nat) (v w : α) :
    tset (tset t d k v) d k w = tset t d k w := by
  unfold tset
  split <;> split <;> simp [tput, tdel_tdel, tdel_tins _ _ _ (absent_tdel t k)]

/-- A table reads back what was written. -/
@[simp] theorem tget_tset_same [DecidableEq α] (t : List (Nat × α)) (d : α) (k : Nat) (v : α) : tget (tset t d k v) d k = v := by
  unfold tset; split
  · subst_vars; simp
  · simp

/-- A write leaves every other index as it was. -/
theorem tget_tset_other [DecidableEq α] (t : List (Nat × α)) (e d : α) (k j : Nat) (v : α) (n : j ≠ k) :
    tget (tset t e k v) d j = tget t d j := by
  unfold tset; split
  · exact tget_tdel_other _ _ _ _ n
  · exact tget_tput_other _ _ _ _ _ n

/-! The canonical form. -/

theorem mem_tdel {t : List (Nat × α)} {k : Nat} {x : Nat × α} (h : x ∈ tdel t k) : x ∈ t := (List.mem_filter.mp h).1

theorem mem_tins {t : List (Nat × α)} {k : Nat} {v : α} {x : Nat × α} (h : x ∈ tins t k v) : x = (k, v) ∨ x ∈ t := by
  induction t with
  | nil => simpa [tins] using h
  | cons y r ih =>
    obtain ⟨i, w⟩ := y
    unfold tins at h
    split at h
    · rcases List.mem_cons.mp h with h | h
      · exact .inl h
      · exact .inr h
    · rcases List.mem_cons.mp h with h | h
      · exact .inr (h ▸ List.mem_cons_self)
      · rcases ih h with h | h
        · exact .inl h
        · exact .inr (List.mem_cons_of_mem _ h)

theorem mem_tput {t : List (Nat × α)} {k : Nat} {v : α} {x : Nat × α} (h : x ∈ tput t k v) : x = (k, v) ∨ x ∈ t := by
  rcases mem_tins h with h | h
  · exact .inl h
  · exact .inr (mem_tdel h)

/-- The indexes of a table rise. -/
def Rising (t : List (Nat × α)) : Prop := t.Pairwise fun x y => x.1 < y.1

theorem rising_tdel {t : List (Nat × α)} (k : Nat) (h : Rising t) : Rising (tdel t k) := List.Pairwise.filter _ h

theorem rising_tins {t : List (Nat × α)} (k : Nat) (v : α) (h : Rising t) (n : ∀ x ∈ t, x.1 ≠ k) : Rising (tins t k v) := by
  induction t with
  | nil => simp [tins, Rising]
  | cons y r ih =>
    obtain ⟨i, w⟩ := y
    have hr := List.pairwise_cons.mp h
    have hi : i ≠ k := n (i, w) (by simp)
    unfold tins
    split
    · refine List.pairwise_cons.mpr ⟨?_, h⟩
      intro x hx
      rcases List.mem_cons.mp hx with e | e
      · subst e; assumption
      · exact Nat.lt_trans ‹_› (hr.1 x e)
    · refine List.pairwise_cons.mpr ⟨?_, ih hr.2 fun x hx => n x (List.mem_cons_of_mem _ hx)⟩
      intro x hx
      rcases mem_tins hx with e | e
      · subst e; simp; omega
      · exact hr.1 x e

theorem rising_tput {t : List (Nat × α)} (k : Nat) (v : α) (h : Rising t) : Rising (tput t k v) :=
  rising_tins k v (rising_tdel k h) (absent_tdel t k)

/-- Memory as `Memory.wf` has it: addresses rise and no listed byte is 0. -/
theorem wf_iff (m : List Host.Cell) : Memory.wf m = true ↔ Rising m ∧ ∀ x ∈ m, x.2 ≠ 0 := by
  simp [Memory.wf, Rising]

theorem wf_nil : Memory.wf [] = true := rfl

theorem wf_tset {m : List Host.Cell} (a : Nat) (b : Byte) (h : Memory.wf m) : Memory.wf (tset m 0 a b) := by
  rw [wf_iff] at h ⊢
  unfold tset
  split
  · exact ⟨rising_tdel _ h.1, fun x hx => h.2 x (mem_tdel hx)⟩
  · refine ⟨rising_tput _ _ h.1, fun x hx => ?_⟩
    rcases mem_tput hx with e | e
    · subst e; assumption
    · exact h.2 x e

theorem wf_filter {m : List Host.Cell} (p : Host.Cell → Bool) (h : Memory.wf m) : Memory.wf (m.filter p) := by
  rw [wf_iff] at h ⊢
  exact ⟨List.Pairwise.filter _ h.1, fun x hx => h.2 x (List.mem_filter.mp hx).1⟩

/-- A byte written keeps the form. -/
theorem wf_setByte (d : Dev) (a : Nat) (b : Byte) (h : Memory.wf d.mem) : Memory.wf (d.setByte a b).mem := wf_tset a b h

/-- A value written keeps the form. -/
theorem wf_setBytes (n : Nat) (d : Dev) (a : Nat) (v : Word) (h : Memory.wf d.mem) : Memory.wf (d.setBytes a v n).mem := by
  induction n generalizing d a v with
  | zero => exact h
  | succ n ih => exact ih _ _ _ (wf_setByte d a _ h)

/-- Bytes written keep the form. -/
theorem wf_setByteList (l : List Byte) (d : Dev) (a : Nat) (h : Memory.wf d.mem) : Memory.wf (d.setByteList a l).mem := by
  induction l generalizing d a with
  | nil => exact h
  | cons b r ih => exact ih _ _ (wf_setByte d a b h)

/-- A range cleared keeps the form. -/
theorem wf_clearRange (d : Dev) (a n : Nat) (h : Memory.wf d.mem) : Memory.wf (d.clearRange a n).mem := wf_filter _ h

/-- What a device reset leaves has the form. -/
theorem wf_memAtReset (m : List Host.Cell) (c : RstCause) (h : Memory.wf m) : Memory.wf (memAtReset m c) := by
  unfold memAtReset; split
  · rfl
  · exact wf_filter _ h

theorem wf_mergeTab (l r : List Host.Cell) (hl : Memory.wf l) (hr : ∀ x ∈ r, x.2 ≠ 0) : Memory.wf (mergeTab l r) := by
  unfold mergeTab
  induction r generalizing l with
  | nil => exact hl
  | cons x r ih =>
    refine ih _ ?_ fun y hy => hr y (List.mem_cons_of_mem _ hy)
    rw [wf_iff] at hl ⊢
    refine ⟨rising_tput _ _ hl.1, fun y hy => ?_⟩
    rcases mem_tput hy with e | e
    · subst e; exact hr x (by simp)
    · exact hl.2 y e

/-- The activation of an overlay keeps the form. -/
theorem wf_ucodeCommit (d : Dev) (h : Memory.wf d.mem) : Memory.wf (ucodeCommit d).mem := by
  unfold ucodeCommit
  split
  · exact h
  · rename_i s _
    have key : ∀ (e : Dev) (a : Nat), Memory.wf e.mem → Memory.wf
        (if s.empty = true then e else { e with mem := mergeTab e.mem ((memRange e stagingAddr 0x4800).map fun x => (a + x.1, x.2)) }).mem := by
      intro e a he
      split
      · exact he
      · refine wf_mergeTab _ _ he fun x hx => ?_
        obtain ⟨y, hy, rfl⟩ := List.mem_map.mp hx
        obtain ⟨z, hz, rfl⟩ := List.mem_map.mp hy
        exact ((wf_iff _).mp he).2 z (List.mem_filter.mp hz).1
    show Memory.wf (emit _ _ _ _).mem = true
    exact wf_clearRange _ _ _ (key _ _ (wf_clearRange _ _ _ h))

theorem rising_zip (a : Nat) (l : List Byte) (n : Nat) :
    List.Pairwise (fun x y : Host.Cell => x.1 < y.1) ((l.zipIdx n).map fun x => (a + x.2, x.1)) := by
  induction l generalizing n with
  | nil => simp
  | cons b r ih =>
    simp only [List.zipIdx_cons, List.map_cons, List.pairwise_cons]
    refine ⟨fun x hx => ?_, ih _⟩
    obtain ⟨y, hy, rfl⟩ := List.mem_map.mp hx
    have := List.le_snd_of_mem_zipIdx hy
    simp; omega

/-- A section placed keeps the form. -/
theorem wf_placeBytes (d : Dev) (a : Nat) (l : List Byte) (h : Memory.wf d.mem) : Memory.wf (placeBytes d a l).mem := by
  have h' := (wf_iff _).mp h
  rw [wf_iff]
  refine ⟨?_, ?_⟩
  · unfold Rising placeBytes
    simp only [List.pairwise_append]
    refine ⟨⟨List.Pairwise.filter _ h'.1, List.Pairwise.filter _ (rising_zip a l 0), ?_⟩, List.Pairwise.filter _ h'.1, ?_⟩
    · intro x hx y hy
      have hx' := (List.mem_filter.mp hx).2
      obtain ⟨z, _, rfl⟩ := List.mem_map.mp (List.mem_filter.mp hy).1
      simp at hx' ⊢; omega
    · intro x hx y hy
      have hy' := (List.mem_filter.mp hy).2
      simp at hy'
      rcases List.mem_append.mp hx with hx | hx
      · have hx' := (List.mem_filter.mp hx).2
        simp at hx'; omega
      · obtain ⟨z, hz, rfl⟩ := List.mem_map.mp (List.mem_filter.mp hx).1
        have := List.snd_lt_of_mem_zipIdx hz
        simp; omega
  · intro x hx
    simp only [placeBytes, List.mem_append] at hx
    rcases hx with (hx | hx) | hx
    · exact h'.2 x (List.mem_filter.mp hx).1
    · have := (List.mem_filter.mp hx).2
      simpa using this
    · exact h'.2 x (List.mem_filter.mp hx).1

/-- Reset memory has the form. -/
theorem wf_reset : Memory.wf State.reset.dev.mem = true := rfl

/-- A byte written reads back; every other byte reads as before. -/
theorem byte_setByte (d : Dev) (a b : Nat) (v : Byte) : (d.setByte a v).byte b = if b = a then v else d.byte b := by
  unfold Dev.byte Dev.setByte
  split
  · subst_vars; exact tget_tset_same _ _ _ _
  · exact tget_tset_other _ _ _ _ _ _ ‹_›

/-! Indexed parts of the device, read back. -/

@[simp] theorem core_setCore_same (d : Dev) (c : Nat) (k : Core) : (d.setCore c k).core c = k := tget_tset_same _ _ _ _
theorem core_setCore_other (d : Dev) (c j : Nat) (k : Core) (h : j ≠ c) : (d.setCore c k).core j = d.core j :=
  tget_tset_other _ _ _ _ _ _ h
@[simp] theorem core_updCore_same (d : Dev) (c : Nat) (f : Core → Core) : (d.updCore c f).core c = f (d.core c) := tget_tset_same _ _ _ _
theorem core_updCore_other (d : Dev) (c j : Nat) (f : Core → Core) (h : j ≠ c) : (d.updCore c f).core j = d.core j :=
  tget_tset_other _ _ _ _ _ _ h
@[simp] theorem setCore_setCore (d : Dev) (c : Nat) (k l : Core) : (d.setCore c k).setCore c l = d.setCore c l := by
  simp [Dev.setCore]
@[simp] theorem updCore_updCore (d : Dev) (c : Nat) (f g : Core → Core) : (d.updCore c f).updCore c g = d.updCore c fun k => g (f k) := by
  simp [Dev.updCore]
@[simp] theorem tether_setCore (d : Dev) (c j : Nat) (k : Core) : (d.setCore c k).tether j = d.tether j := rfl
@[simp] theorem tether_updCore (d : Dev) (c j : Nat) (f : Core → Core) : (d.updCore c f).tether j = d.tether j := rfl
@[simp] theorem pen_setPen_same (d : Dev) (p : Nat) (k : Pen) : (d.setPen p k).pen p = k := tget_tset_same _ _ _ _
theorem pen_setPen_other (d : Dev) (p j : Nat) (k : Pen) (h : j ≠ p) : (d.setPen p k).pen j = d.pen j :=
  tget_tset_other _ _ _ _ _ _ h
@[simp] theorem pen_updPen_same (d : Dev) (p : Nat) (f : Pen → Pen) : (d.updPen p f).pen p = f (d.pen p) := tget_tset_same _ _ _ _
theorem pen_updPen_other (d : Dev) (p j : Nat) (f : Pen → Pen) (h : j ≠ p) : (d.updPen p f).pen j = d.pen j :=
  tget_tset_other _ _ _ _ _ _ h
@[simp] theorem port_updPort_same (d : Dev) (i : Nat) (f : Port → Port) : (d.updPort i f).port i = f (d.port i) :=
  tget_tset_same _ _ _ _
theorem port_updPort_other (d : Dev) (i j : Nat) (f : Port → Port) (h : j ≠ i) : (d.updPort i f).port j = d.port j :=
  tget_tset_other _ _ _ _ _ _ h
@[simp] theorem unit_setUnit_same (d : Dev) (u : UnitId) (r : UnitRec) : (d.setUnit u r).unit u = r := tget_tset_same _ _ _ _
theorem unit_setUnit_other (d : Dev) (u x : UnitId) (r : UnitRec) (h : unitCode x ≠ unitCode u) : (d.setUnit u r).unit x = d.unit x :=
  tget_tset_other _ _ _ _ _ _ h
@[simp] theorem chan_updChan_same (d : Dev) (c : Nat) (f : Channel → Channel) : (d.updChan c f).chan c = f (d.chan c) :=
  tget_tset_same _ _ _ _
theorem chan_updChan_other (d : Dev) (c j : Nat) (f : Channel → Channel) (h : j ≠ c) : (d.updChan c f).chan j = d.chan j :=
  tget_tset_other _ _ _ _ _ _ h
@[simp] theorem pwm_updPwm_same (d : Dev) (n : Nat) (f : Pwm → Pwm) : (d.updPwm n f).pwm n = f (d.pwm n) := tget_tset_same _ _ _ _
theorem pwm_updPwm_other (d : Dev) (n j : Nat) (f : Pwm → Pwm) (h : j ≠ n) : (d.updPwm n f).pwm j = d.pwm j :=
  tget_tset_other _ _ _ _ _ _ h

end Sys2Proof.Laws
end

