-- ==== Sys2Proof/Laws/Core.lean ====
section
/-! SUPPORT. What an instruction of a core leaves once it executes: the checks it passes, and the stack instructions as one. -/
namespace Sys2Proof.Laws

open Sys2Proof.Machine Sys2Proof.Safety

/-! The fetch counts beats and changes nothing else of the core. -/

theorem charge_core (d : Dev) (f : Option Nat) (n : Nat) (k : MClass) (a i : Nat) : (charge d f n k a).core i = d.core i := by
  cases f <;> rfl

theorem charge_pen (d : Dev) (f : Option Nat) (n : Nat) (k : MClass) (a p : Nat) : (charge d f n k a).pen p = d.pen p := by
  cases f <;> rfl

theorem fetched_core (d : Dev) (c : Fin 32) (n : Nat) : ∃ l, (fetched d c.val n).core c.val = { d.core c.val with cnt := l } := by
  unfold fetched
  simp only
  split
  · exact ⟨_, rfl⟩
  · exact ⟨_, by rw [charge_core, core_updCore_same]; rfl⟩

theorem fetched_pen (d : Dev) (c n p : Nat) : (fetched d c n).pen p = d.pen p := by
  unfold fetched
  simp only
  split
  · rfl
  · rw [charge_pen]; rfl

theorem fetched_tether (d : Dev) (c n x : Nat) : (fetched d c n).tether x = d.tether x := by simp only [Dev.tether, fetched_pen]

/-- Clean cells are fetched without an effect. -/
theorem fetchCells_clean {c : Nat} {d : Dev} (n : Nat) (a : Word)
    (h : ∀ i < n, eccOf d (absAddr c (a + toWord (2 * i)).toNat) = 0) : fetchCells n d c a = (d, none) := by
  induction n generalizing a with
  | zero => rfl
  | succ n ih =>
    have h0 := h 0 (Nat.succ_pos n)
    simp only [Nat.mul_zero, toWord, BitVec.add_zero] at h0
    simp only [fetchCells, memRead, h0, ite_self]
    refine ih _ fun i hi => ?_
    have := h (i + 1) (Nat.succ_lt_succ hi)
    rwa [show a + toWord (2 * (i + 1)) = a + 2 + toWord (2 * i) by
      simp only [toWord, Nat.mul_succ, BitVec.ofNat_add, BitVec.add_assoc, BitVec.add_comm (BitVec.ofNat 32 (2 * i))]
      rfl] at this

/-- An instruction that executes is its body on its own words, the fetch counted. -/
theorem runInstr_executes {c : Fin 32} {q : Cond} {d : Dev} {i : Insn} (h : executes d c q i.syl = true) :
    runInstr c.val q i d = execute (fetched d c.val i.syl.length) c.val i (i.words q) := by
  simp only [executes, reaches, fetchClean, dispatches, Bool.and_eq_true, Bool.not_eq_true', Option.isNone_iff_eq_none, List.all_eq_true,
    List.mem_range, beq_iff_eq] at h
  obtain ⟨⟨⟨⟨⟨h1, h2, h3⟩, ⟨h4, _⟩, _⟩, h5⟩, h6⟩, h7⟩ := h
  obtain ⟨l, hl⟩ := fetched_core d c i.syl.length
  have hq : condMet ((fetched d c.val i.syl.length).core c.val) q = true := by rw [hl]; cases q <;> exact h7
  have hr : ((fetched d c.val i.syl.length).core c.val).rpt = false := by rw [hl]; exact h5
  have hs : ((fetched d c.val i.syl.length).core c.val).rptSquash = false := by rw [hl]; exact h6
  simp [runInstr, h1, h2, fetchCells_clean _ _ h3, decoded, hq, Insn.entry, fetched_pen, hr, hs, -List.headD_eq_head?_getD]
  exact fun e => absurd (h4.symm.trans e) (by decide)

/-- No save is due: the use of extended state has no effect of its own. -/
theorem extUse_ready {d : Dev} {c : Nat} (h : extReady d c = true) : extUse c d = .ok () d := by
  simp only [extReady, Bool.or_eq_true, Bool.not_eq_true', beq_iff_eq] at h
  unfold extUse
  by_cases t : d.tether c = true <;> by_cases l : (d.core c).lvl = 0 <;> by_cases x : (d.core c).xs = true <;>
    simp_all [bind, EStateM.bind, get, getThe, MonadStateOf.get, EStateM.get, pure, EStateM.pure]

theorem extReady_begun (d : Dev) (c : Fin 32) (n : Nat) : extReady (begun n c d) c.val = extReady d c.val := by
  obtain ⟨l, hl⟩ := fetched_core d c n
  simp [extReady, begun, Core.begin, fetched_tether, hl]

/-- A dispatch entry that `executes` finds in order lets the body run. -/
theorem dispatched_executes {c : Fin 32} {q : Cond} {d : Dev} {i : Insn} (h : executes d c q i.syl = true) :
    dispatched i c.val (begun i.syl.length c d) = i.run c.val (begun i.syl.length c d) := by
  simp only [executes, reaches, dispatches, Bool.and_eq_true, Bool.or_eq_true, Bool.not_eq_true'] at h
  obtain ⟨⟨⟨⟨_, ⟨_, hv⟩, he⟩, _⟩, _⟩, _⟩ := h
  have hp : (begun i.syl.length c d).pen (penOf c.val) = d.pen (penOf c.val) := fetched_pen d c.val i.syl.length (penOf c.val)
  unfold dispatched
  simp only [bind, EStateM.bind, get, getThe, MonadStateOf.get, EStateM.get, hp, Insn.entry, need, hv, if_true, pure, EStateM.pure]
  by_cases e : (csHalf (d.pen (penOf c.val)).cs (0x10000 + 2 * dispatchIndex (i.syl.headD 0))).testBit 14 = true
  · have hx : extReady (begun i.syl.length c d) c.val = true := by
      rw [extReady_begun]; exact he.resolve_left (by rw [e]; decide)
    simp only [e, if_true, EStateM.bind, extUse_ready hx]
  · simp only [e, Bool.false_eq_true, if_false]

/-- An instruction whose body ends well leaves what the body leaves, with its cycles. -/
theorem run_body {c : Fin 32} {q : Cond} {d e : Dev} {i : Insn} (h : executes d c q i.syl = true)
    (hr : i.run c.val (begun i.syl.length c d) = .ok () e) : runInstr c.val q i d = ended i.cyc i.ld c e := by
  rw [runInstr_executes h]
  unfold execute
  rw [← dispatched_executes h] at hr
  unfold begun at hr
  rw [hr]
  rfl

/-- An instruction whose body raises an exception before it has changed more than its own core. -/
theorem run_trap {c : Fin 32} {q : Cond} {d : Dev} {k : Core} {i : Insn} {x : Exc} (h : executes d c q i.syl = true)
    (hr : i.run c.val (begun i.syl.length c d) = .error (.exc x) ((fetched d c.val i.syl.length).setCore c.val k)) (hx : x.cause ≠ 0x10) :
    runInstr c.val q i d = instrExc ((fetched d c.val i.syl.length).setCore c.val ((fetched d c.val i.syl.length).core c.val)) c.val x
      (i.words q) := by
  rw [runInstr_executes h]
  unfold execute
  rw [← dispatched_executes h] at hr
  unfold begun at hr
  rw [hr]
  have e : (x.cause == 0x10) = false := beq_false_of_ne hx
  simp only [e, Bool.false_eq_true, if_false, setCore_setCore]

/-- A cache that holds the cells needs no fill. -/
theorem fillData_ready {c n m : Nat} {d : Dev} (h : n ≤ (d.core c).bank.data.length) : fillData m c n d = .ok () d := by
  cases m with
  | zero => rfl
  | succ m => simp [fillData, getCore, bind, EStateM.bind, get, getThe, MonadStateOf.get, EStateM.get, pure, EStateM.pure, h]

/-- A cache with room needs no spill. -/
theorem spillData_ready {c n m : Nat} {d : Dev} (h : (d.core c).bank.data.length ≤ n) : spillData m c n d = .ok () d := by
  cases m with
  | zero => rfl
  | succ m => simp [spillData, getCore, bind, EStateM.bind, get, getThe, MonadStateOf.get, EStateM.get, pure, EStateM.pure, h]

/-- The checks of a ready stack pass without an effect. -/
theorem prepare_ready {c n m : Nat} {d : Dev} (h : stackReady d c n m = true) : prepare c n m d = .ok () d := by
  simp only [stackReady, Bool.and_eq_true, decide_eq_true_eq] at h
  obtain ⟨h1, h2⟩ := h
  by_cases t : d.tether c = true
  · simp only [t, if_true, decide_eq_true_eq] at h2 h1
    simp [prepare, need, bind, EStateM.bind, get, getThe, MonadStateOf.get, EStateM.get, pure, EStateM.pure, t, h1, h2]
  · simp [t] at h2 h1
    simp [prepare, need, bind, EStateM.bind, get, getThe, MonadStateOf.get, EStateM.get, pure, EStateM.pure, t, h1,
      fillData_ready h2.1, spillData_ready h2.2]

/-! The start of an instruction changes neither its stack nor what it sees of it. -/

theorem stackReady_begun (d : Dev) (c : Fin 32) (n a b : Nat) : stackReady (begun n c d) c.val a b = stackReady d c.val a b := by
  obtain ⟨l, hl⟩ := fetched_core d c n
  unfold stackReady begun
  rw [core_updCore_same, tether_updCore, fetched_tether, hl]
  rfl

theorem view_begun (d : Dev) (c : Fin 32) (n : Nat) : ((begun n c d).core c.val).view = (d.core c.val).view := by
  obtain ⟨l, hl⟩ := fetched_core d c n
  unfold begun
  rw [core_updCore_same, hl]
  rfl

/-- An instruction on the stack alone, with the stack ready, does its stack effect and takes its cycles. -/
theorem run_stack {i : Insn} {n m : Nat} {f} {c : Fin 32} {q : Cond} {d : Dev} (hi : i.run = stackOp n m f) (hl : i.ld = false)
    (h : executes d c q i.syl = true) (h2 : stackReady d c.val n m = true) :
    runInstr c.val q i d = ran i.syl.length i.cyc (fun k => k.apply (d.tether c.val) n f) c d := by
  have hr : stackReady (begun i.syl.length c d) c.val n m = true := by rw [stackReady_begun]; exact h2
  rw [run_body h (e := (begun i.syl.length c d).setCore c.val (((begun i.syl.length c d).core c.val).apply (d.tether c.val) n f)) ?_]
  · simp [ran, hl, ended, begun, Dev.updCore]
  · rw [hi]
    simp only [stackOp, bind, EStateM.bind, prepare_ready hr, get, getThe, MonadStateOf.get, EStateM.get, set, MonadStateOf.set,
      EStateM.set]
    simp [begun, fetched_tether]

theorem words_length (i : Insn) (q : Cond) : (i.words q).length = i.syl.length := by
  unfold Insn.words; split <;> simp_all

end Sys2Proof.Laws
end

