-- ==== Sys2Proof/Laws/Verb.lean ====
section
/-! SUPPORT. What a Brenex command and a register write leave once they are let through: each once for every verb and register. -/
namespace Sys2Proof.Laws

open Sys2Proof.Machine Sys2Proof.Safety

/-- A row that is heard runs its verb on the device once its line has arrived. -/
theorem row_heard {o : Via} {f : Dev → Dev} {d : Dev} (h : heard o d = true) : row o f d = f (arrived o d) := by
  cases o <;> simp_all [row, heard, arrived]

/-- The same for a row that reaches the OTP. -/
theorem rowS_heard {o : Via} {f : State → State} {s : State} (h : heard o s.dev = true) :
    rowS o f s = f { s with dev := arrived o s.dev } := by
  cases o <;> simp_all [rowS, heard, arrived]

theorem allowed_heard {o : Via} {role : Role} {us : List UnitId} {d : Dev} (h : allowed o role us d = true) : heard o d = true := by
  simp only [allowed, Bool.and_eq_true] at h; exact h.1

theorem allowed_gate {o : Via} {role : Role} {us : List UnitId} {d : Dev} (h : allowed o role us d = true) :
    gate (arrived o d) o role us = none := by
  simp only [allowed, Bool.and_eq_true, Option.isNone_iff_eq_none] at h; exact h.2

/-- A verb that is let through answers what its body gives. -/
theorem row_verb {o : Via} {role : Role} {us : List UnitId} {g : Dev → VRes} {d : Dev} (h : allowed o role us d = true) :
    row o (verb o role us g) d = reply o (g (arrived o d)) := by
  rw [row_heard (allowed_heard h)]; unfold verb; rw [allowed_gate h]

/-- A verb that is stopped answers what stopped it. -/
theorem denies_verb {i : Via → Instr} {role : Role} {us : List UnitId} {g : Via → Dev → VRes}
    (h : ∀ o s, exec (i o) s = lift (row o (verb o role us (g o))) s) : Denies i role us := by
  intro o s e a b
  rw [h, lift_eq, row_heard a]; unfold verb; rw [b]; rfl

/-- A verb whose body shows data is a report. -/
theorem reports_verb {i : Via → Instr} {role : Role} {us : List UnitId} {g : Via → Dev → List String}
    (h : ∀ o s, exec (i o) s = lift (row o (verb o role us fun d => vData d (g o d))) s) : Reports i role us := by
  refine ⟨denies_verb h, fun o s a => ?_⟩
  exact ⟨g o (arrived o s.dev), by rw [h, lift_eq, row_verb a]; rfl⟩

/-- A verb whose body shows data where `pre` holds. -/
theorem reports_when {i : Via → Instr} {role : Role} {us : List UnitId} {pre : Dev → Bool} {g : Via → Dev → VRes}
    (h : ∀ o s, exec (i o) s = lift (row o (verb o role us (g o))) s)
    (hg : ∀ o d, pre d = true → ∃ l, g o d = vData d l) : ReportsWhen i role us pre := by
  refine ⟨denies_verb h, fun o s a p => ?_⟩
  obtain ⟨l, e⟩ := hg o _ p
  exact ⟨l, by rw [h, lift_eq, row_verb a, e]; rfl⟩

/-- A verb whose body, where `pre` holds, is answered `ok`. -/
theorem does_verb {i : Via → Instr} {role : Role} {us : List UnitId} {g : Via → Dev → VRes} {pre : Via → Dev → Bool} {f : Via → Dev → Dev}
    (h : ∀ o s, exec (i o) s = lift (row o (verb o role us (g o))) s)
    (hg : ∀ o d, pre o d = true → g o d = (f o d, some ([], okS))) : Does i role us pre f := by
  refine ⟨denies_verb h, fun o s a p => ?_⟩
  rw [h, lift_eq, row_verb a, hg o _ p]; rfl

/-! The arbiter. -/

/-- A settled unit passes the arbiter's gate without a generation. -/
theorem arbGate_settled {d : Dev} {u : UnitId} (h : settled d u = true) : arbGate d u none = (d, .ok) := by
  simp only [settled, Bool.and_eq_true, bne_iff_ne, ne_eq, Bool.not_eq_true'] at h
  obtain ⟨⟨⟨⟨h1, h2⟩, h3⟩, h4⟩, h5⟩ := h
  simp [arbGate, h1, h3, h4, h5]

/-- The same with the current generation. -/
theorem arbGate_settled_gen {d : Dev} {u : UnitId} (h : settled d u = true) :
    arbGate d u (some (d.unit u).gen.toNat) = (d, .ok) := by
  simp only [settled, Bool.and_eq_true, bne_iff_ne, ne_eq, Bool.not_eq_true'] at h
  obtain ⟨⟨⟨⟨h1, h2⟩, h3⟩, h4⟩, h5⟩ := h
  simp [arbGate, h1, h3, h4, h5]

/-- A register request on a settled unit is granted where its effect is given. -/
theorem regRequest_settled {d d' : Dev} {src : String} {u : UnitId} {f : Dev → Except RCode Dev} (h : settled d u = true)
    (hf : f d = .ok d') : regRequest d src u none f = (granted src u (fun _ => d') d, .ok) := by
  have h2 : ((d.unit u).st == .fenced) = false := by
    simp only [settled, Bool.and_eq_true, bne_iff_ne, ne_eq] at h
    simpa using h.1.1.1.2
  simp [regRequest, request, arbGate_settled h, h2, hf, granted]

/-- A register write through the arbiter on a settled unit. -/
theorem stWrite_settled {d d' : Dev} {q : Req} {u : UnitId} {r : Dev → Dev} {f : Dev → Except RCode Dev} (h : settled d u = true)
    (hf : f d = .ok d') : stWrite d q u none r f = (granted q.src u (fun _ => d') d, .done) := by
  simp [stWrite, regRequest_settled h hf]

/-- A register write that is not state-bearing. -/
theorem plWrite_open {d : Dev} {u : UnitId} {f : Dev → Dev} (h1 : (d.unit u).st ≠ .absent) (h2 : (d.unit u).st ≠ .fenced) :
    plWrite d u f = (f d, .done) := by
  unfold plWrite
  split <;> simp_all

/-- A verb that sets registers through the arbiter, on a settled unit. -/
theorem vReg_settled {o : Via} {d d' : Dev} {u : UnitId} {f : Dev → Except RCode Dev} (h : settled d u = true) (hf : f d = .ok d') :
    vReg o u none f d = (granted (viaSrc o) u (fun _ => d') d, some ([], okS)) := by
  simp [vReg, regRequest_settled h hf, vCode, codeStatus]

/-- A verb that sets registers of a settled unit is granted and answered `ok`. -/
theorem does_reg {i : Via → Instr} {role : Role} {us : List UnitId} {u : UnitId} {pre : Via → Dev → Bool} {f : Via → Dev → Dev}
    {g : Via → Dev → Except RCode Dev}
    (h : ∀ o s, exec (i o) s = lift (row o (verb o role us fun d => vReg o u none (g o) d)) s)
    (hp : ∀ o d, pre o d = true → settled d u = true) (hg : ∀ o d, pre o d = true → g o d = .ok (f o d)) :
    Does i role us pre (fun o => granted (viaSrc o) u (f o)) := by
  refine does_verb h fun o d p => ?_
  rw [vReg_settled (hp o d p) (hg o d p)]; rfl

/-! Register writes by agents. -/

/-- A register-write command that goes through the arbiter. -/
theorem writes_of {i : Agent → Instr} {may : Req → Dev → Bool} {u : UnitId} {pre : Dev → Bool} {f : Dev → Dev}
    {addr : Agent → Word} {w : Dev → Req → Dev × WRes}
    (h : ∀ a s, exec (i a) s = lift (fun d => writeRow a (addr a) (w d (reqOf d a))) s)
    (hw : ∀ d q, may q d = true → settled d u = true → pre d = true → w d q = (granted q.src u f d, .done)) : Writes i may u pre f := by
  intro a s m st p
  rw [h, lift_eq, hw _ _ m st p]; rfl

/-- A register-write command to a register that is not state-bearing. -/
theorem pokes_of {i : Agent → Instr} {may : Req → Dev → Bool} {u : UnitId} {pre : Dev → Bool} {f : Dev → Dev}
    {addr : Agent → Word} {w : Dev → Req → Dev × WRes}
    (h : ∀ a s, exec (i a) s = lift (fun d => writeRow a (addr a) (w d (reqOf d a))) s)
    (hw : ∀ d q, may q d = true → (d.unit u).st ≠ .absent → (d.unit u).st ≠ .fenced → pre d = true → w d q = (f d, .done)) :
    Pokes i may u pre f := by
  intro a s m h1 h2 p
  rw [h, lift_eq, hw _ _ m h1 h2 p]; rfl

/-! Events. -/

/-- A step of the device. -/
theorem happens_of {i : Instr} {pre : Dev → Bool} {f g : Dev → Dev} (h : ∀ s, exec i s = lift g s) (hg : ∀ d, pre d = true → g d = f d) :
    Happens i pre f := by
  intro s p
  rw [h, lift_eq, hg _ p]

end Sys2Proof.Laws
end

