-- ==== Sys2Proof/WellFormed.lean ====
section
/-! DEFINITION. Which commands a sender can give: numbers within the fields that carry them. A meaning does not rest on
it: what is out of range is answered or ignored as the rules say. -/
namespace Sys2Proof

/-- A generation named in a Brenex command fits the 16 bits of spec/04 R69. -/
def genFits (g : Option Nat) : Bool := match g with | none => true | some n => n < 65536

/-- The sequence number of a generated line fits the 16 bits of spec/03 R48. -/
def viaOk (o : Via) : Bool := match o with | .gen _ q => q < 65536 | _ => true

/-- Supply voltages in hundredths of a volt fit the 16 bits of PMU.VIN (spec/02 R438). -/
def vinFits (v : Nat) : Bool := v < 65536

/-- Temperatures in quarters of a degree fit the 12 signed bits of PMU.TEMPSk (spec/02 R32). -/
def tjFits (t : Int) : Bool := -2048 ≤ t && t < 2048

/-- A converter period delivers one 18-bit sample for each of the 24 channels (spec/17 R376, R377). -/
def samplesFit (xs : List Int) : Bool := xs.length == 24 && xs.all fun x => -131072 ≤ x && x < 131072

/-- The text of a line fits the 512 characters of spec/03 R44. -/
def textFits (t : String) : Bool := t.length ≤ 512

/-- The fields of a command that a checked number goes into. -/
def Instr.wf (i : Instr) : Bool :=
  match i with
  | .powerOnReset up
    => vinFits up.vin
  | .brownOutReset vin | .overVoltageReset vin | .shedStepApply _ _ vin
    => vinFits vin
  | .overTemperatureReset _ tj | .thermWarn _ tj | .thermTrip _ tj
    => tjFits tj
  | .pinReset | .tileCommitWindowExpiry | .shedDrainTimeout | .s5SaveCopy | .clkFail _ | .pllRelock | .lineBreak _
    | .rtcSecondTick | .wakeFromIdle _ | .wakeFromRetain _ _ | .wakeFromSpore _ | .powerDrainComplete | .powerDrainTimeout
    | .powerStateEntryComplete | .pmuCmdRun _ _ | .pmuCmdSlow _ _ | .pmuCmdIdle _ _ | .pmuCmdRetain _ _ | .pmuCmdSpore _ _
    | .pmuCmdOff _ _ | .pmuWakeWrite _ _ | .pmuRestoreWrite _ _ | .lwatchWrite _ _ | .keepafeWrite _ _ | .keepportWrite _ _
    | .keepdmaWrite _ _ _ | .s5RegionWrite _ _ _ | .characterReceived _ _ _ | .typedLine _ | .generatedLine _ | .eventTransmit _
    | .authBlockExpiry _ | .sessionTimeout _ | .mgCfgWrite _ _ _ | .mgEvmaskWrite _ _ _ | .ready | .stateReqOn _ _ _
    | .stateReqOff _ _ _ | .stateReqFence _ _ _ | .stateReqUnfence _ _ _ | .stateReqReset _ _ _ | .stateReqAdoptMgmt _ _ _
    | .stateReqAdoptData _ _ _ | .shadowSweep _ _ | .unitResetComplete _ | .resetTimeout _ | .nop _ _ | .dup _ _ | .drop _ _
    | .swap _ _ | .overTos _ _ | .rot _ _ | .nip _ _ | .tuck _ _ | .twoDup _ _ | .twoDrop _ _ | .rpush _ _ | .rpop _ _
    | .rcopy _ _ | .add _ _ | .sub _ _ | .adc _ _ | .sbc _ _ | .and _ _ | .or _ _ | .xor _ _ | .not _ _ | .neg _ _ | .inc _ _
    | .dec _ _ | .cmp _ _ | .tst _ _ | .shl _ _ | .shr _ _ | .sar _ _ | .rol _ _ | .ror _ _ | .min _ _ | .max _ _ | .minu _ _
    | .maxu _ _ | .sexb _ _ | .sexh _ _ | .zexb _ _ | .zexh _ _ | .clz _ _ | .popc _ _ | .bswap _ _ | .addi _ _ _ | .subi _ _ _
    | .andi _ _ _ | .ori _ _ _ | .xori _ _ _ | .cmpi _ _ _ | .litS _ _ _ | .lit _ _ _ | .mul _ _ | .mulu _ _ | .mac _ _
    | .macu _ _ | .div _ _ | .divu _ _ | .rem _ _ | .remu _ _ | .par8 _ _ | .par32 _ _ | .brev8 _ _ | .brev16 _ _ | .brev32 _ _
    | .crcb _ _ | .ldB _ _ _ _ | .ldBu _ _ _ _ | .ldH _ _ _ _ | .ldHu _ _ _ _ | .ldW _ _ _ _ | .stB _ _ _ _ | .stH _ _ _ _
    | .stW _ _ _ _ | .loadDataReturn _ _ | .stmW _ _ _ _ _ | .stmD _ _ _ _ _ | .ldmW _ _ _ _ | .ldmD _ _ _ _ | .brS _ _ _
    | .br _ _ _ | .call _ _ _ | .ret _ _ | .jmpt _ _ | .callt _ _ | .enter _ _ | .leave _ _ | .stkwb _ _ | .sync _ _ | .wait _ _
    | .gate _ _ _ | .gret _ _ | .eret _ _ | .reti _ _ | .mfs _ _ _ | .mts _ _ _ | .rpt _ _ | .movs _ _ _ _ | .fills _ _ _ _
    | .cmps _ _ _ _ | .scans _ _ _ _ | .crcs _ _ _ | .pars _ _ _ | .customOpcode _ _ _ | .spillCell _ | .storeIssue _
    | .storeAccept _ | .postedStoreError _ | .exceptionEntry _ _ | .interruptEntry _ | .dispatchDecision _ | .taskSwitch _
    | .persselWrite _ _ _ | .scrubSteal _ | .scrubPassLate _ | .ucodeParity _ _ | .ucodeGolden _ _ | .goldenReload _
    | .csInjGo _ _ _ | .machineCheck _ _ _ | .hookTimeout | .lockstepMismatch | .rationTick _ | .estimateUpdate _ _ _
    | .sliceExpiry _ | .bindingWake _ _ | .ratWakeWrite _ _ _ | .slotCtlWrite _ _ _ _ | .ratXferWrite _ _ _ | .ratCtlWrite _ _ _
    | .pinInputEdge _ _ | .pendingSet _ | .limiterTick _ | .evrDoorWrite _ _ | .evrSetWrite _ _ _ _ | .evrMapWrite _ _ _
    | .evrLineWrite _ _ _ _ | .psetWrite _ _ _ _ | .pclrWrite _ _ _ _ | .msetWrite _ _ _ _ | .mclrWrite _ _ _ _ | .pendRead _ _
    | .pendWrite _ _ _ _ | .maskWrite _ _ _ _ | .asyncLatchCapture _ _ | .haltInputActive _ | .haltInputInactive _
    | .haltForceWrite _ _ | .haltClrWrite _ _ | .haltLockWrite _ _ | .haltCfgMismatch _ | .mycWindowWrite _ _ _ _ _
    | .mycShareWrite _ _ _ | .mycInjGo _ _ | .creditPeriod | .requestPromotion _ | .remoteAccessPriority _ | .eccPatrolRead
    | .eccCorrReport | .memoryInitComplete | .dmaCmdKick _ _ _ | .dmaCmdStop _ _ _ | .dmaOwnWrite _ _ _ | .dmaCtlWrite _ _ _
    | .dmaReqWrite _ _ _ | .dmaMarkWrite _ _ _ | .dmaRequestAssert _ | .dmaRequestWithdraw _ _ | .descriptorFetch _
    | .dmaBurstStart | .dmaBurstComplete _ | .dmaDescriptorComplete _ | .dmaRetry _ | .tzero _ _ _ | .tld _ _ _ | .tstTile _ _ _
    | .tadd _ _ _ | .tsub _ _ _ | .tmul _ _ _ | .tmin _ _ _ | .tmax _ _ _ | .tmac _ _ _ | .tsumr _ _ _ | .tcvt _ _ _
    | .tlerp _ _ _ | .tileCommit _ | .tileMoveComplete _ | .ttxbWrite _ _ _ | .t1sFrameReceived _ _ _ _ | .gbeFrameReceived _ _ _
    | .canFrameReceived _ _ _ | .uartCharacterReceived _ _ _ _ | .uartBufferClose _ | .bufferRequest _ | .poolAllocRead _
    | .poolFreeWrite _ _ | .rxqRead _ _ | .txqWrite _ _ _ | .txRecordHead _ | .frameTransmitComplete _ | .transmitFailure _
    | .partnerAgeTick | .partnerEvRead _ _ | .ptabAddWrite _ _ | .ptabDelWrite _ _ | .portOwnWrite _ _ _ | .poolFloorWrite _ _ _
    | .poolHdesWrite _ _ _ | .plcaLost _ | .plcaOk _ | .gbeLinkDown _ | .gbeLinkUp _ _ _ | .mdioTransaction _ _ _
    | .mdioComplete _ _ | .canErrorPassive _ _ _ | .canBusOff _ | .canIntegrated _ | .afeReferenceCheck _ | .afeFrameqRead _
    | .afeOwnWrite _ _ | .pwmPeriodStart _ | .pwmSpWrite _ _ _ | .pwmSpqWrite _ _ _ | .pwmCmdResume _ _ | .pwmHalterHold _
    | .pwmBallSample _ _ | .pwmOwnWrite _ _ _ | .pwmPeriodWrite _ _ _ _ | .gpioOutWrite _ _ _ | .gpioOsetWrite _ _ _
    | .gpioOclrWrite _ _ _ | .gpioSnapshot | .gpioSnapqRead _ | .gpioMismatch _ | .haltBallMismatch _ | .bootSequence _
    | .scriptTimeout | .jtagExtest | .registerWrite _ _ _ | .statusLineSent _ | .jtagExtestEnd
    => true
  | .resetRelease vin tj _ | .restoreEligible _ vin tj
    => vinFits vin && tjFits tj
  | .pwr o | .pwrRun o | .pwrSlow o | .pwrIdle o | .pwrRetain o | .pwrSpore o | .pwrOff o | .pwrWake o _ | .pwrArm o _
    | .pwrDisarm o _ | .pwrRestore o _ | .shed o | .shedLastwatch o _ | .shedKeep o _ _ | .shedSave o _ | .clk o | .therm o
    | .rtc o | .rtcSet o _ | .rtcAlarm o _ | .xPwrVmon o | .xPwrSim o _ | .xPwrSimOff o | .xThermSim o _ | .xClkRestore o
    | .xPwrLog o | .login o _ _ | .auth o _ | .logout o | .help o _ | .inv o | .who o | .sess o | .sessEcho o _ | .sessBaud o _ _
    | .sessTimeout o _ | .sessLock o | .sessUnlock o | .ev o | .evSet o _ _ | .log o _ | .xPeek o _ _ | .xBrx o | .xBrxClear o
    | .xSessKill o _ | .unitList o | .unitShow o _ | .resetDevice o | .xState o _ | .xStateLog o | .xStateSimDisagree o _ | .pen o
    | .penShow o _ | .xCore o _ | .xCoreTsb o _ | .xPenHwmClear o _ | .ucode o | .ucodePen o _ | .xUcodeCheck o _
    | .xUcodeLoad o _ _ _ | .xUcodeUnload o _ _ | .xUcodeCancel o | .xUcodePeek o _ _ _ _ | .xUcodeInject o _ _ | .exc o
    | .excPen o _ | .bw o | .xGate o _ _ | .xGateTry o _ _ _ | .xExcInject o _ _ | .xExcClear o _ | .xBwHook o _ | .ration o
    | .rationPen o _ | .rationPenSet o _ _ _ | .rationPenThr o _ _ _ | .rationFoldRate o _ _ | .rationMove o _ _ _ | .task o _
    | .taskWake o _ _ | .taskStop o _ _ | .taskClear o _ _ | .xRationCoef o _ _ | .xRationScale o _ _ | .xRationDerate o _ _ _
    | .xRationRun o _ _ _ | .xRationBoot o _ _ | .xTaskSet o _ _ _ | .xRationBind o _ _ _ | .evr o | .evrFold o _ | .evrSrc o _
    | .evrMap o _ _ _ _ _ | .evrUnmap o _ | .evrLine o _ _ _ | .evrLimit o _ _ _ _ _ | .evrFilter o _ _ | .evrSet o _ _ | .halt o
    | .haltMap o _ _ _ _ | .haltInput o _ _ _ | .haltArm o _ | .haltDisarm o _ | .haltForce o _ | .haltClear o _ | .haltLock o
    | .xEvrRaise o _ | .xEvrRace o _ | .xEvrRaceClear o _ | .xEvrLatch o _ | .xHaltSim o _ _ | .mem o | .memFold o _
    | .memWin o _ _ _ | .myc o | .mycShare o _ _ _ _ | .ecc o | .eccClear o | .xSb o _ | .xEccInject o _ _ | .xEccPatrol o _
    | .xMycPort o _ | .dma o | .dmaShow o _ | .xDmaDesc o _ _ | .xDmaMovers o | .xDmaInject o _ _ | .tile o | .tileShow o _
    | .tileEv o _ _ _ | .tileTctx o _ _ _ | .xTilePeek o _ _ _ _ | .xTileStat o _ | .xTileInject o _ _ | .port o | .portShow o _
    | .portOwn o _ _ | .t1sPlcaCoord o _ _ _ _ | .t1sPlcaFollow o _ _ _ _ | .t1sPlcaOff o _ | .t1sNode o _ _ _
    | .gbeSpeed o _ _ _ _ | .canRate o _ _ _ _ | .canFilter o _ _ _ | .uartCfg o _ _ | .ptab o _ | .ptabAge o _ _
    | .ptabAdd o _ _ _ | .ptabDel o _ | .pool o | .poolFloor o _ _ | .poolHalter o _ | .xPortRegs o _ | .xPtabDump o _
    | .xPoolMap o | .xPortInject o _ _ | .afe o | .afeOwn o _ | .afeRate o _ | .afeCh o _ _ | .afeLoopSet o _ _ _ _ | .pwm o _
    | .pwmOwn o _ _ | .pwmSafe o _ _ _ | .pwmCfg o _ _ | .pwmSet o _ _ | .pwmDither o _ _ | .pwmResume o _ | .gpio o
    | .gpioOwn o _ _ | .gpioDir o _ _ _ _ | .gpioSet o _ | .gpioClr o _ | .gpioSnap o _ | .xAfeLast o | .xAfeTest o _ _
    | .xPwmRegs o _ | .xGpioMism o _ | .boot o | .xBootVerify o _ | .xBootKey o _ _ | .xBootRevoke o _ | .xBootRolekey o _ _ _ _
    | .xBootRolerevoke o _ _ _ | .xBootArb o _ | .xBootLock o | .xBootJtag o _ | .xFlashErase o _ _ | .xFlashWrite o _ _
    => viaOk o
  | .xPoke o _ _ g | .unitOn o _ g | .unitOff o _ g | .fence o _ g | .unfence o _ g | .resetUnit o _ g | .unitAdoptMgmt o _ g
    | .unitAdoptData o _ g | .penPers o _ _ g | .dmaOwn o _ _ g | .dmaCfg o _ _ g | .dmaPace o _ _ _ _ g | .dmaRing o _ _ _ _ g
    | .dmaKick o _ g | .dmaStop o _ g | .dmaClear o _ g
    => viaOk o && genFits g
  | .xCrc o text
    => viaOk o && textFits text
  | .afeConversionPeriod xs
    => samplesFit xs

end Sys2Proof
end

