-- ==== Sys2Proof/Tests/Slice0.lean ====
section
/-! SUPPORT. The model's own tests: a device at work to start from, for each statement a state and operands that meet its hypotheses, ill-formed
terms that the check refuses, and a few single steps with results from the manual. -/
namespace Sys2Proof.Tests

set_option Elab.async false

open Sys2Proof.Machine Sys2Proof.Safety

/-- Unit records of a device at work: every present unit IDLE, cores 0 and 4 ACTIVE. -/
def wUnits (v : Nat) : List (Nat × UnitRec) := allUnits.map fun u =>
  (unitCode u, UnitRec.start (if unitPresent v u then (if u = .core 0 ∨ u = .core 4 then .active else .idle) else .absent))

/-- A core with four data cells, 5 on top, two return entries of its own personality, and its stacks in its own local memory. -/
def wCore (t : Bool) : Core :=
  let b : Bank := { spd := 0x4000, spr := 0x5000, fp := 0x6000, data := [5, 7, 9, 0x2000], rets := if t then [] else [0x200, 0x204],
                    rdepth := if t then 2 else 0, wc := (List.range 16).map fun i => (0x6000 + 4 * i, toWord i), wn := 16, tflg := 0 }
  { Core.reset with
    pc := 0x100, banks := (List.replicate 8 Bank.empty).set 0 b, dbase := 0x4010, rbase := 0x5008, fbase := 0x6000, rs := 0x2000, rd := 0x2100,
    gsbF := 0x8000, gsbK := 0x8100, gsbM := 0x8200, cyc := 10 }

/-- A control store whose base dispatch entries are all valid. -/
def wCs : CStore := { CStore.reset with data := (List.range 640).map fun i => (0x10001 + 2 * i, 0x80) }

/-- A Drove pen 0 and a Tether pen 1, both of fold 0, with handlers at 0x0300. -/
def wPen (t : Bool) : Pen := { Pen.reset 0 with pers := some t, exv := 0x300, exctl := 1, gtb := 0x3000, cs := wCs }

/-- A device at work: a machine session on MGA, every window of fold 0 open, memory with some cells written. -/
def wDev : Dev :=
  let m : FoldMem := { FoldMem.reset with wins := (List.replicate 16 ⟨0, 0⟩).set 0 ⟨0x00000001, 0xFFFFF03F⟩ }
  { Dev.reset with
    phase := .run, units := wUnits 1, mga := { Console.reset with ready := true, role := .machine },
    cores := [(0, wCore false), (4, wCore true)], pens := [(0, wPen false), (1, wPen true)],
    myc := { Myc.reset with folds := Myc.reset.folds.set 0 m },
    mem := [(0x01002000, 0x81), (0x01002001, 0x92), (0x01005000, 0x08), (0x01005001, 0x02), (0x01042000, 0x81), (0x01045000, 0x08),
            (0x01045001, 0x02), (0x10000000, 0x11)] }

/-- The same as a state with an empty queue. -/
def wState : State := { dev := wDev, otp := Otp.blank, pending := [] }

/-- What a command leaves of a state. -/
def after (i : Instr) (s : State) : State := match exec i s with | .next t => t | _ => s


/-- A closed condition that its decision procedure confirms. -/
theorem holds {p : Prop} [Decidable p] (h : decide p = true := by decide +kernel) : p := of_decide_eq_true h

/-- A command answers a next state. -/
abbrev Goes (c : Instr) (s : State) : Prop := ∃ t, exec c s = .next t

def wObs : State := { wState with dev := { wState.dev with mga := { wState.dev.mga with role := .observe } } }
def md (f : Dev → Dev) : State := { wState with dev := f wState.dev }
def mp (f : Pmu → Pmu) : State := md fun d => updPmu d f


namespace Stack

def kC (f : Core → Core) : State := md fun d => (d.updCore 0 f).updCore 4 f
def kB (f : Bank → Bank) : State := kC fun k => k.setBank (f k.bank)
def top (l : List Word) : State := kB fun b => { b with data := l }
def st_0 : State := wState
def st_1 : State := top [0, 7, 9, 0x2000]

theorem witness_StackShuffles (h : Obligations.StackShuffles) :
    Goes (.nop 0 .always) st_0 ∧
    Goes (.dup 0 .always) st_0 ∧
    Goes (.drop 0 .always) st_0 ∧
    Goes (.swap 0 .always) st_0 ∧
    Goes (.overTos 0 .always) st_0 ∧
    Goes (.rot 0 .always) st_0 ∧
    Goes (.nip 0 .always) st_0 ∧
    Goes (.tuck 0 .always) st_0 ∧
    Goes (.twoDup 0 .always) st_0 ∧
    Goes (.twoDrop 0 .always) st_0 :=
  ⟨⟨_, h.1 0 .always st_0 holds holds⟩,
   ⟨_, h.2.1 0 .always st_0 holds holds⟩,
   ⟨_, h.2.2.1 0 .always st_0 holds holds⟩,
   ⟨_, h.2.2.2.1 0 .always st_0 holds holds⟩,
   ⟨_, h.2.2.2.2.1 0 .always st_0 holds holds⟩,
   ⟨_, h.2.2.2.2.2.1 0 .always st_0 holds holds⟩,
   ⟨_, h.2.2.2.2.2.2.1 0 .always st_0 holds holds⟩,
   ⟨_, h.2.2.2.2.2.2.2.1 0 .always st_0 holds holds⟩,
   ⟨_, h.2.2.2.2.2.2.2.2.1 0 .always st_0 holds holds⟩,
   ⟨_, h.2.2.2.2.2.2.2.2.2 0 .always st_0 holds holds⟩⟩

theorem witness_SumsAndDifferences (h : Obligations.SumsAndDifferences) :
    Goes (.add 0 .always) st_0 ∧
    Goes (.sub 0 .always) st_0 ∧
    Goes (.adc 0 .always) st_0 ∧
    Goes (.sbc 0 .always) st_0 ∧
    Goes (.neg 0 .always) st_0 ∧
    Goes (.inc 0 .always) st_0 ∧
    Goes (.dec 0 .always) st_0 ∧
    Goes (.cmp 0 .always) st_0 ∧
    Goes (.tst 0 .always) st_0 :=
  ⟨⟨_, h.1 0 .always st_0 holds holds⟩,
   ⟨_, h.2.1 0 .always st_0 holds holds⟩,
   ⟨_, h.2.2.1 0 .always st_0 holds holds⟩,
   ⟨_, h.2.2.2.1 0 .always st_0 holds holds⟩,
   ⟨_, h.2.2.2.2.1 0 .always st_0 holds holds⟩,
   ⟨_, h.2.2.2.2.2.1 0 .always st_0 holds holds⟩,
   ⟨_, h.2.2.2.2.2.2.1 0 .always st_0 holds holds⟩,
   ⟨_, h.2.2.2.2.2.2.2.1 0 .always st_0 holds holds⟩,
   ⟨_, h.2.2.2.2.2.2.2.2 0 .always st_0 holds holds⟩⟩

theorem witness_LogicAndExtension_1 (h : Obligations.LogicAndExtension) :
    Goes (.and 0 .always) st_0 ∧
    Goes (.or 0 .always) st_0 ∧
    Goes (.xor 0 .always) st_0 ∧
    Goes (.not 0 .always) st_0 ∧
    Goes (.min 0 .always) st_0 ∧
    Goes (.max 0 .always) st_0 ∧
    Goes (.minu 0 .always) st_0 ∧
    Goes (.maxu 0 .always) st_0 ∧
    Goes (.sexb 0 .always) st_0 ∧
    Goes (.sexh 0 .always) st_0 ∧
    Goes (.zexb 0 .always) st_0 ∧
    Goes (.zexh 0 .always) st_0 :=
  ⟨⟨_, h.1 0 .always st_0 holds holds⟩,
   ⟨_, h.2.1 0 .always st_0 holds holds⟩,
   ⟨_, h.2.2.1 0 .always st_0 holds holds⟩,
   ⟨_, h.2.2.2.1 0 .always st_0 holds holds⟩,
   ⟨_, h.2.2.2.2.1 0 .always st_0 holds holds⟩,
   ⟨_, h.2.2.2.2.2.1 0 .always st_0 holds holds⟩,
   ⟨_, h.2.2.2.2.2.2.1 0 .always st_0 holds holds⟩,
   ⟨_, h.2.2.2.2.2.2.2.1 0 .always st_0 holds holds⟩,
   ⟨_, h.2.2.2.2.2.2.2.2.1 0 .always st_0 holds holds⟩,
   ⟨_, h.2.2.2.2.2.2.2.2.2.1 0 .always st_0 holds holds⟩,
   ⟨_, h.2.2.2.2.2.2.2.2.2.2.1 0 .always st_0 holds holds⟩,
   ⟨_, h.2.2.2.2.2.2.2.2.2.2.2.1 0 .always st_0 holds holds⟩⟩

theorem witness_LogicAndExtension_2 (h : Obligations.LogicAndExtension) :
    Goes (.clz 0 .always) st_0 ∧
    Goes (.popc 0 .always) st_0 ∧
    Goes (.bswap 0 .always) st_0 :=
  ⟨⟨_, h.2.2.2.2.2.2.2.2.2.2.2.2.1 0 .always st_0 holds holds⟩,
   ⟨_, h.2.2.2.2.2.2.2.2.2.2.2.2.2.1 0 .always st_0 holds holds⟩,
   ⟨_, h.2.2.2.2.2.2.2.2.2.2.2.2.2.2 0 .always st_0 holds holds⟩⟩

theorem witness_ShiftsAndRotates (h : Obligations.ShiftsAndRotates) :
    Goes (.shl 0 .always) st_0 ∧
    Goes (.shr 0 .always) st_0 ∧
    Goes (.sar 0 .always) st_0 ∧
    Goes (.rol 0 .always) st_0 ∧
    Goes (.ror 0 .always) st_0 :=
  ⟨⟨_, h.1 0 .always st_0 holds holds⟩,
   ⟨_, h.2.1 0 .always st_0 holds holds⟩,
   ⟨_, h.2.2.1 0 .always st_0 holds holds⟩,
   ⟨_, h.2.2.2.1 0 .always st_0 holds holds⟩,
   ⟨_, h.2.2.2.2 0 .always st_0 holds holds⟩⟩

theorem witness_ImmediatesAndLiterals (h : Obligations.ImmediatesAndLiterals) :
    Goes (.addi 0 .always (.imm16 0x8001)) st_0 ∧
    Goes (.subi 0 .always (.imm16 0x8001)) st_0 ∧
    Goes (.andi 0 .always (.imm16 0x8001)) st_0 ∧
    Goes (.ori 0 .always (.imm16 0x8001)) st_0 ∧
    Goes (.xori 0 .always (.imm16 0x8001)) st_0 ∧
    Goes (.cmpi 0 .always (.imm16 0x8001)) st_0 ∧
    Goes (.lit 0 .always (.imm16 0x8001)) st_0 ∧
    Goes (.litS 0 .always 0#9) st_0 :=
  ⟨⟨_, (h (.imm16 0x8001)).1 0 .always st_0 holds holds⟩,
   ⟨_, (h (.imm16 0x8001)).2.1 0 .always st_0 holds holds⟩,
   ⟨_, (h (.imm16 0x8001)).2.2.1 0 .always st_0 holds holds⟩,
   ⟨_, (h (.imm16 0x8001)).2.2.2.1 0 .always st_0 holds holds⟩,
   ⟨_, (h (.imm16 0x8001)).2.2.2.2.1 0 .always st_0 holds holds⟩,
   ⟨_, (h (.imm16 0x8001)).2.2.2.2.2.1 0 .always st_0 holds holds⟩,
   ⟨_, (h (.imm16 0x8001)).2.2.2.2.2.2.1 0 .always st_0 holds holds⟩,
   ⟨_, (h (.imm16 0x8001)).2.2.2.2.2.2.2 0#9 0 .always st_0 holds holds⟩⟩

theorem witness_Multiplies (h : Obligations.Multiplies) :
    Goes (.mul 0 .always) st_0 ∧
    Goes (.mulu 0 .always) st_0 ∧
    Goes (.mac 0 .always) st_0 ∧
    Goes (.macu 0 .always) st_0 :=
  ⟨⟨_, h.1 0 .always st_0 holds holds⟩,
   ⟨_, h.2.1 0 .always st_0 holds holds⟩,
   ⟨_, h.2.2.1 0 .always st_0 holds holds⟩,
   ⟨_, h.2.2.2 0 .always st_0 holds holds⟩⟩

theorem witness_Divides (h : Obligations.Divides) :
    Goes (.div 0 .always) st_0 ∧
    Goes (.divu 0 .always) st_0 ∧
    Goes (.rem 0 .always) st_0 ∧
    Goes (.remu 0 .always) st_0 ∧
    Goes (.div 0 .always) st_1 ∧
    Goes (.divu 0 .always) st_1 ∧
    Goes (.rem 0 .always) st_1 ∧
    Goes (.remu 0 .always) st_1 :=
  ⟨⟨_, h.1.1 0 .always st_0 holds holds⟩,
   ⟨_, h.1.2.1 0 .always st_0 holds holds⟩,
   ⟨_, h.1.2.2.1 0 .always st_0 holds holds⟩,
   ⟨_, h.1.2.2.2 0 .always st_0 holds holds⟩,
   ⟨_, h.2.1 0 .always st_1 holds holds⟩,
   ⟨_, h.2.2.1 0 .always st_1 holds holds⟩,
   ⟨_, h.2.2.2.1 0 .always st_1 holds holds⟩,
   ⟨_, h.2.2.2.2 0 .always st_1 holds holds⟩⟩

theorem witness_ParityAndCrc (h : Obligations.ParityAndCrc) :
    Goes (.par8 0 .always) st_0 ∧
    Goes (.par32 0 .always) st_0 ∧
    Goes (.brev8 0 .always) st_0 ∧
    Goes (.brev16 0 .always) st_0 ∧
    Goes (.brev32 0 .always) st_0 ∧
    BitVec.getLsbD (bitRev 8 0#32) (0 / 8 * 8 + (8 - 1 - 0 % 8)) = BitVec.getLsbD 0#32 0 ∧
    Goes (.crcb 0 .always) st_0 :=
  ⟨⟨_, h.1 0 .always st_0 holds holds⟩,
   ⟨_, h.2.1 0 .always st_0 holds holds⟩,
   ⟨_, h.2.2.1 0 .always st_0 holds holds⟩,
   ⟨_, h.2.2.2.1 0 .always st_0 holds holds⟩,
   ⟨_, h.2.2.2.2.1 0 .always st_0 holds holds⟩,
   h.2.2.2.2.2.1 8 holds 0#32 0 holds,
   ⟨_, h.2.2.2.2.2.2 0 .always st_0 holds holds⟩⟩

end Stack

namespace Mem

def kC (f : Core → Core) : State := md fun d => (d.updCore 0 f).updCore 4 f
def kB (f : Bank → Bank) : State := kC fun k => k.setBank (f k.bank)
def top (l : List Word) : State := kB fun b => { b with data := l }
def st_0 : State := wState
def st_2 : State := top [0x10000000, 7, 9, 5]
def st_3 : State := top [0x90000000, 7, 9, 5]
def st_4 : State := { top [0x10000000, 7, 9, 5] with dev := { (top [0x10000000, 7, 9, 5]).dev with myc := Myc.reset } }

theorem witness_Loads (h : Obligations.Loads) :
    Goes (.ldB 0 .always .tos (.short 3)) st_0 ∧
    Goes (.ldB 0 .always .tos (.short 3)) st_2 ∧
    Goes (.ldBu 0 .always .tos (.short 3)) st_0 ∧
    Goes (.ldBu 0 .always .tos (.short 3)) st_2 ∧
    Goes (.ldH 0 .always .fp (.ext 0xFFFFFFFE)) st_0 ∧
    Goes (.ldH 0 .always .tos (.short 3)) st_2 ∧
    Goes (.ldHu 0 .always .fp (.ext 0xFFFFFFFE)) st_0 ∧
    Goes (.ldHu 0 .always .tos (.short 3)) st_2 ∧
    Goes (.ldW 0 .always .gp (.short 3)) st_0 ∧
    Goes (.ldW 0 .always .tos (.short 3)) st_2 :=
  ⟨⟨_, (h.1 .tos (.short 3)).1 0 .always st_0 holds holds⟩,
   ⟨_, (h.1 .tos (.short 3)).2 0 .always st_2 holds holds holds holds⟩,
   ⟨_, (h.2.1 .tos (.short 3)).1 0 .always st_0 holds holds⟩,
   ⟨_, (h.2.1 .tos (.short 3)).2 0 .always st_2 holds holds holds holds⟩,
   ⟨_, (h.2.2.1 .fp (.ext 0xFFFFFFFE)).1 0 .always st_0 holds holds⟩,
   ⟨_, (h.2.2.1 .tos (.short 3)).2 0 .always st_2 holds holds holds holds⟩,
   ⟨_, (h.2.2.2.1 .fp (.ext 0xFFFFFFFE)).1 0 .always st_0 holds holds⟩,
   ⟨_, (h.2.2.2.1 .tos (.short 3)).2 0 .always st_2 holds holds holds holds⟩,
   ⟨_, (h.2.2.2.2 .gp (.short 3)).1 0 .always st_0 holds holds⟩,
   ⟨_, (h.2.2.2.2 .tos (.short 3)).2 0 .always st_2 holds holds holds holds⟩⟩

theorem witness_Stores (h : Obligations.Stores) :
    Goes (.stB 0 .always .tos (.short 3)) st_0 ∧
    Goes (.stB 0 .always .tos (.short 3)) st_2 ∧
    Goes (.stH 0 .always .fp (.ext 0xFFFFFFFE)) st_0 ∧
    Goes (.stH 0 .always .tos (.short 3)) st_2 ∧
    Goes (.stW 0 .always .gp (.short 3)) st_0 ∧
    Goes (.stW 0 .always .tos (.short 3)) st_2 ∧
    Dev.byte (plainWrite (st_0.dev) 0x01000000 0#32 0) 0x01000000 = Dev.byte (st_0.dev) 0x01000000 :=
  ⟨⟨_, (h.1.1 .tos (.short 3)).1 0 .always st_0 holds holds⟩,
   ⟨_, (h.1.1 .tos (.short 3)).2 0 .always st_2 holds holds⟩,
   ⟨_, (h.1.2.1 .fp (.ext 0xFFFFFFFE)).1 0 .always st_0 holds holds⟩,
   ⟨_, (h.1.2.1 .tos (.short 3)).2 0 .always st_2 holds holds⟩,
   ⟨_, (h.1.2.2 .gp (.short 3)).1 0 .always st_0 holds holds⟩,
   ⟨_, (h.1.2.2 .tos (.short 3)).2 0 .always st_2 holds holds⟩,
   h.2 (st_0.dev) 0x01000000 0#32 0 holds holds 0x01000000 holds⟩

theorem witness_AccessTraps_1 (h : Obligations.AccessTraps) :
    Goes (.ldH 0 .always .tos (.short 3)) st_0 ∧
    Goes (.ldHu 0 .always .tos (.short 3)) st_0 ∧
    Goes (.ldW 0 .always .tos (.short 3)) st_0 ∧
    Goes (.stH 0 .always .tos (.short 3)) st_0 ∧
    Goes (.stW 0 .always .tos (.short 3)) st_0 ∧
    Goes (.ldB 0 .always .tos (.short 3)) st_3 ∧
    Goes (.ldBu 0 .always .tos (.short 3)) st_3 ∧
    Goes (.ldH 0 .always .tos (.short 3)) st_3 ∧
    Goes (.ldHu 0 .always .tos (.short 3)) st_3 ∧
    Goes (.ldW 0 .always .tos (.short 3)) st_3 ∧
    Goes (.stB 0 .always .tos (.short 3)) st_4 ∧
    Goes (.stH 0 .always .tos (.short 3)) st_4 :=
  ⟨⟨_, h.1 .tos (.short 3) 0 .always st_0 holds holds⟩,
   ⟨_, h.2.1 .tos (.short 3) 0 .always st_0 holds holds⟩,
   ⟨_, h.2.2.1 .tos (.short 3) 0 .always st_0 holds holds⟩,
   ⟨_, h.2.2.2.1 .tos (.short 3) 0 .always st_0 holds holds⟩,
   ⟨_, h.2.2.2.2.1 .tos (.short 3) 0 .always st_0 holds holds⟩,
   ⟨_, h.2.2.2.2.2.1 .tos (.short 3) 0 .always st_3 holds holds⟩,
   ⟨_, h.2.2.2.2.2.2.1 .tos (.short 3) 0 .always st_3 holds holds⟩,
   ⟨_, h.2.2.2.2.2.2.2.1 .tos (.short 3) 0 .always st_3 holds holds⟩,
   ⟨_, h.2.2.2.2.2.2.2.2.1 .tos (.short 3) 0 .always st_3 holds holds⟩,
   ⟨_, h.2.2.2.2.2.2.2.2.2.1 .tos (.short 3) 0 .always st_3 holds holds⟩,
   ⟨_, h.2.2.2.2.2.2.2.2.2.2.1 .tos (.short 3) 0 .always st_4 holds holds⟩,
   ⟨_, h.2.2.2.2.2.2.2.2.2.2.2.1 .tos (.short 3) 0 .always st_4 holds holds⟩⟩

theorem witness_AccessTraps_2 (h : Obligations.AccessTraps) :
    Goes (.stW 0 .always .tos (.short 3)) st_4 :=
  ⟨_, h.2.2.2.2.2.2.2.2.2.2.2.2 .tos (.short 3) 0 .always st_4 holds holds⟩

theorem witness_MultipleTransfers (h : Obligations.MultipleTransfers) :
    Goes (.stmW 0 .always .gp (⟨0x8001, none⟩) none) st_0 ∧
    Goes (.stmD 0 .always .gp (⟨5, some 4⟩) none) st_0 ∧
    Goes (.ldmD 0 .always .gp (⟨0x8001, none⟩)) st_0 ∧
    Goes (.ldmW 0 .always .gp (⟨0x8001, none⟩)) st_0 ∧
    Goes (.stmW 0 .always .tos (⟨0, none⟩) none) st_0 ∧
    Goes (.stmD 0 .always .tos (⟨0, none⟩) none) st_0 ∧
    Goes (.ldmW 0 .always .tos (⟨0, none⟩)) st_0 ∧
    Goes (.ldmD 0 .always .tos (⟨0, none⟩)) st_0 :=
  ⟨⟨_, ((h .gp (⟨0x8001, none⟩) none).1 holds).1 0 .always st_0 holds holds⟩,
   ⟨_, ((h .gp (⟨5, some 4⟩) none).1 holds).2.1 0 .always st_0 holds holds⟩,
   ⟨_, ((h .gp (⟨0x8001, none⟩) none).1 holds).2.2.1 0 .always st_0 holds holds⟩,
   ⟨_, ((h .gp (⟨0x8001, none⟩) none).1 holds).2.2.2 0 .always st_0 holds holds⟩,
   ⟨_, ((h .tos (⟨0, none⟩) none).2 holds).1 0 .always st_0 holds holds⟩,
   ⟨_, ((h .tos (⟨0, none⟩) none).2 holds).2.1 0 .always st_0 holds holds⟩,
   ⟨_, ((h .tos (⟨0, none⟩) none).2 holds).2.2.1 0 .always st_0 holds holds⟩,
   ⟨_, ((h .tos (⟨0, none⟩) none).2 holds).2.2.2 0 .always st_0 holds holds⟩⟩

end Mem

namespace Flow

def kC (f : Core → Core) : State := md fun d => (d.updCore 0 f).updCore 4 f
def kB (f : Bank → Bank) : State := kC fun k => k.setBank (f k.bank)
def top (l : List Word) : State := kB fun b => { b with data := l }
def st_0 : State := wState
def st_1 : State := top [0, 7]
def st_3 : State := kB fun b => { b with rets := [], rdepth := 0, spr := 0x5008 }
def st_4 : State := kB fun b => { b with rets := [0x201], rdepth := 1 }
def st_5 : State := kB fun b => { b with fp := 0x5FD0, wn := 28 }
def st_6 : State := kB fun b => { b with wn := 64 }

theorem witness_ReturnStack (h : Obligations.ReturnStack) :
    Goes (.rpush 0 .always) st_0 ∧
    Goes (.rpop 0 .always) st_0 ∧
    Goes (.rcopy 0 .always) st_0 ∧
    Goes (.rpop 0 .always) st_3 ∧
    Goes (.rcopy 0 .always) st_3 :=
  ⟨⟨_, h.1 0 .always st_0 holds holds⟩,
   ⟨_, h.2.1 0 .always st_0 holds holds⟩,
   ⟨_, h.2.2.1 0 .always st_0 holds holds⟩,
   ⟨_, h.2.2.2.1 0 .always st_3 holds holds⟩,
   ⟨_, h.2.2.2.2 0 .always st_3 holds holds⟩⟩

theorem witness_FlowControl (h : Obligations.FlowControl) :
    Goes (.brS 0 .always 0#9) st_0 ∧
    Goes (.br 0 .always (.imm16 0x8001)) st_0 ∧
    Goes (.call 0 .always (.imm16 0x8001)) st_0 ∧
    Goes (.ret 0 .always) st_0 ∧
    Goes (.jmpt 0 .always) st_1 ∧
    Goes (.callt 0 .always) st_1 ∧
    Goes (.ret 0 .always) st_4 ∧
    Goes (.ret 0 .always) st_3 ∧
    Goes (.jmpt 0 .always) st_0 ∧
    Goes (.callt 0 .always) st_0 :=
  ⟨⟨_, h.1 0#9 0 .always st_0 holds holds⟩,
   ⟨_, (h.2.1 (.imm16 0x8001)).1 0 .always st_0 holds holds⟩,
   ⟨_, (h.2.1 (.imm16 0x8001)).2 0 .always st_0 holds holds⟩,
   ⟨_, h.2.2.1 0 .always st_0 holds holds⟩,
   ⟨_, h.2.2.2.1 0 .always st_1 holds holds⟩,
   ⟨_, h.2.2.2.2.1 0 .always st_1 holds holds⟩,
   ⟨_, h.2.2.2.2.2.1 0 .always st_4 holds holds⟩,
   ⟨_, h.2.2.2.2.2.2.1 0 .always st_3 holds holds⟩,
   ⟨_, h.2.2.2.2.2.2.2.1 0 .always st_0 holds holds⟩,
   ⟨_, h.2.2.2.2.2.2.2.2 0 .always st_0 holds holds⟩⟩

theorem witness_FrameWindows (h : Obligations.FrameWindows) :
    Goes (.enter 0 .always) st_0 ∧
    Goes (.leave 0 .always) st_5 ∧
    Goes (.enter 4 .always) st_6 ∧
    Goes (.leave 0 .always) st_0 :=
  ⟨⟨_, h.1 0 .always st_0 holds holds⟩,
   ⟨_, h.2.1 0 .always st_5 holds holds⟩,
   ⟨_, h.2.2.1 4 .always st_6 holds holds⟩,
   ⟨_, h.2.2.2 0 .always st_0 holds holds⟩⟩

end Flow

namespace System

def kC (f : Core → Core) : State := md fun d => (d.updCore 0 f).updCore 4 f
def sbe : SbEntry := { addr := 0x10000000, size := 4, val := 7, pc := 0x100, cls := .tether, lvl := 0, slot := 0, priv := .f, issued := false }
def runsTask (d : Dev) : Dev := (d.updCore 0 fun k => { k with slot := some 1 }).updPen 0 fun k =>
  { k with slots := [(1, { Slot.reset with valid := true, run := true, reserved := 5 })] }
def st_0 : State := wState
def st_1 : State := kC fun k => { k with sb := [sbe] }
def st_2 : State := md fun d => (d.updCore 0 fun k => { k with slot := some 1 }).updPen 0 fun k => { k with slots := [(1, { Slot.reset with woke := true })] }
def st_3 : State := kC fun k => { k with priv := .u }
def st_4 : State := md runsTask
def st_5 : State := md fun d => { d with variant := 3 }
def st_6 : State := kC fun k => { k.setBank { k.bank with data := [7], rets := [], rdepth := 0, wn := 0, wc := [] } with rpt := true, rc := 0 }
def st_7 : State := kC fun k => { k with rpt := true, rc := 1 }

theorem witness_WaitingAndWriteBack (h : Obligations.WaitingAndWriteBack) :
    Goes (.stkwb 0 .always) st_0 ∧
    Goes (.sync 0 .always) st_0 ∧
    Goes (.sync 0 .always) st_1 ∧
    Goes (.wait 0 .always) st_0 ∧
    Goes (.wait 0 .always) st_4 ∧
    Goes (.wait 0 .always) st_2 ∧
    Goes (.rpt 0 .always) st_0 :=
  ⟨⟨_, h.1 0 .always st_0 holds holds⟩,
   ⟨_, h.2.1 0 .always st_0 holds holds⟩,
   ⟨_, h.2.2.1 0 .always st_1 holds holds⟩,
   ⟨_, h.2.2.2.1 0 .always st_0 holds holds⟩,
   ⟨_, h.2.2.2.2.1 0 .always st_4 holds holds⟩,
   ⟨_, h.2.2.2.2.2.1 0 .always st_2 holds holds⟩,
   ⟨_, h.2.2.2.2.2.2 0 .always st_0 holds holds⟩⟩

theorem witness_MoveFromSpecial (h : Obligations.MoveFromSpecial) :
    Goes (.mfs 0 .always 0#5) st_0 ∧
    Goes (.mfs 0 .always 15#5) st_0 ∧
    Goes (.mfs 0 .always 13) st_3 ∧
    Goes (.mfs 0 .always 14) st_5 :=
  ⟨⟨_, h.1 0#5 holds 0 .always st_0 holds holds⟩,
   ⟨_, h.2.1 15#5 holds 0 .always st_0 holds holds⟩,
   ⟨_, h.2.2.1 0 .always st_3 holds holds⟩,
   ⟨_, h.2.2.2 0 .always st_5 holds holds⟩⟩

theorem witness_MoveToSpecial (h : Obligations.MoveToSpecial) :
    Goes (.mts 4 .always 1#5) st_0 ∧
    Goes (.mts 0 .always 15#5) st_0 ∧
    Goes (.mts 4 .always 13) st_0 ∧
    Goes (.mts 0 .always 3#5) st_3 ∧
    Goes (.mts 0 .always 14) st_5 :=
  ⟨⟨_, h.1 1#5 holds 4 .always st_0 holds holds⟩,
   ⟨_, h.2.1 15#5 holds 0 .always st_0 holds holds⟩,
   ⟨_, h.2.2.1 4 .always st_0 holds holds⟩,
   ⟨_, h.2.2.2.1 3#5 holds 0 .always st_3 holds holds⟩,
   ⟨_, h.2.2.2.2 0 .always st_5 holds holds⟩⟩

theorem witness_StringElements_1 (h : Obligations.StringElements) :
    Goes (.movs 0 .always .b none) st_0 ∧
    Goes (.movs 0 Cond.always .b none) st_6 ∧
    Goes (.movs 0 Cond.always .b none) st_7 ∧
    Goes (.fills 0 .always .b none) st_0 ∧
    Goes (.fills 0 Cond.always .b none) st_6 ∧
    Goes (.fills 0 Cond.always .b none) st_7 ∧
    Goes (.cmps 0 .always .b none) st_0 ∧
    Goes (.cmps 0 Cond.always .b none) st_6 ∧
    Goes (.cmps 0 Cond.always .b none) st_7 ∧
    Goes (.scans 0 .always .b none) st_0 ∧
    Goes (.scans 0 Cond.always .b none) st_6 ∧
    Goes (.scans 0 Cond.always .b none) st_7 :=
  ⟨⟨_, (h.1 .b).1.1 none 0 .always st_0 holds holds⟩,
   ⟨_, ((h.1 .b).1.2 none 0 st_6 holds holds holds holds).1 holds⟩,
   ⟨_, ((h.1 .b).1.2 none 0 st_7 holds holds holds holds).2 holds holds holds⟩,
   ⟨_, (h.1 .b).2.1.1 none 0 .always st_0 holds holds⟩,
   ⟨_, ((h.1 .b).2.1.2 none 0 st_6 holds holds holds holds).1 holds⟩,
   ⟨_, ((h.1 .b).2.1.2 none 0 st_7 holds holds holds holds).2 holds holds holds⟩,
   ⟨_, (h.1 .b).2.2.1.1 none 0 .always st_0 holds holds⟩,
   ⟨_, ((h.1 .b).2.2.1.2 none 0 st_6 holds holds holds holds).1 holds⟩,
   ⟨_, ((h.1 .b).2.2.1.2 none 0 st_7 holds holds holds holds).2 holds holds holds⟩,
   ⟨_, (h.1 .b).2.2.2.1 none 0 .always st_0 holds holds⟩,
   ⟨_, ((h.1 .b).2.2.2.2 none 0 st_6 holds holds holds holds).1 holds⟩,
   ⟨_, ((h.1 .b).2.2.2.2 none 0 st_7 holds holds holds holds).2 holds holds holds⟩⟩

theorem witness_StringElements_2 (h : Obligations.StringElements) :
    Goes (.crcs 0 .always none) st_0 ∧
    Goes (.crcs 0 Cond.always none) st_6 ∧
    Goes (.crcs 0 Cond.always none) st_7 ∧
    Goes (.pars 0 .always none) st_0 ∧
    Goes (.pars 0 Cond.always none) st_6 ∧
    Goes (.pars 0 Cond.always none) st_7 :=
  ⟨⟨_, h.2.1.1 none 0 .always st_0 holds holds⟩,
   ⟨_, (h.2.1.2 none 0 st_6 holds holds holds holds).1 holds⟩,
   ⟨_, (h.2.1.2 none 0 st_7 holds holds holds holds).2 holds holds holds⟩,
   ⟨_, h.2.2.1 none 0 .always st_0 holds holds⟩,
   ⟨_, (h.2.2.2 none 0 st_6 holds holds holds holds).1 holds⟩,
   ⟨_, (h.2.2.2 none 0 st_7 holds holds holds holds).2 holds holds holds⟩⟩

end System

namespace Exc

def kC (f : Core → Core) : State := md fun d => (d.updCore 0 f).updCore 4 f
def wC0 : Core := { wCore true with lvl := 0 }
def be : BoundExc := { cause := 9, qual := 0x10, addr := 0x100 }
def pe : PostErr := { pc := 0x100, addr := 0x10000000, lvl := 0, slot := 0, ecc := false }
def cells (a : Nat) (l : List Word) (d : Dev) : Dev := (l.zipIdx).foldl (fun d x => plainWrite d (a + 4 * x.2) x.1 4) d
def gateS : State :=
  let g : List Word := [0x8000, 0x1163, 0, 0, 4, 0x00FFFFFF, 0, 1, 0, 0x2710, 0xA3, 0, 0x10, 0, 0, 0]
  let s := kC fun k => k.setBank { k.bank with data := [0x10104020, 8500, 17, 1] }
  { s with dev := cells 0x01003140 g (cells 0x01043140 g s.dev) }
def after' (i : Instr) (s : State) : State := match (match i with | .gate c q n => execGate c q n s | _ => .next s) with | .next t => t | _ => s
def excS (t : Bool) : State := let c := if t then 4 else 0
  { wState with dev := takeExc wDev c (Exc.of 7) 0x100 0x102 [] 0 }
def lev (f : Core → Core) : State := md fun d => d.updCore 4 fun k => f { k with lvl := 2, sxa := List.replicate 8 0x7000, spc := List.replicate 8 0x200, banks := k.banks.set 2 k.bank }
def dueS : State := md fun d => (((d.updCore 4 fun k => { k with ie := true, mask := 1 }).updPen 1 fun k => { k with pend := 1, tvec := 0x2000 }).updSlice 0 fun s =>
  { s with lines := [(0, { LineCfg.reset with prio := 3, en := true })] })
def st_0 : State := wState
def st_1 : State := dueS
def st_2 : State := kC fun k => k.hold be
def st_3 : State := kC fun k => { k with perr := some pe }
def st_4 : State := gateS
def st_5 : State := kC fun k => { k with gdep := 14 }
def st_6 : State := kC fun k => { k with priv := .u }
def st_7 : State := excS false
def st_9 : State := after' (.gate 0 .always 5) gateS
def st_11 : State := lev id
def st_12 : State := lev fun k => { k with xs := true }
def st_13 : State := lev fun k => { k with priv := .u }
def st_14 : State := lev fun k => { k with gates := [⟨2, Bank.empty, 0, 0, 0⟩] }

theorem witness_ExceptionEntry (h : Obligations.ExceptionEntry) :
    takeExc (st_0.dev) 0 (Exc.of 7) 0#32 0#32 [] 0 = excEntered (tileCutoff (st_0.dev) 0) 0 (Exc.of 7) 0#32 0#32 [] 0 ∧
    (Dev.core (excEntered (tileCutoff (st_0.dev) 0) 0 (Exc.of 7) 0#32 0#32 [] 0) 0).pc = (handlerOf (st_0.dev) 0 (Dev.core (st_0.dev) 0).priv).snd.fst ∧
    Dev.byte (excEntered (tileCutoff (st_0.dev) 0) 0 (Exc.of 7) 0#32 0#32 [] 0) 0 = Dev.byte (st_0.dev) 0 :=
  ⟨(h (st_0.dev) 0 (Exc.of 7) 0#32 0#32 [] 0 holds).1,
   ((h (st_0.dev) 0 (Exc.of 7) 0#32 0#32 [] 0 holds).2 holds).1,
   (((h (st_0.dev) 0 (Exc.of 7) 0#32 0#32 [] 0 holds).2 holds).2.2.2.2.2.2.2.2.2.2.2.2.2.2 |>.2.2.2.2.2.2.2.2.2.2.2.1) 0 holds⟩

theorem witness_ReturnReversesEntry (h : Obligations.ReturnReversesEntry) :
    (Core.closeFrame (Core.openFrame wC0 false .f 0#32 0#32 []) false .f (frameCells wC0 false 0#32 0#32 0#32 .f)).pc = 0#32 ∧
    (Core.bank (Core.closeFrame (Core.openFrame wC0 true .f 0#32 0#32 []) true .f (frameCells wC0 true 0#32 0#32 0#32 .f))).data = (Core.bank wC0).data ∧
    (Core.closeFrame (Core.openFrame wC0 false .f 0#32 0#32 []) false .f (frameCells wC0 false 0#32 0#32 0#32 .f)).dbase = wC0.dbase :=
  ⟨(h wC0 false .f 0#32 0#32 0#32 0#32 0#32 [] holds).1,
   ((h wC0 true .f 0#32 0#32 0#32 0#32 0#32 [] holds).2.2.2.2.2.2.2.2.2.2.1 holds).1,
   ((h wC0 false .f 0#32 0#32 0#32 0#32 0#32 [] holds).2.2.2.2.2.2.2.2.2.2.2 holds).1⟩

theorem witness_BoundaryExceptions (h : Obligations.BoundaryExceptions) :
    Goes (.exceptionEntry 0 (⟨7, 0, .always, [0x20], 4⟩)) st_2 ∧
    Goes (.exceptionEntry 0 (⟨7, 0, .always, [0x20], 4⟩)) st_3 ∧
    Goes (.exceptionEntry 0 (⟨7, 0, .always, [0x20], 4⟩)) st_0 ∧
    Goes (.exceptionEntry 0 (⟨1, 0, .z, [0x23F], 0⟩)) st_0 :=
  ⟨⟨_, h.1 0 (⟨7, 0, .always, [0x20], 4⟩) st_2 be holds holds holds holds holds⟩,
   ⟨_, (h.2.1 0 (⟨7, 0, .always, [0x20], 4⟩) st_3 pe holds holds holds).1⟩,
   ⟨_, (h.2.2 0 (⟨7, 0, .always, [0x20], 4⟩) st_0 holds holds holds holds).1 holds⟩,
   ⟨_, (h.2.2 0 (⟨1, 0, .z, [0x23F], 0⟩) st_0 holds holds holds holds).2 holds holds holds holds⟩⟩

theorem witness_GatesAndReturns (h : Obligations.GatesAndReturns) :
    Goes (.gate 0 .always 5#8) st_4 ∧
    Goes (.gate 0 .always 5#8) st_5 ∧
    Goes (.eret 0 .always) st_7 ∧
    Goes (.gret 0 .always) st_9 ∧
    Goes (.eret 0 .always) st_6 ∧
    Goes (.eret 0 .always) st_0 ∧
    Goes (.gret 0 .always) st_0 :=
  ⟨⟨_, (h.1 5#8).1 0 .always st_4 holds holds⟩,
   ⟨_, (h.1 5#8).2.2 0 .always st_5 holds holds⟩,
   ⟨_, h.2.1 0 .always st_7 holds holds⟩,
   ⟨_, h.2.2.1 0 .always st_9 holds holds⟩,
   ⟨_, h.2.2.2.1 0 .always st_6 holds holds⟩,
   ⟨_, h.2.2.2.2.1 0 .always st_0 holds holds⟩,
   ⟨_, h.2.2.2.2.2 0 .always st_0 holds holds⟩⟩

theorem witness_LevelsEnterAndReturn (h : Obligations.LevelsEnterAndReturn) :
    Goes (.interruptEntry 4) st_1 ∧
    lget (Core.enterLevel wC0 0).spc 0 0 = boundaryPc wC0 ∧
    lget (Core.enterLevel wC0 0).banks Bank.empty 3 = lget wC0.banks Bank.empty 3 ∧
    Goes (.reti 4 .always) st_11 ∧
    Goes (.reti 4 .always) st_12 ∧
    Goes (.reti 0 .always) st_0 ∧
    Goes (.reti 4 .always) st_13 ∧
    Goes (.reti 4 .always) st_14 :=
  ⟨⟨_, h.1 4 st_1 3 holds holds holds holds holds⟩,
   (h.2.1 wC0 0 holds holds holds holds holds).1,
   ((h.2.1 wC0 0 holds holds holds holds holds).2.2.2.2.2.2.2.2.2.2.2.2.2 3 holds).1,
   ⟨_, h.2.2.1 4 .always st_11 holds holds⟩,
   ⟨_, h.2.2.2.1 4 .always st_12 holds holds⟩,
   ⟨_, h.2.2.2.2.1 0 .always st_0 holds holds⟩,
   ⟨_, h.2.2.2.2.2.1 4 .always st_13 holds holds⟩,
   ⟨_, h.2.2.2.2.2.2 4 .always st_14 holds holds⟩⟩

end Exc

namespace Engines

def kC (f : Core → Core) : State := md fun d => (d.updCore 0 f).updCore 4 f
def le (a n v : Nat) : List (Nat × Byte) := (List.range n).map fun i => (a + i, BitVec.ofNat 8 (v >>> (8 * i)))
def uword : Nat := 10 * 2 ^ 22 + 11 * 2 ^ 26 + 2 * 2 ^ 30 + 2 ^ 36 + 2 * 2 ^ 61 + 5 * 2 ^ 74
def microS : State := md fun d => (d.updPen 0 fun k => { k with cs := { k.cs with data := le 16 16 uword ++ le 0x10600 2 0x8001 } }).updPen 1 fun k =>
  { k with cs := { k.cs with data := le 3 3 0x400 ++ le 0xC000 16 uword ++ le 0x10600 2 0x8001 } }
def sbe (i : Bool) (a : Nat) : SbEntry := { addr := a, size := 4, val := 7, pc := 0x100, cls := .drove, lvl := 0, slot := 0, priv := .f, issued := i }
def pl (t : Bool) : PendLoad := { pc := 0x100, next := 0x102, syl := [0x3100], addr := 0x10000000, size := 4, signed := false, tos := t, priv := .f, cls := .drove, err := none }
def slot1 : Slot := { Slot.reset with valid := true, ready := true, tsb := 0x2800, cost := 8, pri := 2 }
def task (d : Dev) : Dev := (d.updPen 0 fun k => { k with slots := [(0, { Slot.reset with valid := true, run := true, tsb := 0x2400 }), (1, slot1)], rat := { k.rat with run := true, bal := 1000 } })
def giv (d : Dev) : Dev := ((task d).updPen 0 fun k => { k with slots := [(0, { Slot.reset with valid := true, run := true, tsb := 0x2400, reserved := 5 })] }).updCore 0
  fun k => { k with slot := some 0, tsbr := 0x2400, waiting := true, preempt := some 0 }
def spillS (f : Core → Core) : State := md fun d => d.updCore 0 f
def st_0 : State := wState
def st_1 : State := microS
def st_2 : State := spillS fun k => { k with spare := [(0x4000, 7)] }
def st_3 : State := spillS fun k => { k with spare := [(0x90000000, 7)] }
def st_4 : State := spillS fun k => { k.setBank { k.bank with wn := 64, wc := (List.range 64).map (fun i => (0x6000 + 4 * i, toWord i)), data := List.replicate 24 3 } with slot := some 0 }
def st_5 : State := kC fun k => { k with sb := [sbe false 0x10000000] }
def st_6 : State := kC fun k => { k with sb := [sbe true 0x10000000] }
def st_7 : State := kC fun k => { k with sb := [sbe true 0x90000000] }
def st_8 : State := kC fun k => { k with loads := [(0, pl false)] }
def st_10 : State := md task
def st_11 : State := md fun d => (task d).updCore 0 fun k => { k with slot := some 0, tsbr := 0x2400, next := some ⟨1, 0x2800, 1⟩ }
def st_12 : State := md fun d => (d.updCore 0 fun k => { k with sb := [sbe false 0x10000000] }).updCore 4 fun k => { k with sb := [{ sbe false 0x10000000 with cls := .urgent }] }
def st_13 : State := md giv

theorem witness_SpillEngine (h : Obligations.SpillEngine) :
    Goes (.spillCell 0) st_2 ∧
    Goes (.spillCell 0) st_3 ∧
    Goes (.spillCell 0) st_4 ∧
    Goes (.spillCell 0) st_0 :=
  ⟨⟨_, ((h.2 0 st_2).1 (0x4000, 7) [] holds holds holds).1 holds⟩,
   ⟨_, ((h.2 0 st_3).1 (0x90000000, 7) [] holds holds holds).2 9#8 holds holds holds holds holds⟩,
   ⟨_, (h.2 0 st_4).2.1 holds holds holds holds holds holds holds holds⟩,
   ⟨_, (h.2 0 st_0).2.2 holds⟩⟩

theorem witness_StoreBuffer (h : Obligations.StoreBuffer) :
    Goes (.storeIssue 0) st_12 ∧
    Goes (.storeIssue 0) st_5 ∧
    Goes (.storeAccept ⟨0, Fin.ofNat 8 (0)⟩) st_6 ∧
    Goes (.storeAccept ⟨0, Fin.ofNat 8 (0)⟩) st_7 ∧
    Goes (.loadDataReturn 0 0) st_8 :=
  have _ := ((h.2.1 0 st_6 [] [] (sbe true 0x10000000) holds holds holds holds holds holds holds).1 holds).2 0 holds holds
  ⟨⟨_, (h.1 0 st_12 [] [] (sbe false 0x10000000) holds holds holds holds).1 holds⟩,
   ⟨_, (h.1 0 st_5 [] [] (sbe false 0x10000000) holds holds holds holds).2 holds⟩,
   ⟨_, ((h.2.1 0 st_6 [] [] (sbe true 0x10000000) holds holds holds holds holds holds holds).1 holds).1⟩,
   ⟨_, (h.2.1 0 st_7 [] [] (sbe true 0x90000000) holds holds holds holds holds holds holds).2 holds holds⟩,
   ⟨_, h.2.2 0 0 st_8 (pl false) holds holds holds holds holds⟩⟩

theorem witness_DispatchDecision (h : Obligations.DispatchDecision) :
    Goes (.dispatchDecision 0) st_10 ∧
    (1, slot1) ∈ ((task wDev).pen 0).slots ∧
    (1, slot1).snd.pri ≤ slot1.pri ∧
    Goes (.dispatchDecision 0) st_0 ∧
    Goes (.dispatchDecision 0) st_13 :=
  have _ := h.2.2.1 (st_13.dev) 0 0 0 holds holds
  ⟨⟨_, h.1 0 st_10 0 0 1 slot1 holds holds holds holds⟩,
   (h.2.1 ((task wDev).pen 0) 1 slot1 holds).1,
   (h.2.1 ((task wDev).pen 0) 1 slot1 holds).2.2.2.2.2.2.2 (1, slot1) holds holds,
   ⟨_, h.2.2.2.1 0 st_0 holds⟩,
   ⟨_, h.2.2.2.2 0 st_13 0 0 holds holds holds⟩⟩

theorem witness_TaskSwitch (h : Obligations.TaskSwitch) :
    Goes (.taskSwitch ⟨0, true⟩) st_11 ∧
    Goes (.taskSwitch ⟨0, false⟩) st_11 ∧
    Goes (.taskSwitch ⟨0, false⟩) st_13 ∧
    Goes (.taskSwitch ⟨0, false⟩) st_0 :=
  have _ := (h.2.1 (wCore false) (⟨1, 0x2800, 1⟩) 0 [] holds).1
  have _ := ((h.2.1 (wCore false) (⟨1, 0x2800, 1⟩) 0 [] holds).2.2.2.2.2.2.2.2.2.2.2.2.2.2 |>.2.2.2.2.2.2.2.2.2.2.2.2.2.2 |>.1) holds
  have _ := ((h.2.1 (wCore false) (⟨1, 0x2800, 1⟩) 1 [] holds).2.2.2.2.2.2.2.2.2.2.2.2.2.2 |>.2.2.2.2.2.2.2.2.2.2.2.2.2.2 |>.2.2.2) holds
  ⟨⟨_, (h.1 0 st_11 (⟨1, 0x2800, 1⟩) holds holds holds holds holds).1⟩,
   ⟨_, (h.1 0 st_11 (⟨1, 0x2800, 1⟩) holds holds holds holds holds).2 holds holds⟩,
   ⟨_, h.2.2.1 0 st_13 0 0 false holds holds holds holds holds holds⟩,
   ⟨_, h.2.2.2 0 st_0 false holds⟩⟩

theorem witness_CustomOpcodes (h : Obligations.CustomOpcodes) :
    Goes (.customOpcode 0 .always (.operate 0)) st_1 ∧
    Goes (.customOpcode 4 .always (.operate 0)) st_1 :=
  ⟨⟨_, h.1 0 .always (.operate 0) st_1 1 5 holds holds holds holds holds holds holds holds holds⟩,
   ⟨_, h.2.1 4 .always (.operate 0) st_1 1 0 5 holds holds holds holds holds holds holds holds holds holds holds holds⟩⟩

end Engines

namespace Tile

def kC (f : Core → Core) : State := md fun d => (d.updCore 0 f).updCore 4 f
def mv : TileMove := { save := true, area := 0x10000000, owner := 5 }
def tl (f : Tile → Tile) : State := md fun d => updTile (updTile d 0 f) 1 f
def o1 : TileOp := { core := 0, op := 3, ext := 0, addr := 0, priv := .f }
def o2 : TileOp := { core := 0, op := 4, ext := 0x400, addr := 0, priv := .f }
def w1 (o : TileOp) : TileWait := { op := o.op, ext := o.ext, addr := 0, priv := .f, pc := 0x100, next := 0x106, syl := [0x5000, 0, 0] }
def opS (o : TileOp) : State := md fun d => updTile (d.updCore 0 fun k => { k.setBank { k.bank with tflg := 0x1F00 } with tileWait := some (w1 o) }) 0 fun te =>
  { te with op := some o, ctxs := te.ctxs.set 0 { TileCtx.reset with bytes := [(2, 0x80), (3, 0x7F)] } }
def rd0 (a : Nat) : Byte := BitVec.ofNat 8 (a * 37)
def st_0 : State := wState
def st_1 : State := kC fun k => k.setBank { k.bank with data := [0x2000, 1, 2] }
def st_2 : State := opS o1
def st_3 : State := opS o2
def st_4 : State := tl fun te => { te with ctxs := te.ctxs.set 0 { TileCtx.reset with move := some mv } }
def st_5 : State := tl fun te => { te with ctxs := te.ctxs.set 0 { TileCtx.reset with move := some { mv with save := false } } }
def st_6 : State := { tl (fun te => { te with ctxs := te.ctxs.set 0 { TileCtx.reset with move := some mv } }) with dev := (tl fun te => { te with ctxs := te.ctxs.set 0 { TileCtx.reset with move := some mv } }).dev.updCore 0 fun k => { k with sb := [⟨0x10000100,4,0,0,.urgent,0,0,.u,false⟩] } }

theorem witness_TileInstructions_1 (h : Obligations.TileInstructions) :
    Goes (.tzero 0 .always 0#32) st_0 ∧
    Goes (.tzero 0 .always 4294967295#32) st_0 ∧
    Goes (.tld 0 .always 0#32) st_1 ∧
    Goes (.tld 0 .always 4294967295#32) st_0 ∧
    Goes (.tstTile 0 .always 0#32) st_1 ∧
    Goes (.tstTile 0 .always 4294967295#32) st_0 ∧
    Goes (.tadd 0 .always 0#32) st_0 ∧
    Goes (.tadd 0 .always 4294967295#32) st_0 ∧
    Goes (.tsub 0 .always 0#32) st_0 ∧
    Goes (.tsub 0 .always 4294967295#32) st_0 ∧
    Goes (.tmul 0 .always 0#32) st_0 ∧
    Goes (.tmul 0 .always 4294967295#32) st_0 :=
  ⟨⟨_, h.1.1 0#32 0 .always st_0 holds holds holds⟩,
   ⟨_, h.1.2 4294967295#32 0 .always st_0 holds holds⟩,
   ⟨_, h.2.1.1 0#32 0 .always st_1 holds holds holds⟩,
   ⟨_, h.2.1.2 4294967295#32 0 .always st_0 holds holds⟩,
   ⟨_, h.2.2.1.1 0#32 0 .always st_1 holds holds holds⟩,
   ⟨_, h.2.2.1.2 4294967295#32 0 .always st_0 holds holds⟩,
   ⟨_, h.2.2.2.1.1 0#32 0 .always st_0 holds holds holds⟩,
   ⟨_, h.2.2.2.1.2 4294967295#32 0 .always st_0 holds holds⟩,
   ⟨_, h.2.2.2.2.1.1 0#32 0 .always st_0 holds holds holds⟩,
   ⟨_, h.2.2.2.2.1.2 4294967295#32 0 .always st_0 holds holds⟩,
   ⟨_, h.2.2.2.2.2.1.1 0#32 0 .always st_0 holds holds holds⟩,
   ⟨_, h.2.2.2.2.2.1.2 4294967295#32 0 .always st_0 holds holds⟩⟩

theorem witness_TileInstructions_2 (h : Obligations.TileInstructions) :
    Goes (.tmin 0 .always 0#32) st_0 ∧
    Goes (.tmin 0 .always 4294967295#32) st_0 ∧
    Goes (.tmax 0 .always 0#32) st_0 ∧
    Goes (.tmax 0 .always 4294967295#32) st_0 ∧
    Goes (.tmac 0 .always 0#32) st_0 ∧
    Goes (.tmac 0 .always 4294967295#32) st_0 ∧
    Goes (.tsumr 0 .always 0#32) st_0 ∧
    Goes (.tsumr 0 .always 4294967295#32) st_0 ∧
    Goes (.tcvt 0 .always 0#32) st_0 ∧
    Goes (.tcvt 0 .always 4294967295#32) st_0 ∧
    Goes (.tlerp 0 .always 1024#32) st_1 ∧
    Goes (.tlerp 0 .always 0#32) st_0 :=
  ⟨⟨_, h.2.2.2.2.2.2.1.1 0#32 0 .always st_0 holds holds holds⟩,
   ⟨_, h.2.2.2.2.2.2.1.2 4294967295#32 0 .always st_0 holds holds⟩,
   ⟨_, h.2.2.2.2.2.2.2.1.1 0#32 0 .always st_0 holds holds holds⟩,
   ⟨_, h.2.2.2.2.2.2.2.1.2 4294967295#32 0 .always st_0 holds holds⟩,
   ⟨_, h.2.2.2.2.2.2.2.2.1.1 0#32 0 .always st_0 holds holds holds⟩,
   ⟨_, h.2.2.2.2.2.2.2.2.1.2 4294967295#32 0 .always st_0 holds holds⟩,
   ⟨_, h.2.2.2.2.2.2.2.2.2.1.1 0#32 0 .always st_0 holds holds holds⟩,
   ⟨_, h.2.2.2.2.2.2.2.2.2.1.2 4294967295#32 0 .always st_0 holds holds⟩,
   ⟨_, h.2.2.2.2.2.2.2.2.2.2.1.1 0#32 0 .always st_0 holds holds holds⟩,
   ⟨_, h.2.2.2.2.2.2.2.2.2.2.1.2 4294967295#32 0 .always st_0 holds holds⟩,
   ⟨_, h.2.2.2.2.2.2.2.2.2.2.2.1 1024#32 0 .always st_1 holds holds holds⟩,
   ⟨_, h.2.2.2.2.2.2.2.2.2.2.2.2 0#32 0 .always st_0 holds holds⟩⟩

theorem witness_IntegerTileOperations (h : Obligations.IntegerTileOperations) :
    (tileCompute 0 0#32 rd0).snd = 0 ∧
    staged (tileCompute 3 0#32 rd0) 10 = none :=
  have _ := h.2.1 3 0#32 rd0 0 0 holds holds holds holds holds
  ⟨h.1 0 0#32 rd0 holds holds holds,
   h.2.2 3 0#32 rd0 10 holds holds holds holds⟩

theorem witness_TileCommits (h : Obligations.TileCommits) :
    Goes (.tileCommit 0) st_2 ∧
    Goes (.tileCommit 0) st_3 ∧
    Goes (.tileCommit 0) st_0 :=
  ⟨⟨_, h.1 0 st_2 o1 (w1 o1) holds holds holds holds⟩,
   ⟨_, h.2.1 0 st_3 o2 (w1 o2) holds holds holds holds⟩,
   ⟨_, h.2.2 0 st_0 holds⟩⟩

theorem witness_TileContexts_1 (h : Obligations.TileContexts) :
    Goes (.tileMoveComplete 0) st_6 ∧
    Goes (.tileMoveComplete 0) st_4 ∧
    Goes (.tileMoveComplete 0) st_5 ∧
    Goes (.ttxbWrite (.core 0 .f) 0 0#32) st_0 ∧
    lget (Dev.pen (ttxbSet (penOf 0) (0 % 4) 0#32 (st_0.dev)) (penOf 0)).te.ttxb 0 (0 % 4) = 0#32 &&& 4294966273 ∧
    Goes (.tile (.typed .mga)) st_0 ∧
    Goes (.tileShow (.typed .mga) 0) st_0 ∧
    Goes (.xTileStat (.typed .mga) 0) st_0 ∧
    Goes (.tileEv (.typed .mga) 0 false [0,2]) st_0 ∧
    Goes (.tileEv (.typed .mga) 0 true [0,2]) st_0 ∧
    Goes (.tileTctx (.typed .mga) 0 0 none) st_0 ∧
    Goes (.tileTctx (.typed .mga) 0 0 (some 0x10000000)) st_0 :=
  ⟨⟨_, (h.1 0 st_6 0 mv holds holds holds holds holds holds).1 holds⟩,
   ⟨_, (h.1 0 st_4 0 mv holds holds holds holds holds holds).2.1 holds holds⟩,
   ⟨_, (h.1 0 st_5 0 ({ mv with save := false }) holds holds holds holds holds holds).2.2 holds holds holds⟩,
   ⟨_, h.2.1 0 0#32 (.core 0 .f) st_0 holds holds holds⟩,
   h.2.2.1 (st_0.dev) 0 0#32 holds,
   (h.2.2.2.1.2 (.typed .mga) st_0 holds).elim fun _ x => ⟨_, x⟩,
   ((h.2.2.2.2.1 0).1.2 (.typed .mga) st_0 holds).elim fun _ x => ⟨_, x⟩,
   ((h.2.2.2.2.1 0).2.2 (.typed .mga) st_0 holds).elim fun _ x => ⟨_, x⟩,
   ⟨_, (h.2.2.2.2.2.1 0 [0,2] holds).1.2 (.typed .mga) st_0 holds holds⟩,
   ⟨_, (h.2.2.2.2.2.1 0 [0,2] holds).2.2 (.typed .mga) st_0 holds holds⟩,
   ⟨_, (h.2.2.2.2.2.2.1 0 0 holds).1.2 (.typed .mga) st_0 holds holds⟩,
   ⟨_, ((h.2.2.2.2.2.2.1 0 0 holds).2 0x10000000).2 (.typed .mga) st_0 holds holds⟩⟩

theorem witness_TileContexts_2 (h : Obligations.TileContexts) :
    Goes (.xTilePeek (.typed .mga) 0 0 (0) none) st_0 ∧
    Goes (.xTileInject (.typed .mga) 0 true) st_0 ∧
    Goes (.xTileInject (.typed .mga) 0 false) st_0 :=
  ⟨((h.2.2.2.2.2.2.2.1 0 0 0 holds).2 (.typed .mga) st_0 holds).elim fun _ x => ⟨_, x⟩,
   ⟨_, (h.2.2.2.2.2.2.2.2 0).1.2 (.typed .mga) st_0 holds holds⟩,
   ⟨_, (h.2.2.2.2.2.2.2.2 0).2.2 (.typed .mga) st_0 holds holds⟩⟩

end Tile

namespace Reports

def st_0 : State := wState

theorem witness_ReportsOnlyReport_1 (h : Obligations.ReportsOnlyReport) :
    Goes (.pwr (.typed .mga)) st_0 ∧
    Goes (.shed (.typed .mga)) st_0 ∧
    Goes (.clk (.typed .mga)) st_0 ∧
    Goes (.therm (.typed .mga)) st_0 ∧
    Goes (.rtc (.typed .mga)) st_0 ∧
    Goes (.xPwrVmon (.typed .mga)) st_0 ∧
    Goes (.xPwrLog (.typed .mga)) st_0 ∧
    Goes (.inv (.typed .mga)) st_0 ∧
    Goes (.who (.typed .mga)) st_0 ∧
    Goes (.sess (.typed .mga)) st_0 ∧
    Goes (.ev (.typed .mga)) st_0 ∧
    Goes (.xBrx (.typed .mga)) st_0 :=
  ⟨(h.1.2 (.typed .mga) st_0 holds).elim fun _ x => ⟨_, x⟩,
   (h.2.1.2 (.typed .mga) st_0 holds).elim fun _ x => ⟨_, x⟩,
   (h.2.2.1.2 (.typed .mga) st_0 holds).elim fun _ x => ⟨_, x⟩,
   (h.2.2.2.1.2 (.typed .mga) st_0 holds).elim fun _ x => ⟨_, x⟩,
   (h.2.2.2.2.1.2 (.typed .mga) st_0 holds).elim fun _ x => ⟨_, x⟩,
   (h.2.2.2.2.2.1.2 (.typed .mga) st_0 holds).elim fun _ x => ⟨_, x⟩,
   (h.2.2.2.2.2.2.1.2 (.typed .mga) st_0 holds).elim fun _ x => ⟨_, x⟩,
   (h.2.2.2.2.2.2.2.1.2 (.typed .mga) st_0 holds).elim fun _ x => ⟨_, x⟩,
   (h.2.2.2.2.2.2.2.2.1.2 (.typed .mga) st_0 holds).elim fun _ x => ⟨_, x⟩,
   (h.2.2.2.2.2.2.2.2.2.1.2 (.typed .mga) st_0 holds).elim fun _ x => ⟨_, x⟩,
   (h.2.2.2.2.2.2.2.2.2.2.1.2 (.typed .mga) st_0 holds).elim fun _ x => ⟨_, x⟩,
   (h.2.2.2.2.2.2.2.2.2.2.2.1.2 (.typed .mga) st_0 holds).elim fun _ x => ⟨_, x⟩⟩

theorem witness_ReportsOnlyReport_2 (h : Obligations.ReportsOnlyReport) :
    Goes (.xCrc (.typed .mga) "") st_0 ∧
    Goes (.help (.typed .mga) none) st_0 ∧
    Goes (.log (.typed .mga) (some 1)) st_0 ∧
    Goes (.log (.typed .mga) none) st_0 ∧
    Goes (.unitList (.typed .mga)) st_0 ∧
    Goes (.unitShow (.typed .mga) (.pen 0)) st_0 ∧
    Goes (.xState (.typed .mga) (.pen 0)) st_0 ∧
    Goes (.xStateLog (.typed .mga)) st_0 ∧
    Goes (.pen (.typed .mga)) st_0 ∧
    Goes (.penShow (.typed .mga) 0) st_0 ∧
    Goes (.xCore (.typed .mga) 0) st_0 ∧
    Goes (.xCoreTsb (.typed .mga) 0) st_0 :=
  ⟨((h.2.2.2.2.2.2.2.2.2.2.2.2.1 "").2 (.typed .mga) st_0 holds).elim fun _ x => ⟨_, x⟩,
   (h.2.2.2.2.2.2.2.2.2.2.2.2.2.1.2 (.typed .mga) st_0 holds).elim fun _ x => ⟨_, x⟩,
   ((h.2.2.2.2.2.2.2.2.2.2.2.2.2.2.1 1 holds holds).2 (.typed .mga) st_0 holds).elim fun _ x => ⟨_, x⟩,
   (h.2.2.2.2.2.2.2.2.2.2.2.2.2.2.2.1.2 (.typed .mga) st_0 holds).elim fun _ x => ⟨_, x⟩,
   (h.2.2.2.2.2.2.2.2.2.2.2.2.2.2.2.2.1.2 (.typed .mga) st_0 holds).elim fun _ x => ⟨_, x⟩,
   ((h.2.2.2.2.2.2.2.2.2.2.2.2.2.2.2.2.2.1 (.pen 0)).2 (.typed .mga) st_0 holds).elim fun _ x => ⟨_, x⟩,
   (((h.2.2.2.2.2.2.2.2.2.2.2.2.2.2 |>.2.2.2.2.1) (.pen 0)).2 (.typed .mga) st_0 holds).elim fun _ x => ⟨_, x⟩,
   ((h.2.2.2.2.2.2.2.2.2.2.2.2.2.2 |>.2.2.2.2.2.1.2) (.typed .mga) st_0 holds).elim fun _ x => ⟨_, x⟩,
   ((h.2.2.2.2.2.2.2.2.2.2.2.2.2.2 |>.2.2.2.2.2.2.1.2) (.typed .mga) st_0 holds).elim fun _ x => ⟨_, x⟩,
   (((h.2.2.2.2.2.2.2.2.2.2.2.2.2.2 |>.2.2.2.2.2.2.2.1) 0).2 (.typed .mga) st_0 holds).elim fun _ x => ⟨_, x⟩,
   (((h.2.2.2.2.2.2.2.2.2.2.2.2.2.2 |>.2.2.2.2.2.2.2.2.1) 0).2 (.typed .mga) st_0 holds).elim fun _ x => ⟨_, x⟩,
   (((h.2.2.2.2.2.2.2.2.2.2.2.2.2.2 |>.2.2.2.2.2.2.2.2.2.1) 0).2 (.typed .mga) st_0 holds holds).elim fun _ x => ⟨_, x⟩⟩

theorem witness_ReportsOnlyReport_3 (h : Obligations.ReportsOnlyReport) :
    Goes (.ucode (.typed .mga)) st_0 ∧
    Goes (.ucodePen (.typed .mga) 0) st_0 ∧
    Goes (.xUcodePeek (.typed .mga) 0 (16 * 0) none false) st_0 ∧
    Goes (.exc (.typed .mga)) st_0 ∧
    Goes (.excPen (.typed .mga) 0) st_0 ∧
    Goes (.bw (.typed .mga)) st_0 ∧
    Goes (.xGate (.typed .mga) 0 0) st_0 ∧
    Goes (.ration (.typed .mga)) st_0 ∧
    Goes (.rationPen (.typed .mga) 0) st_0 ∧
    Goes (.task (.typed .mga) 0) st_0 ∧
    Goes (.xRationCoef (.typed .mga) 0 none) st_0 ∧
    Goes (.evr (.typed .mga)) st_0 :=
  ⟨((h.2.2.2.2.2.2.2.2.2.2.2.2.2.2 |>.2.2.2.2.2.2.2.2.2.2.1.2) (.typed .mga) st_0 holds).elim fun _ x => ⟨_, x⟩,
   (((h.2.2.2.2.2.2.2.2.2.2.2.2.2.2 |>.2.2.2.2.2.2.2.2.2.2.2.1) 0).2 (.typed .mga) st_0 holds).elim fun _ x => ⟨_, x⟩,
   (((h.2.2.2.2.2.2.2.2.2.2.2.2.2.2 |>.2.2.2.2.2.2.2.2.2.2.2.2.1) 0 0 false holds).2 (.typed .mga) st_0 holds).elim fun _ x => ⟨_, x⟩,
   ((h.2.2.2.2.2.2.2.2.2.2.2.2.2.2 |>.2.2.2.2.2.2.2.2.2.2.2.2.2.1 |>.2) (.typed .mga) st_0 holds).elim fun _ x => ⟨_, x⟩,
   (((h.2.2.2.2.2.2.2.2.2.2.2.2.2.2 |>.2.2.2.2.2.2.2.2.2.2.2.2.2.2 |>.1) 0).2 (.typed .mga) st_0 holds).elim fun _ x => ⟨_, x⟩,
   ((h.2.2.2.2.2.2.2.2.2.2.2.2.2.2 |>.2.2.2.2.2.2.2.2.2.2.2.2.2.2 |>.2.1.2) (.typed .mga) st_0 holds).elim fun _ x => ⟨_, x⟩,
   (((h.2.2.2.2.2.2.2.2.2.2.2.2.2.2 |>.2.2.2.2.2.2.2.2.2.2.2.2.2.2 |>.2.2.1) 0 0 holds).2 (.typed .mga) st_0 holds).elim fun _ x => ⟨_, x⟩,
   ((h.2.2.2.2.2.2.2.2.2.2.2.2.2.2 |>.2.2.2.2.2.2.2.2.2.2.2.2.2.2 |>.2.2.2.1.2) (.typed .mga) st_0 holds).elim fun _ x => ⟨_, x⟩,
   (((h.2.2.2.2.2.2.2.2.2.2.2.2.2.2 |>.2.2.2.2.2.2.2.2.2.2.2.2.2.2 |>.2.2.2.2.1) 0).2 (.typed .mga) st_0 holds).elim fun _ x => ⟨_, x⟩,
   (((h.2.2.2.2.2.2.2.2.2.2.2.2.2.2 |>.2.2.2.2.2.2.2.2.2.2.2.2.2.2 |>.2.2.2.2.2.1) 0).2 (.typed .mga) st_0 holds).elim fun _ x => ⟨_, x⟩,
   (((h.2.2.2.2.2.2.2.2.2.2.2.2.2.2 |>.2.2.2.2.2.2.2.2.2.2.2.2.2.2 |>.2.2.2.2.2.2.1) 0).2 (.typed .mga) st_0 holds).elim fun _ x => ⟨_, x⟩,
   ((h.2.2.2.2.2.2.2.2.2.2.2.2.2.2 |>.2.2.2.2.2.2.2.2.2.2.2.2.2.2 |>.2.2.2.2.2.2.2.1.2) (.typed .mga) st_0 holds).elim fun _ x => ⟨_, x⟩⟩

theorem witness_ReportsOnlyReport_4 (h : Obligations.ReportsOnlyReport) :
    Goes (.evrFold (.typed .mga) 0) st_0 ∧
    Goes (.evrSrc (.typed .mga) 0) st_0 ∧
    Goes (.xEvrRace (.typed .mga) 0) st_0 ∧
    Goes (.xEvrLatch (.typed .mga) none) st_0 ∧
    Goes (.halt (.typed .mga)) st_0 ∧
    Goes (.mem (.typed .mga)) st_0 ∧
    Goes (.memFold (.typed .mga) 0) st_0 ∧
    Goes (.myc (.typed .mga)) st_0 ∧
    Goes (.ecc (.typed .mga)) st_0 ∧
    Goes (.xSb (.typed .mga) 0) st_0 ∧
    Goes (.xMycPort (.typed .mga) 0) st_0 ∧
    Goes (.dma (.typed .mga)) st_0 :=
  ⟨(((h.2.2.2.2.2.2.2.2.2.2.2.2.2.2 |>.2.2.2.2.2.2.2.2.2.2.2.2.2.2 |>.2.2.2.2.2.2.2.2.1) 0).2 (.typed .mga) st_0 holds).elim fun _ x => ⟨_, x⟩,
   (((h.2.2.2.2.2.2.2.2.2.2.2.2.2.2 |>.2.2.2.2.2.2.2.2.2.2.2.2.2.2 |>.2.2.2.2.2.2.2.2.2.1) 0 holds).2 (.typed .mga) st_0 holds).elim fun _ x => ⟨_, x⟩,
   (((h.2.2.2.2.2.2.2.2.2.2.2.2.2.2 |>.2.2.2.2.2.2.2.2.2.2.2.2.2.2 |>.2.2.2.2.2.2.2.2.2.2.1) 0).2 (.typed .mga) st_0 holds).elim fun _ x => ⟨_, x⟩,
   ((h.2.2.2.2.2.2.2.2.2.2.2.2.2.2 |>.2.2.2.2.2.2.2.2.2.2.2.2.2.2 |>.2.2.2.2.2.2.2.2.2.2.2.1.2) (.typed .mga) st_0 holds).elim fun _ x => ⟨_, x⟩,
   ((h.2.2.2.2.2.2.2.2.2.2.2.2.2.2 |>.2.2.2.2.2.2.2.2.2.2.2.2.2.2 |>.2.2.2.2.2.2.2.2.2.2.2.2.1.2) (.typed .mga) st_0 holds).elim fun _ x => ⟨_, x⟩,
   ((h.2.2.2.2.2.2.2.2.2.2.2.2.2.2 |>.2.2.2.2.2.2.2.2.2.2.2.2.2.2 |>.2.2.2.2.2.2.2.2.2.2.2.2.2.1 |>.2) (.typed .mga) st_0 holds).elim fun _ x => ⟨_, x⟩,
   (((h.2.2.2.2.2.2.2.2.2.2.2.2.2.2 |>.2.2.2.2.2.2.2.2.2.2.2.2.2.2 |>.2.2.2.2.2.2.2.2.2.2.2.2.2.2 |>.1) 0).2 (.typed .mga) st_0 holds).elim fun _ x => ⟨_, x⟩,
   ((h.2.2.2.2.2.2.2.2.2.2.2.2.2.2 |>.2.2.2.2.2.2.2.2.2.2.2.2.2.2 |>.2.2.2.2.2.2.2.2.2.2.2.2.2.2 |>.2.1.2) (.typed .mga) st_0 holds).elim fun _ x => ⟨_, x⟩,
   ((h.2.2.2.2.2.2.2.2.2.2.2.2.2.2 |>.2.2.2.2.2.2.2.2.2.2.2.2.2.2 |>.2.2.2.2.2.2.2.2.2.2.2.2.2.2 |>.2.2.1.2) (.typed .mga) st_0 holds).elim fun _ x => ⟨_, x⟩,
   (((h.2.2.2.2.2.2.2.2.2.2.2.2.2.2 |>.2.2.2.2.2.2.2.2.2.2.2.2.2.2 |>.2.2.2.2.2.2.2.2.2.2.2.2.2.2 |>.2.2.2.1) 0).2 (.typed .mga) st_0 holds).elim fun _ x => ⟨_, x⟩,
   (((h.2.2.2.2.2.2.2.2.2.2.2.2.2.2 |>.2.2.2.2.2.2.2.2.2.2.2.2.2.2 |>.2.2.2.2.2.2.2.2.2.2.2.2.2.2 |>.2.2.2.2.1) 0 holds).2 (.typed .mga) st_0 holds).elim fun _ x => ⟨_, x⟩,
   ((h.2.2.2.2.2.2.2.2.2.2.2.2.2.2 |>.2.2.2.2.2.2.2.2.2.2.2.2.2.2 |>.2.2.2.2.2.2.2.2.2.2.2.2.2.2 |>.2.2.2.2.2.1.2) (.typed .mga) st_0 holds).elim fun _ x => ⟨_, x⟩⟩

theorem witness_ReportsOnlyReport_5 (h : Obligations.ReportsOnlyReport) :
    Goes (.dmaShow (.typed .mga) 0) st_0 ∧
    Goes (.xDmaDesc (.typed .mga) 0 none) st_0 ∧
    Goes (.xDmaMovers (.typed .mga)) st_0 ∧
    Goes (.port (.typed .mga)) st_0 ∧
    Goes (.portShow (.typed .mga) (.t1s 1)) st_0 ∧
    Goes (.xPortRegs (.typed .mga) (.t1s 1)) st_0 ∧
    Goes (.ptab (.typed .mga) none) st_0 ∧
    Goes (.ptab (.typed .mga) (some (.t1s 1))) st_0 ∧
    Goes (.xPtabDump (.typed .mga) (some (0, 1))) st_0 ∧
    Goes (.pool (.typed .mga)) st_0 ∧
    Goes (.xPoolMap (.typed .mga)) st_0 ∧
    Goes (.afe (.typed .mga)) st_0 :=
  ⟨(((h.2.2.2.2.2.2.2.2.2.2.2.2.2.2 |>.2.2.2.2.2.2.2.2.2.2.2.2.2.2 |>.2.2.2.2.2.2.2.2.2.2.2.2.2.2 |>.2.2.2.2.2.2.1) 0).2 (.typed .mga) st_0 holds).elim fun _ x => ⟨_, x⟩,
   (((h.2.2.2.2.2.2.2.2.2.2.2.2.2.2 |>.2.2.2.2.2.2.2.2.2.2.2.2.2.2 |>.2.2.2.2.2.2.2.2.2.2.2.2.2.2 |>.2.2.2.2.2.2.2.1) 0).2 (.typed .mga) st_0 holds holds).elim fun _ x => ⟨_, x⟩,
   ((h.2.2.2.2.2.2.2.2.2.2.2.2.2.2 |>.2.2.2.2.2.2.2.2.2.2.2.2.2.2 |>.2.2.2.2.2.2.2.2.2.2.2.2.2.2 |>.2.2.2.2.2.2.2.2.1.2) (.typed .mga) st_0 holds).elim fun _ x => ⟨_, x⟩,
   ((h.2.2.2.2.2.2.2.2.2.2.2.2.2.2 |>.2.2.2.2.2.2.2.2.2.2.2.2.2.2 |>.2.2.2.2.2.2.2.2.2.2.2.2.2.2 |>.2.2.2.2.2.2.2.2.2.1.2) (.typed .mga) st_0 holds).elim fun _ x => ⟨_, x⟩,
   (((h.2.2.2.2.2.2.2.2.2.2.2.2.2.2 |>.2.2.2.2.2.2.2.2.2.2.2.2.2.2 |>.2.2.2.2.2.2.2.2.2.2.2.2.2.2 |>.2.2.2.2.2.2.2.2.2.2.1) (.t1s 1)).2 (.typed .mga) st_0 holds).elim fun _ x => ⟨_, x⟩,
   (((h.2.2.2.2.2.2.2.2.2.2.2.2.2.2 |>.2.2.2.2.2.2.2.2.2.2.2.2.2.2 |>.2.2.2.2.2.2.2.2.2.2.2.2.2.2 |>.2.2.2.2.2.2.2.2.2.2.2.1) (.t1s 1)).2 (.typed .mga) st_0 holds).elim fun _ x => ⟨_, x⟩,
   ((h.2.2.2.2.2.2.2.2.2.2.2.2.2.2 |>.2.2.2.2.2.2.2.2.2.2.2.2.2.2 |>.2.2.2.2.2.2.2.2.2.2.2.2.2.2 |>.2.2.2.2.2.2.2.2.2.2.2.2.1.2) (.typed .mga) st_0 holds).elim fun _ x => ⟨_, x⟩,
   (((h.2.2.2.2.2.2.2.2.2.2.2.2.2.2 |>.2.2.2.2.2.2.2.2.2.2.2.2.2.2 |>.2.2.2.2.2.2.2.2.2.2.2.2.2.2 |>.2.2.2.2.2.2.2.2.2.2.2.2.2.1) (.t1s 1)).2 (.typed .mga) st_0 holds).elim fun _ x => ⟨_, x⟩,
   (((h.2.2.2.2.2.2.2.2.2.2.2.2.2.2 |>.2.2.2.2.2.2.2.2.2.2.2.2.2.2 |>.2.2.2.2.2.2.2.2.2.2.2.2.2.2 |>.2.2.2.2.2.2.2.2.2.2.2.2.2.2 |>.1) 0 1 holds holds holds).2 (.typed .mga) st_0 holds).elim fun _ x => ⟨_, x⟩,
   ((h.2.2.2.2.2.2.2.2.2.2.2.2.2.2 |>.2.2.2.2.2.2.2.2.2.2.2.2.2.2 |>.2.2.2.2.2.2.2.2.2.2.2.2.2.2 |>.2.2.2.2.2.2.2.2.2.2.2.2.2.2 |>.2.1.2) (.typed .mga) st_0 holds).elim fun _ x => ⟨_, x⟩,
   ((h.2.2.2.2.2.2.2.2.2.2.2.2.2.2 |>.2.2.2.2.2.2.2.2.2.2.2.2.2.2 |>.2.2.2.2.2.2.2.2.2.2.2.2.2.2 |>.2.2.2.2.2.2.2.2.2.2.2.2.2.2 |>.2.2.1.2) (.typed .mga) st_0 holds).elim fun _ x => ⟨_, x⟩,
   ((h.2.2.2.2.2.2.2.2.2.2.2.2.2.2 |>.2.2.2.2.2.2.2.2.2.2.2.2.2.2 |>.2.2.2.2.2.2.2.2.2.2.2.2.2.2 |>.2.2.2.2.2.2.2.2.2.2.2.2.2.2 |>.2.2.2.1.2) (.typed .mga) st_0 holds).elim fun _ x => ⟨_, x⟩⟩

theorem witness_ReportsOnlyReport_6 (h : Obligations.ReportsOnlyReport) :
    Goes (.xAfeLast (.typed .mga)) st_0 ∧
    Goes (.pwm (.typed .mga) none) st_0 ∧
    Goes (.pwm (.typed .mga) (some 0)) st_0 ∧
    Goes (.xPwmRegs (.typed .mga) 0) st_0 ∧
    Goes (.xGpioMism (.typed .mga) false) st_0 ∧
    Goes (.boot (.typed .mga)) st_0 :=
  ⟨((h.2.2.2.2.2.2.2.2.2.2.2.2.2.2 |>.2.2.2.2.2.2.2.2.2.2.2.2.2.2 |>.2.2.2.2.2.2.2.2.2.2.2.2.2.2 |>.2.2.2.2.2.2.2.2.2.2.2.2.2.2 |>.2.2.2.2.1.2) (.typed .mga) st_0 holds).elim fun _ x => ⟨_, x⟩,
   ((h.2.2.2.2.2.2.2.2.2.2.2.2.2.2 |>.2.2.2.2.2.2.2.2.2.2.2.2.2.2 |>.2.2.2.2.2.2.2.2.2.2.2.2.2.2 |>.2.2.2.2.2.2.2.2.2.2.2.2.2.2 |>.2.2.2.2.2.1.2) (.typed .mga) st_0 holds).elim fun _ x => ⟨_, x⟩,
   (((h.2.2.2.2.2.2.2.2.2.2.2.2.2.2 |>.2.2.2.2.2.2.2.2.2.2.2.2.2.2 |>.2.2.2.2.2.2.2.2.2.2.2.2.2.2 |>.2.2.2.2.2.2.2.2.2.2.2.2.2.2 |>.2.2.2.2.2.2.1) 0).2 (.typed .mga) st_0 holds).elim fun _ x => ⟨_, x⟩,
   (((h.2.2.2.2.2.2.2.2.2.2.2.2.2.2 |>.2.2.2.2.2.2.2.2.2.2.2.2.2.2 |>.2.2.2.2.2.2.2.2.2.2.2.2.2.2 |>.2.2.2.2.2.2.2.2.2.2.2.2.2.2 |>.2.2.2.2.2.2.2.1) 0).2 (.typed .mga) st_0 holds).elim fun _ x => ⟨_, x⟩,
   ((h.2.2.2.2.2.2.2.2.2.2.2.2.2.2 |>.2.2.2.2.2.2.2.2.2.2.2.2.2.2 |>.2.2.2.2.2.2.2.2.2.2.2.2.2.2 |>.2.2.2.2.2.2.2.2.2.2.2.2.2.2 |>.2.2.2.2.2.2.2.2.1.2) (.typed .mga) st_0 holds).elim fun _ x => ⟨_, x⟩,
   ((h.2.2.2.2.2.2.2.2.2.2.2.2.2.2 |>.2.2.2.2.2.2.2.2.2.2.2.2.2.2 |>.2.2.2.2.2.2.2.2.2.2.2.2.2.2 |>.2.2.2.2.2.2.2.2.2.2.2.2.2.2 |>.2.2.2.2.2.2.2.2.2) (.typed .mga) st_0 holds).elim fun _ x => ⟨_, x⟩⟩

end Reports

namespace Pmu

def st_0 : State := wState
def st_2 : State := mp fun m => { m with cur := .idle, wakeEn := 0x3000001 }
def st_4 : State := mp fun m => { m with trans := some { target := .slow, origin := .reg, stage := .drain } }
def st_5 : State := mp fun m => { m with trans := some { target := .retain, origin := .reg, stage := .drain } }
def st_6 : State := mp fun m => { m with trans := some { target := .retain, origin := .reg, stage := .entry } }
def st_9 : State := mp fun m => { m with trans := some { target := .off, origin := .via (.typed .mga), stage := .drain } }
def st_10 : State := md fun d => (updPmu d fun m => { m with trans := some { target := .off, origin := .reg, stage := .drain } }).updCore 0 fun k => { k with sb := [{ addr := 0x10000010, size := 2, val := 0x12345678, pc := 0x100, cls := .drove, lvl := 0, slot := 0, priv := .f, issued := true }] }
def st_11 : State := mp fun m => { m with cur := .retain, wakeEn := 0x7FFFFFF }
def st_12 : State := mp fun m => { m with cur := .spore, wakeEn := 0x7FFFFFF }
def st_14 : State := md fun d => { d with phase := .reset .pin }
def st_16 : State := mp fun m => { m with step := some (0, .window) }
def st_18 : State := mp fun m => { m with step := some (2, .drain) }
def st_19 : State := mp fun m => { m with step := some (4, .copy), cur := .retain, s5base := 0x10000000, s5len := 3 }
def st_20 : State := mp fun m => { m with applied := 0x1F, vcause := 3, scause := 5 }
def st_21 : State := mp fun m => { m with rtcAlm := m.rtcSec + 1 }
def st_22 : State := mp fun m => { m with fallback := true }
def st_24 : State := mp fun m => { m with applied := 0x1F, elig := 0x18 }
def st_25 : State := mp fun m => { m with temps := m.temps.map fun _ => 620 }
def st_27 : State := mp fun m => { m with cur := .slow }

theorem witness_PowerStates_1 (h : Obligations.PowerStates) :
    Goes (.pmuCmdRun .bw 0#16) st_2 ∧
    Goes (.pmuCmdRun .bw 1#16) st_0 ∧
    Goes (.pmuCmdSlow .bw 0#16) st_0 ∧
    Goes (.pmuCmdSlow .bw 1#16) st_0 ∧
    Goes (.pmuCmdIdle .bw 0#16) st_0 ∧
    Goes (.pmuCmdIdle .bw 1#16) st_0 ∧
    Goes (.pmuCmdRetain .bw 0#16) st_2 ∧
    Goes (.pmuCmdRetain .bw 1#16) st_0 ∧
    Goes (.pmuCmdSpore .bw 0#16) st_2 ∧
    Goes (.pmuCmdSpore .bw 1#16) st_0 ∧
    Goes (.pmuCmdOff .bw 0#16) st_0 ∧
    Goes (.pmuCmdOff .bw 1#16) st_0 :=
  ⟨⟨_, (h.1 .bw 0#16 st_2 holds holds).1 holds holds⟩,
   ⟨_, (h.1 .bw 1#16 st_0 holds holds).2 holds⟩,
   ⟨_, (h.2.1 .bw 0#16 st_0 holds holds).1 holds holds⟩,
   ⟨_, (h.2.1 .bw 1#16 st_0 holds holds).2 holds⟩,
   ⟨_, (h.2.2.1 .bw 0#16 st_0 holds holds).1 holds holds⟩,
   ⟨_, (h.2.2.1 .bw 1#16 st_0 holds holds).2 holds⟩,
   ⟨_, (h.2.2.2.1 .bw 0#16 st_2 holds holds).1 holds holds⟩,
   ⟨_, (h.2.2.2.1 .bw 1#16 st_0 holds holds).2 holds⟩,
   ⟨_, (h.2.2.2.2.1 .bw 0#16 st_2 holds holds).1 holds holds⟩,
   ⟨_, (h.2.2.2.2.1 .bw 1#16 st_0 holds holds).2 holds⟩,
   ⟨_, (h.2.2.2.2.2.1 .bw 0#16 st_0 holds holds).1 holds holds⟩,
   ⟨_, (h.2.2.2.2.2.1 .bw 1#16 st_0 holds holds).2 holds⟩⟩

theorem witness_PowerStates_2 (h : Obligations.PowerStates) :
    Goes (.pwrRun (.typed .mga)) st_0 ∧
    Goes (.pwrSlow (.typed .mga)) st_27 ∧
    Goes (.pwrRun (.typed .mga)) st_27 ∧
    Goes (.pwrSlow (.typed .mga)) st_0 ∧
    Goes (.pwrIdle (.typed .mga)) st_0 ∧
    Goes (.pwrRetain (.typed .mga)) st_2 ∧
    Goes (.pwrSpore (.typed .mga)) st_2 ∧
    Goes (.pwrOff (.typed .mga)) st_0 ∧
    Goes (.powerDrainComplete) st_4 ∧
    Goes (.powerDrainComplete) st_5 ∧
    Goes (.powerDrainComplete) st_9 ∧
    Goes (.powerDrainTimeout) st_10 :=
  ⟨⟨_, h.2.2.2.2.2.2.1 (.typed .mga) st_0 holds holds holds holds holds⟩,
   ⟨_, h.2.2.2.2.2.2.2.1 (.typed .mga) st_27 holds holds holds holds holds⟩,
   ⟨_, h.2.2.2.2.2.2.2.2.1.2 (.typed .mga) st_27 holds holds holds⟩,
   ⟨_, h.2.2.2.2.2.2.2.2.2.1.2 (.typed .mga) st_0 holds holds holds⟩,
   ⟨_, h.2.2.2.2.2.2.2.2.2.2.1.2 (.typed .mga) st_0 holds holds holds⟩,
   ⟨_, h.2.2.2.2.2.2.2.2.2.2.2.1.2 (.typed .mga) st_2 holds holds holds⟩,
   ⟨_, h.2.2.2.2.2.2.2.2.2.2.2.2.1.2 (.typed .mga) st_2 holds holds holds⟩,
   ⟨_, h.2.2.2.2.2.2.2.2.2.2.2.2.2.1.2 (.typed .mga) st_0 holds holds holds⟩,
   ⟨_, (h.2.2.2.2.2.2.2.2.2.2.2.2.2.2.1 st_4 ({ target := .slow, origin := .reg, stage := .drain }) holds holds holds).1 holds holds holds⟩,
   ⟨_, (h.2.2.2.2.2.2.2.2.2.2.2.2.2.2.1 st_5 ({ target := .retain, origin := .reg, stage := .drain }) holds holds holds).2.1 holds holds holds⟩,
   ⟨_, (h.2.2.2.2.2.2.2.2.2.2.2.2.2.2.1 st_9 ({ target := .off, origin := .via (.typed .mga), stage := .drain }) holds holds holds).2.2 .mga holds holds holds⟩,
   ⟨_, h.2.2.2.2.2.2.2.2.2.2.2.2.2.2.2.1 st_10 holds⟩⟩

theorem witness_PowerStates_3 (h : Obligations.PowerStates) :
    Goes (.powerStateEntryComplete) st_6 ∧
    Goes (.wakeFromIdle (.arm (.wake 0))) st_2 ∧
    Goes (.wakeFromRetain (.arm (.wake 0)) PllState.locked) st_11 ∧
    Goes (.wakeFromSpore (.arm (.wake 0))) st_12 :=
  ⟨⟨_, h.2.2.2.2.2.2.2.2.2.2.2.2.2.2.2.2.1 st_6 ({ target := .retain, origin := .reg, stage := .entry }) holds holds holds holds holds holds⟩,
   ⟨_, h.2.2.2.2.2.2.2.2.2.2.2.2.2.2.2.2.2.1 (.arm (.wake 0)) st_2 holds⟩,
   ⟨_, (h.2.2.2.2.2.2.2.2.2.2.2.2.2.2 |>.2.2.2.2.1) (.arm (.wake 0)) st_11 holds⟩,
   ⟨_, (h.2.2.2.2.2.2.2.2.2.2.2.2.2.2 |>.2.2.2.2.2.1) (.arm (.wake 0)) st_12 holds⟩⟩

theorem witness_ResetsAndShedding_1 (h : Obligations.ResetsAndShedding) :
    Goes (.powerOnReset ⟨0, 0#4⟩) st_0 ∧
    Goes (.brownOutReset 0x10000000) st_0 ∧
    Goes (.overVoltageReset 0x10000000) st_0 ∧
    Goes (.overTemperatureReset 0 700) st_0 ∧
    Goes (.pinReset) st_0 ∧
    Goes (.resetRelease 0x10000000 0 PllState.locked) st_14 ∧
    Goes (.resetRelease 0x10000000 0 PllState.locked) st_14 ∧
    (deviceReset (st_0.dev) .pin).pmu.rtcSec = (st_0.dev).pmu.rtcSec ∧
    Goes (.shedStepApply 0 ShedCause.vin 0) st_0 ∧
    Goes (.shedStepApply 0 ShedCause.therm 0) st_25 ∧
    stepApplied (shedDue .vin (st_0.dev) 2) 2 = true ∧
    Goes (.tileCommitWindowExpiry) st_16 :=
  ⟨⟨_, h.1 0 0#4 st_0 holds⟩,
   ⟨_, h.2.1 0x10000000 holds st_0 holds⟩,
   ⟨_, h.2.2.1 0x10000000 holds st_0 holds⟩,
   ⟨_, h.2.2.2.1 0 700 holds st_0 holds⟩,
   ⟨_, h.2.2.2.2.1 st_0 holds⟩,
   ⟨_, h.2.2.2.2.2.1 0x10000000 0 holds st_14 holds⟩,
   (h.2.2.2.2.2.2.2.1 0x10000000 0 st_14 .pin holds holds).elim fun _ x => ⟨_, x.1⟩,
   ((h.2.2.2.2.2.2.2.2.1 (st_0.dev) .pin).2.2.2.2.2.2 holds).1,
   ⟨_, h.2.2.2.2.2.2.2.2.2.1 0 0 holds st_0 holds⟩,
   ⟨_, h.2.2.2.2.2.2.2.2.2.2.1 0 0 st_25 holds⟩,
   (h.2.2.2.2.2.2.2.2.2.2.2.1 .vin 2 (st_0.dev) holds holds holds holds holds holds holds).1,
   ⟨_, h.2.2.2.2.2.2.2.2.2.2.2.2.1 st_16 holds⟩⟩

theorem witness_ResetsAndShedding_2 (h : Obligations.ResetsAndShedding) :
    Goes (.shedDrainTimeout) st_18 ∧
    Goes (.s5SaveCopy) st_19 ∧
    Goes (.restoreEligible 0 0 0) st_24 ∧
    Goes (.thermWarn 0 540) st_0 ∧
    Goes (.thermTrip 0 620) st_0 ∧
    Goes (.clkFail false) st_0 ∧
    Goes (.pllRelock) st_0 ∧
    Goes (.lineBreak .mga) st_0 ∧
    Goes (.rtcSecondTick) st_0 ∧
    Goes (.rtcSecondTick) st_21 :=
  have _ := (h.2.2.2.2.2.2.2.2.2.2.2.2.2.2.1 (st_0.dev) 0 holds).1
  ⟨⟨_, h.2.2.2.2.2.2.2.2.2.2.2.2.2.1 2 holds st_18 holds⟩,
   ⟨_, h.2.2.2.2.2.2.2.2.2.2.2.2.2.2.2.1 st_19 holds⟩,
   ⟨_, h.2.2.2.2.2.2.2.2.2.2.2.2.2.2.2.2.1 0 0 0 st_24 holds⟩,
   ⟨_, (h.2.2.2.2.2.2.2.2.2.2.2.2.2.2.2.2.2.1 0 540 holds).1 st_0 holds⟩,
   ⟨_, (h.2.2.2.2.2.2.2.2.2.2.2.2.2.2.2.2.2.1 0 620 holds).2 holds st_0 holds⟩,
   ⟨_, (h.2.2.2.2.2.2.2.2.2.2.2.2.2.2 |>.2.2.2.2.1) false st_0 holds⟩,
   ⟨_, (h.2.2.2.2.2.2.2.2.2.2.2.2.2.2 |>.2.2.2.2.2.1) st_0 holds⟩,
   ⟨_, (h.2.2.2.2.2.2.2.2.2.2.2.2.2.2 |>.2.2.2.2.2.2.1) .mga st_0 holds⟩,
   ⟨_, (h.2.2.2.2.2.2.2.2.2.2.2.2.2.2 |>.2.2.2.2.2.2.2.1) st_0 holds⟩,
   ⟨_, (h.2.2.2.2.2.2.2.2.2.2.2.2.2.2 |>.2.2.2.2.2.2.2.2) st_21 holds⟩⟩

theorem witness_PmuSettings_1 (h : Obligations.PmuSettings) :
    Goes (.pmuWakeWrite .bw 0#32) st_0 ∧
    Goes (.pmuRestoreWrite .bw ↑(1 <<< 0)) st_0 ∧
    stepApplied (restore 0 (st_24.dev)).fst 4 = false ∧
    Goes (.lwatchWrite .bw 0#32) st_0 ∧
    Goes (.keepafeWrite .bw 0#32) st_0 ∧
    Goes (.keepportWrite .bw 0#32) st_0 ∧
    Goes (.keepdmaWrite .bw false 0#32) st_0 ∧
    Goes (.keepdmaWrite .bw true 0#32) st_0 ∧
    Goes (.s5RegionWrite .bw false 0#32) st_0 ∧
    Goes (.s5RegionWrite .bw true 0#32) st_0 ∧
    Goes (.pwrWake (.typed .mga) 0) st_0 :=
  have _ := (h.2.2.1 0 (st_20.dev) 4 [3,2,1,0] holds).1
  ⟨⟨_, h.1 0#32 holds .bw st_0 holds holds holds⟩,
   ⟨_, h.2.1 0 .bw st_0 holds holds holds⟩,
   ((h.2.2.1 0 (st_24.dev) 4 [3,2,1,0] holds).2 holds holds).1,
   ⟨_, h.2.2.2.1 0#32 .bw st_0 holds holds holds⟩,
   ⟨_, h.2.2.2.2.1 0#32 .bw st_0 holds holds holds⟩,
   ⟨_, h.2.2.2.2.2.1 0#32 .bw st_0 holds holds holds⟩,
   ⟨_, (h.2.2.2.2.2.2.1 0#32).1 .bw st_0 holds holds holds⟩,
   ⟨_, (h.2.2.2.2.2.2.1 0#32).2 .bw st_0 holds holds holds⟩,
   ⟨_, (h.2.2.2.2.2.2.2.1 0#32).1 .bw st_0 holds holds holds⟩,
   ⟨_, (h.2.2.2.2.2.2.2.1 0#32).2 .bw st_0 holds holds holds⟩,
   ⟨_, h.2.2.2.2.2.2.2.2.1.2 (.typed .mga) st_0 holds holds⟩⟩

theorem witness_PmuSettings_2 (h : Obligations.PmuSettings) :
    Goes (.pwrWake (.typed .mga) 1) st_0 ∧
    Goes (.pwrWake (.typed .mga) 2) st_0 ∧
    Goes (.pwrArm (.typed .mga) [(.wake 0)]) st_0 ∧
    Goes (.pwrDisarm (.typed .mga) [(.wake 0)]) st_0 ∧
    Goes (.pwrRestore (.typed .mga) none) st_0 ∧
    Goes (.shedLastwatch (.typed .mga) (some 1)) st_0 ∧
    Goes (.shedLastwatch (.typed .mga) none) st_0 ∧
    Goes (.shedKeep (.typed .mga) KeepKind.afe [0]) st_0 ∧
    Goes (.shedKeep (.typed .mga) KeepKind.can [0]) st_0 ∧
    Goes (.shedKeep (.typed .mga) KeepKind.dma []) st_0 ∧
    Goes (.shedSave (.typed .mga) (some (0x10000000, 0))) st_0 ∧
    Goes (.shedSave (.typed .mga) none) st_0 :=
  ⟨⟨_, h.2.2.2.2.2.2.2.2.2.1.2 (.typed .mga) st_0 holds holds⟩,
   ⟨_, h.2.2.2.2.2.2.2.2.2.2.1.2 (.typed .mga) st_0 holds holds⟩,
   ⟨_, (h.2.2.2.2.2.2.2.2.2.2.2.1 (.wake 0)).1.2 (.typed .mga) st_0 holds holds⟩,
   ⟨_, (h.2.2.2.2.2.2.2.2.2.2.2.1 (.wake 0)).2.2 (.typed .mga) st_0 holds holds⟩,
   ⟨_, (h.2.2.2.2.2.2.2.2.2.2.2.2.1 none).2 (.typed .mga) st_0 holds holds⟩,
   ⟨_, (h.2.2.2.2.2.2.2.2.2.2.2.2.2.1 1).2 (.typed .mga) st_0 holds holds⟩,
   ⟨_, h.2.2.2.2.2.2.2.2.2.2.2.2.2.2.1.2 (.typed .mga) st_0 holds holds⟩,
   ⟨_, (h.2.2.2.2.2.2.2.2.2.2.2.2.2.2.2.1 0).2 (.typed .mga) st_0 holds holds⟩,
   ⟨_, (h.2.2.2.2.2.2.2.2.2.2.2.2.2.2.2.2.1 0).2 (.typed .mga) st_0 holds holds⟩,
   ⟨_, (h.2.2.2.2.2.2.2.2.2.2.2.2.2.2 |>.2.2.2.1.2) (.typed .mga) st_0 holds holds⟩,
   ⟨_, ((h.2.2.2.2.2.2.2.2.2.2.2.2.2.2 |>.2.2.2.2.1) 0x10000000 0 holds holds holds holds holds).2 (.typed .mga) st_0 holds holds⟩,
   ⟨_, (h.2.2.2.2.2.2.2.2.2.2.2.2.2.2 |>.2.2.2.2.2.1.2) (.typed .mga) st_0 holds holds⟩⟩

theorem witness_PmuSettings_3 (h : Obligations.PmuSettings) :
    Goes (.rtcSet (.typed .mga) 0) st_0 ∧
    Goes (.rtcAlarm (.typed .mga) (some 0x10000000)) st_0 ∧
    Goes (.rtcAlarm (.typed .mga) none) st_0 ∧
    Goes (.xPwrSim (.typed .mga) 0) st_0 ∧
    Goes (.xPwrSimOff (.typed .mga)) st_0 ∧
    Goes (.xThermSim (.typed .mga) (some 0)) st_0 ∧
    Goes (.xThermSim (.typed .mga) none) st_0 ∧
    Goes (.xClkRestore (.typed .mga)) st_22 :=
  ⟨⟨_, ((h.2.2.2.2.2.2.2.2.2.2.2.2.2.2 |>.2.2.2.2.2.2.1) 0 holds).1.2 (.typed .mga) st_0 holds holds⟩,
   ⟨_, ((h.2.2.2.2.2.2.2.2.2.2.2.2.2.2 |>.2.2.2.2.2.2.1) 0x10000000 holds).2.2 (.typed .mga) st_0 holds holds⟩,
   ⟨_, (h.2.2.2.2.2.2.2.2.2.2.2.2.2.2 |>.2.2.2.2.2.2.2.1.2) (.typed .mga) st_0 holds holds⟩,
   ⟨_, ((h.2.2.2.2.2.2.2.2.2.2.2.2.2.2 |>.2.2.2.2.2.2.2.2.1) 0).2 (.typed .mga) st_0 holds holds⟩,
   ⟨_, (h.2.2.2.2.2.2.2.2.2.2.2.2.2.2 |>.2.2.2.2.2.2.2.2.2.1.2) (.typed .mga) st_0 holds holds⟩,
   ⟨_, ((h.2.2.2.2.2.2.2.2.2.2.2.2.2.2 |>.2.2.2.2.2.2.2.2.2.2.1) 0 holds holds).2 (.typed .mga) st_0 holds holds⟩,
   ⟨_, (h.2.2.2.2.2.2.2.2.2.2.2.2.2.2 |>.2.2.2.2.2.2.2.2.2.2.2.1.2) (.typed .mga) st_0 holds holds⟩,
   ⟨_, (h.2.2.2.2.2.2.2.2.2.2.2.2.2.2 |>.2.2.2.2.2.2.2.2.2.2.2.2.2) (.typed .mga) st_22 holds holds⟩⟩

end Pmu

namespace Console

def mm (f : Console → Console) : State := md fun d => d.updMg .mga f
def key (b : Nat) : OtpKey := { bits := BitVec.ofNat 512 b, prog := true, revoked := false, bad := false }
def ch0 : Chal := { nonce := 77, role := .engineer, fold := none, age := 3 }
def otpS (s : State) : State := { s with otp := { s.otp with role := (List.range 22).map key } }
def macOf (c : Chal) : BitVec 256 := BitVec.ofNat 256 (beNat (hmac ((loginKey (otpS wState).otp c.role c.fold).getD []) (loginMessage .mga c)))
def rl (s : String) : RxLine := { text := s.toList.map fun c => BitVec.ofNat 8 c.toNat, bad := false, ovf := false, stamp := 0, cut := false }
def st_0 : State := wState
def st_3 : State := mm fun k => { k with lastCr := true, cfg := k.cfg &&& 0xFFFBFFFF}
def st_4 : State := mm fun k => { k with rx := [0x23, 0x41], deferred := some (.baud 0x4C0) }
def st_5 : State := mm fun k => { k with deferred := some .resetDevice }
def st_6 : State := md fun d => (updPmu d fun m => { m with trans := some { target := .off, origin := .reg, stage := .wait .mga } }).updMg .mga fun k => { k with deferred := some .power }
def st_7 : State := mm fun k => { k with evq := [⟨"!ABC"⟩, ⟨"!DE"⟩], genForm := true, evCount := 7 }
def st_9 : State := md fun d => { d with mga := { d.mga with ready := false } }
def st_10 : State := otpS (mm fun k => { k with chal := some ch0 })
def st_11 : State := otpS (mm fun k => { k with chal := some { ch0 with role := .machine }, authFails := 2 })
def st_12 : State := mm fun k => { k with timeout := 60, idle := 99 }
def st_14 : State := md fun d => { d with boot := { d.boot with inScript := true } }
def st_17 : State := mm fun k => { k with lines := [rl "#1 boot;1234"] }
def st_18 : State := mm fun k => { k with lines := [rl "#1 boot;725B"] }
def st_19 : State := mm fun k => { k with lines := [rl "#1 boot;725B"], kept := some (1, "boot", ["#1 ok;1B29"]) }

theorem witness_ConsoleLines_1 (h : Obligations.ConsoleLines) :
    Goes (.characterReceived .mga 32#8 false) st_0 ∧
    Goes (.characterReceived .mga 32#8 true) st_0 ∧
    Goes (.characterReceived .mga 13 false) st_0 ∧
    Goes (.characterReceived .mga 10 false) st_3 ∧
    Goes (.generatedLine .mga) st_17 ∧
    Goes (.generatedLine .mga) st_18 ∧
    Goes (.generatedLine .mga) st_19 ∧
    Goes (.eventTransmit .mga) st_7 ∧
    Goes (.ready) st_9 ∧
    Goes (.statusLineSent .mga) st_0 ∧
    Goes (.statusLineSent .mga) st_4 ∧
    Goes (.statusLineSent .mga) st_5 :=
  ⟨⟨_, h.1 .mga 32#8 holds holds st_0 holds⟩,
   ⟨_, h.2.1 .mga 32#8 st_0 holds⟩,
   ⟨_, h.2.2.1 .mga st_0 holds⟩,
   ⟨_, h.2.2.2.1 .mga st_3 holds⟩,
   ⟨_, ((h.2.2.2.2.1 .mga st_17 (rl "#1 boot;1234") [] holds holds holds holds).2 holds ("#1 boot;".toList) 0x1234 holds).1 holds⟩,
   ⟨_, (((h.2.2.2.2.1 .mga st_18 (rl "#1 boot;725B") [] holds holds holds holds).2 holds ("#1 boot;".toList) 0x725B holds).2 holds 1 ("boot".toList) holds).1 holds⟩,
   ⟨_, (((h.2.2.2.2.1 .mga st_19 (rl "#1 boot;725B") [] holds holds holds holds).2 holds ("#1 boot;".toList) 0x725B holds).2 holds 1 ("boot".toList) holds).2 ("#1 ok;1B29") [] holds⟩,
   ⟨_, h.2.2.2.2.2.1 .mga st_7 ⟨"!ABC"⟩ [⟨"!DE"⟩] holds holds holds holds holds holds⟩,
   ⟨_, h.2.2.2.2.2.2.1 st_9 holds⟩,
   ⟨_, (h.2.2.2.2.2.2.2 .mga st_0).1 holds⟩,
   ⟨_, (h.2.2.2.2.2.2.2 .mga st_4).2.1 0x4C0 holds⟩,
   ⟨_, (h.2.2.2.2.2.2.2 .mga st_5).2.2.1 holds⟩⟩

theorem witness_ConsoleLines_2 (h : Obligations.ConsoleLines) :
    Goes (.statusLineSent .mga) st_6 :=
  ⟨_, (h.2.2.2.2.2.2.2 .mga st_6).2.2.2 ({ target := .off, origin := .reg, stage := .wait .mga }) holds holds holds⟩

theorem witness_Sessions_1 (h : Obligations.Sessions) :
    Goes (.login (.typed .mga) .operate none) st_10 ∧
    Goes (.auth (.typed .mga) (macOf ch0)) st_10 ∧
    Goes (.auth (.typed .mga) (macOf ch0)) st_11 ∧
    Goes (.authBlockExpiry .mga) st_0 ∧
    Goes (.sessionTimeout .mga) st_12 ∧
    Goes (.logout (.typed .mga)) st_0 ∧
    Goes (.logout .script) st_14 ∧
    Goes (.xSessKill (.typed .mga) .mgb) st_0 ∧
    Goes (.sessEcho (.typed .mga) true) st_0 ∧
    Goes (.sessEcho (.typed .mga) false) st_0 ∧
    Goes (.sessBaud (.typed .mga) (100 * 96) (some 0)) st_0 :=
  have _ := h.2.2.1 (otpS wState).otp .mga ({ ch0 with age := 31 }) (macOf ch0) holds
  ⟨⟨_, h.1 (.typed .mga) .mga .operate none st_10 holds holds holds holds holds holds holds⟩,
   ⟨_, (h.2.1 (.typed .mga) .mga (macOf ch0) st_10 ch0 holds holds holds).1 holds holds⟩,
   ⟨_, (h.2.1 (.typed .mga) .mga (macOf ch0) st_11 ({ ch0 with role := .machine }) holds holds holds).2 holds⟩,
   ⟨_, h.2.2.2.1 .mga st_0 holds⟩,
   ⟨_, h.2.2.2.2.1 .mga st_12 holds⟩,
   ⟨_, h.2.2.2.2.2.2.1.2 (.typed .mga) st_0 holds holds⟩,
   ⟨_, h.2.2.2.2.2.2.2.1 .script st_14 holds holds⟩,
   ⟨_, (h.2.2.2.2.2.2.2.2.1 .mgb).2 (.typed .mga) st_0 holds holds⟩,
   ⟨_, h.2.2.2.2.2.2.2.2.2.1.2 (.typed .mga) st_0 holds holds⟩,
   ⟨_, h.2.2.2.2.2.2.2.2.2.2.1.2 (.typed .mga) st_0 holds holds⟩,
   ⟨_, (h.2.2.2.2.2.2.2.2.2.2.2.1 96 0 holds holds).2 (.typed .mga) st_0 holds holds⟩⟩

theorem witness_Sessions_2 (h : Obligations.Sessions) :
    Goes (.sessTimeout (.typed .mga) 60) st_0 ∧
    Goes (.sessLock (.typed .mga)) st_0 ∧
    Goes (.sessUnlock (.typed .mga)) st_0 ∧
    Goes (.evSet (.typed .mga) false [.pwr]) st_0 ∧
    Goes (.xBrxClear (.typed .mga)) st_0 ∧
    Goes (.mgCfgWrite .bw .mga 0x4C0) st_0 ∧
    Goes (.mgEvmaskWrite .bw .mga 0x4C0) st_0 ∧
    Goes (.xPeek (.typed .mga) 0x10000000 none) st_0 ∧
    Goes (.xPoke (.typed .mga) 0x10000000 0x10000000 none) st_0 :=
  ⟨⟨_, (h.2.2.2.2.2.2.2.2.2.2.2.2.1 60 holds holds).2 (.typed .mga) st_0 holds holds⟩,
   ⟨_, h.2.2.2.2.2.2.2.2.2.2.2.2.2.1.2 (.typed .mga) st_0 holds holds⟩,
   ⟨_, h.2.2.2.2.2.2.2.2.2.2.2.2.2.2.1.2 (.typed .mga) st_0 holds holds⟩,
   ⟨_, (h.2.2.2.2.2.2.2.2.2.2.2.2.2.2.2.1 false .pwr).2 (.typed .mga) st_0 holds holds⟩,
   ⟨_, h.2.2.2.2.2.2.2.2.2.2.2.2.2.2.2.2.1.2 (.typed .mga) st_0 holds holds⟩,
   ⟨_, h.2.2.2.2.2.2.2.2.2.2.2.2.2.2.2.2.2.1 .bw .mga 0x4C0 st_0 holds holds holds holds holds⟩,
   ⟨_, (h.2.2.2.2.2.2.2.2.2.2.2.2.2.2 |>.2.2.2.2.1) .mga 0x4C0 .bw st_0 holds holds holds⟩,
   ⟨_, (h.2.2.2.2.2.2.2.2.2.2.2.2.2.2 |>.2.2.2.2.2.1) 0x10000000 (.typed .mga) st_0 holds holds holds holds⟩,
   ⟨_, ((h.2.2.2.2.2.2.2.2.2.2.2.2.2.2 |>.2.2.2.2.2.2.1) 0x10000000 0x10000000 holds holds holds).2 (.typed .mga) st_0 holds holds⟩⟩

end Console

namespace Units

def ru (u : UnitId) (f : UnitRec → UnitRec) : State := md fun d => d.setUnit u (f (d.unit u))
def st_0 : State := wState
def st_2 : State := ru (.pen 0) fun r => { r with st := .off, sh := .off }
def st_5 : State := md fun d => fence d (.pen 0) .cmd
def st_6 : State := md fun d => resetStart d (.pen 0)
def st_10 : State := md fun d => disagree (d.setUnit (.pen 0) { d.unit (.pen 0) with sh := .active }) (.pen 0)
def st_13 : State := md fun d => { d with boot := { d.boot with inScript := true } }

theorem witness_UnitRequests_1 (h : Obligations.UnitRequests) :
    Goes (.unitOn (.typed .mga) (.pen 0) none) st_2 ∧
    Goes (.unitOn (.typed .mga) (.pen 0) (some 0)) st_5 ∧
    Goes (.stateReqOn (.core 0 .f) (.pen 0) none) st_2 ∧
    Goes (.stateReqOn (.core 1 .k) (.pen 0) (some 0#16)) st_5 ∧
    Goes (.stateReqOn (.core 0 .f) .afe none) st_0 ∧
    Goes (.unitOff (.typed .mga) (.pen 0) none) st_0 ∧
    Goes (.unitOff (.typed .mga) (.pen 0) (some 0)) st_5 ∧
    Goes (.stateReqOff (.core 0 .f) (.pen 0) none) st_0 ∧
    Goes (.stateReqOff (.core 1 .k) (.pen 0) (some 0#16)) st_5 ∧
    Goes (.stateReqOff (.core 0 .f) .afe none) st_0 ∧
    Goes (.fence (.typed .mga) (.pen 0) none) st_0 ∧
    Goes (.fence (.typed .mga) (.pen 0) (some 0)) st_5 :=
  ⟨⟨_, (h.1.1 (.pen 0) none holds).2 (.typed .mga) st_2 holds holds⟩,
   ⟨_, h.1.2.1 (.pen 0) 0 (.typed .mga) st_5 holds holds holds holds (by simp)⟩,
   ⟨_, h.1.2.2.1 (.pen 0) none (.core 0 .f) st_2 holds holds holds holds⟩,
   ⟨_, h.1.2.2.2.1 (.pen 0) 0#16 (.core 1 .k) st_5 holds holds holds⟩,
   ⟨_, h.1.2.2.2.2 .afe none (.core 0 .f) st_0 holds holds⟩,
   ⟨_, (h.2.1.1 (.pen 0) none holds).2 (.typed .mga) st_0 holds holds⟩,
   ⟨_, h.2.1.2.1 (.pen 0) 0 (.typed .mga) st_5 holds holds holds holds (by simp)⟩,
   ⟨_, h.2.1.2.2.1 (.pen 0) none (.core 0 .f) st_0 holds holds holds holds⟩,
   ⟨_, h.2.1.2.2.2.1 (.pen 0) 0#16 (.core 1 .k) st_5 holds holds holds⟩,
   ⟨_, h.2.1.2.2.2.2 .afe none (.core 0 .f) st_0 holds holds⟩,
   ⟨_, (h.2.2.1.1 (.pen 0) none holds).2 (.typed .mga) st_0 holds holds⟩,
   ⟨_, h.2.2.1.2.1 (.pen 0) 0 (.typed .mga) st_5 holds holds holds holds (by simp)⟩⟩

theorem witness_UnitRequests_2 (h : Obligations.UnitRequests) :
    Goes (.stateReqFence (.core 0 .f) (.pen 0) none) st_0 ∧
    Goes (.stateReqFence (.core 1 .k) (.pen 0) (some 0#16)) st_5 ∧
    Goes (.stateReqFence (.core 0 .f) .afe none) st_0 ∧
    Goes (.unfence (.typed .mga) (.pen 0) none) st_5 ∧
    Goes (.unfence (.typed .mga) (.pen 0) (some 0)) st_5 ∧
    Goes (.stateReqUnfence (.core 0 .f) (.pen 0) none) st_5 ∧
    Goes (.stateReqUnfence (.core 1 .k) (.pen 0) (some 0#16)) st_5 ∧
    Goes (.stateReqUnfence (.core 0 .f) .afe none) st_0 ∧
    Goes (.resetUnit (.typed .mga) (.pen 0) none) st_0 ∧
    Goes (.resetUnit (.typed .mga) (.pen 0) (some 0)) st_5 ∧
    Goes (.stateReqReset (.core 0 .f) (.pen 0) none) st_0 ∧
    Goes (.stateReqReset (.core 1 .k) (.pen 0) (some 0#16)) st_5 :=
  ⟨⟨_, h.2.2.1.2.2.1 (.pen 0) none (.core 0 .f) st_0 holds holds holds holds⟩,
   ⟨_, h.2.2.1.2.2.2.1 (.pen 0) 0#16 (.core 1 .k) st_5 holds holds holds⟩,
   ⟨_, h.2.2.1.2.2.2.2 .afe none (.core 0 .f) st_0 holds holds⟩,
   ⟨_, (h.2.2.2.1.1 (.pen 0) none holds).2 (.typed .mga) st_5 holds holds⟩,
   ⟨_, h.2.2.2.1.2.1 (.pen 0) 0 (.typed .mga) st_5 holds holds holds holds (by simp)⟩,
   ⟨_, h.2.2.2.1.2.2.1 (.pen 0) none (.core 0 .f) st_5 holds holds holds holds⟩,
   ⟨_, h.2.2.2.1.2.2.2.1 (.pen 0) 0#16 (.core 1 .k) st_5 holds holds holds⟩,
   ⟨_, h.2.2.2.1.2.2.2.2 .afe none (.core 0 .f) st_0 holds holds⟩,
   ⟨_, (h.2.2.2.2.1.1 (.pen 0) none holds).2 (.typed .mga) st_0 holds holds⟩,
   ⟨_, h.2.2.2.2.1.2.1 (.pen 0) 0 (.typed .mga) st_5 holds holds holds holds (by simp)⟩,
   ⟨_, h.2.2.2.2.1.2.2.1 (.pen 0) none (.core 0 .f) st_0 holds holds holds holds⟩,
   ⟨_, h.2.2.2.2.1.2.2.2.1 (.pen 0) 0#16 (.core 1 .k) st_5 holds holds holds⟩⟩

theorem witness_UnitRequests_3 (h : Obligations.UnitRequests) :
    Goes (.stateReqReset (.core 0 .f) .afe none) st_0 ∧
    Goes (.unitAdoptMgmt (.typed .mga) (.pen 0) none) st_10 ∧
    Goes (.unitAdoptMgmt (.typed .mga) (.pen 0) (some 0)) st_5 ∧
    Goes (.stateReqAdoptMgmt (.core 0 .f) (.pen 0) none) st_10 ∧
    Goes (.stateReqAdoptMgmt (.core 1 .k) (.pen 0) (some 0#16)) st_5 ∧
    Goes (.stateReqAdoptMgmt (.core 0 .f) .afe none) st_0 ∧
    Goes (.unitAdoptData (.typed .mga) (.pen 0) none) st_10 ∧
    Goes (.unitAdoptData (.typed .mga) (.pen 0) (some 0)) st_5 ∧
    Goes (.stateReqAdoptData (.core 0 .f) (.pen 0) none) st_10 ∧
    Goes (.stateReqAdoptData (.core 1 .k) (.pen 0) (some 0#16)) st_5 ∧
    Goes (.stateReqAdoptData (.core 0 .f) .afe none) st_0 ∧
    Goes (.resetUnit (.typed .mga) (UnitId.fold 0) none) st_0 :=
  ⟨⟨_, h.2.2.2.2.1.2.2.2.2 .afe none (.core 0 .f) st_0 holds holds⟩,
   ⟨_, (h.2.2.2.2.2.1.1 (.pen 0) none holds).2 (.typed .mga) st_10 holds holds⟩,
   ⟨_, h.2.2.2.2.2.1.2.1 (.pen 0) 0 (.typed .mga) st_5 holds holds holds holds (by simp)⟩,
   ⟨_, h.2.2.2.2.2.1.2.2.1 (.pen 0) none (.core 0 .f) st_10 holds holds holds holds⟩,
   ⟨_, h.2.2.2.2.2.1.2.2.2.1 (.pen 0) 0#16 (.core 1 .k) st_5 holds holds holds⟩,
   ⟨_, h.2.2.2.2.2.1.2.2.2.2 .afe none (.core 0 .f) st_0 holds holds⟩,
   ⟨_, (h.2.2.2.2.2.2.1.1 (.pen 0) none holds).2 (.typed .mga) st_10 holds holds⟩,
   ⟨_, h.2.2.2.2.2.2.1.2.1 (.pen 0) 0 (.typed .mga) st_5 holds holds holds holds (by simp)⟩,
   ⟨_, h.2.2.2.2.2.2.1.2.2.1 (.pen 0) none (.core 0 .f) st_10 holds holds holds holds⟩,
   ⟨_, h.2.2.2.2.2.2.1.2.2.2.1 (.pen 0) 0#16 (.core 1 .k) st_5 holds holds holds⟩,
   ⟨_, h.2.2.2.2.2.2.1.2.2.2.2 .afe none (.core 0 .f) st_0 holds holds⟩,
   ⟨_, (h.2.2.2.2.2.2.2.1 none).2 (.typed .mga) st_0 holds holds⟩⟩

theorem witness_UnitRequests_4 (h : Obligations.UnitRequests) :
    Goes (.resetUnit (.typed .mga) (UnitId.mg .mga) none) st_0 ∧
    Goes (.resetDevice (.typed .mga)) st_0 ∧
    Goes (.resetDevice Via.script) st_13 :=
  ⟨⟨_, (h.2.2.2.2.2.2.2.2.1 .mga none).2 (.typed .mga) st_0 holds holds⟩,
   ⟨_, h.2.2.2.2.2.2.2.2.2.1 (.typed .mga) .mga st_0 holds holds⟩,
   ⟨_, h.2.2.2.2.2.2.2.2.2.2 st_13 holds⟩⟩

theorem witness_SweepAndResetEnds (h : Obligations.SweepAndResetEnds) :
    Goes (.shadowSweep (.pen 0) Upset.none) st_0 ∧
    Goes (.shadowSweep (.pen 0) (Upset.shadowState 0)) st_0 ∧
    Goes (.shadowSweep (.pen 0) Upset.parity) st_0 ∧
    Goes (.shadowSweep (.pen 0) (Upset.hwState 0)) st_0 ∧
    Goes (.shadowSweep (.pen 0) (Upset.hwState 1)) st_0 ∧
    Goes (.xStateSimDisagree (.typed .mga) (.pen 0)) st_0 ∧
    Goes (.unitResetComplete (.pen 0)) st_6 ∧
    (Dev.unit (resetOne (st_0.dev) (UnitId.dma 0) 0) (UnitId.dma 0)).resetting = false ∧
    Goes (.resetTimeout (.pen 0)) st_6 :=
  have _ := (h.2.2.2.2.2.2.2.2.1 (st_0.dev) .afe (⟨.cmd, 0, none, .idle, false⟩) holds holds holds holds holds holds holds holds).1
  ⟨⟨_, h.1 (.pen 0) st_0 holds⟩,
   ⟨_, h.2.1 (.pen 0) 0 st_0 holds⟩,
   ⟨_, h.2.2.1 (.pen 0) st_0 holds⟩,
   ⟨_, h.2.2.2.1 (.pen 0) st_0 holds⟩,
   ⟨_, h.2.2.2.2.1 (.pen 0) 1 holds st_0 holds⟩,
   ⟨_, (h.2.2.2.2.2.1 (.pen 0)).2 (.typed .mga) st_0 holds holds⟩,
   ⟨_, h.2.2.2.2.2.2.2.1 (.pen 0) st_6 holds⟩,
   (h.2.2.2.2.2.2.2.2.2.1 (st_0.dev) 0 0 holds).1,
   ⟨_, h.2.2.2.2.2.2.2.2.2.2 (.pen 0) st_6 holds⟩⟩

end Units

namespace Pens

def gBytes : List (Nat × Byte) := (List.range 7).map fun i => (0x200 + i, BitVec.ofNat 8 (i + 1))
def gHash : Nat := beNat (sha256 (gBytes.map (·.2)))
def gImg : BootImg := { secondary := false, base := 0, version := 0, name := [], arb := 0, keyslot := 1, kpen := 0, kentry := 0, drove := some (0x200, 7, gHash), tether := some (0x200, 7, 13), ovls := [(0, 0x200, 7, gHash), (1, 0x200, 7, 13)] }
def csD (f : CStore → CStore) : State := md fun d => updCs { d with golden := { d.golden with baseHeld := [true,true] } } 0 fun c => f { c with loaded := true, scrub := true }
def st_0 : State := wState
def st_2 : State := csD id
def st_3 : State := csD fun c => { c with flips := [0] }
def st_4 : State := csD fun c => { c with flips := [0], found := some (0,false) }
def st_5 : State := csD fun c => { c with flips := [16], beat := 1, found := some (1,true) }
def st_7 : State := csD fun c => { c with beat := 4223, found := some (4223,true) }
def st_8 : State := csD fun c => { c with flips := [0], found := some (0,false), times := [(0,(0,0)),(0,(0,0))] }
def st_9 : State := md fun d => { d with myc := { d.myc with ecc := [(0x10780000, 2)] }, pens := [(0, { d.pen 0 with cs := { (d.pen 0).cs with loaded := true, scrub := true } })] }
def st_10 : State := md fun d => { d with golden := { d.golden with staged := some { fold := 0, tether := true, empty := true, arb := 0 } } }
def st_11 : State := md fun d => { d with bw := { d.bw with hookRun := 1, hook := true, hookAbn := 2, hookEntry := 5 } }
def st_13 : State := md fun d => { d with boot := { d.boot with img := some gImg }, flash := { fitted := true, density := 0x10000, octal := true, data := gBytes }, golden := { d.golden with baseHeld := [true, true], baseBad := [true, true] } }
def st_14 : State := md fun d => { d with boot := { d.boot with img := some gImg }, flash := { fitted := true, density := 0x10000, octal := true, data := gBytes }, golden := { d.golden with active := [true, true], ovlBad := [true, true] } }
def st_15 : State := md fun d => { d.setUnit (.pen 0) { d.unit (.pen 0) with resetting := true } with golden := { d.golden with baseHeld := [true, true] } }
def st_16 : State := { csD id with dev := (csD id).dev.updCore 4 fun k => { k with sb := [⟨0x10780000,4,0,0,.urgent,0,0,.u,false⟩] } }

theorem witness_ControlStore_1 (h : Obligations.ControlStore) :
    Goes (.penPers (.typed .mga) 0 false none) st_2 ∧
    Goes (.persselWrite (.core 1 .k) 0 0#32) st_2 ∧
    Goes (.persselWrite (.core 1 .k) 0 0#32) st_0 ∧
    Goes (.persselWrite (.core 1 .k) 0 65537#32) st_0 ∧
    Goes (.persselWrite (.core 1 .k) 0 0#32) st_15 ∧
    Goes (.xPenHwmClear (.typed .mga) 0) st_0 ∧
    Goes (.scrubSteal 0) st_16 ∧
    Goes (.scrubSteal 0) st_2 ∧
    Goes (.scrubSteal 0) st_3 ∧
    Goes (.scrubSteal 0) st_9 ∧
    Goes (.scrubSteal 0) st_4 ∧
    Goes (.scrubSteal 0) st_8 :=
  ⟨⟨_, (h.1 0 false none).2 (.typed .mga) st_2 holds holds⟩,
   ⟨_, ((h.2.1 0 0#32 (.core 1 .k) st_2 holds holds holds).1 holds).1 holds⟩,
   ⟨_, ((h.2.1 0 0#32 (.core 1 .k) st_0 holds holds holds).1 holds).2 holds⟩,
   ⟨_, (h.2.1 0 65537#32 (.core 1 .k) st_0 holds holds holds).2 holds⟩,
   ⟨_, h.2.2.1 0 0#32 (.core 1 .k) st_15 holds holds holds holds holds holds⟩,
   ⟨_, (h.2.2.2.1 0).2 (.typed .mga) st_0 holds holds⟩,
   ⟨_, (h.2.2.2.2.1 0).1 st_16 holds⟩,
   ⟨_, (h.2.2.2.2.1 0).2.1 st_2 holds⟩,
   ⟨_, (h.2.2.2.2.1 0).2.2.1 st_3 holds⟩,
   ⟨_, (h.2.2.2.2.1 0).2.2.2.1 0x10780000 st_9 holds⟩,
   ⟨_, (h.2.2.2.2.1 0).2.2.2.2.1 st_4 holds⟩,
   ⟨_, (h.2.2.2.2.1 0).2.2.2.2.2.1 st_8 holds⟩⟩

theorem witness_ControlStore_2 (h : Obligations.ControlStore) :
    Goes (.scrubSteal 0) st_7 ∧
    Goes (.scrubSteal 0) st_5 ∧
    Goes (.scrubPassLate 0) st_2 ∧
    Goes (.ucodeParity 0 0) st_3 ∧
    Goes (.ucodeGolden (GoldenSlot.base false) 0) st_0 ∧
    Goes (.ucodeGolden (GoldenSlot.overlay 0 false) 0xD900) st_0 ∧
    Goes (.goldenReload (GoldenSlot.base false)) st_13 ∧
    Goes (.goldenReload (GoldenSlot.base true)) st_13 ∧
    Goes (.goldenReload (GoldenSlot.overlay 0 false)) st_14 ∧
    Goes (.goldenReload (GoldenSlot.overlay 0 true)) st_14 ∧
    Goes (.csInjGo .bw 0 2147483649#32) st_0 ∧
    Goes (.xUcodeInject (.typed .mga) 0 0) st_0 :=
  ⟨⟨_, (h.2.2.2.2.1 0).2.2.2.2.2.2.1 st_7 holds⟩,
   ⟨_, (h.2.2.2.2.1 0).2.2.2.2.2.2.2.1 st_5 holds⟩,
   ⟨_, (h.2.2.2.2.1 0).2.2.2.2.2.2.2.2 st_2 holds⟩,
   ⟨_, h.2.2.2.2.2.1 0 0 holds st_3 holds⟩,
   ⟨_, h.2.2.2.2.2.2.1 false 0 holds st_0 holds⟩,
   ⟨_, h.2.2.2.2.2.2.2.1 0 false 0xD900 holds st_0 holds⟩,
   ⟨_, (h.2.2.2.2.2.2.2.2.1 false st_13 gImg 0x200 7 gHash holds holds holds holds holds).1 holds⟩,
   ⟨_, (h.2.2.2.2.2.2.2.2.1 true st_13 gImg 0x200 7 13 holds holds holds holds holds).2 holds⟩,
   ⟨_, (h.2.2.2.2.2.2.2.2.2.1 0 false st_14 gImg 0x200 7 gHash holds holds holds holds holds).1 holds⟩,
   ⟨_, (h.2.2.2.2.2.2.2.2.2.1 0 true st_14 gImg 0x200 7 13 holds holds holds holds holds).2 holds⟩,
   ⟨_, h.2.2.2.2.2.2.2.2.2.2.1 0 2147483649#32 holds holds .bw st_0 holds holds holds holds⟩,
   ⟨_, (h.2.2.2.2.2.2.2.2.2.2.2 0 0 holds).2 (.typed .mga) st_0 holds holds⟩⟩

theorem witness_OverlaysAndBellwether_1 (h : Obligations.OverlaysAndBellwether) :
    Goes (.xUcodeCheck (.typed .mga) 0) st_0 ∧
    Goes (.xUcodeLoad (.typed .mga) 0 false 0) st_10 ∧
    Goes (.xUcodeUnload (.typed .mga) 0 false) st_0 ∧
    Goes (.xUcodeCancel (.typed .mga)) st_0 ∧
    Goes (.machineCheck (.pen 0) 18 []) st_0 ∧
    Goes (.machineCheck (.pen 0) 16 []) st_0 ∧
    Goes (.machineCheck (.pen 0) 17 []) st_0 ∧
    Goes (.machineCheck (.pen 0) 18 [(⟨.fence, .core 4⟩)]) st_11 ∧
    Goes (.hookTimeout) st_11 ∧
    Goes (.lockstepMismatch) st_0 ∧
    Goes (.xGateTry (.typed .mga) 0 0 []) st_0 :=
  have _ := h.2.2.2.2.2.2.2.2.2.1 (st_0.dev) (.pen 0) 16#8 0#32 0#32 0#32 holds
  ⟨⟨_, (h.1 0).2 (.typed .mga) st_0 holds⟩,
   ⟨_, ((h.2.1 0 false 0).2 (.typed .mga) st_10 holds).2 holds⟩,
   ⟨_, (h.2.2.2.1 0 false).2 (.typed .mga) st_0 holds holds⟩,
   ⟨_, h.2.2.2.2.1.2 (.typed .mga) st_0 holds holds⟩,
   ⟨_, h.2.2.2.2.2.1 (.pen 0) st_0 holds⟩,
   ⟨_, h.2.2.2.2.2.2.1 (.pen 0) st_0 holds⟩,
   ⟨_, h.2.2.2.2.2.2.2.1 (.pen 0) st_0 holds⟩,
   ⟨_, h.2.2.2.2.2.2.2.2.1 (.pen 0) (⟨.fence, .core 4⟩) st_11 holds⟩,
   ⟨_, h.2.2.2.2.2.2.2.2.2.2.1 st_11 holds⟩,
   ⟨_, h.2.2.2.2.2.2.2.2.2.2.2.1 st_0 holds⟩,
   ⟨_, (h.2.2.2.2.2.2.2.2.2.2.2.2.1 0 0 [] holds holds).2 (.typed .mga) st_0 holds holds⟩⟩

theorem witness_OverlaysAndBellwether_2 (h : Obligations.OverlaysAndBellwether) :
    Goes (.xExcInject (.typed .mga) 0 1) st_0 ∧
    Goes (.xExcClear (.typed .mga) 0) st_0 ∧
    Goes (.xBwHook (.typed .mga) false) st_0 ∧
    Goes (.xBwHook (.typed .mga) true) st_11 :=
  ⟨⟨_, (h.2.2.2.2.2.2.2.2.2.2.2.2.2.1 0 1 holds holds).2 (.typed .mga) st_0 holds holds⟩,
   ⟨_, (h.2.2.2.2.2.2.2.2.2.2.2.2.2.2.1 0).2 (.typed .mga) st_0 holds holds⟩,
   ⟨_, h.2.2.2.2.2.2.2.2.2.2.2.2.2.2.2.1.2 (.typed .mga) st_0 holds holds⟩,
   ⟨_, h.2.2.2.2.2.2.2.2.2.2.2.2.2.2.2.2.2 (.typed .mga) st_11 holds holds⟩⟩

end Pens

namespace Ration

def rp (p : Nat) (f : Sys2Proof.Machine.Rat → Sys2Proof.Machine.Rat) : State := md fun d => updRat d p f
def sl : Slot := { Slot.reset with pri := 3, cls := 1, valid := true, ready := true, cost := 5, tsb := 128 }
def msl (x : Slot) (f : Core → Core) (g : Sys2Proof.Machine.Rat → Sys2Proof.Machine.Rat): State := md fun d => (updRat (updSlot d 0 1 fun _ => x) 0 g).updCore 0 f
def st_0 : State := wState
def st_3 : State := rp 1 fun r => { r with bal := -5, overArmed := true, lowState := true, floorEff := 3, rate := 77 }
def st_5 : State := msl sl id id
def st_6 : State := msl { sl with run := true, ready := false, reserved := 100 } (fun k => { k with slot := some 1, waiting := true, cnt := [1,2,3,4,5,6,7,8] }) (fun r => {r with coef := [1,2,3,4,5,6,7,8], scale := 300, bal := 2, floorEff := 1, thrEff := [2,3,4] })
def st_7 : State := msl { sl with run := true, ready := false, reserved := 10000000000 } (fun k => { k with slot := some 1, waiting := true, cnt := [1,2,3,4,5,6,7,8] }) (fun r => {r with coef := [1,2,3,4,5,6,7,8], scale := 300, bal := 2, floorEff := 1, thrEff := [2,3,4] })
def st_8 : State := msl { sl with fault := true } id id
def st_9 : State := md fun d => (updRat (updSlot (updSlot d 0 1 fun _ => { sl with run := true, ready := false }) 0 2 fun _ => { sl with cls := 0 }) 0 fun r => { r with slice := 2, run := true }).updCore 0 fun k => { k with slot := some 1, slotTicks := 5 }
def st_10 : State := md fun d => { d with pens := [(0, { d.pen 0 with deliv := 1, binds := [(0, ⟨1, true, false⟩)], slots := [(1, sl)] })] }
def st_11 : State := md fun d => { d with pens := [(0, { d.pen 0 with deliv := 1, binds := [(0, ⟨1, true, true⟩)], slots := [(1, sl)] })] }

theorem witness_RationAccounts_1 (h : Obligations.RationAccounts) :
    Goes (.rationTick 0) st_0 ∧
    Goes (.estimateUpdate 0 0 0) st_0 ∧
    Goes (.estimateUpdate 0 0 0) st_7 ∧
    Goes (.estimateUpdate 0 0 0) st_6 ∧
    Goes (.sliceExpiry 0) st_9 ∧
    Goes (.bindingWake 0 0) st_10 ∧
    Goes (.bindingWake 0 0) st_11 ∧
    Goes (.ratWakeWrite (.core 0 .f) 0 1#32) st_5 ∧
    Goes (.slotCtlWrite (.core 0 .f) 0 1 1152#32) st_8 ∧
    Goes (.slotCtlWrite (.core 0 .f) 0 1 165#32) st_0 :=
  have _ := h.2.2.1 (st_0.dev) 0 holds
  have _ := h.2.2.2.1 (st_3.dev) 1 holds holds holds holds
  ⟨⟨_, h.1 0 st_0 holds⟩,
   ⟨_, (h.2.2.2.2.1 0 0 0).1 st_0 holds⟩,
   ⟨_, ((h.2.2.2.2.1 0 0 0).2 1).1 st_7 holds⟩,
   ⟨_, ((h.2.2.2.2.1 0 0 0).2 1).2 st_6 holds⟩,
   ⟨_, h.2.2.2.2.2.1 0 1 st_9 holds⟩,
   ⟨_, h.2.2.2.2.2.2.1 0 0 st_10 holds⟩,
   ⟨_, h.2.2.2.2.2.2.2.1 0 0 st_11 holds⟩,
   ⟨_, h.2.2.2.2.2.2.2.2.1 0 1#32 (.core 0 .f) st_5 holds holds holds holds⟩,
   ⟨_, (h.2.2.2.2.2.2.2.2.2.1 0 1 1152#32).1 holds holds (.core 0 .f) st_8 holds holds holds⟩,
   ⟨_, (h.2.2.2.2.2.2.2.2.2.1 0 1 165#32).2.1 holds holds (.core 0 .f) st_0 holds holds holds⟩⟩

theorem witness_RationAccounts_2 (h : Obligations.RationAccounts) :
    Goes (.slotCtlWrite (.core 0 .f) 0 1 0#32) st_6 ∧
    Goes (.slotCtlWrite (.core 0 .f) 0 1 0#32) st_0 ∧
    Goes (.slotCtlWrite (.core 0 .f) 1 1 0#32) st_0 ∧
    Goes (.ratXferWrite (.core 0 .f) 0 (toWord (0 + 65536 * 1))) st_0 ∧
    Goes (.rationMove (.typed .mga) 0 1 0) st_0 ∧
    Goes (.ratCtlWrite (.core 0 .f) 0 0#32) st_0 :=
  ⟨⟨_, (h.2.2.2.2.2.2.2.2.2.1 0 1 0#32).2.2.1 holds (.core 0 .f) st_6 holds holds holds⟩,
   ⟨_, (h.2.2.2.2.2.2.2.2.2.1 0 1 0#32).2.2.2.1 holds (.core 0 .f) st_0 holds holds holds⟩,
   ⟨_, (h.2.2.2.2.2.2.2.2.2.1 1 1 0#32).2.2.2.2 (.core 0 .f) st_0 holds holds holds holds⟩,
   ⟨_, (h.2.2.2.2.2.2.2.2.2.2.1 0 1 0 holds holds).1 (.core 0 .f) st_0 holds holds holds⟩,
   ⟨_, (h.2.2.2.2.2.2.2.2.2.2.1 0 1 0 holds holds).2.2 (.typed .mga) st_0 holds holds⟩,
   ⟨_, h.2.2.2.2.2.2.2.2.2.2.2 0 0#32 (.core 0 .f) st_0 holds holds holds⟩⟩

theorem witness_RationVerbs_1 (h : Obligations.RationVerbs) :
    Goes (.rationPenSet (.typed .mga) 0 RatFigure.rate 0) st_0 ∧
    Goes (.rationPenSet (.typed .mga) 0 RatFigure.cap 0) st_0 ∧
    Goes (.rationPenSet (.typed .mga) 0 RatFigure.floor 0) st_0 ∧
    Goes (.rationPenThr (.typed .mga) 0 1 0) st_0 ∧
    Goes (.rationPenThr (.typed .mga) 0 2 0) st_0 ∧
    Goes (.rationPenThr (.typed .mga) 0 3 0) st_0 ∧
    Goes (.xRationScale (.typed .mga) 0 300) st_0 ∧
    Goes (.xRationDerate (.typed .mga) 0 (0) (some (0, 0))) st_0 ∧
    Goes (.xRationDerate (.typed .mga) 0 (0) none) st_0 ∧
    Goes (.xRationCoef (.typed .mga) 0 (some (0, 0))) st_0 ∧
    Goes (.xRationRun (.typed .mga) 0 true (some 0)) st_0 ∧
    Goes (.xRationRun (.typed .mga) 0 true none) st_0 :=
  ⟨⟨_, (h.1 0 0 holds).2 (.typed .mga) st_0 holds holds⟩,
   ⟨_, (h.2.1 0 0 holds).1.2 (.typed .mga) st_0 holds holds⟩,
   ⟨_, (h.2.1 0 0 holds).2.1.2 (.typed .mga) st_0 holds holds⟩,
   ⟨_, (h.2.1 0 0 holds).2.2.1.2 (.typed .mga) st_0 holds holds⟩,
   ⟨_, (h.2.1 0 0 holds).2.2.2.1.2 (.typed .mga) st_0 holds holds⟩,
   ⟨_, (h.2.1 0 0 holds).2.2.2.2.2 (.typed .mga) st_0 holds holds⟩,
   ⟨_, (h.2.2.1 0 300 holds holds).2 (.typed .mga) st_0 holds holds⟩,
   ⟨_, (h.2.2.2.1 0 0 0 0 holds holds).2 (.typed .mga) st_0 holds holds⟩,
   ⟨_, (h.2.2.2.2.1 0 0).2 (.typed .mga) st_0 holds holds⟩,
   ⟨_, (h.2.2.2.2.2.1 0 0 0 holds).2 (.typed .mga) st_0 holds holds⟩,
   ⟨_, (h.2.2.2.2.2.2.1 0 true 0 holds).2 (.typed .mga) st_0 holds holds⟩,
   ⟨_, (h.2.2.2.2.2.2.2.1 0 true).2 (.typed .mga) st_0 holds holds⟩⟩

theorem witness_RationVerbs_2 (h : Obligations.RationVerbs) :
    Goes (.xRationBoot (.typed .mga) 0 none) st_0 ∧
    Goes (.xRationBoot (.typed .mga) 0 (some (128 * 0))) st_0 ∧
    Goes (.xRationBind (.typed .mga) 0 (0) (some 0)) st_0 ∧
    Goes (.xRationBind (.typed .mga) 0 (0) none) st_0 ∧
    Goes (.rationFoldRate (.typed .mga) 0 0) st_0 ∧
    Goes (.taskWake (.typed .mga) 0 0) st_0 ∧
    Goes (.taskStop (.typed .mga) 0 1) st_6 ∧
    Goes (.taskClear (.typed .mga) 0 1) st_8 ∧
    Goes (.taskClear (.typed .mga) 0 0) st_0 ∧
    Goes (.xTaskSet (.typed .mga) 0 0 ⟨3,1,50,256⟩) st_0 :=
  have _ := (h.2.2.2.2.2.2.2.2.2.2.2.2.2.1 [(0,3),(2,5)] 0 holds).1
  ⟨⟨_, (h.2.2.2.2.2.2.2.2.1 0).2 (.typed .mga) st_0 holds holds⟩,
   ⟨_, (h.2.2.2.2.2.2.2.2.2.1 0 0 holds).2 (.typed .mga) st_0 holds holds⟩,
   ⟨_, (h.2.2.2.2.2.2.2.2.2.2.1 0 0 0 holds).2 (.typed .mga) st_0 holds holds⟩,
   ⟨_, (h.2.2.2.2.2.2.2.2.2.2.2.1 0 0).2 (.typed .mga) st_0 holds holds⟩,
   ⟨_, (h.2.2.2.2.2.2.2.2.2.2.2.2.1 0 0).2 (.typed .mga) st_0 holds holds⟩,
   ⟨_, (h.2.2.2.2.2.2.2.2.2.2.2.2.2.2.1 0 0 holds).2 (.typed .mga) st_0 holds holds⟩,
   ⟨_, (h.2.2.2.2.2.2.2.2.2.2.2.2.2.2.2.1 0 1 holds).2 (.typed .mga) st_6 holds holds⟩,
   ⟨_, (h.2.2.2.2.2.2.2.2.2.2.2.2.2.2.2.2.1 0 1 holds).2 (.typed .mga) st_8 holds holds⟩,
   ⟨_, (h.2.2.2.2.2.2.2.2.2.2.2.2.2.2.2.2.2.1 0 0 holds).2 (.typed .mga) st_0 holds holds⟩,
   ⟨_, (h.2.2.2.2.2.2.2.2.2.2.2.2.2.2.2.2.2.2 0 0 ⟨3,1,50,256⟩ holds holds holds holds holds holds).2 (.typed .mga) st_0 holds holds⟩⟩

end Ration

namespace Evr

def ev (f : Evr → Evr) : State := md fun d => { d with evr := f d.evr }
def evs (g : Slice → Slice) : State := md fun d => d.updSlice 0 g
def mh (f : Halter → Halter) : State := md fun d => updHalt d f
def map0 : SrcMap := ⟨0,3,1,true,false⟩
def line0 : LineCfg := ⟨2,true,true,0x81⟩
def st_0 : State := wState
def st_2 : State := ev fun e => { e with maps := [(0, ⟨0,3,1,true,false⟩), (20, ⟨0,3,2,true,false⟩), (24, ⟨0,3,3,true,false⟩),(384,⟨0,3,0,true,true⟩),(385,⟨0,3,0,true,true⟩)], latch := 1, slices := lset e.slices 0 { lget e.slices (Slice.reset) 0 with tokens := 1, depth := 2, rate := 2, lines := [(3, ⟨2,false,true,3⟩)] } }
def st_3 : State := ev fun e => { e with maps := [(0, ⟨0,3,1,true,false⟩), (20, ⟨0,3,2,true,false⟩), (24, ⟨0,3,3,true,false⟩),(384,⟨1,3,0,true,false⟩)], slices := lset e.slices 0 { lget e.slices (Slice.reset) 0 with held := 8, tokens := 1, depth := 2, rate := 2, storm := true, exempt := 8, lines := [(3, ⟨2,false,true,3⟩)] } }
def st_4 : State := evs fun s => { s with tokens := 0, exempt := 8, lines := [(3, ⟨2,false,true,3⟩),(33, ⟨2,true,true,3⟩)] }
def st_5 : State := md fun d => { d with pins := { d.pins with wake := 1, gpio := 1 }, pmu := { d.pmu with cur := .retain } , evr := {d.evr with maps := [(0, ⟨0,3,2,true,false⟩)] } }
def st_7 : State := mh fun h => { h with maps := lset h.maps 0 ⟨3, true, true, true⟩, level := 1, driven := true, trip := 3 }
def st_9 : State := mh fun h => { h with maps := lset (lset h.maps 0 ⟨3, true, false, true⟩) 1 ⟨4, false, false,true⟩, pol := 1, level := 0, driven := true, trip := 2, bad := 2, lock := true}
def st_10 : State := mh fun h => { h with maps := lset (lset h.maps 0 ⟨3, true, true, true⟩) 1 ⟨4, false, true,true⟩, pol := 2, driven := true, trip := 3, sims := lset h.sims 1 (some false)}
def st_11 : State := md fun d => { d with phase := .reset .por }

theorem witness_EventRouter_1 (h : Obligations.EventRouter) :
    Goes (.pinInputEdge (.halt 4) true) st_2 ∧
    Goes (.pinInputEdge (.wake 0) true) st_0 ∧
    Goes (.pinInputEdge (.wake 0) false) st_5 ∧
    Goes (.asyncLatchCapture 0 false) st_5 ∧
    Goes (.pendingSet 24) st_5 ∧
    fireSources (st_0.dev) [0, 0] = fireSource (st_0.dev) 0 ∧
    Goes (.limiterTick 0) st_0 ∧
    Goes (.limiterTick 0) st_3 :=
  have _ := h.2.2.2.1 (st_0.dev) 0 holds holds holds holds
  have _ := (h.2.2.2.2.2.1 (st_2.dev) 0 3 holds holds holds).1 holds
  have _ := (h.2.2.2.2.2.1 (st_4.dev) 0 3 holds holds holds).2 holds holds holds
  have _ := h.2.2.2.2.2.2.2.2.1 (st_0.dev) 0 [] holds
  ⟨⟨_, (h.1 (.halt 4) true).1 st_2 holds⟩,
   ⟨_, (h.1 (.wake 0) true).2.1 st_0 holds⟩,
   ⟨_, (h.1 (.wake 0) false).2.2 st_5 holds⟩,
   ⟨_, h.2.1 0 false st_5 holds⟩,
   ⟨_, h.2.2.1 24 st_5 holds⟩,
   h.2.2.2.2.1 (st_0.dev) 0 0 holds holds holds holds holds holds,
   ⟨_, h.2.2.2.2.2.2.1 0 st_0 holds⟩,
   ⟨_, h.2.2.2.2.2.2.2.1 0 3 st_3 holds⟩⟩

theorem witness_EventRouter_2 (h : Obligations.EventRouter) :
    Goes (.evrDoorWrite (.core 0 .f) 0#32) st_0 ∧
    Goes (.evrDoorWrite (.core 0 .f) 0#32) st_3 ∧
    Goes (.evrSetWrite (.core 0 .f) 0 true 0#32) st_0 ∧
    Goes (.evrSet (.typed .mga) 0 0) st_0 ∧
    Goes (.evrMapWrite (.core 1 .k) 0 (mapWord map0)) st_0 ∧
    Goes (.evrMap (.typed .mga) (0) 0 map0.line (some 1) map0.open_) st_0 ∧
    Goes (.evrUnmap (.typed .mga) 0) st_0 ∧
    Goes (.evrLineWrite (.core 0 .f) 0 0 (lineWord line0)) st_0 ∧
    Goes (.evrLine (.typed .mga) 0 0 { prio := line0.prio, pens := some (bitsOf (BitVec.toNat line0.pens) 8), oneshot := some line0.oneshot, en := some line0.en }) st_0 ∧
    Goes (.evrLimit (.typed .mga) 0 0 1 (some 0) (some 0)) st_0 ∧
    Goes (.evrFilter (.typed .mga) 0 0) st_0 ∧
    Goes (.xEvrRaise (.typed .mga) 0) st_0 :=
  ⟨⟨_, (h.2.2.2.2.2.2.2.2.2.1 0#32 (.core 0 .f) st_0 holds).1 holds⟩,
   ⟨_, (h.2.2.2.2.2.2.2.2.2.1 0#32 (.core 0 .f) st_3 holds).2 holds⟩,
   ⟨_, h.2.2.2.2.2.2.2.2.2.2.1 0 true 0#32 (.core 0 .f) st_0 holds holds holds holds⟩,
   ⟨_, (h.2.2.2.2.2.2.2.2.2.2.2.1 0 0 holds).2 (.typed .mga) st_0 holds holds⟩,
   ⟨_, (h.2.2.2.2.2.2.2.2.2.2.2.2.1 0 map0 holds holds holds).1 (.core 1 .k) st_0 holds holds holds⟩,
   ⟨_, ((h.2.2.2.2.2.2.2.2.2.2.2.2.1 0 map0 holds holds holds).2 0 1 holds holds holds).2 (.typed .mga) st_0 holds holds⟩,
   ⟨_, (h.2.2.2.2.2.2.2.2.2.2.2.2.2.1 0).2 (.typed .mga) st_0 holds holds⟩,
   ⟨_, (h.2.2.2.2.2.2.2.2.2.2.2.2.2.2.1 0 0 line0 holds).1 (.core 0 .f) st_0 holds holds holds⟩,
   ⟨_, (h.2.2.2.2.2.2.2.2.2.2.2.2.2.2.1 0 0 line0 holds).2.2 (.typed .mga) st_0 holds holds⟩,
   ⟨_, (h.2.2.2.2.2.2.2.2.2.2.2.2.2.2.2.1 0 0 1 0 0 holds holds holds holds holds).2 (.typed .mga) st_0 holds holds⟩,
   ⟨_, (h.2.2.2.2.2.2.2.2.2.2.2.2.2.2.2.2.1 0 0 holds holds).2 (.typed .mga) st_0 holds holds⟩,
   ⟨_, (h.2.2.2.2.2.2.2.2.2.2.2.2.2.2.2.2.2.1 0 holds holds).2 (.typed .mga) st_0 holds holds⟩⟩

theorem witness_EventRouter_3 (h : Obligations.EventRouter) :
    Goes (.psetWrite (.core 0 .f) 1 true 0#32) st_0 ∧
    Goes (.pclrWrite (.core 0 .f) 1 true 0#32) st_0 ∧
    Goes (.maskWrite (.core 0 .f) 0 true 0#32) st_0 ∧
    Goes (.pendWrite .bw 0 true 0#32) st_0 ∧
    Goes (.msetWrite (.core 0 .f) 4 true 0#32) st_0 ∧
    Goes (.mclrWrite (.core 0 .f) 4 true 0#32) st_0 ∧
    Goes (.pendWrite (.core 0 .f) (Fin.ofNat 8 (penOf 0)) true 0#32) st_0 ∧
    Goes (.pendRead 0 true) st_0 ∧
    Goes (.xEvrRaceClear (.typed .mga) 0) st_0 :=
  ⟨⟨_, ((h.2.2.2.2.2.2.2.2.2.2.2.2.2.2 |>.2.2.2.2.1) 1 true 0#32).1 (.core 0 .f) st_0 holds holds holds holds⟩,
   ⟨_, ((h.2.2.2.2.2.2.2.2.2.2.2.2.2.2 |>.2.2.2.2.1) 1 true 0#32).2.1 (.core 0 .f) st_0 holds holds holds holds⟩,
   ⟨_, ((h.2.2.2.2.2.2.2.2.2.2.2.2.2.2 |>.2.2.2.2.1) 0 true 0#32).2.2.1 (.core 0 .f) st_0 holds holds holds holds⟩,
   ⟨_, ((h.2.2.2.2.2.2.2.2.2.2.2.2.2.2 |>.2.2.2.2.1) 0 true 0#32).2.2.2 .bw st_0 holds holds holds holds⟩,
   ⟨_, ((h.2.2.2.2.2.2.2.2.2.2.2.2.2.2 |>.2.2.2.2.2.1) 4 true 0#32).1 (.core 0 .f) st_0 holds holds holds holds⟩,
   ⟨_, ((h.2.2.2.2.2.2.2.2.2.2.2.2.2.2 |>.2.2.2.2.2.1) 4 true 0#32).2.1 (.core 0 .f) st_0 holds holds holds holds⟩,
   ⟨_, ((h.2.2.2.2.2.2.2.2.2.2.2.2.2.2 |>.2.2.2.2.2.1) 0 true 0#32).2.2.1 (.core 0 .f) st_0 holds holds holds holds⟩,
   ⟨_, ((h.2.2.2.2.2.2.2.2.2.2.2.2.2.2 |>.2.2.2.2.2.1) 0 true 0#32).2.2.2 st_0 holds⟩,
   ⟨_, ((h.2.2.2.2.2.2.2.2.2.2.2.2.2.2 |>.2.2.2.2.2.2) 0).2 (.typed .mga) st_0 holds holds⟩⟩

theorem witness_HalterMapping_1 (h : Obligations.HalterMapping) :
    haltTrip (st_7.dev) 0 = (st_7.dev) ∧
    Goes (.haltInputActive 0) st_0 ∧
    Goes (.haltInputActive 0) st_7 ∧
    Goes (.haltInputInactive 0) st_0 ∧
    Goes (.haltInputActive 0) st_11 ∧
    Goes (.haltInputInactive 0) st_11 ∧
    Goes (.haltForceWrite (.core 0 .f) 0#32) st_0 ∧
    Goes (.haltClrWrite (.core 1 .k) 0#32) st_0 ∧
    Goes (.haltLockWrite (.core 1 .k) 1#32) st_0 ∧
    Goes (.haltCfgMismatch 0) st_0 ∧
    Goes (.haltMap (.typed .mga) (0) 0 (some true) (some true)) st_0 :=
  have _ := (h.1 (st_0.dev) 0).2 holds
  ⟨(h.1 (st_7.dev) 0).1 holds,
   ⟨_, (h.2.1 0).1 st_0 holds⟩,
   ⟨_, (h.2.1 0).2.1 st_7 holds⟩,
   ⟨_, (h.2.1 0).2.2.1 st_0 holds⟩,
   ⟨_, (h.2.1 0).2.2.2.1 st_11 holds⟩,
   ⟨_, (h.2.1 0).2.2.2.2 st_11 holds⟩,
   ⟨_, h.2.2.2.2.1 0#32 (.core 0 .f) st_0 holds holds holds holds⟩,
   ⟨_, h.2.2.2.2.2.1 0#32 (.core 1 .k) st_0 holds holds holds holds⟩,
   ⟨_, h.2.2.2.2.2.2.1 1#32 holds (.core 1 .k) st_0 holds holds holds holds⟩,
   ⟨_, h.2.2.2.2.2.2.2.1 0 st_0 holds⟩,
   ⟨_, (h.2.2.2.2.2.2.2.2.1 0 0 true true holds).2 (.typed .mga) st_0 holds holds⟩⟩

theorem witness_HalterMapping_2 (h : Obligations.HalterMapping) :
    Goes (.haltArm (.typed .mga) 0) st_0 ∧
    Goes (.haltDisarm (.typed .mga) 0) st_0 ∧
    Goes (.haltInput (.typed .mga) (0) false (some (10 * 0))) st_0 ∧
    Goes (.haltInput (.typed .mga) (0) true none) st_0 ∧
    Goes (.haltForce (.typed .mga) 0) st_0 ∧
    Goes (.haltClear (.typed .mga) 0) st_10 ∧
    Goes (.haltLock (.typed .mga)) st_0 ∧
    Goes (.haltLock (.typed .mga)) st_9 ∧
    Goes (.xHaltSim (.typed .mga) (0) true) st_0 ∧
    Goes (.xHaltSim (.typed .mga) (0) false) st_0 :=
  ⟨⟨_, ((h.2.2.2.2.2.2.2.2.2.1 0 true).1 holds).2 (.typed .mga) st_0 holds holds⟩,
   ⟨_, ((h.2.2.2.2.2.2.2.2.2.1 0 false).2 holds).2 (.typed .mga) st_0 holds holds⟩,
   ⟨_, (h.2.2.2.2.2.2.2.2.2.2.1 0 false 0).2 (.typed .mga) st_0 holds holds⟩,
   ⟨_, (h.2.2.2.2.2.2.2.2.2.2.2.1 0 true).2 (.typed .mga) st_0 holds holds⟩,
   ⟨_, (h.2.2.2.2.2.2.2.2.2.2.2.2.1 0).2 (.typed .mga) st_0 holds holds⟩,
   ⟨_, (h.2.2.2.2.2.2.2.2.2.2.2.2.2.1 0).2 (.typed .mga) st_10 holds holds⟩,
   ⟨_, h.2.2.2.2.2.2.2.2.2.2.2.2.2.2.1.2 (.typed .mga) st_0 holds holds⟩,
   ⟨_, h.2.2.2.2.2.2.2.2.2.2.2.2.2.2.2.1 (.typed .mga) st_9 holds holds⟩,
   ⟨_, (h.2.2.2.2.2.2.2.2.2.2.2.2.2.2.2.2 0).1.2 (.typed .mga) st_0 holds holds⟩,
   ⟨_, (h.2.2.2.2.2.2.2.2.2.2.2.2.2.2.2.2 0).2.2 (.typed .mga) st_0 holds holds⟩⟩

end Evr

namespace Myc

def st_0 : State := wState
def st_2 : State := md fun d => { d with myc := { d.myc with patrolEn := true, patrolAt := 541695, ecc := [(0x190003F0,2),(0x190003F4,1),(0x10000000,1)], corr := 65535, uncorr := 3, corrSince := 4, uePages := [(0x19000,15)] } }
def st_3 : State := md fun d => { (d.updCore 0 fun k => { k with sb := [⟨0,4,0,0,.bulk,0,0,.u,false⟩] }) with myc := { d.myc with patrolEn := true, patrolAt := 0, folds := d.myc.folds.map fun m => { m with credit := 250, share := 3 } , ecc := [(0x10780000,2)] } }
def st_4 : State := md fun d => { (d.updCore 0 fun k => { k with sb := [⟨0,4,0,0,.drove,0,0,.u,true⟩] }) with myc := { d.myc with patrolEn := true, patrolAt := 491520, folds := d.myc.folds.map fun m => { m with share := 600 } , ecc := [(0x10780000,2)] } }
def st_5 : State := md fun d => { d.updCore 0 fun k => { k with sb := [⟨0x10000100,4,0,0,.drove,0,0,.u,false⟩] } with myc := { d.myc with patrolEn := true, folds := d.myc.folds.map fun m => { m with credit := -5, spare := false } } }
def st_6 : State := md fun d => { d.updCore 0 fun k => { k with sb := [⟨0x10000000,4,0,0,.urgent,0,0,.u,false⟩] } with myc := { d.myc with patrolEn := true } }

theorem witness_Mycelium_1 (h : Obligations.Mycelium) :
    Goes (.mycWindowWrite (.core 1 .k) 0 0 true 0#32) st_0 ∧
    Goes (.mycWindowWrite (.core 1 .k) 0 0 true 268435456#32) st_0 ∧
    Goes (.memWin (.typed .mga) 0 (0) (some { base := 0, limit := 0, perms := [] })) st_0 ∧
    Goes (.memWin (.typed .mga) 0 (0) none) st_0 ∧
    Goes (.mycShareWrite (.core 1 .k) 0 (toWord 0)) st_0 ∧
    Goes (.mycShareWrite (.core 1 .k) 0 (toWord 0)) st_4 ∧
    Goes (.mycShare (.typed .mga) 0 0 (some 16) (some true)) st_0 ∧
    Goes (.mycShare (.typed .mga) 0 0 none none) st_0 ∧
    Goes (.creditPeriod) st_0 ∧
    Goes (.requestPromotion (ReqRef.core 0)) st_3 ∧
    Goes (.requestPromotion (ReqRef.core 0)) st_0 ∧
    Goes (.remoteAccessPriority 0) st_0 :=
  ⟨⟨_, (h.1 0 0 0#32 true).1 (.core 1 .k) st_0 holds holds holds⟩,
   ⟨_, (h.1 0 0 268435456#32 true).2 (.core 1 .k) st_0 holds holds holds holds holds⟩,
   ⟨_, (h.2.1 0 0 0 0 [] holds holds holds holds).2 (.typed .mga) st_0 holds holds⟩,
   ⟨_, (h.2.2.1 0 0).2 (.typed .mga) st_0 holds holds⟩,
   ⟨_, (h.2.2.2.1 0 0 holds).1 (.core 1 .k) st_0 holds holds holds⟩,
   ⟨_, (h.2.2.2.1 0 0 holds).2 (.core 1 .k) st_4 holds holds holds⟩,
   ⟨_, (h.2.2.2.2.1 0 0 16 true holds holds holds).1.2 (.typed .mga) st_0 holds holds⟩,
   ⟨_, (h.2.2.2.2.1 0 0 16 true holds holds holds).2.2 (.typed .mga) st_0 holds holds⟩,
   ⟨_, h.2.2.2.2.2.1 st_0 holds⟩,
   ⟨_, (h.2.2.2.2.2.2.1 0).1 (⟨0,4,0,0,.bulk,0,0,.u,false⟩) [] st_3 holds holds⟩,
   ⟨_, (h.2.2.2.2.2.2.1 0).2.1 st_0 holds⟩,
   ⟨_, (h.2.2.2.2.2.2.1 0).2.2 st_0 holds⟩⟩

theorem witness_Mycelium_2 (h : Obligations.Mycelium) :
    Goes (.requestPromotion (ReqRef.mover 0)) st_0 ∧
    Goes (.requestPromotion (ReqRef.tile 0)) st_0 ∧
    Goes (.requestPromotion (ReqRef.spill 0)) st_0 ∧
    Goes (.eccPatrolRead) st_6 ∧
    Goes (.eccPatrolRead) st_0 ∧
    patrolCell (st_0.dev) 0 = (st_0.dev) ∧
    patrolCell (st_2.dev) 0x190003F0 = eccUncorrect (st_2.dev) 0x190003F0 "patrol" (UnitId.fold 0) ∧
    patrolCell (st_3.dev) 0x10780000 = goldenError (st_3.dev) false none 0 (match none with | some f => foldU f | none => UnitId.fold 0) ∧
    Goes (.eccCorrReport) st_2 :=
  have _ := h.2.2.2.2.2.2.2.2.2.2.1 (st_5.dev) 33 .bulk none holds (⟨33, .drove, some 0⟩) holds holds holds
  have _ := h.2.2.2.2.2.2.2.2.2.2.2.1 (st_0.dev) 0 .drove 0 holds holds
  have _ := (h.2.2.2.2.2.2.2.2.2.2.2.2.2.2.1 (st_2.dev) 0x10000000).2.1 holds
  ⟨⟨_, h.2.2.2.2.2.2.2.1 0 st_0 holds⟩,
   ⟨_, h.2.2.2.2.2.2.2.2.1 0 st_0 holds⟩,
   ⟨_, h.2.2.2.2.2.2.2.2.2.1 0 st_0 holds⟩,
   ⟨_, h.2.2.2.2.2.2.2.2.2.2.2.2.1 st_6 holds⟩,
   ⟨_, h.2.2.2.2.2.2.2.2.2.2.2.2.2.1 st_0 holds⟩,
   (h.2.2.2.2.2.2.2.2.2.2.2.2.2.2.1 (st_0.dev) 0).1 holds,
   (h.2.2.2.2.2.2.2.2.2.2.2.2.2.2.1 (st_2.dev) 0x190003F0).2.2.1 holds holds,
   (h.2.2.2.2.2.2.2.2.2.2.2.2.2.2.1 (st_3.dev) 0x10780000).2.2.2 false none 0 holds holds,
   ⟨_, h.2.2.2.2.2.2.2.2.2.2.2.2.2.2.2.2.1 st_2 holds⟩⟩

theorem witness_Mycelium_3 (h : Obligations.Mycelium) :
    Goes (.memoryInitComplete) st_0 ∧
    Goes (.xEccInject (.typed .mga) 0x10000000 true) st_0 ∧
    Goes (.mycInjGo .bw (toWord (0x10000000 + if true = true then 3 else 1))) st_0 ∧
    Goes (.eccClear (.typed .mga)) st_0 ∧
    Goes (.xEccPatrol (.typed .mga) true) st_0 :=
  ⟨⟨_, h.2.2.2.2.2.2.2.2.2.2.2.2.2.2.2.2.2.1 st_0 holds⟩,
   ⟨_, ((h.2.2.2.2.2.2.2.2.2.2.2.2.2.2 |>.2.2.2.2.1) 0x10000000 true holds holds holds).1.2 (.typed .mga) st_0 holds holds⟩,
   ⟨_, ((h.2.2.2.2.2.2.2.2.2.2.2.2.2.2 |>.2.2.2.2.1) 0x10000000 true holds holds holds).2 .bw st_0 holds⟩,
   ⟨_, (h.2.2.2.2.2.2.2.2.2.2.2.2.2.2 |>.2.2.2.2.2.1.2) (.typed .mga) st_0 holds holds⟩,
   ⟨_, ((h.2.2.2.2.2.2.2.2.2.2.2.2.2.2 |>.2.2.2.2.2.2) true).2 (.typed .mga) st_0 holds holds⟩⟩

end Myc

namespace Dma

def ch (f : Channel → Channel) : Channel := f { Channel.reset with own := some 0, rbase := 0x10001000, rsize := 3, head := 1 }
def mdma (st : UState) (f : Channel → Channel) (g : Dma → Dma := id) (ds : Word := 0x80000000) (ctl : Word := 0x0E) : State := md fun d =>
  let d := d.setUnit (.dma 0) { d.unit (.dma 0) with st := st, sh := st }
  let d := { d with dma := g { d.dma with chans := [(0, ch f)] } }
  let w d i v := plainWrite d (0x10001020 + i) v 4
  w (w (w (w (w d 0 0x10000000) 4 0x10002000) 8 16) 12 ctl) 28 ds
def dx : Desc := ⟨0x10000000, 0x10002000, 16, 0x0E, 0, 0x80000000⟩
def mv : Mover := { ch := 0, busy := true, bytes := 4, ports := [], prom := 0, cut := none }
def bs (n : Nat) : List Byte := (List.range n).map fun i => BitVec.ofNat 8 (i * 37 + 3)
def st_0 : State := wState
def st_2 : State := mdma .off id
def st_3 : State := mdma .idle id
def st_4 : State := mdma .idle (fun k => { k with stage := .fetch })
def st_5 : State := mdma .idle (fun k => { k with stage := .fetch }) id 0
def st_7 : State := mdma .idle (fun k => { k with stage := .fetch }) id 0x80000000 0x1F
def st_9 : State := mdma .idle (fun k => { k with stage := .fetch, backing := true, tries := 3 }) id 0
def st_10 : State := mdma .active (fun k => { k with stage := .data, desc := some dx })
def st_11 : State := mdma .active (fun k => { k with stage := .data, desc := some dx, done := 4 }) fun g => { g with movers := lset g.movers 0 mv }
def st_13 : State := mdma .active (fun k => { k with stage := .writeback, desc := some dx, halfPend := true })
def st_15 : State := mdma .active (fun k => { k with stage := .writeback, desc := some { dx with ctl := 0x2A000E } })
def st_18 : State := mdma .idle (fun k => { k with src := 0x36, req := true, low := 0 })
def st_19 : State := (let s := mdma .idle (fun k => { k with src := 0x36, req := false, high := 4 }); { s with dev := { s.dev with gpio := { s.dev.gpio with snapq := [default, default] } } })
def st_20 : State := { mdma .idle (fun k => { k with stage := .fetch }) with dev := (mdma .idle (fun k => { k with stage := .fetch })).dev.updCore 0 fun k => { k with sb := [⟨0x10001020,4,0,0,.urgent,0,0,.u,false⟩] } }
def st_21 : State := { mdma .active (fun k => { k with stage := .data, desc := some dx }) (fun g => { g with movers := lset g.movers 0 { mv with ports := [32] } }) with dev := (mdma .active (fun k => { k with stage := .data, desc := some dx }) (fun g => { g with movers := lset g.movers 0 { mv with ports := [32] } })).dev.updCore 0 fun k => { k with sb := [⟨0x10001020,4,0,0,.urgent,0,0,.u,false⟩] } }

theorem witness_DmaEngine_1 (h : Obligations.DmaEngine) :
    Goes (.dmaOwnWrite (.core 1 .k) 0 0#32) st_2 ∧
    Goes (.dmaOwn (.typed .mga) 0 none none) st_2 ∧
    Goes (.dmaCtlWrite (.core 0 .f) 0 54#32) st_2 ∧
    Goes (.dmaReqWrite (.core 0 .f) 0 0#32) st_2 ∧
    Goes (.dmaMarkWrite (.core 0 .f) 0 (toWord (1 + 65536 * 0))) st_2 ∧
    Goes (.dmaCfg (.typed .mga) 0 { prio := some 0, cls := some 1, retry := some 0, backoff := some 0, movers := some 0 } none) st_0 ∧
    Goes (.dmaPace (.typed .mga) 0 0 1 0 none) st_0 ∧
    Goes (.dmaRing (.typed .mga) 0 0 1 (some 0) none) st_0 ∧
    Goes (.dmaCmdKick (.core 0 .f) 0 none) st_3 ∧
    Goes (.dmaKick (.typed .mga) 0 none) st_0 ∧
    Goes (.dmaCmdStop (.core 0 .f) 0 none) st_10 ∧
    Goes (.dmaStop (.typed .mga) 0 none) st_10 :=
  ⟨⟨_, h.1 0 0#32 (.core 1 .k) st_2 holds holds holds⟩,
   ⟨_, (h.2.1 0 none none).2 (.typed .mga) st_2 holds holds⟩,
   ⟨_, h.2.2.1 0 54#32 holds (.core 0 .f) st_2 holds holds holds⟩,
   ⟨_, h.2.2.2.1 0 0#32 (.core 0 .f) st_2 holds holds holds⟩,
   ⟨_, h.2.2.2.2.1 0 1 0 holds holds (.core 0 .f) st_2 holds holds holds⟩,
   ⟨_, (h.2.2.2.2.2.1 0 0 1 0 0 0 holds holds holds holds holds holds none).2 (.typed .mga) st_0 holds holds⟩,
   ⟨_, (h.2.2.2.2.2.2.1 0 0 1 0 holds holds none).2 (.typed .mga) st_0 holds holds⟩,
   ⟨_, (h.2.2.2.2.2.2.2.1 0 0 1 0 holds holds holds holds holds none).2 (.typed .mga) st_0 holds holds⟩,
   ⟨_, (h.2.2.2.2.2.2.2.2.1 0).1 (.core 0 .f) none st_3 holds holds holds holds⟩,
   ⟨_, ((h.2.2.2.2.2.2.2.2.1 0).2 none).2 (.typed .mga) st_0 holds holds⟩,
   ⟨_, (h.2.2.2.2.2.2.2.2.2.1 0).1 (.core 0 .f) none st_10 holds holds holds holds⟩,
   ⟨_, ((h.2.2.2.2.2.2.2.2.2.1 0).2 none).2 (.typed .mga) st_10 holds holds⟩⟩

theorem witness_DmaEngine_2 (h : Obligations.DmaEngine) :
    Goes (.dmaCmdStop (.core 0 .f) 0 none) st_11 ∧
    Goes (.dmaStop (.typed .mga) 0 none) st_11 ∧
    Goes (.dmaClear (.typed .mga) 0 none) st_3 ∧
    Goes (.xDmaInject (.typed .mga) 0 true) st_0 ∧
    Goes (.dmaRequestAssert 0) st_19 ∧
    Goes (.dmaRequestWithdraw 0 0) st_18 ∧
    Goes (.descriptorFetch 0) st_20 ∧
    Goes (.descriptorFetch 0) st_5 ∧
    Goes (.descriptorFetch 0) st_7 ∧
    Goes (.descriptorFetch 0) st_4 ∧
    Goes (.dmaRetry 0) st_9 ∧
    Goes (.dmaBurstStart) st_10 :=
  ⟨⟨_, (h.2.2.2.2.2.2.2.2.2.2.1 0).1 (.core 0 .f) none st_11 holds holds holds holds⟩,
   ⟨_, ((h.2.2.2.2.2.2.2.2.2.2.1 0).2 none).2 (.typed .mga) st_11 holds holds⟩,
   ⟨_, (h.2.2.2.2.2.2.2.2.2.2.2.1 0 none).2 (.typed .mga) st_3 holds holds⟩,
   ⟨_, (h.2.2.2.2.2.2.2.2.2.2.2.2.1 0 true).2 (.typed .mga) st_0 holds holds⟩,
   ⟨_, h.2.2.2.2.2.2.2.2.2.2.2.2.2.1 0 st_19 holds⟩,
   ⟨_, h.2.2.2.2.2.2.2.2.2.2.2.2.2.2.1 0 0 st_18 holds⟩,
   ⟨_, (h.2.2.2.2.2.2.2.2.2.2.2.2.2.2.2.1 0).1 st_20 holds⟩,
   ⟨_, (h.2.2.2.2.2.2.2.2.2.2.2.2.2.2.2.1 0).2.1 st_5 holds⟩,
   ⟨_, (h.2.2.2.2.2.2.2.2.2.2.2.2.2.2.2.1 0).2.2.1 3 0x10001020 st_7 holds⟩,
   ⟨_, (h.2.2.2.2.2.2.2.2.2.2.2.2.2.2.2.1 0).2.2.2.1 st_4 holds⟩,
   ⟨_, (h.2.2.2.2.2.2.2.2.2.2.2.2.2.2.2.1 0).2.2.2.2 st_9 holds⟩,
   ⟨_, h.2.2.2.2.2.2.2.2.2.2.2.2.2.2.2.2.1 0 0 dx st_10 holds⟩⟩

theorem witness_DmaEngine_3 (h : Obligations.DmaEngine) :
    burstLen (st_0.dev) 0 dx % descU dx = 0 ∧
    (Dev.chan (st_0.dev) 0).done + burstLen (st_0.dev) 0 dx ≤ descLen dx ∧
    Goes (.dmaBurstComplete 0) st_21 ∧
    Goes (.dmaBurstComplete 0) st_11 ∧
    transformUnit dx (bs 2) = (bs 2) ∧
    Goes (.dmaDescriptorComplete 0) st_13 :=
  have _ := ((h.2.2.2.2.2.2.2.2.2.2.2.2.2.2 |>.2.2.2.2.2.2.1) ({ dx with ctl := 0x1E }) (bs 2) 0).2.1 holds holds holds
  have _ := (((h.2.2.2.2.2.2.2.2.2.2.2.2.2.2 |>.2.2.2.2.2.2.1) ({ dx with ctl := 0x2E }) (bs 4) 0).2.2.1 holds holds).1 holds
  have _ := (((h.2.2.2.2.2.2.2.2.2.2.2.2.2.2 |>.2.2.2.2.2.2.1) ({ dx with ctl := 0x4E }) (bs 4) 0).2.2.1 holds holds).2 holds
  have _ := (((h.2.2.2.2.2.2.2.2.2.2.2.2.2.2 |>.2.2.2.2.2.2.1) ({ dx with ctl := 0x3E }) (bs 8) 0).2.2.2.1 holds holds).1 holds
  have _ := (((h.2.2.2.2.2.2.2.2.2.2.2.2.2.2 |>.2.2.2.2.2.2.1) ({ dx with ctl := 0x5E }) (bs 8) 0).2.2.2.1 holds holds).2 holds
  have _ := (h.2.2.2.2.2.2.2.2.2.2.2.2.2.2 |>.2.2.2.2.2.2.2.1) ({ dx with ctl := 0x7E }) (bs 2) 0 0 holds
  ⟨(h.2.2.2.2.2.2.2.2.2.2.2.2.2.2.2.2.2.1 (st_0.dev) 0 dx).2.1 holds,
   (h.2.2.2.2.2.2.2.2.2.2.2.2.2.2.2.2.2.1 (st_0.dev) 0 dx).2.2 holds,
   ⟨_, (h.2.2.2.2.2.2.2.2.2.2.2.2.2.2 |>.2.2.2.2.1) 0 0 [32] st_21 holds⟩,
   ⟨_, (h.2.2.2.2.2.2.2.2.2.2.2.2.2.2 |>.2.2.2.2.2.1) 0 0 dx [] holds st_11 holds⟩,
   ((h.2.2.2.2.2.2.2.2.2.2.2.2.2.2 |>.2.2.2.2.2.2.1) dx (bs 2) 0).2.2.2.2 holds,
   ⟨_, ((h.2.2.2.2.2.2.2.2.2.2.2.2.2.2 |>.2.2.2.2.2.2.2.2.1) 0 dx).1 st_13 holds⟩⟩

theorem witness_DmaEngine_4 (h : Obligations.DmaEngine) :
    Goes (.dmaDescriptorComplete 0) st_15 ∧
    dmaRefused (st_0.dev) 0 0 0 = dmaHalt (st_0.dev) 0 0 0 :=
  have _ := ((h.2.2.2.2.2.2.2.2.2.2.2.2.2.2 |>.2.2.2.2.2.2.2.2.2) (st_0.dev) 0 6 0).1 holds holds
  ⟨⟨_, ((h.2.2.2.2.2.2.2.2.2.2.2.2.2.2 |>.2.2.2.2.2.2.2.2.1) 0 ({ dx with ctl := 0x2A000E })).2 st_15 holds⟩,
   ((h.2.2.2.2.2.2.2.2.2.2.2.2.2.2 |>.2.2.2.2.2.2.2.2.2) (st_0.dev) 0 0 0).2 holds⟩

end Dma

namespace Ports

def act (u : FieldPort) (f : Port → Port) (st : UState := .active) : State := md fun d =>
  (d.setUnit (portUnit u) { d.unit (portUnit u) with st := st, sh := st }).updPort (portId u) fun k => f { k with own := some 0 }
def bb (n : Nat) : List Byte := (List.range n).map fun i => BitVec.ofNat 8 (i * 37 + 3)
def sm (s : State) (f : Dev → Dev) : State := { s with dev := f s.dev }
def rec1 : Rec := ⟨0x18000300, 0xE14, 0⟩
def tg (d : Dev) : Dev := { d with pool := { d.pool with tags := [(0, ⟨0, 1⟩), (3, ⟨0, 97⟩), (5, ⟨1, 3⟩)] } }
def noB (d : Dev) : Dev := { d with pool := { d.pool with retired := List.range 1024 } }
def cfr : CanFrame := { ext := false, id := 5, rtr := false, fd := false, brs := false, esi := false, dlc := 3, bytes := bb 3 }
def st_0 : State := wState
def st_2 : State := act (.t1s 1) id
def st_3 : State := act (.t1s 1) (fun k => { k with cfg := 1, plcaOk := true })
def st_4 : State := act (.t1s 1) (fun k => { k with cfg := 1, plcaOk := false }) .idle
def st_6 : State := sm (act (.t1s 1) id) noB
def st_7 : State := act (.gbe 0) (fun k => { k with link := true })
def st_8 : State := sm (act (.gbe 0) (fun k => { k with link := true, mdio := 0x800 })) noB
def st_10 : State := act (.can 2) id
def st_11 : State := sm (act (.can 2) (fun k => { k with cfg := 1 })) fun d => { d with filts := [(64, ⟨0x40000005, 0x7FF⟩),(65, ⟨0xC0000000, 0⟩)] }
def st_12 : State := sm (act (.can 2) (fun k => { k with rxWait := List.replicate 4 ⟨[],0,0,none,[]⟩ })) fun d => { d with filts := [(64, ⟨0x40000005, 0x7FF⟩)] }
def st_13 : State := act (.uart 3) (fun k => { k with held := [3] })
def st_14 : State := sm (act (.uart 3) (fun k => { k with held := [3], rxBuf := bb 9, rxStat := 2 })) tg
def st_17 : State := sm (act (.t1s 1) (fun k => { k with txq := [rec1], subs := [(0, { SubQ.reset with recs := [rec1, rec1] })] })) tg
def st_18 : State := sm (act (.t1s 1) (fun k => { k with txq := [{rec1 with addr := 0x18000500}], subs := [(0, { SubQ.reset with tx0 := some 7, half := true, recs := [rec1, rec1] })] })) tg
def st_19 : State := sm (act (.t1s 1) (fun k => { k with txFrame := [rec1], txBusy := true })) tg
def st_24 : State := act (.can 2) (fun k => k) .off
def st_26 : State := act (.t1s 1) id .off
def st_28 : State := md fun d => { d with ptab := { d.ptab with entries := [(0, ⟨false, 1, 0, 5, macKey (bb 60), 4999, 4⟩), (1, ⟨true, 1, 0, 5, 7, 4999, 4⟩), (4, ⟨false, 6, 1, 5, 7, 49, 4⟩)], queues := lset d.ptab.queues 0 ⟨[(1,2),(3,4)],0,true⟩ } }
def st_30 : State := md fun d => { d with pool := { d.pool with hdes := [2, 0, 0, 0] } }

theorem witness_PortFrames_1 (h : Obligations.PortFrames) :
    Goes (.t1sFrameReceived 0 0#8 (bb 60) true) st_0 ∧
    Goes (.t1sFrameReceived 0 0#8 (bb 60) true) st_6 ∧
    Goes (.t1sFrameReceived 0 0#8 (bb 60) false) st_0 ∧
    Goes (.gbeFrameReceived 0 (bb 60) true) st_7 ∧
    Goes (.gbeFrameReceived 0 (bb 60) false) st_7 ∧
    Goes (.gbeFrameReceived 0 (bb 1600) true) st_7 ∧
    Goes (.canFrameReceived 2 cfr false) st_10 ∧
    Goes (.canFrameReceived 2 cfr true) st_10 ∧
    Goes (.canFrameReceived 2 cfr true) st_12 ∧
    Goes (.canFrameReceived 2 cfr true) st_11 ∧
    Goes (.uartCharacterReceived 3 0#8 true true) st_13 ∧
    Goes (.uartBufferClose 3) st_14 :=
  ⟨⟨_, h.1 0 0#8 (bb 60) 0 holds st_0 holds⟩,
   ⟨_, (h.2.1 0 0#8 (bb 60) holds holds).1 st_6 holds⟩,
   ⟨_, (h.2.1 0 0#8 (bb 60) holds holds).2 st_0 holds⟩,
   ⟨_, h.2.2.1 0 (bb 60) 0 holds st_7 holds⟩,
   ⟨_, (h.2.2.2.1 0 (bb 60)).1 holds st_7 holds⟩,
   ⟨_, (h.2.2.2.1 0 (bb 1600)).2 holds st_7 holds⟩,
   ⟨_, (h.2.2.2.2.1 2 cfr holds).1 st_10 holds⟩,
   ⟨_, (h.2.2.2.2.1 2 cfr holds).2.1 st_10 holds⟩,
   ⟨_, (h.2.2.2.2.1 2 cfr holds).2.2.1 st_12 holds⟩,
   ⟨_, (h.2.2.2.2.1 2 cfr holds).2.2.2 0 0 st_11 holds⟩,
   ⟨_, h.2.2.2.2.2.1 3 0#8 true true st_13 holds⟩,
   ⟨_, h.2.2.2.2.2.2.1 3 3 st_14 holds⟩⟩

theorem witness_PortFrames_2 (h : Obligations.PortFrames) :
    Goes (.bufferRequest [(.port (.t1s 1))]) st_0 ∧
    Goes (.bufferRequest [(.port (.t1s 1))]) st_6 ∧
    reqRank (st_0.dev) (reqIdNum (.port (.t1s 1))) ≤ reqRank (st_0.dev) (reqIdNum (.port (.t1s 1))) ∧
    reqRank (st_30.dev) (reqIdNum (.port (.t1s 1))) < reqRank (st_30.dev) (reqIdNum (.port (.can 2))) ∧
    Goes (.poolAllocRead 0) st_0 ∧
    Goes (.poolAllocRead 0) st_6 ∧
    Goes (.poolFreeWrite (.core 0 .f) 0#32) st_0 ∧
    Goes (.rxqRead (Agent.core 0 .f) (.t1s 1)) st_17 ∧
    Goes (.rxqRead (Agent.core 0 .f) (.t1s 1)) st_18 ∧
    Goes (.txqWrite (.core 0 .f) (.t1s 1) 0#32) st_2 ∧
    Goes (.txqWrite (.core 0 .f) (.t1s 1) 0#32) st_18 :=
  have _ := (h.2.2.2.2.2.2.2.2.1 (st_0.dev) [.port (.t1s 1), .dma 33, .fold 0] (.port (.t1s 1)) holds).1
  ⟨⟨_, (h.2.2.2.2.2.2.2.1 (.port (.t1s 1)) 0).1 st_0 holds⟩,
   ⟨_, (h.2.2.2.2.2.2.2.1 (.port (.t1s 1)) 0).2 st_6 holds⟩,
   (h.2.2.2.2.2.2.2.2.1 (st_0.dev) [.port (.t1s 1), .dma 33, .fold 0] (.port (.t1s 1)) holds).2.2 (.port (.t1s 1)) holds holds,
   h.2.2.2.2.2.2.2.2.2.1 (st_30.dev) (.port (.t1s 1)) (.port (.can 2)) holds holds,
   ⟨_, (h.2.2.2.2.2.2.2.2.2.2.1 0 0).1 st_0 holds⟩,
   ⟨_, (h.2.2.2.2.2.2.2.2.2.2.1 0 0).2 st_6 holds⟩,
   ⟨_, h.2.2.2.2.2.2.2.2.2.2.2.1 0#32 (.core 0 .f) st_0 holds⟩,
   ⟨_, (h.2.2.2.2.2.2.2.2.2.2.2.2.1 (.t1s 1) 0 .f).1 st_17 holds⟩,
   ⟨_, (h.2.2.2.2.2.2.2.2.2.2.2.2.1 (.t1s 1) 0 .f).2 st_18 holds⟩,
   ⟨_, (h.2.2.2.2.2.2.2.2.2.2.2.2.2.1 (.t1s 1) 0#32 (.core 0 .f) st_2 0 holds holds holds holds holds holds).1 holds⟩,
   ⟨_, (h.2.2.2.2.2.2.2.2.2.2.2.2.2.1 (.t1s 1) 0#32 (.core 0 .f) st_18 0 holds holds holds holds holds holds).2 7#32 holds⟩⟩

theorem witness_PortFrames_3 (h : Obligations.PortFrames) :
    Goes (.txRecordHead (.t1s 1)) st_17 ∧
    Goes (.txRecordHead (.t1s 1)) st_18 ∧
    Goes (.frameTransmitComplete (.t1s 1)) st_19 ∧
    Goes (.transmitFailure (.t1s 1)) st_19 :=
  have _ := h.2.2.2.2.2.2.2.2.2.2.2.2.2.2.2 (st_14.dev) rec1 holds (⟨0, 97⟩) holds
  ⟨⟨_, (h.2.2.2.2.2.2.2.2.2.2.2.2.2.2.1 (.t1s 1) rec1 []).1 st_17 holds⟩,
   ⟨_, (h.2.2.2.2.2.2.2.2.2.2.2.2.2.2.1 (.t1s 1) ({rec1 with addr := 0x18000500}) []).2.1 st_18 holds⟩,
   ⟨_, (h.2.2.2.2.2.2.2.2.2.2.2.2.2.2.1 (.t1s 1) rec1 []).2.2.1 st_19 holds⟩,
   ⟨_, (h.2.2.2.2.2.2.2.2.2.2.2.2.2.2.1 (.t1s 1) rec1 []).2.2.2 st_19 holds⟩⟩

theorem witness_PortSettings_1 (h : Obligations.PortSettings) :
    Goes (.plcaLost 1) st_3 ∧
    Goes (.plcaOk 1) st_4 ∧
    Goes (.gbeLinkDown 0) st_7 ∧
    Goes (.gbeLinkUp 0 1 true) st_0 ∧
    Goes (.canErrorPassive 0 0#8 128#8) st_0 ∧
    Goes (.canBusOff 0) st_0 ∧
    Goes (.canIntegrated 0) st_0 ∧
    Goes (.mdioTransaction (.core 0 .f) 0 0#32) st_7 ∧
    Goes (.mdioComplete 0 none) st_8 ∧
    Goes (.mdioComplete 0 (some 0#16)) st_8 ∧
    Goes (.partnerAgeTick) st_0 :=
  have _ := h.2.2.2.2.2.1 (st_28.dev) 0 (⟨false, 1, 0, 5, macKey (bb 60), 4999, 4⟩) holds
  ⟨⟨_, (h.1 1).1 st_3 holds⟩,
   ⟨_, (h.1 1).2 st_4 holds⟩,
   ⟨_, (h.2.1 0).1 st_7 holds⟩,
   ⟨_, (h.2.1 0).2 1 true holds st_0 holds⟩,
   ⟨_, (h.2.2.1 0).1 0#8 128#8 holds st_0 holds⟩,
   ⟨_, (h.2.2.1 0).2.1 st_0 holds⟩,
   ⟨_, (h.2.2.1 0).2.2 st_0 holds⟩,
   ⟨_, (h.2.2.2.1 0 0#32).1 (.core 0 .f) st_7 holds holds holds holds⟩,
   ⟨_, (h.2.2.2.1 0 0#32).2.1 st_8 holds⟩,
   ⟨_, (h.2.2.2.1 0 0#32).2.2 0#16 st_8 holds⟩,
   ⟨_, h.2.2.2.2.1 st_0 holds⟩⟩

theorem witness_PortSettings_2 (h : Obligations.PortSettings) :
    Goes (.partnerEvRead (Agent.core 0 .f) 0) st_0 ∧
    Goes (.ptabAddWrite (.core 1 .k) 0#32) st_0 ∧
    Goes (.ptabDelWrite (.core 1 .k) 0#32) st_0 ∧
    Goes (.ptabAdd (.typed .mga) (.t1s 1) 0 0) st_0 ∧
    Goes (.ptabDel (.typed .mga) 0) st_28 ∧
    Goes (.ptabAge (.typed .mga) (.t1s 1) 0) st_0 ∧
    Goes (.portOwnWrite (.core 1 .k) (.t1s 1) 0#32) st_26 ∧
    Goes (.portOwn (.typed .mga) (.t1s 1) none) st_26 ∧
    Goes (.poolFloorWrite (.core 1 .k) (.port (.t1s 1)) (toWord 0)) st_0 ∧
    Goes (.poolFloor (.typed .mga) (.port (.t1s 1)) 0) st_0 ∧
    Goes (.poolHdesWrite (.core 1 .k) 0 0#32) st_0 :=
  have _ := h.2.2.2.2.2.2.2.2.2.2.2.2.2.2.1 (st_0.dev) (.port (.t1s 1)) 0 holds
  ⟨⟨_, h.2.2.2.2.2.2.1 0 0 .f st_0 holds⟩,
   ⟨_, (h.2.2.2.2.2.2.2.1 0#32).1 (.core 1 .k) st_0 holds holds holds holds⟩,
   ⟨_, (h.2.2.2.2.2.2.2.1 0#32).2 (.core 1 .k) st_0 holds holds holds holds⟩,
   ⟨_, (h.2.2.2.2.2.2.2.2.1 (.t1s 1) 0 0 0).2 (.typed .mga) st_0 holds holds⟩,
   ⟨_, (h.2.2.2.2.2.2.2.2.2.1 0).2 (.typed .mga) st_28 holds holds⟩,
   ⟨_, (h.2.2.2.2.2.2.2.2.2.2.1 (.t1s 1) 0 holds).2 (.typed .mga) st_0 holds holds⟩,
   ⟨_, h.2.2.2.2.2.2.2.2.2.2.2.1 (.t1s 1) 0#32 (.core 1 .k) st_26 holds holds holds⟩,
   ⟨_, (h.2.2.2.2.2.2.2.2.2.2.2.2.1 (.t1s 1) none).2 (.typed .mga) st_26 holds holds⟩,
   ⟨_, (h.2.2.2.2.2.2.2.2.2.2.2.2.2.1 (.port (.t1s 1)) 0 holds).1 (.core 1 .k) st_0 holds holds holds⟩,
   ⟨_, (h.2.2.2.2.2.2.2.2.2.2.2.2.2.1 (.port (.t1s 1)) 0 holds).2.2 (.typed .mga) st_0 holds holds⟩,
   ⟨_, h.2.2.2.2.2.2.2.2.2.2.2.2.2.2.2.1 0 0#32 (.core 1 .k) st_0 holds holds holds⟩⟩

theorem witness_PortSettings_3 (h : Obligations.PortSettings) :
    Goes (.poolHalter (.typed .mga) []) st_0 ∧
    Goes (.t1sPlcaCoord (.typed .mga) 0 1 (some 0) (some 20)) st_0 ∧
    Goes (.t1sPlcaFollow (.typed .mga) 0 1 (some 0) (some 20)) st_0 ∧
    Goes (.t1sPlcaOff (.typed .mga) 0) st_0 ∧
    Goes (.t1sNode (.typed .mga) 0 [0] none) st_0 ∧
    Goes (.gbeSpeed (.typed .mga) 0 0 (some true) (some true)) st_0 ∧
    Goes (.canRate (.typed .mga) 2 ⟨1,2,1,1⟩ none (some true)) st_24 ∧
    Goes (.canFilter (.typed .mga) 0 (0) (some (⟨5, 0x7FF, false, 3, true, false⟩))) st_0 ∧
    Goes (.canFilter (.typed .mga) 0 (0) none) st_0 ∧
    Goes (.uartCfg (.typed .mga) 0 { baud := 300, fmt := some 0, mode := 0, rs485 := some (0, 0), idle := some 0 }) st_0 ∧
    Goes (.xPortInject (.typed .mga) (.t1s 1) true) st_0 :=
  have _ := h.2.2.2.2.2.2.2.2.2.2.2.2.2.2.2.2.2.1 (st_0.dev) [.port (.t1s 1), .dma 33, .fold 0] (.port (.t1s 1)) holds
  ⟨⟨_, (h.2.2.2.2.2.2.2.2.2.2.2.2.2.2.2.2.1 [] holds).2 (.typed .mga) st_0 holds holds⟩,
   ⟨_, ((h.2.2.2.2.2.2.2.2.2.2.2.2.2.2 |>.2.2.2.2.1) 0 1 0 20 holds holds holds holds holds).2 (.typed .mga) st_0 holds holds⟩,
   ⟨_, ((h.2.2.2.2.2.2.2.2.2.2.2.2.2.2 |>.2.2.2.2.2.1) 0 1 0 20 holds holds holds holds holds).2 (.typed .mga) st_0 holds holds⟩,
   ⟨_, ((h.2.2.2.2.2.2.2.2.2.2.2.2.2.2 |>.2.2.2.2.2.2.1) 0).2 (.typed .mga) st_0 holds holds⟩,
   ⟨_, ((h.2.2.2.2.2.2.2.2.2.2.2.2.2.2 |>.2.2.2.2.2.2.2.1) 0 0 none holds).2 (.typed .mga) st_0 holds holds⟩,
   ⟨_, ((h.2.2.2.2.2.2.2.2.2.2.2.2.2.2 |>.2.2.2.2.2.2.2.2.1) 0 0 true true).2 (.typed .mga) st_0 holds holds⟩,
   ⟨_, ((h.2.2.2.2.2.2.2.2.2.2.2.2.2.2 |>.2.2.2.2.2.2.2.2.2.1) 2 ⟨1,2,1,1⟩ true holds).2 (.typed .mga) st_24 holds holds⟩,
   ⟨_, ((h.2.2.2.2.2.2.2.2.2.2.2.2.2.2 |>.2.2.2.2.2.2.2.2.2.2.1) 0 0 (⟨5, 0x7FF, false, 3, true, false⟩) holds holds).2 (.typed .mga) st_0 holds holds⟩,
   ⟨_, ((h.2.2.2.2.2.2.2.2.2.2.2.2.2.2 |>.2.2.2.2.2.2.2.2.2.2.2.1) 0 0).2 (.typed .mga) st_0 holds holds⟩,
   ⟨_, ((h.2.2.2.2.2.2.2.2.2.2.2.2.2.2 |>.2.2.2.2.2.2.2.2.2.2.2.2.1) 0 300 0 0 0 0 0 holds holds holds holds holds).2 (.typed .mga) st_0 holds holds⟩,
   ⟨_, ((h.2.2.2.2.2.2.2.2.2.2.2.2.2.2 |>.2.2.2.2.2.2.2.2.2.2.2.2.2) (.t1s 1) true).2 (.typed .mga) st_0 holds holds⟩⟩

end Ports

namespace Io

def au (u : UnitId) (st : UState) (f : Dev → Dev) : State := md fun d => f (d.setUnit u { d.unit u with st := st, sh := st })
def af (st : UState) (f : Afe → Afe) : State := au .afe st fun d => { d with afe := f { d.afe with own := some 0 } }
def chA (m dis : Nat) (f : AfeCh → AfeCh) : AfeCh := f { AfeCh.reset with mode := m, discard := dis, lo := 100, hi := 200000, fcnt := 2 }
def chs : List AfeCh := [chA 1 0 id, chA 2 0 (fun c => { c with runDir := 1, run := 1 , fault := 1}), chA 1 3 id, chA 0 4 id, chA 1 0 (fun c => { c with old := some 2 }), chA 1 0 (fun c => { c with test := some true, fault := 2, runDir := 2, run := 15 })] ++ List.replicate 18 AfeCh.reset
def pw (n : Nat) (st : UState) (f : Pwm → Pwm) : State := au (pwmU n) st fun d => d.updPwm n fun k => f { k with own := some 0, sp := 26214, per := 5000 }
def gpi (f : Gpio → Gpio) : State := md fun d => { d with gpio := f { d.gpio with own := [some 0, none, some 0, some 1] ++ List.replicate 29 none ++ [some 0] ++ List.replicate 30 none } }
def sm (s : State) (f : Dev → Dev) : State := { s with dev := f s.dev }
def st_0 : State := wState
def st_2 : State := af .off id
def st_3 : State := af .active (fun a => { a with chans := chs, frev := false, ovrWait := 1 })
def st_4 : State := af .active (fun a => { a with chans := chs, seq := 15, queue := List.replicate 372 5, ovrWait := 1, rate := 1 })
def st_8 : State := pw 0 .off id
def st_10 : State := pw 0 .active (fun k => { k with held := true, running := true, pev := true, mism := 2 })
def st_11 : State := pw 9 .active (fun k => { k with spq := [5,6], dhalf := 3, damp := 100, dpos := 2, running := true, mism := 1 })
def st_14 : State := pw 9 .active (fun k => { k with due := true })
def st_15 : State := sm (pw 0 .active (fun k => { k with hen := true, hlink := 2, spq := [1,2,3,4,5,6,7,8], qdrop := 250 })) (fun d => { d with halter := { d.halter with trip := 4 } })
def st_18 : State := gpi (fun g => { g with out := 0x300000005, dir := 0x200000007, odrn := 1, snapEn := true, snapq := [3] })
def st_19 : State := gpi (fun g => { g with dir := 0x200000001, mismSec := [(0, wState.dev.pmu.rtcSec)], snapEn := true, snapBank := true, snapq := List.replicate 32 1 })
def st_22 : State := sm (gpi id) (fun d => { d with mga := { d.mga with scope := some 0 } })

theorem witness_AfePwmGpio_1 (h : Obligations.AfePwmGpio) :
    Goes (.afeConversionPeriod (List.replicate 24 150)) st_3 ∧
    Goes (.afeConversionPeriod (List.replicate 24 150)) st_4 ∧
    Goes (.afeReferenceCheck false) st_0 ∧
    Goes (.afeReferenceCheck true) st_0 ∧
    Goes (.afeFrameqRead (Agent.core 0 .u)) st_4 ∧
    Goes (.gpioSnapqRead (Agent.core 0 .f)) st_18 ∧
    Goes (.afeOwnWrite (.core 1 .k) 0#32) st_2 ∧
    Goes (.pwmOwnWrite (.core 1 .k) 0 0#32) st_8 ∧
    Goes (.afeOwn (.typed .mga) none) st_2 ∧
    Goes (.pwmOwn (.typed .mga) 0 none) st_8 ∧
    Goes (.afeRate (.typed .mga) (lget [4000, 2000, 1000, 500, 250, 100, 50, 10] 0 0)) st_0 :=
  have _ := h.2.1 (st_3.dev) 0 (-8388608) holds holds holds
  ⟨⟨_, (h.1 (List.replicate 24 150) holds).1 st_3 holds⟩,
   ⟨_, (h.1 (List.replicate 24 150) holds).2 st_4 holds⟩,
   ⟨_, h.2.2.1 st_0 holds⟩,
   ⟨_, h.2.2.2.1 st_0 holds⟩,
   ⟨_, (h.2.2.2.2.1 0 .u).1 st_4 holds⟩,
   ⟨_, (h.2.2.2.2.1 0 .f).2 st_18 holds⟩,
   ⟨_, (h.2.2.2.2.2.1 0#32).1 (.core 1 .k) st_2 holds holds holds⟩,
   ⟨_, (h.2.2.2.2.2.1 0#32).2 0 (.core 1 .k) st_8 holds holds holds⟩,
   ⟨_, (h.2.2.2.2.2.2.1 none).1.2 (.typed .mga) st_2 holds holds⟩,
   ⟨_, ((h.2.2.2.2.2.2.1 none).2 0).2 (.typed .mga) st_8 holds holds⟩,
   ⟨_, (h.2.2.2.2.2.2.2.1 0 holds).2 (.typed .mga) st_0 holds holds⟩⟩

theorem witness_AfePwmGpio_2 (h : Obligations.AfePwmGpio) :
    Goes (.afeCh (.typed .mga) [0] 0) st_3 ∧
    Goes (.afeLoopSet (.typed .mga) [0] (-8388608) (-8388608) (some 1)) st_0 ∧
    Goes (.xAfeTest (.typed .mga) (0) none) st_0 ∧
    Goes (.pwmPeriodStart 0) st_15 ∧
    Goes (.pwmPeriodStart 0) st_10 ∧
    Goes (.pwmPeriodStart 9) st_14 ∧
    Goes (.pwmHalterHold 0) st_15 ∧
    Goes (.pwmBallSample 0 true) st_10 ∧
    Goes (.pwmBallSample 9 false) st_11 ∧
    Goes (.pwmBallSample 0 false) st_10 ∧
    Goes (.pwmSpWrite (.core 0 .f) 0 0#32) st_8 ∧
    Goes (.pwmSpqWrite (.core 0 .f) 0 0#32) st_8 :=
  ⟨⟨_, (h.2.2.2.2.2.2.2.2.1 0 0).2 (.typed .mga) st_3 holds holds⟩,
   ⟨_, (h.2.2.2.2.2.2.2.2.2.1 0 (-8388608) (-8388608) 1 holds holds holds holds holds holds).2 (.typed .mga) st_0 holds holds⟩,
   ⟨_, (h.2.2.2.2.2.2.2.2.2.2.1 0 none).2 (.typed .mga) st_0 holds holds⟩,
   ⟨_, (h.2.2.2.2.2.2.2.2.2.2.2.1 0).1 st_15 holds⟩,
   ⟨_, (h.2.2.2.2.2.2.2.2.2.2.2.1 0).2.1 st_10 holds⟩,
   ⟨_, (h.2.2.2.2.2.2.2.2.2.2.2.1 9).2.2.1 st_14 holds⟩,
   ⟨_, (h.2.2.2.2.2.2.2.2.2.2.2.1 0).2.2.2.1 st_15 holds⟩,
   ⟨_, (h.2.2.2.2.2.2.2.2.2.2.2.1 0).2.2.2.2.1 st_10 holds⟩,
   ⟨_, (h.2.2.2.2.2.2.2.2.2.2.2.1 9).2.2.2.2.2.1 st_11 holds⟩,
   ⟨_, (h.2.2.2.2.2.2.2.2.2.2.2.1 0).2.2.2.2.2.2.1 st_10 holds⟩,
   ⟨_, ((h.2.2.2.2.2.2.2.2.2.2.2.1 0).2.2.2.2.2.2.2.1 0#32).1 (.core 0 .f) st_8 holds holds holds holds⟩,
   ⟨_, ((h.2.2.2.2.2.2.2.2.2.2.2.1 0).2.2.2.2.2.2.2.1 0#32).2.1 (.core 0 .f) st_8 holds holds holds holds⟩⟩

theorem witness_AfePwmGpio_3 (h : Obligations.AfePwmGpio) :
    Goes (.pwmPeriodWrite (.core 0 .f) 0 true 4294967295#32) st_8 ∧
    Goes (.pwmPeriodWrite (.core 0 .f) 0 false 0#32) st_8 ∧
    Goes (.pwmCmdResume (.core 0 .f) 0) st_8 ∧
    Goes (.pwmCmdResume (.core 0 .f) 0) st_15 ∧
    Goes (.pwmResume (.typed .mga) 0) st_0 ∧
    Goes (.pwmResume (.typed .mga) 0) st_15 ∧
    Goes (.pwmSet (.typed .mga) 0 0) st_0 ∧
    Goes (.pwmDither (.typed .mga) 0 (some (0, 1))) st_0 ∧
    Goes (.pwmSafe (.typed .mga) 0 true (some true)) st_8 ∧
    Goes (.pwmCfg (.typed .mga) 0 { pre := 0, per := 4000, polHigh := some true, halter := some (some 0), foldsafe := some true, pev := some true }) st_0 ∧
    Goes (.gpioOutWrite (.core 0 .f) true 0#32) st_0 ∧
    Goes (.gpioOsetWrite (.core 0 .f) true 0#32) st_0 :=
  ⟨⟨_, ((h.2.2.2.2.2.2.2.2.2.2.2.1 0).2.2.2.2.2.2.2.1 4294967295#32).2.2.1 (.core 0 .f) st_8 holds holds holds⟩,
   ⟨_, ((h.2.2.2.2.2.2.2.2.2.2.2.1 0).2.2.2.2.2.2.2.1 0#32).2.2.2 (.core 0 .f) st_8 holds holds holds⟩,
   ⟨_, (h.2.2.2.2.2.2.2.2.2.2.2.1 0).2.2.2.2.2.2.2.2.1 (.core 0 .f) st_8 holds holds holds holds⟩,
   ⟨_, (h.2.2.2.2.2.2.2.2.2.2.2.1 0).2.2.2.2.2.2.2.2.2.1 (.core 0 .f) st_15 holds holds holds holds⟩,
   ⟨_, (h.2.2.2.2.2.2.2.2.2.2.2.1 0).2.2.2.2.2.2.2.2.2.2.1.2 (.typed .mga) st_0 holds holds⟩,
   ⟨_, (h.2.2.2.2.2.2.2.2.2.2.2.1 0).2.2.2.2.2.2.2.2.2.2.2.1 (.typed .mga) st_15 holds holds⟩,
   ⟨_, ((h.2.2.2.2.2.2.2.2.2.2.2.1 0).2.2.2.2.2.2.2.2.2.2.2.2.1 0 holds).2 (.typed .mga) st_0 holds holds⟩,
   ⟨_, ((h.2.2.2.2.2.2.2.2.2.2.2.1 0).2.2.2.2.2.2.2.2.2.2.2.2.2.1 0 1 holds holds holds).2 (.typed .mga) st_0 holds holds⟩,
   ⟨_, ((h.2.2.2.2.2.2.2.2.2.2.2.1 0).2.2.2.2.2.2.2.2.2.2.2.2.2.2.1 true true).2 (.typed .mga) st_8 holds holds⟩,
   ⟨_, ((h.2.2.2.2.2.2.2.2.2.2.2.1 0).2.2.2.2.2.2.2.2.2.2.2.2.2.2.2 0 4000 true true true 0 holds holds holds).2 (.typed .mga) st_0 holds holds⟩,
   ⟨_, (h.2.2.2.2.2.2.2.2.2.2.2.2.1 true 0#32 0#32).1 (.core 0 .f) st_0 holds holds holds holds⟩,
   ⟨_, (h.2.2.2.2.2.2.2.2.2.2.2.2.1 true 0#32 0#32).2.1 (.core 0 .f) st_0 holds holds holds holds⟩⟩

theorem witness_AfePwmGpio_4 (h : Obligations.AfePwmGpio) :
    Goes (.gpioOclrWrite (.core 0 .f) true 0#32) st_0 ∧
    Goes (.gpioSnapshot) st_18 ∧
    Goes (.gpioSnapshot) st_19 ∧
    Goes (.gpioMismatch 0) st_19 ∧
    Goes (.gpioMismatch 2) st_18 ∧
    Goes (.gpioMismatch 0) st_0 ∧
    Goes (.haltBallMismatch 0) st_0 ∧
    Goes (.gpio (.typed .mga)) st_0 ∧
    Goes (.gpioOwn (.typed .mga) [0, 2] none) st_0 ∧
    Goes (.gpioDir (.typed .mga) [0, 2] true true (some 0)) st_0 ∧
    Goes (.gpioSet (.typed .mga) [0, 2]) st_0 ∧
    Goes (.gpioClr (.typed .mga) [0, 2]) st_0 :=
  ⟨⟨_, (h.2.2.2.2.2.2.2.2.2.2.2.2.1 true 0#32 0#32).2.2 (.core 0 .f) st_0 holds holds holds holds⟩,
   ⟨_, h.2.2.2.2.2.2.2.2.2.2.2.2.2.1 st_18 holds⟩,
   ⟨_, h.2.2.2.2.2.2.2.2.2.2.2.2.2.2.1 st_19 holds⟩,
   ⟨_, (h.2.2.2.2.2.2.2.2.2.2.2.2.2.2.2.1 0).1 st_19 holds⟩,
   ⟨_, (h.2.2.2.2.2.2.2.2.2.2.2.2.2.2.2.1 2).2.1 st_18 holds⟩,
   ⟨_, (h.2.2.2.2.2.2.2.2.2.2.2.2.2.2.2.1 0).2.2 st_0 holds⟩,
   ⟨_, h.2.2.2.2.2.2.2.2.2.2.2.2.2.2.2.2.1 0 st_0 holds⟩,
   (h.2.2.2.2.2.2.2.2.2.2.2.2.2.2.2.2.2.1 (.typed .mga) st_0 holds).elim fun _ x => ⟨_, x⟩,
   ⟨_, ((h.2.2.2.2.2.2.2.2.2.2.2.2.2.2 |>.2.2.2.2.2.1) [0, 2] none).2 (.typed .mga) st_0 holds holds⟩,
   ⟨_, ((h.2.2.2.2.2.2.2.2.2.2.2.2.2.2 |>.2.2.2.2.2.2.1) [0, 2] true true 0).2 (.typed .mga) st_0 holds holds⟩,
   ⟨_, ((h.2.2.2.2.2.2.2.2.2.2.2.2.2.2 |>.2.2.2.2.2.2.2.1) [0, 2]).1.2 (.typed .mga) st_0 holds holds⟩,
   ⟨_, ((h.2.2.2.2.2.2.2.2.2.2.2.2.2.2 |>.2.2.2.2.2.2.2.1) [0, 2]).2.1.2 (.typed .mga) st_0 holds holds⟩⟩

theorem witness_AfePwmGpio_5 (h : Obligations.AfePwmGpio) :
    Goes (.gpioSet (.typed .mga) [3]) st_22 ∧
    Goes (.gpioSnap (.typed .mga) (some (0, 100))) st_0 ∧
    Goes (.gpioSnap (.typed .mga) none) st_0 ∧
    Goes (.xGpioMism (.typed .mga) true) st_0 :=
  ⟨⟨_, ((h.2.2.2.2.2.2.2.2.2.2.2.2.2.2 |>.2.2.2.2.2.2.2.1) [3]).2.2 (.typed .mga) st_22 holds holds⟩,
   ⟨_, ((h.2.2.2.2.2.2.2.2.2.2.2.2.2.2 |>.2.2.2.2.2.2.2.2.1) 0 100 holds holds holds).2 (.typed .mga) st_0 holds holds⟩,
   ⟨_, (h.2.2.2.2.2.2.2.2.2.2.2.2.2.2 |>.2.2.2.2.2.2.2.2.2.1.2) (.typed .mga) st_0 holds holds⟩,
   ⟨_, (h.2.2.2.2.2.2.2.2.2.2.2.2.2.2 |>.2.2.2.2.2.2.2.2.2.2.2) (.typed .mga) st_0 holds holds⟩⟩

end Io

namespace Boot

def imgBytes : List Byte := [77, 73, 89, 75, 1, 0, 0, 0, 53, 1, 0, 0, 4, 0, 0, 0, 1, 7, 0, 0, 1, 0, 0, 0, 2, 1, 3] ++ List.replicate 6 0 ++ [4] ++ List.replicate 30 0
 ++ [121, 4, 47, 71, 87, 26, 11, 28, 107, 61, 192, 239, 77, 26, 124, 20, 81, 90, 133, 115, 36, 217, 156, 161, 206, 137, 88, 82, 18, 126, 183, 248, 84, 69, 83, 84] ++ List.replicate 28 0
 ++ [65, 209, 47, 118, 250, 127, 162, 11, 179, 72, 211, 98, 42, 176, 168, 20, 13, 208, 86, 7, 230, 209, 114, 3, 208, 6, 117, 213, 115, 251, 193, 23, 141, 68, 58, 226, 198, 149, 43, 131, 243, 200, 128, 216, 21, 147, 59, 178, 45, 121, 142, 201, 220, 245, 182, 136, 54, 188, 53, 43, 93, 78, 196, 1]
 ++ List.replicate 64 0
 ++ [6, 0, 0, 0, 48, 1, 0, 0, 5] ++ List.replicate 7 0 ++ [65, 174, 132, 135, 125, 211, 206, 52, 106, 125, 151, 252, 127, 73, 60, 142, 157, 202, 207, 166, 124, 230, 151, 74, 206, 86, 186, 236, 238, 154, 132, 17, 104, 101, 108, 112, 10]
def imgFlash (base : Nat) : List (Nat × Byte) := (imgBytes.zipIdx.map fun x => (base + x.2, x.1)).filter fun x => x.2 != 0xFF
def keyOtp : Otp := { Otp.blank with image := Otp.blank.image.set 1 { OtpKey.blank with bits := BitVec.ofNat 512 7282586106957988283967563794249356583607528998835302653752793748056596752821295178709282986918080753078563987201333101517214934863126217872737627735124406, prog := true } }
def bb (n : Nat) : List Byte := (List.range n).map fun i => BitVec.ofNat 8 (i * 37 + 3)
def imgArr : Array Byte := imgBytes.toArray
def gImg (i : Nat) : Byte := imgArr.getD i 0xFF
def so (p : Otp) (f : Dev → Dev) : State := { wState with otp := p, dev := f wState.dev }
def okey (p : Otp) (f : Dev → Dev) : State := so { p with arb := 3 } fun d => f { d with boot := { d.boot with img := some (bootImg gImg false) } }
def fz (f : Xspi → Xspi) (d : Dev) : Dev := { d with flash := f { d.flash with fitted := true, octal := true, density := 0x2000000, data := imgFlash 0 } }
def bt (f : Boot → Boot) (d : Dev) : Dev := { d with phase := .boot, boot := f d.boot }
def sr (f : Dev → Dev) : State := let s := State.reset; { s with otp := keyOtp, dev := f s.dev }
def img1 : BootImg := { bootImg gImg false with kpen := 1 }
def st_0 : State := wState
def st_2 : State := so keyOtp (fz id)
def st_3 : State := so { keyOtp with locked := true } (fz fun f => { f with octal := false })
def st_4 : State := sr (fz id)
def st_5 : State := sr (fz fun f => { f with data := imgFlash 0x1000000 })
def st_6 : State := sr (fz fun f => { f with data := [] })
def st_7 : State := sr id
def st_8 : State := sr (fun d => { d with variant := 2 })
def st_10 : State := sr (fun d => bt (fun b => { b with inScript := true, script := [[32], [1,2]] }) d)
def st_11 : State := sr (fun d => bt (fun b => { b with inScript := true, script := [bb 300, [1,2]], img := some img1 }) d)
def st_12 : State := sr (fun _ => bt (fun b => { b with inScript := true, script := [], img := some img1 }) wDev)
def st_15 : State := okey { keyOtp with image := keyOtp.image.set 7 { OtpKey.blank with prog := true } } fun d => { d with golden := { d.golden with staged := some { fold := 0, tether := false, empty := false, arb := 3 } } }
def st_18 : State := md fun d => { d with pmu := { d.pmu with vinNow := 700 } }
def st_20 : State := md fun d => { d with afe := { d.afe with own := some 0 } }
def st_23 : State := md fun d => d.setUnit (.core 4) { d.unit (.core 4) with st := .idle, sh := .idle }

theorem witness_BootAndOtp_1 (h : Obligations.BootAndOtp) :
    Goes (.bootSequence none) st_7 ∧
    Goes (.bootSequence none) st_6 ∧
    Goes (.bootSequence (some 0)) st_4 ∧
    Goes (.bootSequence (some 0)) st_5 :=
  ⟨⟨_, h.1 st_7 none holds holds⟩,
   ⟨_, h.2.1 st_6 none 2 0 2 0 holds holds holds holds⟩,
   ⟨_, h.2.2.1 st_4 holds holds holds holds⟩,
   ⟨_, h.2.2.2.1 st_5 2 0 holds holds holds holds holds⟩⟩

theorem witness_BootAndOtp_2 (h : Obligations.BootAndOtp) :
    cellAt gImg 0 = 1264142669 :=
  have _ := ((h.2.2.2.2.1 (st_0.dev) keyOtp gImg 4096 holds).2.2.2.2.2.2.2.2.2.2 (lget (sectionsOf gImg) ⟨0, 0, false, 0, 0, 0, []⟩ 0) holds).1
  have _ := ((h.2.2.2.2.1 (st_0.dev) keyOtp gImg 4096 holds).2.2.2.2.2.2.2.2.2.2 (lget (sectionsOf gImg) ⟨0, 0, false, 0, 0, 0, []⟩ 0) holds).2.2.2.2.1 holds
  have _ := h.2.2.2.2.2.2.1 gImg (st_0.dev) (⟨4, 0, false, 0x190, 4, 0x10000100, []⟩) 0x10000100 holds holds holds holds holds
  (h.2.2.2.2.1 (st_0.dev) keyOtp gImg 4096 holds).1

theorem witness_BootAndOtp_3 (h : Obligations.BootAndOtp) :
    Goes (.bootSequence (some 1)) st_10 :=
  have _ := (h.2.2.2.2.2.2.2.1 (st_0.dev) 0 0 []).1 holds
  have _ := (h.2.2.2.2.2.2.2.1 (st_8.dev) 0x40300001 0 []).2.1 holds holds holds
  have _ := (h.2.2.2.2.2.2.2.1 (st_0.dev) 0x40300004 0 []).2.2 holds holds holds holds holds
  ⟨_, (h.2.2.2.2.2.2.2.2.1 st_10 [32] [[1,2]] holds holds holds holds).1 holds holds⟩

theorem witness_BootAndOtp_4 (h : Obligations.BootAndOtp) :
    Goes (.bootSequence (some 1)) st_11 ∧
    Goes (.bootSequence none) st_12 ∧
    Goes (.scriptTimeout) st_10 :=
  have _ := (h.2.2.2.2.2.2.2.2.2.2.2.1 (st_0.dev) 4 0 0#32).1 holds
  ⟨⟨_, (h.2.2.2.2.2.2.2.2.1 st_11 (bb 300) [[1,2]] holds holds holds holds).2 holds holds holds⟩,
   ⟨_, h.2.2.2.2.2.2.2.2.2.1 st_12 none img1 holds holds holds holds⟩,
   ⟨_, h.2.2.2.2.2.2.2.2.2.2.1 st_10 holds⟩⟩

theorem witness_BootAndOtp_5 (h : Obligations.BootAndOtp) :
    (Dev.pen (bootRelease (st_0.dev) 0 0#32) 0).released = true ∧
    (Dev.core (bootRelease (st_0.dev) 0 0#32) (4 * 0)).keeper = true ∧
    (Dev.pen (bootRelease (st_0.dev) 1 0#32) 1).tvec = 0#32 &&& 4294967264 ∧
    (Dev.unit (bootRelease (st_23.dev) 1 0#32) (coreU (4 * 1))).st = UState.active :=
  ⟨(h.2.2.2.2.2.2.2.2.2.2.2.1 (st_0.dev) 0 0 0#32).2.1 holds holds holds holds holds,
   ((h.2.2.2.2.2.2.2.2.2.2.2.1 (st_0.dev) 0 0 0#32).2.2 holds holds holds holds).1,
   (((h.2.2.2.2.2.2.2.2.2.2.2.1 (st_0.dev) 1 0 0#32).2.2 holds holds holds holds).2.1 holds).1,
   (((h.2.2.2.2.2.2.2.2.2.2.2.1 (st_23.dev) 1 0 0#32).2.2 holds holds holds holds).2.1 holds).2 holds⟩

theorem witness_BootAndOtp_6 (h : Obligations.BootAndOtp) :
    (Dev.pen (bootRelease (st_0.dev) 0 0#32) 0).rat.boot = 0#32 &&& 4294967168 ||| 1 ∧
    Goes (.xBootKey (.typed .mga) (0) ⟨0x10000100, none⟩) st_0 ∧
    Goes (.xBootKey (.typed .mga) (1) ⟨0, none⟩) st_2 ∧
    Goes (.xBootRevoke (.typed .mga) 0) st_2 :=
  ⟨(((h.2.2.2.2.2.2.2.2.2.2.2.1 (st_0.dev) 0 0 0#32).2.2 holds holds holds holds).2.2 holds).1,
   ⟨_, h.2.2.2.2.2.2.2.2.2.2.2.2.1 0 0x10000100 (bytesAt (memAt wDev 0x10000100) 0 64) (.typed .mga) st_0 holds holds holds holds holds⟩,
   ⟨_, h.2.2.2.2.2.2.2.2.2.2.2.2.2.1 1 0 (.typed .mga) st_2 holds holds holds holds holds⟩,
   ⟨_, (h.2.2.2.2.2.2.2.2.2.2.2.2.2.2.1 0).1 (.typed .mga) st_2 holds holds holds holds holds⟩⟩

theorem witness_BootAndOtp_7 (h : Obligations.BootAndOtp) :
    Goes (.xBootRevoke (.typed .mga) 0) st_0 ∧
    Goes (.xBootRolekey (.typed .mga) .operate none (0) ⟨0x10000100, none⟩) st_0 ∧
    Goes (.xBootRolerevoke (.typed .mga) .operate none 0) st_0 ∧
    Goes (.xBootArb (.typed .mga) 1) st_12 :=
  ⟨⟨_, (h.2.2.2.2.2.2.2.2.2.2.2.2.2.2.1 0).2 (.typed .mga) st_0 holds holds holds holds holds⟩,
   ⟨_, (h.2.2.2.2.2.2.2.2.2.2.2.2.2.2.2.1 .operate none 0 0x10000100 (bytesAt (memAt wDev 0x10000100) 0 32) holds holds).1 (.typed .mga) st_0 holds holds holds holds holds⟩,
   ⟨_, (h.2.2.2.2.2.2.2.2.2.2.2.2.2.2.2.1 .operate none 0 0 [32] holds holds).2 (.typed .mga) st_0 holds holds holds holds holds⟩,
   ⟨_, (h.2.2.2.2.2.2.2.2.2.2.2.2.2.2.2.2.1 1).1 (.typed .mga) st_12 holds holds holds holds holds⟩⟩

theorem witness_BootAndOtp_8 (h : Obligations.BootAndOtp) :
    Goes (.xBootArb (.typed .mga) 0) st_0 ∧
    Goes (.xBootArb (.typed .mga) 4) st_15 ∧
    Goes (.xBootLock (.typed .mga)) st_0 ∧
    Goes (.xBootLock (.typed .mga)) st_18 :=
  ⟨⟨_, (h.2.2.2.2.2.2.2.2.2.2.2.2.2.2.2.2.1 0).2.1 (.typed .mga) st_0 holds holds holds holds holds⟩,
   ⟨_, (h.2.2.2.2.2.2.2.2.2.2.2.2.2.2.2.2.1 4).2.2 (.typed .mga) st_15 holds holds holds holds holds⟩,
   ⟨_, h.2.2.2.2.2.2.2.2.2.2.2.2.2.2.2.2.2.1 (.typed .mga) st_0 holds holds holds holds holds⟩,
   ⟨_, (h.2.2.2.2.2.2.2.2.2.2.2.2.2.2 |>.2.2.2.2.1) (.typed .mga) st_18 holds holds⟩⟩

theorem witness_BootAndOtp_9 (h : Obligations.BootAndOtp) :
    Goes (.xBootJtag (.typed .mga) true) st_0 ∧
    Goes (.xBootVerify (.typed .mga) true) st_2 ∧
    Goes (.xFlashErase (.typed .mga) 0 4096) st_2 ∧
    Goes (.xFlashWrite (.typed .mga) 0 [32]) st_2 :=
  ⟨⟨_, ((h.2.2.2.2.2.2.2.2.2.2.2.2.2.2 |>.2.2.2.2.2.1) true).2 (.typed .mga) st_0 holds holds⟩,
   ⟨_, (h.2.2.2.2.2.2.2.2.2.2.2.2.2.2 |>.2.2.2.2.2.2.1) true (.typed .mga) st_2 holds holds⟩,
   ⟨_, ((h.2.2.2.2.2.2.2.2.2.2.2.2.2.2 |>.2.2.2.2.2.2.2.1) 0 4096 holds holds holds).2 (.typed .mga) st_2 holds holds⟩,
   ⟨_, ((h.2.2.2.2.2.2.2.2.2.2.2.2.2.2 |>.2.2.2.2.2.2.2.2.1) 0 [32] holds holds).2 (.typed .mga) st_2 holds holds⟩⟩

theorem witness_BootAndOtp_10 (h : Obligations.BootAndOtp) :
    Goes (.jtagExtest) st_0 ∧
    Goes (.jtagExtest) st_3 ∧
    Goes (.jtagExtestEnd) st_0 ∧
    Goes (.registerWrite (.core 0 .f) (toWord (1077870592 + 4 * 0)) 0#32) st_0 :=
  ⟨⟨_, ((h.2.2.2.2.2.2.2.2.2.2.2.2.2.2 |>.2.2.2.2.2.2.2.2.2.1) st_0).1 holds holds holds⟩,
   ⟨_, ((h.2.2.2.2.2.2.2.2.2.2.2.2.2.2 |>.2.2.2.2.2.2.2.2.2.1) st_3).2 holds holds⟩,
   ⟨_, (h.2.2.2.2.2.2.2.2.2.2.2.2.2.2 |>.2.2.2.2.2.2.2.2.2.2.1) st_0 holds⟩,
   ⟨_, ((h.2.2.2.2.2.2.2.2.2.2.2.2.2.2 |>.2.2.2.2.2.2.2.2.2.2.2) 0#32).1 (.core 0 .f) st_0 0 holds⟩⟩

theorem witness_BootAndOtp_11 (h : Obligations.BootAndOtp) :
    Goes (.registerWrite (.core 0 .f) 1076887552 0#32) st_20 ∧
    Goes (.registerWrite (.core 0 .f) 1076887552 0#32) st_8 ∧
    Goes (.registerWrite (.core 0 .f) 1076887552 0#32) st_0 ∧
    Goes (.registerWrite (.core 1 .k) (toWord (1077215252 + 64 * 0)) 0#32) st_0 :=
  ⟨⟨_, ((h.2.2.2.2.2.2.2.2.2.2.2.2.2.2 |>.2.2.2.2.2.2.2.2.2.2.2) 0#32).2.1 (.core 0 .f) st_20 holds holds holds⟩,
   ⟨_, ((h.2.2.2.2.2.2.2.2.2.2.2.2.2.2 |>.2.2.2.2.2.2.2.2.2.2.2) 0#32).2.2.1 (.core 0 .f) st_8 holds⟩,
   ⟨_, ((h.2.2.2.2.2.2.2.2.2.2.2.2.2.2 |>.2.2.2.2.2.2.2.2.2.2.2) 0#32).2.2.2.1 (.core 0 .f) st_0 holds holds⟩,
   ⟨_, ((h.2.2.2.2.2.2.2.2.2.2.2.2.2.2 |>.2.2.2.2.2.2.2.2.2.2.2) 0#32).2.2.2.2 0 (.core 1 .k) st_0 holds holds holds⟩⟩

end Boot

/-! Witnesses that name an instruction, a parsed command or a gate's result. -/
namespace Hand

def kC (f : Core → Core) : State := md fun d => (d.updCore 0 f).updCore 4 f
def offS : State := md fun d => d.setUnit (.core 0) (UnitRec.start .off)

theorem witness_StepRunsFront (h : Obligations.StepRunsFront) :
    step { wState with pending := [.add 0 .nz] } = exec (.add 0 .nz) wState ∧ step wState = .next wState :=
  ⟨h.1 (.add 0 .nz) [] { wState with pending := [.add 0 .nz] } rfl, h.2 wState rfl⟩

theorem witness_OtpOnlyGrows (h : Obligations.OtpOnlyGrows) :
    otpGrew wState.otp wState.otp = true ∧
    (after (.nop 0 .always) wState).otp = wState.otp :=
  ⟨(h.1 wState wState holds rfl).2, (h.2 (.nop 0 .always) wState _ rfl).resolve_right (by decide)⟩

theorem witness_LittleEndian (h : Obligations.LittleEndian) :
    plainRead (plainWrite wDev 0x10000000 0x12345678 4) 0x10000000 4 = 0x12345678 ∧
    plainByte (plainWrite wDev 0x10000000 0x12345678 4) 0x10000003 = 0x12 ∧
    plainByte (plainWrite wDev 0x10000000 0x12345678 4) 0x10000004 = plainByte wDev 0x10000004 :=
  let w := h.1 wDev 0x10000000 0x12345678 holds
  ⟨w.2.1, w.1 3 (by decide), w.2.2 _ (by decide)⟩

theorem witness_Squash (h : Obligations.Squash) :
    Goes (.add 0 .nz) (kC fun k => { k with z := true }) ∧ Goes (.add 0 .nz) offS :=
  ⟨⟨_, h.1 (.add 0 .nz) 0 .nz bAdd (kC fun k => { k with z := true }) rfl holds holds holds
      holds holds⟩,
   ⟨_, h.2.1 (.add 0 .nz) 0 .nz bAdd offS rfl holds⟩⟩

def noEntry : State := md fun d => d.updPen 0 fun k => { k with cs := CStore.reset }

theorem witness_CustomOpcodes (h : Obligations.CustomOpcodes) : Goes (.nop 0 .always) noEntry :=
  ⟨_, h.2.2 (.nop 0 .always) 0 .always bNop noEntry rfl holds holds holds holds holds holds holds⟩

theorem witness_GatesAndReturns (h : Obligations.GatesAndReturns) :
    ∃ e, gateCall 0 5 Exc.gateS.dev = some e ∧ (e.core 0).priv = gateLevel 5 :=
  ⟨(gateCall 0 5 Exc.gateS.dev).get holds, (Option.some_get _).symm,
    ((h.1 5).2.1 0 Exc.gateS.dev _ (Option.some_get _).symm).1⟩

/-- Whether a line spells a command. -/
def spells (s : String) : Bool := match parseCommand (.typed .mga) false s.toList with | .ok _ => true | .error _ => false

theorem witness_ConsoleLines (h : Obligations.ConsoleLines) :
    Goes (.typedLine .mga) (Console.mm fun k => { k with lines := [Console.rl "boot"] }) ∧
    Goes (.typedLine .mga) (Console.mm fun k => { k with lines := [Console.rl "nosuch"] }) := by
  have yes : spells "boot" = true := by decide +kernel
  have no : spells "nosuch" = false := by decide +kernel
  constructor
  · cases e : parseCommand (.typed .mga) false "boot".toList with
    | ok c =>
      exact ⟨_, ((h.2.2.2.2.1 .mga (Console.mm fun k => { k with lines := [Console.rl "boot"] }) (Console.rl "boot") [] holds
        holds holds holds).1 holds holds).1 c e⟩
    | error x => exact absurd yes (by unfold spells; rw [e]; simp)
  · cases e : parseCommand (.typed .mga) false "nosuch".toList with
    | ok c => exact absurd no (by unfold spells; rw [e]; simp)
    | error x =>
      exact ⟨_, ((h.2.2.2.2.1 .mga (Console.mm fun k => { k with lines := [Console.rl "nosuch"] }) (Console.rl "nosuch") []
        holds holds holds holds).1 holds holds).2 x e⟩

end Hand


/-! The check refuses ill-formed commands, each for one reason. -/
namespace Forms

theorem test_generation_fits : (Instr.unitOn (.typed .mga) .afe (some 65536)).wf = false ∧ (Instr.unitOn (.typed .mga) .afe (some 65535)).wf = true := by
  decide
theorem test_sequence_number_fits : (Instr.who (.gen .mga 65536)).wf = false ∧ (Instr.who (.gen .mga 65535)).wf = true := by decide
theorem test_supply_fits : (Instr.powerOnReset ⟨65536, 0⟩).wf = false ∧ (Instr.powerOnReset ⟨2400, 0⟩).wf = true := by decide
theorem test_temperature_fits : (Instr.thermWarn 0 2048).wf = false ∧ (Instr.thermWarn 0 2047).wf = true := by decide
theorem test_samples_fit : (Instr.afeConversionPeriod [1]).wf = false ∧ (Instr.afeConversionPeriod (List.replicate 24 131072)).wf = false ∧
    (Instr.afeConversionPeriod (List.replicate 24 131071)).wf = true := by decide
theorem test_text_fits : (Instr.xCrc (.typed .mga) (String.ofList (List.replicate 513 'a'))).wf = false ∧
    (Instr.xCrc (.typed .mga) (String.ofList (List.replicate 512 'a'))).wf = true := by
  have e (n : Nat) : textFits (String.ofList (List.replicate n 'a')) = decide (n ≤ 512) := by simp [textFits]
  exact ⟨by change (true && textFits _) = false; rw [e]; rfl, by change (true && textFits _) = true; rw [e]; rfl⟩

end Forms

/-! Worked examples of the manual, one step each. -/
namespace Worked

/-- Three syllables encoded by hand, spec/06. -/
theorem test_hand_encodings :
    (insnOf (.ldW 0 .always .gp (.short 2))).map (fun x => x.2.2.words x.2.1) = some [0x1882] ∧
    (insnOf (.brS 0 .nz (-3))).map (fun x => x.2.2.words x.2.1) = some [0x47FD] ∧
    (insnOf (.add 0 .always)).map (fun x => x.2.2.words x.2.1) = some [0x0020] := by decide +kernel

/-- The check value of the CRC of generated lines, and a kept response, spec/03. -/
theorem test_line_crc : crc16 (textBytes "123456789") = 0x29B1 ∧ withCrc "#5 ok" = "#5 ok;0ABD" ∧ crc16 (textBytes "#5 ev on;") = 0x114D := by
  decide +kernel

/-- The CRC of a Modbus read request, spec/06. -/
def crcS : State :=
  let d := wDev.updCore 4 fun k => { k with cpoly := 0xA001, cacc := 0xFFFF, rs := 0x2000, rc := 6, rpt := true }
  { wState with dev := d.setByteList 0x01042000 [1, 3, 0, 0, 0, 1] }
theorem test_modbus_crc : ((after (.crcs 4 .always none) crcS).dev.core 4).cacc = 0x0A84 := by decide +kernel

/-- A valve command through gate 5, spec/09: the commit, and the call with position 12000. -/
def gateS (pos : Word) : State :=
  let l : List Word := [0x8000, 0x1163, 0, 0, 4, 0x00FFFFFF, 0, 1, 0, 0x2710, 0xA3, 0, 0x10, 0, 0, 0]
  let d := (wDev.updPen 1 fun k => { k with gtb := 0xD000 }).updCore 4 fun k =>
    { k.setBank { k.bank with data := [0x10104020, pos, 17] } with gsbF := 0xC000, priv := .u }
  { wState with dev := l.zipIdx.foldl (fun d x => plainWrite d (0x0104D140 + 4 * x.2) x.1 4) d }
theorem test_gate_5 :
    let k := (after (.gate 4 .always 5) (gateS 8500)).dev.core 4
    k.pc = 0x8000 ∧ k.priv = .f ∧ k.bank.spr = 0xBFC0 ∧ k.bank.spd + 12 = 0xBF00 ∧ k.bank.fp = 0xBDC0 ∧ k.gsbF = 0xBC00 ∧
    k.bank.data = [0x10104020, 8500, 17] := by decide +kernel
theorem test_gate_5_refused :
    let d := (after (.gate 4 .always 5) (gateS 12000)).dev
    let a := ((d.core 4).bank.data.headD 0).toNat + 0x01000000 + 0x00040000
    (d.core 4).pc = (d.pen 1).exv ∧ plainRead d a 4 &&& 0xFF = 4 ∧ plainRead d (a + 0x14) 4 = 12000 := by decide +kernel

/-- The load delay of a Drove pen, spec/05. -/
def delayS : State := { wState with dev := wDev.updCore 0 fun k => { k with gp := 0x2000 } }
def loaded : State := { wState with dev := (after (.ldW 0 .always .gp (.short 0)) delayS).dev }
theorem test_load_delay :
    ((after (.dup 0 .always) loaded).dev.core 0).bank.data.headD 0 ≠ 0x9281 ∧
    ((after (.nop 0 .always) loaded).dev.core 0).view.headD 0 = 0x9281 := by decide +kernel

/-- The decision of a hot stability fold at 0 us, spec/10: slot 3 is not affordable, slot 7 is dispatched and its cost reserved. -/
def hotS : State :=
  let sl (pri cls cost : Nat) : Slot := { Slot.reset with valid := true, ready := true, pri := pri, cls := cls, cost := cost, tsb := 0x2800 }
  { wState with dev := wDev.updPen 0 fun k =>
    { k with slots := [(3, sl 14 3 80), (7, sl 12 2 60), (9, sl 5 0 5)],
             rat := { k.rat with run := true, bal := 150, floorEff := 40, thrEff := [0, 20, 100] } } }
theorem test_hot_decision :
    let d := (after (.dispatchDecision 0) hotS).dev
    (d.pen 0).rat.bal = 90 ∧ (slotOf (d.pen 0) 7).run = true ∧ (slotOf (d.pen 0) 3).run = false := by decide +kernel

/-- Heel and trim correction by TLERP, spec/15: element 0 of T3 becomes -1.875. -/
def heelS : State :=
  let t : List Word := [0x00000303, 0xC0000000, 0, 0x40000000, 0xBF800000, 0, 0x3F800000, 0x41F00000, 0x41A00000, 0x41200000,
    0x41400000, 0x40800000, 0xC0800000, 0xC0C00000, 0xC1400000, 0xC1900000]
  let le (a : Nat) (v : Word) : List (Nat × Byte) := (List.range 4).map fun i => (a + i, (v >>> (8 * i)).setWidth 8)
  let d := (wDev.setUnit (.tile 1) (UnitRec.start .idle)).updCore 4 fun k => k.setBank { k.bank with data := [0x10304000] }
  let d := updCtx d 1 0 fun x => { x with holder := tileOwner d 4, bytes := (le 0x400 0x3F000000 ++ le 0x800 0x3E800000).filter fun y => y.2 != 0 }
  { wState with dev := t.zipIdx.foldl (fun d x => plainWrite d (0x10304000 + 4 * x.2) x.1 4) d }
theorem test_heel_correction :
    let d := (after (.tileCommit 1) (after (.tlerp 4 .always 0x00116400) heelS)).dev
    leRead (fun a => tget (tileCtx d 1 0).bytes 0 a) 0xC00 4 = 0xBFF00000 := by decide +kernel

/-- The proof test of the emergency-stop output, spec/11. -/
def stopS : State :=
  let d := wDev
  { wState with dev := { d with halter := { d.halter with driven := true, maps := lset d.halter.maps 0 ⟨1, false, true, true⟩ } } }
theorem test_halt_proof : ((after (.xHaltSim (.typed .mga) 0 true) stopS).dev.halter.trip).getLsbD 0 = true := by decide +kernel

end Worked


end Sys2Proof.Tests
end

/-! SUPPORT. Bytes and cells of plain memory (spec/00 R6): what a written byte reads back as, then a written range, then a
cell as its four bytes. -/
namespace Sys2Proof.Proofs

open Sys2Proof Sys2Proof.Machine Sys2Proof.Laws

/-! A byte of plain memory lies in the boot flash, in the device on CS1 or in on-chip memory. -/

theorem regionOf_cs1_le {a : Nat} (h : regionOf a = .cs1) : 0x28000000 ≤ a := by
  unfold regionOf at h
  iterate 6 (split at h; · cases h)
  split at h
  next hcs1 =>
    simp only [Bool.and_eq_true, decide_eq_true_eq] at hcs1
    exact hcs1.1
  next =>
    split at h; · cases h
    split at h
    · split at h <;> cases h
    · split at h <;> cases h

theorem plainByte_of_cs1 (d : Dev) {a : Nat} (h : regionOf a = .cs1) :
    plainByte d a = tget d.cs1.data 0xFF (a - 0x28000000) := by
  simp only [plainByte, h]

theorem plainByte_of_onChip (d : Dev) {a : Nat} (hf : regionOf a ≠ .flash) (hc : regionOf a ≠ .cs1) :
    plainByte d a = d.byte a := by
  unfold plainByte
  split
  · contradiction
  · contradiction
  · rfl

theorem setPlainByte_of_cs1 (d : Dev) {a : Nat} (b : Byte) (h : regionOf a = .cs1) :
    setPlainByte d a b = { d with cs1 := { d.cs1 with data := tset d.cs1.data 0xFF (a - 0x28000000) b } } := by
  simp only [setPlainByte, h]

theorem setPlainByte_of_onChip (d : Dev) {a : Nat} (b : Byte) (hf : regionOf a ≠ .flash) (hc : regionOf a ≠ .cs1) :
    setPlainByte d a b = d.setByte a b := by
  unfold setPlainByte
  split
  · contradiction
  · contradiction
  · rfl

/-- Two states whose three stores agree at an address agree in its byte. -/
theorem plainByte_congr {d e : Dev} {x : Nat} (hf : e.flash = d.flash)
    (hc : regionOf x = .cs1 → tget e.cs1.data 0xFF (x - 0x28000000) = tget d.cs1.data 0xFF (x - 0x28000000))
    (hm : e.byte x = d.byte x) : plainByte e x = plainByte d x := by
  unfold plainByte
  split
  · rw [hf]
  · exact hc ‹_›
  · exact hm

theorem plainByte_setPlainByte_same (d : Dev) {a : Nat} (b : Byte) (hf : regionOf a ≠ .flash) :
    plainByte (setPlainByte d a b) a = b := by
  by_cases hc : regionOf a = .cs1
  · rw [setPlainByte_of_cs1 d b hc, plainByte_of_cs1 _ hc, tget_tset_same]
  · rw [setPlainByte_of_onChip d b hf hc, plainByte_of_onChip _ hf hc, byte_setByte, if_pos rfl]

theorem plainByte_setPlainByte_other (d : Dev) {a x : Nat} (b : Byte) (hf : regionOf a ≠ .flash) (hx : x ≠ a) :
    plainByte (setPlainByte d a b) x = plainByte d x := by
  by_cases hc : regionOf a = .cs1
  · rw [setPlainByte_of_cs1 d b hc]
    refine plainByte_congr rfl (fun hxc => ?_) rfl
    have hoff : x - 0x28000000 ≠ a - 0x28000000 := by
      have := regionOf_cs1_le hc
      have := regionOf_cs1_le hxc
      omega
    exact tget_tset_other _ _ _ _ _ _ hoff
  · rw [setPlainByte_of_onChip d b hf hc]
    exact plainByte_congr rfl (fun _ => rfl) (by rw [byte_setByte, if_neg hx])

/-! A written range. -/

/-- No byte of the range lies in the boot flash, which flash commands alone write. -/
def OffFlash (a n : Nat) : Prop := ∀ i < n, regionOf (a + i) ≠ .flash

theorem OffFlash.head {a n : Nat} (h : OffFlash a (n + 1)) : regionOf a ≠ .flash := h 0 n.succ_pos

theorem OffFlash.tail {a n : Nat} (h : OffFlash a (n + 1)) : OffFlash (a + 1) n := fun i hi => by
  rw [Nat.add_assoc, Nat.add_comm 1]
  exact h (i + 1) (Nat.succ_lt_succ hi)

theorem plainByte_plainWrite_other {n : Nat} (d : Dev) {a : Nat} (v : Word) {x : Nat} (hf : OffFlash a n)
    (hx : x < a ∨ a + n ≤ x) : plainByte (plainWrite d a v n) x = plainByte d x := by
  induction n generalizing d a v with
  | zero => rfl
  | succ n ih => rw [plainWrite, ih _ _ hf.tail (by omega), plainByte_setPlainByte_other d _ hf.head (by omega)]

theorem plainByte_plainWrite_same {n : Nat} (d : Dev) {a : Nat} (v : Word) {i : Nat} (hf : OffFlash a n) (hi : i < n) :
    plainByte (plainWrite d a v n) (a + i) = (v >>> (8 * i)).setWidth 8 := by
  induction n generalizing d a v i with
  | zero => omega
  | succ n ih =>
    rw [plainWrite]
    cases i with
    | zero =>
      rw [plainByte_plainWrite_other _ _ hf.tail (by omega)]
      exact plainByte_setPlainByte_same d _ hf.head
    | succ i =>
      have haddr : a + (i + 1) = a + 1 + i := by omega
      have hshift : 8 * (i + 1) = 8 + 8 * i := by omega
      rw [haddr, hshift, BitVec.shiftRight_add, ih _ _ hf.tail (Nat.lt_of_succ_lt_succ hi)]

/-! A cell as its four bytes. -/

/-- One step of `plainRead`: the bytes above shifted up and the byte below put in make the longer concatenation. -/
theorem shiftLeft_or_byte_eq_append {w : Nat} (x : BitVec w) (b : Byte) :
    x.setWidth 32 <<< 8 ||| b.setWidth 32 = (x ++ b).setWidth 32 := by
  ext i hi
  simp only [BitVec.getElem_or, BitVec.getElem_shiftLeft, BitVec.getElem_setWidth, BitVec.getLsbD_append]
  by_cases h : i < 8
  · simp [h]
  · have hb : b.getLsbD i = false := BitVec.getLsbD_of_ge b i (Nat.le_of_not_lt h)
    simp [h, hb]

theorem plainRead_four (d : Dev) (a : Nat) :
    plainRead d a 4 = plainByte d (a + 3) ++ plainByte d (a + 2) ++ plainByte d (a + 1) ++ plainByte d a := by
  have hlast : plainRead d (a + 3) 1 = (plainByte d (a + 3)).setWidth 32 := by
    simp [plainRead]
  calc plainRead d a 4
    _ = ((plainRead d (a + 3) 1 <<< 8 ||| (plainByte d (a + 2)).setWidth 32) <<< 8 |||
          (plainByte d (a + 1)).setWidth 32) <<< 8 ||| (plainByte d a).setWidth 32 := rfl
    _ = _ := by rw [hlast, shiftLeft_or_byte_eq_append, shiftLeft_or_byte_eq_append, shiftLeft_or_byte_eq_append,
                  BitVec.setWidth_eq]

theorem append_bytes_eq (v : Word) :
    (v >>> 24).setWidth 8 ++ (v >>> 16).setWidth 8 ++ (v >>> 8).setWidth 8 ++ (v >>> 0).setWidth 8 = v := by
  simp only [BitVec.setWidth_ushiftRight_eq_extractLsb, BitVec.extractLsb'_append_extractLsb'_eq_extractLsb',
    BitVec.extractLsb'_eq_self]

theorem plainRead_plainWrite (d : Dev) {a : Nat} (v : Word) (hf : OffFlash a 4) :
    plainRead (plainWrite d a v 4) a 4 = v := by
  have hbyte (i : Nat) (hi : i < 4) := plainByte_plainWrite_same d v hf hi
  have hlow : plainByte (plainWrite d a v 4) a = (v >>> 0).setWidth 8 := hbyte 0 (by decide)
  rw [plainRead_four, hbyte 3 (by decide), hbyte 2 (by decide), hbyte 1 (by decide), hlow]
  exact append_bytes_eq v

/-- Settles O5, from the byte rules of a written range and a cell read as its four bytes. -/
theorem littleEndian : Obligations.LittleEndian := by
  unfold Obligations.LittleEndian
  refine ⟨fun d a v hf => ⟨fun i hi => ?_, ?_, fun x hx => ?_⟩, plainRead_four⟩
  · exact plainByte_plainWrite_same d v hf hi
  · exact plainRead_plainWrite d v hf
  · exact plainByte_plainWrite_other d v hf hx

end Sys2Proof.Proofs

/-! SUPPORT. What a verb leaves that only shows data, and what a verb leaves that reads the OTP (spec/03 R54, R55). -/
namespace Sys2Proof.Proofs

open Sys2Proof Sys2Proof.Machine Sys2Proof.Safety Sys2Proof.Laws

/-- A verb whose body shows data on every device, past checks of its operands alone. -/
theorem reports_of_shows {i : Via → Instr} {role : Role} {us : List UnitId} {g : Via → Dev → VRes}
    (h : ∀ o s, exec (i o) s = lift (row o (verb o role us (g o))) s) (hg : ∀ o d, ∃ l, g o d = vData d l) :
    Reports i role us := by
  obtain ⟨hdenies, hreports⟩ := reports_when (pre := fun _ => true) h fun o d _ => hg o d
  exact ⟨hdenies, fun o s ha => hreports o s ha rfl⟩

/-- A verb that reads the OTP, let through: what its body leaves of the state, and its answer. -/
theorem rowS_verbS {o : Via} {role : Role} {us : List UnitId} {f : State → State × VRes} {s : State}
    (h : allowed o role us s.dev = true) :
    rowS o (verbS o role us f) s =
      { (f { s with dev := arrived o s.dev }).1 with dev := reply o (f { s with dev := arrived o s.dev }).2 } := by
  rw [rowS_heard (allowed_heard h)]
  simp only [verbS, allowed_gate h]

/-- Settles O41: every report's body shows data, most of them on any device and the rest past a check of their operands. -/
theorem reportsOnlyReport : Obligations.ReportsOnlyReport := by
  unfold Obligations.ReportsOnlyReport
  refine ⟨?pwr, ?shed, ?clk, ?therm, ?rtc, ?xPwrVmon, ?xPwrLog, ?inv, ?who, ?sess, ?ev, ?xBrx, ?xCrc, ?help, ?logSome, ?logNone,
    ?unitList, ?unitShow, ?xState, ?xStateLog, ?pen, ?penShow, ?xCore, ?xCoreTsb, ?ucode, ?ucodePen, ?xUcodePeek, ?exc, ?excPen,
    ?bw, ?xGate, ?ration, ?rationPen, ?task, ?xRationCoef, ?evr, ?evrFold, ?evrSrc, ?xEvrRace, ?xEvrLatch, ?halt, ?mem, ?memFold,
    ?myc, ?ecc, ?xSb, ?xMycPort, ?dma, ?dmaShow, ?xDmaDesc, ?xDmaMovers, ?port, ?portShow, ?xPortRegs, ?ptabNone, ?ptabSome,
    ?xPtabDump, ?pool, ?xPoolMap, ?afe, ?xAfeLast, ?pwmNone, ?pwmSome, ?xPwmRegs, ?xGpioMism, ?boot⟩
  case logSome =>
    intro n hpos hmax
    refine reports_of_shows (fun _ _ => rfl) fun _ _ => ⟨_, if_neg ?_⟩
    simp only [Option.getD_some, Bool.or_eq_true, beq_iff_eq, decide_eq_true_eq]
    omega
  case xCoreTsb =>
    refine fun c => reports_when (fun _ _ => rfl) fun _ d htether => ⟨_, if_neg ?_⟩
    simpa using htether
  case xUcodePeek =>
    intro p b g hb
    refine reports_of_shows (fun _ _ => rfl) fun _ _ => ⟨_, if_neg ?_⟩
    have hsize : csSize = 0x10800 := rfl
    simp only [Option.getD_none, Bool.or_eq_true, bne_iff_ne, beq_iff_eq, decide_eq_true_eq]
    omega
  case xGate => exact fun p n hn => reports_of_shows (fun _ _ => rfl) fun _ _ => ⟨_, if_neg (Nat.not_le.mpr hn)⟩
  case evrSrc => exact fun n hn => reports_of_shows (fun _ _ => rfl) fun _ _ => ⟨_, if_neg (Nat.not_le.mpr hn)⟩
  case xMycPort => exact fun t ht => reports_of_shows (fun _ _ => rfl) fun _ _ => ⟨_, if_neg (Nat.not_le.mpr ht)⟩
  case xDmaDesc =>
    refine fun c => reports_when (fun _ _ => rfl) fun _ d hslot => ⟨_, if_neg ?_⟩
    exact Nat.not_lt.mpr (of_decide_eq_true hslot)
  case xPtabDump =>
    intro a n ha hpos hmax
    refine reports_of_shows (fun _ _ => rfl) fun _ _ => ⟨_, if_neg ?_⟩
    simp [ha, hpos, hmax]
  case boot => exact fun o s ha => ⟨_, congrArg Host.Outcome.next (rowS_verbS ha)⟩
  all_goals intros; exact reports_verb fun _ _ => rfl

end Sys2Proof.Proofs

/-! SUPPORT. What an event, a wake and the arrival of a line leave of the sessions on both ports (spec/03 R52, R53, R66, spec/02 R23). -/
namespace Sys2Proof.Proofs

open Sys2Proof Sys2Proof.Machine Sys2Proof.Safety Sys2Proof.Laws

/-- One console keeps the session of another: its role, its challenge and block, the response it would repeat. -/
structure KeepsSession (k j : Console) : Prop where
  role : j.role = k.role
  chal : j.chal = k.chal
  authBlk : j.authBlk = k.authBlk
  kept : j.kept = k.kept

theorem KeepsSession.refl (k : Console) : KeepsSession k k := ⟨rfl, rfl, rfl, rfl⟩

theorem KeepsSession.trans {k j i : Console} (h : KeepsSession k j) (g : KeepsSession j i) : KeepsSession k i :=
  ⟨g.role.trans h.role, g.chal.trans h.chal, g.authBlk.trans h.authBlk, g.kept.trans h.kept⟩

theorem keepsSession_enqueue (k : Console) (t : String) : KeepsSession k (enqueue k t) := by
  unfold enqueue
  split <;> exact ⟨rfl, rfl, rfl, rfl⟩

theorem keepsSession_emit (d : Dev) (c : Option EvClass) (u : Option UnitId) (t : String) (p : MgPort) :
    KeepsSession (d.mg p) ((emit d c u t).mg p) := by
  cases p <;> simp only [emit, Dev.mg] <;> split
  · exact keepsSession_enqueue _ _
  · exact .refl _
  · exact keepsSession_enqueue _ _
  · exact .refl _

theorem keepsSession_updPmu (d : Dev) (f : Pmu → Pmu) (p : MgPort) : KeepsSession (d.mg p) ((updPmu d f).mg p) := by
  cases p <;> exact .refl _

theorem keepsSession_pmuLog (d : Dev) (t : String) (p : MgPort) : KeepsSession (d.mg p) ((pmuLog d t).mg p) := by
  cases p <;> exact .refl _

theorem keepsSession_noteWake (d : Dev) (w : WakeSrc) (p : MgPort) : KeepsSession (d.mg p) ((noteWake d w).mg p) :=
  (keepsSession_updPmu d _ p).trans <| (keepsSession_pmuLog _ _ p).trans <| keepsSession_emit _ _ _ _ p

theorem KeepsSession.ite {c : Prop} [Decidable c] {k : Console} {d e : Dev} {p : MgPort} (hd : KeepsSession k (d.mg p))
    (he : KeepsSession k (e.mg p)) : KeepsSession k ((if c then d else e).mg p) := by
  split <;> assumption

theorem keepsSession_wakeArrives (d : Dev) (w : WakeSrc) (p : MgPort) : KeepsSession (d.mg p) ((wakeArrives d w).mg p) := by
  unfold wakeArrives
  cases d.pmu.trans with
  | some t => exact .ite (keepsSession_updPmu d _ p) (.refl _)
  | none => exact .ite ((keepsSession_updPmu d _ p).trans (keepsSession_noteWake _ w p)) (.refl _)

/-- A change of one port that keeps its session keeps the session of every port. -/
theorem keepsSession_updMg (d : Dev) (p : MgPort) {f : Console → Console} (hf : ∀ k, KeepsSession k (f k)) (q : MgPort) :
    KeepsSession (d.mg q) ((d.updMg p f).mg q) := by
  cases p <;> cases q
  · exact hf _
  · exact .refl _
  · exact .refl _
  · exact hf _

theorem keepsSession_lineArrives (d : Dev) (p : MgPort) (gen : Bool) (q : MgPort) :
    KeepsSession (d.mg q) ((lineArrives d p gen).mg q) := by
  have hwake : KeepsSession (d.mg q) ((if d.pmu.cur == .idle then wakeArrives d (.line p) else d).mg q) :=
    .ite (keepsSession_wakeArrives d _ q) (.refl _)
  refine hwake.trans (keepsSession_updMg _ p (fun _ => ?_) q)
  exact ⟨rfl, rfl, rfl, rfl⟩

theorem keepsSession_arrived (o : Via) (d : Dev) (q : MgPort) : KeepsSession (d.mg q) ((arrived o d).mg q) := by
  cases o with
  | typed p => exact keepsSession_lineArrives d p false q
  | gen p n => exact keepsSession_lineArrives d p true q
  | script => exact .refl _

end Sys2Proof.Proofs

/-! SUPPORT. What the verbs of a port do to its session and settings, and how a session reaches shared memory (spec/03 R43, R54 to R66). -/
namespace Sys2Proof.Proofs

open Sys2Proof Sys2Proof.Machine Sys2Proof.Safety Sys2Proof.Laws

/-! A verb that acts on the port it comes from. -/

/-- A verb whose condition leaves the start-up script out is settled by what it does from a port, in either form. -/
theorem does_fromPort {i : Via → Instr} {role : Role} {us : List UnitId} {g : Via → Dev → VRes} {pre : Via → Dev → Bool}
    {f : Via → Dev → Dev} (h : ∀ o s, exec (i o) s = lift (row o (verb o role us (g o))) s)
    (hscript : ∀ d, pre .script d = false)
    (htyped : ∀ p d, pre (.typed p) d = true → g (.typed p) d = (f (.typed p) d, some ([], okS)))
    (hgen : ∀ p n d, pre (.gen p n) d = true → g (.gen p n) d = (f (.gen p n) d, some ([], okS))) :
    Does i role us pre f := by
  refine does_verb h fun o d hpre => ?_
  cases o with
  | typed p => exact htyped p d hpre
  | gen p n => exact hgen p n d hpre
  | script => exact absurd hpre (by simp [hscript])

theorem notScript_of_port {o : Via} {p : MgPort} (h : viaPort o = some p) (d : Dev) (f : MgPort → VRes) :
    notScript o d f = f p := by
  simp only [notScript, h]

theorem updMg_congr {d : Dev} {p : MgPort} {f g : Console → Console} (h : f (d.mg p) = g (d.mg p)) :
    d.updMg p f = d.updMg p g := by
  cases p with
  | mga => exact congrArg (fun k => { d with mga := k }) h
  | mgb => exact congrArg (fun k => { d with mgb := k }) h

/-- A verb with an error of its own that leaves the device as it is. -/
theorem refuses_verb {i : Via → Instr} {role : Role} {us : List UnitId} {g : Via → Dev → VRes} {pre : Via → Dev → Bool}
    {code : Nat} (h : ∀ o s, exec (i o) s = lift (row o (verb o role us (g o))) s)
    (hg : ∀ o d, pre o d = true → g o d = vEr d code) :
    Refuses i role us pre code := by
  intro o s ha hpre
  rw [h, lift_eq, row_verb ha, hg o _ hpre]; rfl

/-! The configuration of a port (spec/03 R43, R60, R66). -/

/-- A configuration whose rate is in range is taken as it is. -/
theorem cfgOf_of_rate (old : Word) {v : Word} (hmin : 96 ≤ v.toNat % 65536) (hmax : v.toNat % 65536 ≤ 30000) :
    cfgOf old v = v &&& 0x7FFFF := by
  have hrate : fld (v &&& 0x7FFFF) 0 16 = v.toNat % 65536 := by
    have hmask : (v &&& 0x7FFFF).toNat = v.toNat % 2 ^ 19 := by
      rw [BitVec.toNat_and]; exact Nat.and_two_pow_sub_one_eq_mod _ 19
    simp only [fld, Nat.shiftRight_zero, hmask]
    omega
  simp only [cfgOf, hrate, hmin, hmax, decide_true, Bool.and_self, if_true]

theorem and_mask_of_lt {v : Word} (h : v.toNat < 2 ^ 19) : v &&& 0x7FFFF = v := by
  refine BitVec.eq_of_toNat_eq ?_
  rw [BitVec.toNat_and]
  exact (Nat.and_two_pow_sub_one_eq_mod _ 19).trans (Nat.mod_eq_of_lt h)

theorem cfgSet_own (d : Dev) (p : MgPort) (v : Word) :
    cfgSet d (portName p) p v = d.updMg p fun k => { k with deferred := some (.baud (cfgOf (d.mg p).cfg v)) } := by
  simp [cfgSet]

theorem cfgSet_other (d : Dev) {src : String} {p : MgPort} (v : Word) (h : src ≠ portName p) :
    cfgSet d src p v = d.updMg p fun k => { k with cfg := cfgOf (d.mg p).cfg v } := by
  simp [cfgSet, h]

/-- The number `sess baud` makes of a rate, a format and the echo bit that stands fits the register and keeps its rate. -/
theorem cfgOf_baud (old : Word) {n : Nat} (f : Fin 4) (hmin : 96 ≤ n) (hmax : n ≤ 30000) :
    cfgOf old (toWord (100 * n / 100 + put f.val 16 + put (fld old 18 1) 18)) =
      toWord (n + 65536 * f.val + 262144 * (old.getLsbD 18).toNat) := by
  have hecho : fld old 18 1 = (old.getLsbD 18).toNat := by
    rw [fld, BitVec.getLsbD, Nat.toNat_testBit, Nat.shiftRight_eq_div_pow, Nat.pow_one]
  have hbit : (old.getLsbD 18).toNat ≤ 1 := Bool.toNat_le _
  have hval : 100 * n / 100 + put f.val 16 + put (fld old 18 1) 18 = n + 65536 * f.val + 262144 * (old.getLsbD 18).toNat := by
    rw [hecho]; simp only [put, Nat.shiftLeft_eq]; omega
  have hnat : (toWord (n + 65536 * f.val + 262144 * (old.getLsbD 18).toNat)).toNat =
      n + 65536 * f.val + 262144 * (old.getLsbD 18).toNat := by
    refine (BitVec.toNat_ofNat _ _).trans (Nat.mod_eq_of_lt ?_)
    omega
  rw [hval, cfgOf_of_rate old (by omega) (by omega), and_mask_of_lt (by omega)]

/-- `sess baud` on its own port waits for its status line. -/
theorem cfgSet_baud (d : Dev) (p : MgPort) {n : Nat} (f : Fin 4) (hmin : 96 ≤ n) (hmax : n ≤ 30000) :
    cfgSet d (portName p) p (toWord (100 * n / 100 + put f.val 16 + put (fld (d.mg p).cfg 18 1) 18)) = d.updMg p fun k =>
      { k with deferred := some (.baud (toWord (n + 65536 * f.val + 262144 * (k.cfg.getLsbD 18).toNat))) } := by
  rw [cfgSet_own, cfgOf_baud _ f hmin hmax]
  exact updMg_congr rfl

/-! A cell of shared memory as a session reaches it (spec/03 R65). -/

theorem regionOf_sram_bounds {a : Nat} (h : regionOf a = .sram) : 0x10000000 ≤ a ∧ a < 0x10780000 := by
  unfold regionOf at h
  split at h; · cases h
  split at h
  next hsram => simpa only [Bool.and_eq_true, decide_eq_true_eq] using hsram
  next =>
    iterate 6 (split at h; · cases h)
    split at h
    · split at h <;> cases h
    · split at h <;> cases h

theorem isRegs_of_sram {a : Nat} (h : regionOf a = .sram) : isRegs a = false := by
  simp only [isRegs, h]

theorem addrUnit_of_sram {a : Nat} (h : regionOf a = .sram) : addrUnit a = none := by
  simp only [addrUnit, h]

/-- Nothing stops a session's access to a cell of shared memory. -/
theorem addrStop_of_sram (d : Dev) (o : Via) {a : Nat} (w : Bool) (halign : a % 4 = 0) (h : regionOf a = .sram) :
    addrStop d o a w = none := by
  obtain ⟨hlo, hhi⟩ := regionOf_sram_bounds h
  have h32 : a < 4294967296 := by omega
  have hM : ¬ 0xF0000000 ≤ a := by omega
  simp [addrStop, addrFenced, addrUnit_of_sram h, h, halign, h32, hM]

theorem memRead_of_good (d : Dev) {a : Nat} (n : Nat) (who : String) (u : UnitId) (hecc : eccOf d a = 0) :
    memRead d a n who u = (d, some (plainRead d a n)) := by
  simp [memRead, hecc]

theorem memWrite_of_good (d : Dev) {a : Nat} (v : Word) (who : String) (u : UnitId) (hecc : eccOf d a = 0) :
    memWrite d a v 4 who u = (plainWrite d a v 4, true) := by
  simp [memWrite, hecc]

theorem anyRead_of_sram (d : Dev) (q : Req) {a : Nat} (n : Nat) (who : String) (u : UnitId) (h : regionOf a = .sram)
    (hecc : eccOf d a = 0) : anyRead d q a n who u = (d, .ok (plainRead d a n)) := by
  simp [anyRead, isRegs_of_sram h, h, memRead_of_good d n who u hecc]

theorem anyWrite_of_sram (d : Dev) (q : Req) {a : Nat} (v : Word) (h : regionOf a = .sram) (hecc : eccOf d a = 0) :
    anyWrite d q a v 4 = (plainWrite d a v 4, .done) := by
  have hones : toWord (2 ^ (8 * 4) - 1) = BitVec.allOnes 32 := by decide
  simp only [anyWrite, isRegs_of_sram h, h, hones, BitVec.and_allOnes, memWrite_of_good d v _ _ hecc, Bool.false_eq_true, if_false]

/-- A beat that is charged to no fold changes no memory. -/
theorem plainRead_manages (d : Dev) (b a : Nat) : plainRead (manages d b) a 4 = plainRead d a 4 := by
  rw [plainRead_four, plainRead_four]; rfl

theorem eccOf_manages (d : Dev) (b a : Nat) : eccOf (manages d b) a = eccOf d a := rfl

theorem peekCells_of_sram (d : Dev) (o : Via) {a : Nat} (halign : a % 4 = 0) (h : regionOf a = .sram) (hecc : eccOf d a = 0) :
    peekCells 1 d o a = (manages d a, .ok [plainRead d a 4]) := by
  have hread := anyRead_of_sram (manages d a) (viaReq d o) 4 (viaSrc o) .pmu h (eccOf_manages d a a ▸ hecc)
  simp only [peekCells, addrStop_of_sram d o false halign h, hread, plainRead_manages]

theorem pokeCell_of_sram (d : Dev) (o : Via) {a : Nat} (v : Nat) (h : regionOf a = .sram) (hecc : eccOf d a = 0) :
    pokeCell d o a v = vOk (plainWrite (manages d a) a (toWord v) 4) := by
  simp only [pokeCell, anyWrite_of_sram (manages d a) (viaReq d o) (toWord v) h (eccOf_manages d a a ▸ hecc)]

/-- Settles O46: the verbs of a port change its own console, the settings of a settled port pass the arbiter, a login answers a
challenge under a key, and a cell of shared memory is read and written with nothing in the way. -/
theorem sessions : Obligations.Sessions := by
  unfold Obligations.Sessions
  intro port onPort setOk onSet
  refine ⟨?login, ?auth, ?authLate, ?blockExpiry, ?timeout, ?dropped, ?logout, ?logoutScript, ?kill, ?echoOn, ?echoOff, ?baud,
    ?sessTimeout, ?lock, ?unlock, ?evSet, ?clear, ?cfgWrite, ?evmaskWrite, ?peek, ?poke, ?manages⟩
  case login =>
    intro o p r f s hport ha hr hf hblk hmach hkey d e
    have hargs : (r == .observe || (f.isSome && r != .operate)) = false := by simpa [hr] using hf
    have hopen : ((arrived o s.dev).mg p).authBlk = false := (keepsSession_arrived o s.dev p).authBlk.trans hblk
    have hfree : (r == .machine && ((arrived o s.dev).mg (otherPort p)).role == .machine) = false := by
      simpa [(keepsSession_arrived o s.dev (otherPort p)).role] using hmach
    have hnone : (loginKey s.otp r f).isNone = false := by simpa using hkey
    refine (congrArg Host.Outcome.next (rowS_verbS ha)).trans ?_
    simp only [notScript_of_port hport, hargs, hopen, hfree, hnone, Bool.false_eq_true, if_false]
    rfl
  case auth =>
    intro o p m s c hport ha hchal d
    have hchal : ((arrived o s.dev).mg p).chal = some c := (keepsSession_arrived o s.dev p).chal.trans hchal
    refine ⟨fun hok hmach => ?_, fun hbad => ?_⟩
    · have hfree : (c.role == .machine && ((arrived o s.dev).mg (otherPort p)).role == .machine) = false := by
        simpa [(keepsSession_arrived o s.dev (otherPort p)).role] using hmach
      refine (congrArg Host.Outcome.next (rowS_verbS ha)).trans ?_
      simp only [notScript_of_port hport, hchal, hok, hfree, Bool.not_true, Bool.false_eq_true, if_false]
      rfl
    · refine (congrArg Host.Outcome.next (rowS_verbS ha)).trans ?_
      simp only [notScript_of_port hport, hchal, hbad, Bool.not_false, if_true]
      rfl
  case authLate =>
    intro otp p c m hage
    simp only [authOk, decide_eq_false (Nat.not_le.mpr hage), Bool.false_and]
  case blockExpiry => exact fun p => happens_of (fun _ => rfl) fun _ _ => rfl
  case timeout => exact fun p => happens_of (fun _ => rfl) fun d hdue => if_pos hdue
  case dropped => exact fun k => ⟨rfl, rfl, rfl⟩
  case logout => exact does_fromPort (fun _ _ => rfl) (fun _ => rfl) (fun _ _ _ => rfl) fun _ _ _ _ => rfl
  case logoutScript =>
    refine refuses_verb (fun _ _ => rfl) fun o d hscript => ?_
    cases o with
    | typed p => cases hscript
    | gen p n => cases hscript
    | script => rfl
  case kill =>
    refine fun p => does_verb (fun _ _ => rfl) fun o d hport => ?_
    have hport := eq_of_beq hport
    have hself : ¬ (p == otherPort p) = true := by cases p <;> decide
    exact (notScript_of_port hport d _).trans (if_neg hself)
  case echoOn =>
    exact does_fromPort (fun _ _ => rfl) (fun _ => rfl) (fun _ _ hs => vReg_settled hs rfl) fun _ _ _ hs => vReg_settled hs rfl
  case echoOff =>
    exact does_fromPort (fun _ _ => rfl) (fun _ => rfl) (fun _ _ hs => vReg_settled hs rfl) fun _ _ _ hs => vReg_settled hs rfl
  case baud =>
    intro n f hmin hmax
    have hrate : ¬ (100 * n % 100 != 0 || 100 * n < 9600 || 3000000 < 100 * n) = true := by
      simp only [Bool.or_eq_true, bne_iff_ne, decide_eq_true_eq]
      omega
    exact does_fromPort (fun _ _ => rfl) (fun _ => rfl)
      (fun p d hs => (if_neg hrate).trans (vReg_settled hs (congrArg Except.ok (cfgSet_baud d p f hmin hmax))))
      fun p _ d hs => (if_neg hrate).trans (vReg_settled hs (congrArg Except.ok (cfgSet_baud d p f hmin hmax)))
  case sessTimeout =>
    intro n hmin hmax
    have hnever (b : Bool) : ¬ (n == 0 && b) = true := by
      simp only [Bool.and_eq_true, beq_iff_eq]
      omega
    have hrange : ¬ (n != 0 && (n < 60 || 86400 < n)) = true := by
      simp only [Bool.and_eq_true, Bool.or_eq_true, decide_eq_true_eq]
      omega
    exact does_fromPort (fun _ _ => rfl) (fun _ => rfl) (fun _ _ _ => (if_neg (hnever _)).trans (if_neg hrange))
      fun _ _ _ _ => (if_neg (hnever _)).trans (if_neg hrange)
  case lock => exact does_fromPort (fun _ _ => rfl) (fun _ => rfl) (fun _ _ _ => rfl) fun _ _ _ _ => rfl
  case unlock => exact does_fromPort (fun _ _ => rfl) (fun _ => rfl) (fun _ _ _ => rfl) fun _ _ _ _ => rfl
  case evSet =>
    intro b c
    exact does_fromPort (fun _ _ => rfl) (fun _ => rfl) (fun _ _ hs => vReg_settled hs rfl) fun _ _ _ hs => vReg_settled hs rfl
  case clear => exact does_fromPort (fun _ _ => rfl) (fun _ => rfl) (fun _ _ _ => rfl) fun _ _ _ _ => rfl
  case cfgWrite =>
    intro a p v s hk hs hsrc hmin hmax set
    refine writes_of (i := fun a => .mgCfgWrite a p v) (may := fun q _ => isK q && q.src != portName p) (pre := fun _ => true)
      (f := set) (w := fun d q => mgWrite d q p 0 v) (fun _ _ => rfl) (fun d q hmay hs _ => ?_) a s (by simp [hk, hsrc]) hs rfl
    obtain ⟨hk, hsrc⟩ := Bool.and_eq_true_iff.mp hmay
    have hset : cfgSet d q.src p v = set d := by
      rw [cfgSet_other _ _ (bne_iff_ne.mp hsrc), cfgOf_of_rate _ hmin hmax]
    exact (if_pos hk).trans (stWrite_settled hs (congrArg Except.ok hset))
  case evmaskWrite =>
    intro p v
    refine writes_of (w := fun d q => mgWrite d q p 8 v) (fun _ _ => rfl) fun d q hk hs _ => ?_
    exact (if_pos hk).trans (stWrite_settled hs rfl)
  case peek =>
    intro n o s ha halign hsram hecc line
    have hcells := peekCells_of_sram (arrived o s.dev) o halign hsram hecc
    refine (congrArg (fun d => Host.Outcome.next { s with dev := d }) (row_verb ha)).trans ?_
    simp only [Option.getD_none, hcells]
    rfl
  case poke =>
    intro n v halign hsram hv
    refine does_verb (fun _ _ => rfl) fun o d hecc => ?_
    simp only [if_neg (Nat.not_le.mpr hv), addrStop_of_sram d o true halign hsram]
    exact pokeCell_of_sram d o v hsram (eq_of_beq hecc)
  case manages => exact fun d a => rfl

end Sys2Proof.Proofs

/-! SUPPORT. What a management port makes of a character, of a line that waits and of what it sends by itself (spec/03 R44 to R63). -/
namespace Sys2Proof.Proofs

open Sys2Proof Sys2Proof.Machine Sys2Proof.Safety Sys2Proof.Laws

/-! A character that arrives (spec/03 R44, R45, R58, R61). -/

theorem mCharacterReceived_heard {d : Dev} {p : MgPort} (ch : Byte) (bad : Bool) (h : portSends d p && (d.mg p).ready) :
    mCharacterReceived p ch bad d = d.updMg p fun k => rxChar k ch bad (nextStamp d) := if_pos h

/-- A character that leaves its port's console as `f` does, where the port is on and `pre` holds of the console. -/
theorem happens_character {p : MgPort} {ch : Byte} {bad : Bool} {pre : Dev → Bool} {f : Dev → Console → Console}
    (hon : ∀ d, pre d = true → (portSends d p && (d.mg p).ready) = true)
    (hf : ∀ d, pre d = true → rxChar (d.mg p) ch bad (nextStamp d) = f d (d.mg p)) :
    Happens (.characterReceived p ch bad) pre fun d => d.updMg p (f d) :=
  happens_of (fun _ => rfl) fun d hpre => (mCharacterReceived_heard ch bad (hon d hpre)).trans (updMg_congr (hf d hpre))

theorem echo_eq (k : Console) (ch : Byte) :
    echo k ch = { k with tx := if k.cfg.getLsbD 18 && !rxGen k then k.tx ++ [.echo ch] else k.tx } := by
  unfold echo bitOf
  split <;> rfl

/-- A character at the end of a typed line leaves it a typed one unless it begins a generated one. -/
theorem rxGen_append {k : Console} (ch : Byte) (hgen : rxGen k = false) :
    rxGen { k with rx := k.rx ++ [ch] } = !(k.rx != [] || ch != 0x23) := by
  unfold rxGen at *
  cases hrx : k.rx with
  | nil => exact (Bool.not_not (ch == 0x23)).symm
  | cons b l => rw [hrx] at hgen; exact hgen

/-- A printable character is no terminator and no editing character. -/
theorem ne_of_printable {ch c : Byte} (hlo : 0x20 ≤ ch.toNat) (hhi : ch.toNat ≤ 0x7E) (hc : c.toNat < 0x20 ∨ 0x7E < c.toNat) :
    (ch == c) = false := by
  refine beq_eq_false_iff_ne.mpr ?_
  rintro rfl
  omega

theorem rxPut_printable {k : Console} {ch : Byte} (hlo : 0x20 ≤ ch.toNat) (hhi : ch.toNat ≤ 0x7E) (hgen : rxGen k = false) :
    rxPut k ch = { k with
      rx := k.rx ++ [ch], tx := if k.cfg.getLsbD 18 && (k.rx != [] || ch != 0x23) then k.tx ++ [.echo ch] else k.tx } := by
  have hne {c : Byte} (hc : c.toNat < 0x20 ∨ 0x7E < c.toNat) : (ch == c) = false := ne_of_printable hlo hhi hc
  have hput : rxPut k ch = echo { k with rx := k.rx ++ [ch] } ch := by
    simp only [rxPut, hgen, hne (c := 0x08) (by decide), hne (c := 0x7F) (by decide), hne (c := 0x15) (by decide),
      hne (c := 0x03) (by decide), Bool.or_self, Bool.false_eq_true, if_false]
  rw [hput, echo_eq, rxGen_append ch hgen, Bool.not_not]

/-- A character that overflows nothing ends the line or goes into it. -/
theorem rxChar_room {k : Console} {ch : Byte} (n : Nat) (hlf : (ch == 0x0A && k.lastCr) = false)
    (hroom : (k.rxOver || decide (rxUsed k < 512)) = true) :
    rxChar k ch false n =
      if ch == 0x0A || ch == 0x0D then rxEnd { k with lastCr := ch == 0x0D } ch n
      else if k.rxOver then { k with lastCr := ch == 0x0D } else rxPut { k with lastCr := ch == 0x0D } ch := by
  have hroom : ¬ (!k.rxOver && decide (512 ≤ rxUsed k)) = true := by
    intro hfull
    obtain ⟨hover, hused⟩ := Bool.and_eq_true_iff.mp hfull
    rw [Bool.not_eq_true'] at hover
    rw [hover, Bool.false_or, decide_eq_true_eq] at hroom
    exact Nat.not_le.mpr hroom (of_decide_eq_true hused)
  have hfits : ¬ (!k.rxOver && decide (512 ≤ rxUsed { k with lastCr := ch == 0x0D })) = true := hroom
  simp only [rxChar, hlf, if_neg hfits, Bool.false_eq_true, if_false]

theorem rxChar_printable {k : Console} {ch : Byte} (n : Nat) (hlo : 0x20 ≤ ch.toNat) (hhi : ch.toNat ≤ 0x7E) (hover : k.rxOver = false)
    (hroom : rxUsed k < 512) (hgen : rxGen k = false) :
    rxChar k ch false n = { k with
      rx := k.rx ++ [ch], lastCr := false,
      tx := if k.cfg.getLsbD 18 && (k.rx != [] || ch != 0x23) then k.tx ++ [.echo ch] else k.tx } := by
  have hlf : (ch == 0x0A) = false := ne_of_printable hlo hhi (by decide)
  have hcr : (ch == 0x0D) = false := ne_of_printable hlo hhi (by decide)
  rw [rxChar_room n (by rw [hlf]; rfl) (by simp [hroom]), hlf, hcr, if_neg (by decide), if_neg (by simp [hover])]
  exact rxPut_printable (k := { k with lastCr := false }) hlo hhi hgen

theorem rxChar_cr {k : Console} (n : Nat) (hroom : (k.rxOver || decide (rxUsed k < 512)) = true) :
    rxChar k 0x0D false n = { k with
      lastCr := true, rx := [], rxBad := false, rxOver := false,
      lines := k.lines ++ [{ text := k.rx, bad := k.rxBad, ovf := k.rxOver, stamp := n, cut := false }],
      tx := if k.cfg.getLsbD 18 && !rxGen k then k.tx ++ [.echo 0x0D] else k.tx } := by
  rw [rxChar_room n rfl hroom, if_pos (by decide), rxEnd, echo_eq]
  rfl

theorem rxChar_lf_after_cr {k : Console} (n : Nat) (h : k.lastCr = true) : rxChar k 0x0A false n = { k with lastCr := false } := by
  simp [rxChar, h]

/-! A line that waits (spec/03 R46 to R50, R59). -/

theorem lineTaken_cons {d : Dev} {p : MgPort} {l : RxLine} {r : List RxLine} (h : (d.mg p).lines = l :: r) :
    lineTaken d p = d.updMg p fun k => { k with lines := r } :=
  updMg_congr (by rw [h]; rfl)

/-- A line taken and counted leaves the response its port keeps. -/
theorem kept_lineArrives_lineTaken (d : Dev) (p : MgPort) (gen : Bool) :
    ((lineArrives (lineTaken d p) p gen).mg p).kept = (d.mg p).kept := by
  have htaken : KeepsSession (d.mg p) ((lineTaken d p).mg p) := by
    refine keepsSession_updMg d p (fun _ => ?_) p
    exact ⟨rfl, rfl, rfl, rfl⟩
  exact (htaken.trans (keepsSession_lineArrives _ p gen p)).kept

theorem runCommand_ok {o : Via} {full : Bool} {text : List Char} {c : Cmd} (h : parseCommand o full text = .ok c) (s : State) :
    runCommand o full text s = runCmd c s := by
  simp only [runCommand, h]

theorem runCommand_error {o : Via} {full : Bool} {text : List Char} {e : String} (h : parseCommand o full text = .error e) (s : State) :
    runCommand o full text s = { s with dev := answered o [] (syntaxEr e) s.dev } := by
  simp only [runCommand, h, answered]

section NextLine

variable {p : MgPort} {s : State} {l : RxLine} {r : List RxLine} (hlines : (s.dev.mg p).lines = l :: r)
  (hturn : inTurn s.dev p l = true) (hfit : lineUnfit l = none)
include hlines hturn hfit

/-- The next line of a port, typed and not blank, runs as a command once its arrival is counted. -/
theorem typedLine_runs (hprint : printable l.text = true) (htyped : l.text.head? ≠ some 0x23)
    (hblank : l.text.all (· == 0x20) = false) :
    typedLine p s = runCommand (.typed p) false (lineText l.text)
      { s with dev := (lineArrives (lineTaken s.dev p) p false).updMg p fun k => { k with cut := l.cut } } := by
  have hhead : (l.text.head? == some 0x23) = false := beq_eq_false_iff_ne.mpr htyped
  simp only [typedLine, hlines, hturn, hhead, hfit, hblank, hprint, Bool.not_true, Bool.or_self, Bool.and_false, Bool.false_and,
    Bool.false_eq_true, if_false]

variable {body : List Char} {c : Nat} (hgen : l.text.head? = some 0x23) (hsplit : crcSplit (lineText l.text) = some (body, c))
include hgen hsplit

theorem generatedLine_badCrc (hcrc : (crc16 (body.map fun x => BitVec.ofNat 8 x.toNat)).toNat ≠ c) :
    generatedLine p s = { s with dev := genStatus ((lineArrives (lineTaken s.dev p) p true).updMg p fun k =>
      { k with cntCrc := satInc k.cntCrc 0xFFFF }) p ((seqOf (lineText l.text)).map (·.1)) (er 70) } := by
  have hhead : (l.text.head? != some 0x23) = false := bne_eq_false_iff_eq.mpr hgen
  have hbad : ((crc16 (body.map fun x => BitVec.ofNat 8 x.toNat)).toNat != c) = true := bne_iff_ne.mpr hcrc
  simp only [generatedLine, hlines, hturn, hhead, hfit, hsplit, hbad, Bool.not_true, Bool.or_self, Bool.false_eq_true, if_false, if_true]

variable (hprint : printable l.text = true) (hcrc : (crc16 (body.map fun x => BitVec.ofNat 8 x.toNat)).toNat = c) {q : Nat}
  {cmd : List Char} (hseq : seqOf body.dropLast = some (q, cmd))
include hprint hcrc hseq

/-- A good generated line on a port that keeps no response runs. -/
theorem generatedLine_new (hkept : (s.dev.mg p).kept = none) :
    generatedLine p s = genRun p q cmd { s with dev := lineArrives (lineTaken s.dev p) p true } := by
  have hhead : (l.text.head? != some 0x23) = false := bne_eq_false_iff_eq.mpr hgen
  have hgood : ((crc16 (body.map fun x => BitVec.ofNat 8 x.toNat)).toNat != c) = false :=
    bne_eq_false_iff_eq.mpr hcrc
  simp only [generatedLine, hlines, hturn, hhead, hfit, hsplit, hgood, hseq, hprint, kept_lineArrives_lineTaken, hkept, Bool.not_true,
    Bool.or_self, Bool.false_eq_true, if_false]

/-- A good generated line whose response its port keeps gets it again. -/
theorem generatedLine_again {x : String} {xs : List String} (hkept : (s.dev.mg p).kept = some (q, String.ofList cmd, x :: xs)) :
    generatedLine p s = { s with dev := sendLines (lineArrives (lineTaken s.dev p) p true) (.gen p q) (x :: xs) } := by
  have hhead : (l.text.head? != some 0x23) = false := bne_eq_false_iff_eq.mpr hgen
  have hgood : ((crc16 (body.map fun x => BitVec.ofNat 8 x.toNat)).toNat != c) = false :=
    bne_eq_false_iff_eq.mpr hcrc
  simp only [generatedLine, hlines, hturn, hhead, hfit, hsplit, hgood, hseq, hprint, kept_lineArrives_lineTaken, hkept, Bool.not_true,
    Bool.or_self, Bool.false_eq_true, if_false, beq_self_eq_true, if_true]

end NextLine

/-! What a port sends by itself (spec/03 R52, R53, R60, R63). -/

/-- An event with no line partly typed: its line alone goes out. -/
theorem sendEvent_of_rx_nil {k : Console} (text : String) (h : k.rx = []) :
    sendEvent k text = { k with
      evCount := k.evCount + 1,
      tx := k.tx ++ [.line (if k.genForm then withCrc ("!" ++ toString k.evCount.toNat ++ " " ++ String.ofList (text.toList.drop 1))
        else text)] } := by
  simp only [sendEvent, h, List.isEmpty_nil, Bool.true_or, if_true, List.append_nil]

theorem mEventTransmit_of_evq {d : Dev} {p : MgPort} {e : Event} {r : List Event} (hsends : portSends d p = true)
    (hready : (d.mg p).ready = true) (hbusy : (d.mg p).busy = none) (hlost : (d.mg p).lostPend = 0) (hevq : (d.mg p).evq = e :: r) :
    mEventTransmit p d = d.updMg p fun k => sendEvent { k with evq := r } e.text := by
  simp only [mEventTransmit, hsends, hready, hbusy, hlost, hevq, Bool.not_true, Option.isSome_none, Bool.or_self, bne_self_eq_false,
    Bool.false_and, Bool.false_eq_true, if_false]

theorem updPmu_congr {d : Dev} {f g : Pmu → Pmu} (h : f d.pmu = g d.pmu) : updPmu d f = updPmu d g :=
  congrArg (fun m => { d with pmu := m }) h

/-- No `!BOOT` follows a boot from the primary image whose script has not ended. -/
theorem bootEvents_of_primary {d : Dev} (hrun : d.phase = .run) (hprimary : d.boot.secondary = false)
    (hscript : d.boot.scriptEnd = none) : bootEvents d = d := by
  have hphase : (d.phase == .recovery) = false := by rw [hrun]; rfl
  simp only [bootEvents, hprimary, hphase, hscript, Bool.false_eq_true, if_false]

/-- After a boot from the primary image with no script ended, both ports say `!READY` and no `!BOOT` follows. -/
theorem mReady_of_primary {d : Dev} (hrun : d.phase = .run) (ha : d.mga.ready = false) (hb : d.mgb.ready = false)
    (hsa : portSends d .mga = true) (hsb : portSends d .mgb = true) (hprimary : d.boot.secondary = false)
    (hscript : d.boot.scriptEnd = none) :
    mReady d =
      let line := "!READY " ++ variantName d.variant ++ " " ++ stepName' d.step ++ " " ++ rstName d.pmu.rstCause
      { d with mga := { d.mga with ready := true, evCount := d.mga.evCount + 1, tx := d.mga.tx ++ [.line line, .prompt] },
               mgb := { d.mgb with ready := true, evCount := d.mgb.evCount + 1, tx := d.mgb.tx ++ [.line line, .prompt] } } := by
  have hphase : (d.phase == .run || d.phase == .recovery) = true := by rw [hrun]; rfl
  simp only [mReady, hphase, Dev.mg, ha, hb, hsa, hsb, Bool.not_true, Bool.not_false, Bool.and_self, Bool.or_self, Bool.false_eq_true,
    if_false, if_true, List.foldl_cons, List.foldl_nil]
  exact bootEvents_of_primary hrun hprimary hscript

/-- Settles O45: a character changes its port's console as `rxChar` says of its kind, a line that is next is taken and counted before
it is read, and what a port sends by itself goes out where nothing holds it back. -/
theorem consoleLines : Obligations.ConsoleLines := by
  unfold Obligations.ConsoleLines
  refine ⟨?printable, ?framing, ?cr, ?lf, ?line, ?event, ?ready, ?sent⟩
  case printable =>
    intro p ch hlo hhi
    refine happens_character (fun d hpre => ?_) fun d hpre => ?_
    all_goals
      simp only [Bool.and_eq_true, Bool.not_eq_true', decide_eq_true_eq] at hpre
      obtain ⟨⟨⟨⟨hsends, hready⟩, hover⟩, hroom⟩, hgen⟩ := hpre
    · rw [hsends, hready]; rfl
    · exact rxChar_printable _ hlo hhi hover hroom hgen
  case framing => exact fun p ch => happens_character (fun _ h => h) fun _ _ => rfl
  case cr =>
    intro p
    refine happens_character (fun d hpre => ?_) fun d hpre => ?_
    · exact (Bool.and_eq_true_iff.mp hpre).1
    · exact rxChar_cr _ (Bool.and_eq_true_iff.mp hpre).2
  case lf =>
    intro p
    refine happens_character (fun d hpre => ?_) fun d hpre => ?_
    · exact (Bool.and_eq_true_iff.mp hpre).1
    · exact rxChar_lf_after_cr _ (Bool.and_eq_true_iff.mp hpre).2
  case line =>
    intro p s l r hlines hturn hfit hprint taken typed
    have htaken : lineTaken s.dev p = taken := lineTaken_cons hlines
    refine ⟨?typed, ?generated⟩
    case typed =>
      intro htyped hblank
      have hruns := typedLine_runs hlines hturn hfit hprint htyped hblank
      rw [htaken] at hruns
      refine ⟨fun c hc => ?_, fun e he => ?_⟩
      · exact congrArg Host.Outcome.next (hruns.trans (runCommand_ok hc _))
      · exact congrArg Host.Outcome.next (hruns.trans (runCommand_error he _))
    case generated =>
      intro hgen body c hsplit d
      refine ⟨fun hcrc => ?_, fun hcrc q cmd hseq => ⟨fun hkept => ?_, fun x xs hkept => ?_⟩⟩
      · have hbad := generatedLine_badCrc hlines hturn hfit hgen hsplit hcrc
        rw [htaken] at hbad
        exact congrArg Host.Outcome.next hbad
      · have hnew := generatedLine_new hlines hturn hfit hgen hsplit hprint hcrc hseq hkept
        rw [htaken] at hnew
        exact congrArg Host.Outcome.next hnew
      · have hagain := generatedLine_again hlines hturn hfit hgen hsplit hprint hcrc hseq hkept
        rw [htaken] at hagain
        exact congrArg Host.Outcome.next hagain
  case event =>
    intro p s e r hsends hready hbusy hlost hevq hrx
    refine congrArg (fun d => Host.Outcome.next { s with dev := d })
      ((mEventTransmit_of_evq hsends hready hbusy hlost hevq).trans (updMg_congr ?_))
    exact sendEvent_of_rx_nil e.text hrx
  case ready =>
    refine happens_of (fun _ => rfl) fun d hpre => ?_
    simp only [Bool.and_eq_true, Bool.not_eq_true', beq_iff_eq, Option.isNone_iff_eq_none] at hpre
    obtain ⟨⟨⟨⟨⟨⟨hrun, ha⟩, hb⟩, hsa⟩, hsb⟩, hprimary⟩, hscript⟩ := hpre
    exact mReady_of_primary hrun ha hb hsa hsb hprimary hscript
  case sent =>
    intro p s e
    have hsent (d : Dev) (h : mStatusLineSent p s.dev = d) : exec (.statusLineSent p) s = .next { s with dev := d } := by
      rw [← h]; rfl
    refine ⟨fun hnone => hsent _ ?_, fun c hbaud => hsent _ ?_, fun hreset => hsent _ ?_, fun t hpower htrans hstage => hsent _ ?_⟩
    · simp only [mStatusLineSent, hnone]
    · simp only [mStatusLineSent, hbaud]; rfl
    · simp only [mStatusLineSent, hreset]; rfl
    · simp only [mStatusLineSent, hpower]
      exact updPmu_congr (by simp [htrans, hstage])

end Sys2Proof.Proofs

/-! SUPPORT. What leaves the variant and the unit records as they are, and the units after a device reset (spec/04 R85, spec/11 R248). -/
namespace Sys2Proof.Proofs

open Sys2Proof Sys2Proof.Machine Sys2Proof.Laws

/-- One device has the variant and the unit records of another. -/
structure SameUnits (d e : Dev) : Prop where
  variant : e.variant = d.variant
  units : e.units = d.units

theorem SameUnits.refl (d : Dev) : SameUnits d d := ⟨rfl, rfl⟩

theorem SameUnits.trans {d e f : Dev} (h : SameUnits d e) (g : SameUnits e f) : SameUnits d f :=
  ⟨g.variant.trans h.variant, g.units.trans h.units⟩

theorem SameUnits.foldl {α : Type} {f : Dev → α → Dev} (h : ∀ d x, SameUnits d (f d x)) (l : List α) (d : Dev) :
    SameUnits d (l.foldl f d) := by
  induction l generalizing d with
  | nil => exact .refl d
  | cons x l ih => exact (h d x).trans (ih (f d x))

theorem SameUnits.ite {c : Prop} [Decidable c] {d e f : Dev} (he : SameUnits d e) (hf : SameUnits d f) :
    SameUnits d (if c then e else f) := by
  split <;> assumption

/-- A unit that no record lists is as it starts. -/
theorem unit_of_units_nil {d : Dev} (h : d.units = []) (u : UnitId) : d.unit u = UnitRec.start (startState d.variant u) := by
  rw [Dev.unit, h]; rfl

/-! Events and trips reach no unit record (spec/11). -/

theorem sameUnits_setPen (d : Dev) (p : Nat) (k : Pen) : SameUnits d (d.setPen p k) := ⟨rfl, rfl⟩
theorem sameUnits_updCore (d : Dev) (c : Nat) (f : Core → Core) : SameUnits d (d.updCore c f) := ⟨rfl, rfl⟩
theorem sameUnits_updSlice (d : Dev) (f : Nat) (g : Slice → Slice) : SameUnits d (d.updSlice f g) := ⟨rfl, rfl⟩
theorem sameUnits_updPwm (d : Dev) (n : Nat) (f : Pwm → Pwm) : SameUnits d (d.updPwm n f) := ⟨rfl, rfl⟩
theorem sameUnits_updHalt (d : Dev) (f : Halter → Halter) : SameUnits d (updHalt d f) := ⟨rfl, rfl⟩
theorem sameUnits_emit (d : Dev) (c : Option EvClass) (u : Option UnitId) (t : String) : SameUnits d (emit d c u t) := ⟨rfl, rfl⟩

theorem sameUnits_setPending (d : Dev) (p l : Nat) : SameUnits d (setPending d p l) := by
  unfold setPending
  refine .ite (.refl d) ?_
  have hnew := (sameUnits_setPen d p { d.pen p with pend := setBit (d.pen p).pend l true }).trans <|
    .foldl (fun _ i => sameUnits_updCore _ (4 * p + i) fun c => { c with newRec := setBit c.newRec l true }) (List.range 4) _
  exact .ite (hnew.trans (sameUnits_setPen _ _ _)) hnew

theorem sameUnits_passLine (d : Dev) (f l : Nat) : SameUnits d (passLine d f l) :=
  .foldl (fun _ p => .ite (sameUnits_setPending _ p l) (.refl _)) _ _

theorem sameUnits_fireLine (d : Dev) (f l : Nat) : SameUnits d (fireLine d f l) := by
  unfold fireLine
  refine .ite (sameUnits_updSlice _ _ _) <| .ite (.refl d) <| .ite (sameUnits_updSlice _ _ _) <| .ite ?pass ?hold
  case pass => exact (sameUnits_updSlice _ _ _).trans (sameUnits_passLine _ f l)
  case hold => exact .ite (sameUnits_updSlice _ _ _) ((sameUnits_updSlice _ _ _).trans (sameUnits_emit _ _ _ _))

theorem sameUnits_fireSource (d : Dev) (n : Nat) : SameUnits d (fireSource d n) := by
  unfold fireSource
  exact .ite (.refl d) <| .ite (.ite ⟨rfl, rfl⟩ (.refl d)) <| .ite (.refl d) <| .ite (sameUnits_fireLine d _ _) (.refl d)

theorem sameUnits_fireLines (d : Dev) (f : Nat) (ls : List Nat) : SameUnits d (fireLines d f ls) :=
  .foldl (fun e l => sameUnits_fireLine e f l) _ _

theorem sameUnits_fireSources (d : Dev) (ns : List Nat) : SameUnits d (fireSources d ns) := by
  unfold fireSources
  exact .ite (.foldl sameUnits_fireSource ns d) (.foldl (fun e f => sameUnits_fireLines e f _) _ d)

theorem sameUnits_tripMark (d : Dev) (j : Nat) : SameUnits d (tripMark d j) := by
  unfold tripMark
  exact (sameUnits_updHalt d _).trans (.foldl (fun _ _ => sameUnits_updPwm _ _ _) _ _)

theorem sameUnits_haltTrips (d : Dev) (js : List Nat) : SameUnits d (haltTrips d js) := by
  unfold haltTrips
  exact (SameUnits.foldl sameUnits_tripMark _ d).trans <|
    (sameUnits_fireSources _ _).trans (.foldl (fun _ _ => sameUnits_emit _ _ _ _) _ _)

theorem sameUnits_haltFollow (old : BitVec 8) (d : Dev) : SameUnits d (haltFollow old d) :=
  (sameUnits_haltTrips d _).trans ⟨rfl, rfl⟩

/-- A device reset of any cause keeps the variant and lists no unit. -/
theorem deviceReset_units (d : Dev) (c : RstCause) : (deviceReset d c).variant = d.variant ∧ (deviceReset d c).units = [] := by
  cases c with
  | spore =>
    refine ⟨?variant, ?units⟩
    case variant => exact (sameUnits_haltFollow (haltInputs d.halter) _).variant
    case units => exact (sameUnits_haltFollow (haltInputs d.halter) _).units
  | por | bor | ovr | otr | pin | cmd => exact ⟨rfl, rfl⟩

/-- Settles O4: a device that lists no unit has each one as it starts, and a device reset of any cause lists none; what the halter map does
as it follows its balls after SPORE reaches no unit record. -/
theorem resetState : Obligations.ResetState := by
  unfold Obligations.ResetState
  intro started
  have hstart (d : Dev) (h : d.units = []) (u : UnitId) : started d u := by
    have hrec := unit_of_units_nil h u
    refine ⟨congrArg UnitRec.gen hrec, by rw [hrec]; rfl, (congrArg UnitRec.st hrec).trans ?_⟩
    cases hpresent : unitPresent d.variant u with
    | false => simp [UnitRec.start, startState, hpresent]
    | true => cases u <;> simp [UnitRec.start, startState, hpresent]
  refine ⟨rfl, rfl, wf_reset, rfl, ?_, ?_⟩
  · exact hstart State.reset.dev rfl
  · exact fun d c => hstart _ (deviceReset_units d c).2

end Sys2Proof.Proofs

/-! SUPPORT. What the arbiter makes of a request to a unit, by a verb or by a write to STATE.REQ (spec/04 R68 to R72, R88). -/
namespace Sys2Proof.Proofs

open Sys2Proof Sys2Proof.Machine Sys2Proof.Safety Sys2Proof.Laws

/-! The arbiter's gate (spec/04 R70, R71, R82). -/

/-- The arbiter takes requests to a unit: it is present, its shadow agrees with good parity, and no reset of it runs. -/
structure TakesRequests (d : Dev) (u : UnitId) : Prop where
  present : (d.unit u).st ≠ .absent
  agrees : differs (d.unit u) = false
  parity : parityLate (d.unit u) = false
  still : (d.unit u).resetting = false

theorem takesRequests_iff {d : Dev} {u : UnitId} :
    ((d.unit u).st != .absent && !differs (d.unit u) && !parityLate (d.unit u) && !(d.unit u).resetting) = true ↔
      TakesRequests d u := by
  simp only [Bool.and_eq_true, bne_iff_ne, Bool.not_eq_true']
  exact ⟨fun ⟨⟨⟨hp, ha⟩, hq⟩, hs⟩ => ⟨hp, ha, hq, hs⟩, fun ⟨hp, ha, hq, hs⟩ => ⟨⟨⟨hp, ha⟩, hq⟩, hs⟩⟩

/-- A request names no generation, or the unit's own. -/
def NamesOwn (d : Dev) (u : UnitId) (g : Option Nat) : Prop := ∀ n, g = some n → n = (d.unit u).gen.toNat

section Gate

variable {d d' : Dev} {u : UnitId} (h : TakesRequests d u)
include h

theorem arbGate_own {g : Option Nat} (hg : NamesOwn d u g) : arbGate d u g = (d, .ok) := by
  obtain ⟨hpresent, hagrees, hparity, hstill⟩ := h
  cases g with
  | none => simp [arbGate, hpresent, hagrees, hparity, hstill]
  | some n => simp [arbGate, hpresent, hagrees, hparity, hstill, hg n rfl]

theorem arbGate_stale {n : Nat} (hn : n ≠ (d.unit u).gen.toNat) : arbGate d u (some n) = (d, .stale) := by
  obtain ⟨hpresent, hagrees, hparity, hstill⟩ := h
  simp [arbGate, hpresent, hagrees, hparity, hstill, hn]

theorem request_own {src req : String} {g : Option Nat} {f : Dev → Dev × RCode} (hg : NamesOwn d u g) (hf : f d = (d', .ok)) :
    request d src u req g f = (arbLog d' src u req .ok, .ok) := by
  simp [request, arbGate_own h hg, hf]

theorem request_stale {src req : String} {n : Nat} {f : Dev → Dev × RCode} (hn : n ≠ (d.unit u).gen.toNat) :
    request d src u req (some n) f = (arbLog d src u req .stale, .stale) := by
  simp [request, arbGate_stale h hn]

end Gate

/-! Requests by a verb. -/

/-- A verb whose request the arbiter applies by `f` is answered `ok`. -/
theorem does_request {i : Via → Instr} {role : Role} {u : UnitId} {req : String} {g : Option Nat} {pre : Via → Dev → Bool}
    {f : Via → Dev → Dev} {run : Via → Dev → Dev → Dev × RCode}
    (h : ∀ o s, exec (i o) s = lift (row o (verb o role [u] fun d => vCode u (request d (viaSrc o) u req g (run o d)))) s)
    (htakes : ∀ o d, pre o d = true → TakesRequests d u ∧ NamesOwn d u g) (hrun : ∀ o d, pre o d = true → run o d d = (f o d, .ok)) :
    Does i role [u] pre fun o d => arbLog (f o d) (viaSrc o) u req .ok := by
  refine does_verb h fun o d hpre => ?_
  obtain ⟨htake, hown⟩ := htakes o d hpre
  simp only [vCode, request_own htake hown (hrun o d hpre), codeStatus]

/-- A verb whose request names another generation is told the unit's own. -/
theorem unitVerb_stale {o : Via} {role : Role} {u : UnitId} {op : UOp} {n : Nat} {d : Dev} (ha : allowed o role [u] d = true)
    (h : TakesRequests (arrived o d) u) (hn : n ≠ ((arrived o d).unit u).gen.toNat) :
    row o (unitVerb o role u op (some n)) d =
      let e := arbLog (arrived o d) (viaSrc o) u (uopName op) .stale
      answered o [] (codeStatus e u .stale) e := by
  refine (row_verb ha).trans ?_
  simp only [unitRequest, request_stale h hn, vCode, answered]

/-! Requests by a write to STATE.REQ. -/

theorem ne_u_of_isK {q : Req} (h : isK q = true) : q.priv ≠ .u := by
  intro hu
  simp [isK, atLeast, hu, privNum] at h

section StateReq

variable {a : Agent} {u : UnitId} {op : UOp} {d d' : Dev}

/-- Code that may write STATE.REQ for a unit gets the arbiter's decision as its result. -/
theorem stateReq_may {q : Req} {g : Option Nat} {c : RCode} (hpriv : q.priv ≠ .u)
    (hmay : isK q = true ∨ ((d.owner u).isSome = true ∧ d.owner u = q.fold))
    (hreq : unitRequest d q.src u op g = (d', c)) :
    stateReq d q u op g =
      let e := if c == .stale then setRefused d' u else d'
      (setResult e q (resultWord e u c), if c == .ok then .done else .refused c) := by
  have hscope : (!isK q && (d.owner u).isNone || !isK q && d.owner u != q.fold) = false := by
    rcases hmay with hk | ⟨hsome, hfold⟩
    · simp [hk]
    · simp [hfold, hfold ▸ hsome]
  simp [stateReq, hpriv, hscope, hreq]

theorem stateReqRow_own {g : Option (BitVec 16)} (hpriv : (reqOf d a).priv ≠ .u)
    (hmay : isK (reqOf d a) = true ∨ ((d.owner u).isSome = true ∧ d.owner u = (reqOf d a).fold))
    (h : TakesRequests d u) (hg : NamesOwn d u (g.map BitVec.toNat)) (hrun : uopRun op u d = (d', .ok)) :
    stateReqRow a u op g d =
      let e := arbLog d' (reqOf d a).src u (uopName op) .ok
      setResult e (reqOf d a) (resultWord e u .ok) := by
  simp [stateReqRow, stateReq_may hpriv hmay (request_own h hg hrun), writeRow]

theorem stateReqRow_stale {g : BitVec 16} (hk : isK (reqOf d a) = true) (h : TakesRequests d u)
    (hn : g.toNat ≠ (d.unit u).gen.toNat) :
    stateReqRow a u op (some g) d =
      let e := setRefused (arbLog d (reqOf d a).src u (uopName op) .stale) u
      setResult e (reqOf d a) (resultWord e u .stale) := by
  simp [stateReqRow, stateReq_may (ne_u_of_isK hk) (.inl hk) (request_stale h hn), writeRow]

/-- F code of another fold is refused. -/
theorem stateReqRow_scope {g : Option (BitVec 16)} (hf : (reqOf d a).priv = .f) (hown : d.owner u ≠ (reqOf d a).fold) :
    stateReqRow a u op g d = setResult d (reqOf d a) (resultWord d u .scope) := by
  simp [stateReqRow, stateReq, isK, atLeast, hf, privNum, hown, writeRow]

end StateReq

/-! What each request does to a unit that it finds as it needs it (spec/04 R68, R73, R77 to R79, R84). -/

theorem reqOn_off {u : UnitId} {d : Dev} (hst : (d.unit u).st = .off) (hguard : onGuard d u = true) :
    reqOn u d = (startWork (setUState (onClear d u) u .idle) u, .ok) := by
  simp [reqOn, hst, hguard]

theorem reqOff_idle_or_fault {u : UnitId} {d : Dev} (hst : (d.unit u).st = .idle ∨ (d.unit u).st = .fault) :
    reqOff u d = (setUState d u .off, .ok) := by
  rcases hst with h | h <;> simp [reqOff, h]

theorem reqFence_unshed {u : UnitId} {d : Dev} (h : hasCause (d.unit u) .shed = false) : reqFence u d = (fence d u .cmd, .ok) := by
  simp [reqFence, h]

theorem hasCause_cmd (r : UnitRec) : hasCause r .cmd = r.fcause.getLsbD 0 := by
  have hbit : ∀ x : BitVec 6, (x &&& 1 != 0) = x.getLsbD 0 := by decide
  exact hbit r.fcause

theorem reqUnfence_cmd {u : UnitId} {d : Dev} (h : (d.unit u).fcause.getLsbD 0 = true) :
    reqUnfence u d = (unfence d u .cmd, .ok) := by
  simp [reqUnfence, hasCause_cmd, h]

/-- A reset begins where neither the unit nor anything inside it is shed or being reset, and no image it would load waits for its reload. -/
theorem reqReset_ready {u : UnitId} {d : Dev} (hpmu : u ≠ .pmu) (hhalt : u ≠ .halt) (himage : resetImageBad d u = false)
    (hready : ((withContents d u).all fun x => !hasCause (d.unit x) .shed && !(d.unit x).resetting) = true) :
    reqReset u d = (resetStart d u, .ok) := by
  have hinside : ∀ x ∈ withContents d u, hasCause (d.unit x) .shed = false ∧ (d.unit x).resetting = false := by
    simpa using hready
  have hshed : ((withContents d u).any fun x => hasCause (d.unit x) .shed) = false :=
    List.any_eq_false.mpr fun x hx => ne_true_of_eq_false (hinside x hx).1
  have hresetting : ((withContents d u).any fun x => (d.unit x).resetting) = false :=
    List.any_eq_false.mpr fun x hx => ne_true_of_eq_false (hinside x hx).2
  unfold reqReset
  split
  · contradiction
  · contradiction
  · simp only [hshed, himage, hresetting, Bool.false_eq_true, if_false]

/-! `reset` of a management port, of the port it comes from, and of the device (spec/03 R60, spec/09 R207, spec/19 R439). -/

/-- A reset of any unit but the port that the command comes from begins with the request. -/
theorem vResetUnit_other {o : Via} {u : UnitId} (g : Option Nat) (d : Dev) (hother : ∀ p, viaPort o = some p → u ≠ .mg p) :
    vResetUnit o u g d = unitVerb o (if u == .fold 0 then .engineer else .operate) u .reset g d := by
  have hown : (match viaPort o with | some p => u == UnitId.mg p | none => false) = false := by
    cases hport : viaPort o with
    | none => rfl
    | some p => exact beq_false_of_ne (hother p hport)
  unfold vResetUnit
  exact if_neg (ne_true_of_eq_false hown)

/-- What `reset` of a management port does, the device standing at `d` as the command begins: the port it comes from waits for its `ok`. -/
def mgResetRun (p : MgPort) (o : Via) (d e : Dev) : Dev × RCode :=
  if viaPort o = some p then
    if (reqReset (.mg p) d).2 = .ok then (e.updMg p fun k => { k with deferred := some .resetPort }, .ok)
    else (e, (reqReset (.mg p) d).2)
  else reqReset (.mg p) e

theorem vResetUnit_mg (o : Via) (p : MgPort) (g : Option Nat) (d : Dev) :
    vResetUnit o (.mg p) g d =
      verb o .operate [.mg p] (fun d => vCode (.mg p) (request d (viaSrc o) (.mg p) "RESET" g (mgResetRun p o d))) d := by
  by_cases hport : viaPort o = some p
  · have hrun (d : Dev) : mgResetRun p o d = fun e =>
        if (reqReset (.mg p) d).2 = .ok then (e.updMg p fun k => { k with deferred := some .resetPort }, .ok)
        else (e, (reqReset (.mg p) d).2) := funext fun _ => if_pos hport
    simp [vResetUnit, hport, uopName, hrun]
  · have hrun (e : Dev) : mgResetRun p o e = uopRun .reset (.mg p) := funext fun _ => if_neg hport
    rw [vResetUnit_other g d fun q hq hqp => hport (by rw [hq, UnitId.mg.inj hqp])]
    simp only [hrun]
    rfl

theorem mgResetRun_ready {p : MgPort} {o : Via} {d : Dev} (hshed : hasCause (d.unit (.mg p)) .shed = false)
    (hstill : (d.unit (.mg p)).resetting = false) :
    mgResetRun p o d d =
      (if viaPort o = some p then d.updMg p fun k => { k with deferred := some .resetPort } else resetStart d (.mg p), .ok) := by
  have hrun : reqReset (.mg p) d = (resetStart d (.mg p), .ok) :=
    reqReset_ready nofun nofun rfl (by simp [withContents, contents, hshed, hstill])
  unfold mgResetRun
  split <;> simp [hrun]

theorem wakeArrives_bw (d : Dev) (w : WakeSrc) : (wakeArrives d w).bw = d.bw := by
  unfold wakeArrives
  cases d.pmu.trans with
  | some t => exact (apply_ite Dev.bw _ _ _).trans (ite_self _)
  | none => exact (apply_ite Dev.bw _ _ _).trans (ite_self _)

theorem arrived_bw (o : Via) (d : Dev) : (arrived o d).bw = d.bw := by
  have hline (p : MgPort) (gen : Bool) : (lineArrives d p gen).bw = d.bw := by
    simp only [lineArrives, updMg_bw, apply_ite Dev.bw, wakeArrives_bw, ite_self]
  cases o with
  | typed p => exact hline p false
  | gen p n => exact hline p true
  | script => rfl

/-- The start-up script runs at machine and no lock or scope stops it. -/
theorem gate_script (d : Dev) (role : Role) : gate d .script role [] = none := by
  cases role <;> rfl

/-- Settles O47: the arbiter's gate lets a request through where the unit takes requests and the generation is its own, each request then
has its one effect, and a stale or foreign one has none on the unit. -/
theorem unitRequests : Obligations.UnitRequests := by
  unfold Obligations.UnitRequests
  intro open' clean other adoptOk adopted turns
  have htakes {d : Dev} {u : UnitId} {g : Option Nat} (h : clean d u g = true) : TakesRequests d u ∧ NamesOwn d u g := by
    obtain ⟨hopen, hgen⟩ := Bool.and_eq_true_iff.mp h
    refine ⟨takesRequests_iff.mp hopen, fun n hn => ?_⟩
    subst hn
    exact eq_of_beq hgen
  have turn (op : UOp) {i : Via → UnitId → Option Nat → Instr} {j : Agent → UnitId → Option (BitVec 16) → Instr} {role : Role}
      {pre : UnitId → Dev → Bool} {f : UnitId → Dev → Dev}
      (hi : ∀ o u g s, (op = .reset → u ≠ .fold 0 ∧ ∀ p, u ≠ .mg p) → exec (i o u g) s = lift (row o (unitVerb o role u op g)) s)
      (hj : ∀ a u g s, exec (j a u g) s = lift (stateReqRow a u op g) s)
      (hrun : ∀ u d, pre u d = true → uopRun op u d = (f u d, .ok)) : turns i j role (uopName op) pre f := by
    refine ⟨?verb, ?verbStale, ?write, ?writeStale, ?scope⟩
    case verb =>
      intro u g hu
      have hreset : op = .reset → u ≠ .fold 0 ∧ ∀ p, u ≠ .mg p := by
        rintro rfl
        obtain ⟨hfold, hmga, hmgb⟩ := hu.resolve_left (not_not_intro rfl)
        exact ⟨hfold, fun p => by cases p <;> assumption⟩
      refine does_request (fun o s => hi o u g s hreset) (fun o d hpre => ?_) fun o d hpre => ?_
      · exact htakes (Bool.and_eq_true_iff.mp hpre).1
      · exact hrun u d (Bool.and_eq_true_iff.mp hpre).2
    case verbStale =>
      intro u g o s hu ha hopen hg hmg
      have hreset : op = .reset → u ≠ .fold 0 ∧ ∀ p, u ≠ .mg p := by
        rintro rfl
        exact ⟨hu.resolve_left (not_not_intro rfl), fun p hp => hmg p hp rfl⟩
      rw [hi o u (some g) s hreset, lift_eq, unitVerb_stale ha (takesRequests_iff.mp hopen) hg]
    case write =>
      intro u g a s q hpriv hmay hclean hpre
      obtain ⟨htake, hgen⟩ := htakes hclean
      rw [hj, lift_eq, stateReqRow_own hpriv hmay htake hgen (hrun u s.dev hpre)]
    case writeStale =>
      intro u g a s q hk hopen hg
      rw [hj, lift_eq, stateReqRow_stale hk (takesRequests_iff.mp hopen) hg]
    case scope =>
      intro u g a s q hf hown
      rw [hj, lift_eq, stateReqRow_scope hf hown]
  have hadopt (mgmt : Bool) (u : UnitId) (d : Dev) (h : adoptOk mgmt u d = true) : adoptWith u mgmt d = (adopted mgmt u d, .ok) := by
    simp only [adoptOk, Bool.and_eq_true, Bool.or_eq_true, Bool.not_eq_true'] at h
    obtain ⟨⟨hdis, hshed⟩, hmgmt⟩ := h
    have hknown : (mgmt && (d.unit u).disMgmt.isNone) = false := by
      rcases hmgmt with h | h
      · simp [h]
      · simp [Option.isNone_eq_false_iff.mpr h]
    have hbits : ~~~causeBit .disagree = 0x3B := rfl
    simp only [adoptWith, adopted, hshed, hdis, hknown, hbits, Bool.not_true, Bool.false_eq_true, if_false, Bool.or_eq_true, beq_iff_eq,
      bne_iff_ne]
    by_cases hleft : (d.unit u).fcause &&& 0x3B = 0
    · simp only [hleft, if_true, ne_eq, not_true, if_false] <;> rfl
    · simp only [hleft, if_false, ne_eq, not_false_iff, if_true]
  refine ⟨turn .on (fun _ _ _ _ _ => rfl) (fun _ _ _ _ => rfl) ?on, turn .off (fun _ _ _ _ _ => rfl) (fun _ _ _ _ => rfl) ?off,
    turn .fence (fun _ _ _ _ _ => rfl) (fun _ _ _ _ => rfl) ?fence, turn .unfence (fun _ _ _ _ _ => rfl) (fun _ _ _ _ => rfl) ?unfence,
    turn .reset ?resetVerb (fun _ _ _ _ => rfl) ?reset,
    turn .adoptMgmt (fun _ _ _ _ _ => rfl) (fun _ _ _ _ => rfl) (hadopt true),
    turn .adoptData (fun _ _ _ _ _ => rfl) (fun _ _ _ _ => rfl) (hadopt false), ?fold0, ?mg, ?device, ?script⟩
  case on =>
    intro u d hpre
    obtain ⟨hst, hguard⟩ := Bool.and_eq_true_iff.mp hpre
    exact reqOn_off (eq_of_beq hst) hguard
  case off =>
    intro u d hpre
    exact reqOff_idle_or_fault ((Bool.or_eq_true_iff.mp hpre).imp eq_of_beq eq_of_beq)
  case fence => exact fun u d hpre => reqFence_unshed ((Bool.not_eq_true' _).mp hpre)
  case unfence => exact fun u d hpre => reqUnfence_cmd hpre
  case resetVerb =>
    intro o u g s hu
    obtain ⟨hfold, hmg⟩ := hu rfl
    refine congrArg (fun f => lift (row o f) s) (funext fun d => ?_)
    rw [vResetUnit_other g d fun p _ => hmg p, beq_false_of_ne hfold]
    rfl
  case reset =>
    intro u d hpre
    simp only [Bool.and_eq_true, Bool.not_eq_true'] at hpre
    obtain ⟨⟨hother, himage⟩, hready⟩ := hpre
    refine reqReset_ready ?_ ?_ himage hready
    · rintro rfl; cases hother
    · rintro rfl; cases hother
  case fold0 =>
    intro g
    refine does_request (g := g) (run := fun _ _ => reqReset (.fold 0)) (fun o s => ?_) (fun o d hpre => ?_) fun o d hpre => ?_
    · exact congrArg (fun f => lift (row o f) s) (funext fun d => vResetUnit_other g d nofun)
    · exact htakes (Bool.and_eq_true_iff.mp (Bool.and_eq_true_iff.mp hpre).1).1
    · simp only [Bool.and_eq_true, Bool.not_eq_true'] at hpre
      obtain ⟨⟨hclean, himage⟩, hready⟩ := hpre
      exact reqReset_ready nofun nofun himage hready
  case mg =>
    intro p g
    refine does_request (g := g) (run := mgResetRun p) (fun o s => ?_) (fun o d hpre => ?_) fun o d hpre => ?_
    · exact congrArg (fun f => lift (row o f) s) (funext (vResetUnit_mg o p g))
    · exact htakes (Bool.and_eq_true_iff.mp hpre).1
    · obtain ⟨hclean, hshed⟩ := Bool.and_eq_true_iff.mp hpre
      exact mgResetRun_ready ((Bool.not_eq_true' _).mp hshed) (htakes hclean).1.still
  case device =>
    intro o p s hport ha
    rw [← arrived_bw o s.dev] at ha
    have hrow := row_heard (f := vResetDevice o) (allowed_heard ha)
    refine (congrArg (fun d => Host.Outcome.next { s with dev := d }) hrow).trans ?_
    simp only [vResetDevice, verb, allowed_gate ha, hport]
    rfl
  case script =>
    intro s hscript
    refine (congrArg (fun d => Host.Outcome.next { s with dev := d }) (row_heard (o := .script) hscript)).trans ?_
    simp only [vResetDevice, verb, gate_script]
    rfl

end Sys2Proof.Proofs

/-! SUPPORT. A reset of a pen whose load fails: the fence that falls due during the load (spec/04 R82, R83, spec/08 R183). -/
namespace Sys2Proof.Proofs

open Sys2Proof Sys2Proof.Machine

/-- A reset of pen 0 has begun, and the first cell of the base image that its control store is to be loaded from is uncorrectable. -/
def loadFails : State :=
  let d := { Dev.reset with golden := { Golden.reset with baseHeld := [true, true] }, myc := { Myc.reset with ecc := [(0x10780000, 2)] } }
  { State.reset with dev := resetStart d (.pen 0) }

/-- The fence causes of pen 0 in the state a command leaves. -/
def causesLeft (r : Host.Outcome State Fault Refusal) : BitVec 6 :=
  match r with
  | .next t => (t.dev.unit (.pen 0)).fcause
  | .fault _ | .refused _ => 0

/-- The model fences the pen as R183 has it: the load is abandoned, its MCHECK is held, and applies once the reset has completed. -/
theorem causesLeft_loadFails : causesLeft (exec (.unitResetComplete (.pen 0)) loadFails) = causeBit .mcheck := by decide +kernel

/-- Refutes O48: its clause on the end of a reset takes the held fences from before the control stores are loaded. A load that meets an
uncorrectable golden beat fences its pen while the reset still runs, so that this MCHECK is held too (R82, R83, R183); the clause leaves
the pen with no cause, where the model applies the fence. -/
theorem not_sweepAndResetEnds : ¬ Obligations.SweepAndResetEnds := by
  unfold Obligations.SweepAndResetEnds
  intro h
  obtain ⟨-, -, -, -, -, -, -, hcompletes, -⟩ := h
  have hclaim := congrArg causesLeft (hcompletes (.pen 0) loadFails (by decide +kernel))
  rw [causesLeft_loadFails] at hclaim
  exact absurd hclaim (by decide +kernel)

end Sys2Proof.Proofs

/-! SUPPORT. An instruction of a core as its row states it: what its body leaves, on the stack alone or on the device, and what its body
raises (spec/05 R117, spec/06 R121, R124). -/
namespace Sys2Proof.Proofs

open Sys2Proof Sys2Proof.Machine Sys2Proof.Safety Sys2Proof.Laws

theorem stackOp_ready {c n m : Nat} {f : Core → List Word → Core × List Word} {d : Dev} (h : stackReady d c n m = true) :
    stackOp n m f c d = .ok () (d.setCore c ((d.core c).apply (d.tether c) n f)) := by
  simp only [stackOp, bind, EStateM.bind, prepare_ready h, get, getThe, MonadStateOf.get, EStateM.get, set, MonadStateOf.set, EStateM.set]

theorem words_eq_coded (i : Insn) (q : Cond) : i.words q = coded q i.syl := rfl

section Rows

variable {i : Fin 32 → Cond → Instr}

theorem stackDoes_of_stackOp {b : Insn} {n m : Nat} {f g : Core → List Word → Core × List Word}
    (hexec : ∀ c q s, exec (i c q) s = lift (runInstr c.val q b) s) (hrun : b.run = stackOp n m f) (hld : b.ld = false)
    (hfg : f = g) : StackDoes i b.syl b.cyc n m g := by
  intro c q s hexe hready
  rw [hexec, lift_eq, run_stack hrun hld hexe hready, hfg]

/-- The same for a row of one syllable and one cycle, which most of them are. -/
theorem stackDoes_op {opc n m : Nat} {f g : Core → List Word → Core × List Word}
    (hexec : ∀ c q s, exec (i c q) s = lift (runInstr c.val q (Insn.op opc (stackOp n m f))) s) (hfg : f = g) :
    StackDoes i [BitVec.ofNat 16 opc] 1 n m g :=
  stackDoes_of_stackOp (b := Insn.op opc (stackOp n m f)) hexec rfl rfl hfg

theorem coreDoes_of_run {b : Insn} {pre : Fin 32 → Dev → Bool} {f : Fin 32 → Dev → Dev}
    (hexec : ∀ c q s, exec (i c q) s = lift (runInstr c.val q b) s)
    (hrun : ∀ c d, pre c d = true → b.run c.val (begun b.syl.length c d) = .ok () (f c (begun b.syl.length c d))) :
    CoreDoes i b.syl b.cyc b.ld pre f := by
  intro c q s hexe hpre
  rw [hexec, lift_eq, run_body hexe (hrun c s.dev hpre)]

theorem coreTraps_of_run {b : Cond → Insn} {syl : List Half} {pre : Fin 32 → Dev → Bool} {x : Fin 32 → Dev → Exc}
    (hexec : ∀ c q s, exec (i c q) s = lift (runInstr c.val q (b q)) s) (hsyl : ∀ q, (b q).syl = syl)
    (hrun : ∀ c q d, pre c d = true → (b q).run c.val (begun syl.length c d) = .error (.exc (x c d)) (begun syl.length c d))
    (hx : ∀ c d, (x c d).cause ≠ 0x10) : CoreTraps i syl pre x := by
  intro c q s hexe hpre
  obtain rfl := hsyl q
  rw [hexec, lift_eq, run_trap hexe (hrun c q s.dev hpre) (hx c s.dev), words_eq_coded]

end Rows

end Sys2Proof.Proofs

/-! SUPPORT. The results of the ALU rows against the numbers their cells stand for (spec/06 R125, R126). -/
namespace Sys2Proof.Proofs

open Sys2Proof Sys2Proof.Machine Sys2Proof.Safety Sys2Proof.Laws

theorem ite_slt_eq (a b x y : Word) : (if a.slt b then x else y) = if a.toInt < b.toInt then x else y := by
  simp [BitVec.slt]

theorem ite_ult_eq (a b x y : Word) : (if a.ult b then x else y) = if a.toNat < b.toNat then x else y := by
  simp [BitVec.ult]

theorem and_lowBits_eq {n : Nat} (a : Word) (hn : n < 32) : a &&& BitVec.ofNat 32 (2 ^ n - 1) = BitVec.ofNat 32 (a.toNat % 2 ^ n) := by
  have hlt : 2 ^ n < 2 ^ 32 := Nat.pow_lt_pow_right (by decide) hn
  apply BitVec.eq_of_toNat_eq
  rw [BitVec.toNat_and, BitVec.toNat_ofNat, BitVec.toNat_ofNat, Nat.mod_eq_of_lt (a := 2 ^ n - 1) (by omega), Nat.and_two_pow_sub_one_eq_mod,
    Nat.mod_eq_of_lt (Nat.lt_trans (Nat.mod_lt _ (Nat.two_pow_pos n)) hlt)]

/-- Settles O10: each row is its stack operation, with a signed or unsigned comparison and a mask read as numbers. -/
theorem logicAndExtension : Obligations.LogicAndExtension := by
  unfold Obligations.LogicAndExtension
  refine ⟨?and, ?or, ?xor, ?not, ?min, ?max, ?minu, ?maxu, ?sexb, ?sexh, ?zexb, ?zexh, ?clz, ?popc, ?bswap⟩
  case and => exact stackDoes_op (fun _ _ _ => rfl) rfl
  case or => exact stackDoes_op (fun _ _ _ => rfl) rfl
  case xor => exact stackDoes_op (fun _ _ _ => rfl) rfl
  case not => exact stackDoes_op (fun _ _ _ => rfl) rfl
  case min => exact stackDoes_op (fun _ _ _ => rfl) (by simp only [ite_slt_eq])
  case max => exact stackDoes_op (fun _ _ _ => rfl) (by simp only [ite_slt_eq])
  case minu => exact stackDoes_op (fun _ _ _ => rfl) (by simp only [ite_ult_eq])
  case maxu => exact stackDoes_op (fun _ _ _ => rfl) (by simp only [ite_ult_eq])
  case sexb => exact stackDoes_op (fun _ _ _ => rfl) rfl
  case sexh => exact stackDoes_op (fun _ _ _ => rfl) rfl
  case zexb =>
    exact stackDoes_op (fun _ _ _ => rfl)
      (congrArg (fun g => unary (zn1 g)) (funext fun a => and_lowBits_eq (n := 8) a (by decide)))
  case zexh =>
    exact stackDoes_op (fun _ _ _ => rfl)
      (congrArg (fun g => unary (zn1 g)) (funext fun a => and_lowBits_eq (n := 16) a (by decide)))
  case clz => exact stackDoes_op (fun _ _ _ => rfl) rfl
  case popc => exact stackDoes_op (fun _ _ _ => rfl) rfl
  case bswap => exact stackDoes_op (fun _ _ _ => rfl) rfl

/-- A shift or rotate that leaves `g` of the value and the count, with the carry `carry` of them and the result; a count of 0 passes the value
and clears C (spec/06 R126). -/
def shiftBy (g : Word → Nat → Word) (carry : Word → Nat → Word → Bool) (f : Flags) (x n : Word) : Word × Flags :=
  let r := if shCount n = 0 then x else g x (shCount n)
  (r, f.znc r (shCount n != 0 && carry x (shCount n) r))

theorem shCount_lt (n : Word) : shCount n < 32 := Nat.mod_lt _ (by decide)

/-- A shift that leaves `r` is `shiftBy` where `r` is its result. -/
theorem shiftBy_of_result {g : Word → Nat → Word} {x n r : Word} (carry : Word → Nat → Word → Bool) (f : Flags)
    (hzero : shCount n = 0 → r = x) (hcount : shCount n ≠ 0 → r = g x (shCount n)) :
    (r, f.znc r (shCount n != 0 && carry x (shCount n) r)) = shiftBy g carry f x n := by
  have hr : r = if shCount n = 0 then x else g x (shCount n) := by
    split
    · exact hzero ‹_›
    · exact hcount ‹_›
  simp only [shiftBy, ← hr]

theorem shl_eq_shiftBy : shl = shiftBy (fun x n => BitVec.ofNat 32 (x.toNat * 2 ^ n)) fun x n _ => x.getLsbD (32 - n) := by
  funext f x n
  refine shiftBy_of_result (fun x n _ => x.getLsbD (32 - n)) f (fun hzero => ?_) fun _ => ?_
  · simp [hzero]
  · exact BitVec.eq_of_toNat_eq (by simp [Nat.shiftLeft_eq])

theorem shr_eq_shiftBy : shr = shiftBy (fun x n => BitVec.ofNat 32 (x.toNat / 2 ^ n)) fun x n _ => x.getLsbD (n - 1) := by
  funext f x n
  refine shiftBy_of_result (fun x n _ => x.getLsbD (n - 1)) f (fun hzero => ?_) fun _ => ?_
  · rw [hzero, BitVec.ushiftRight_zero]
  · apply BitVec.eq_of_toNat_eq
    rw [BitVec.toNat_ofNat, Nat.mod_eq_of_lt (Nat.lt_of_le_of_lt (Nat.div_le_self _ _) x.isLt), BitVec.toNat_ushiftRight,
      Nat.shiftRight_eq_div_pow]

theorem sar_eq_shiftBy : sar = shiftBy (fun x n => BitVec.ofInt 32 (x.toInt / 2 ^ n)) fun x n _ => x.getLsbD (n - 1) := by
  funext f x n
  refine shiftBy_of_result (fun x n _ => x.getLsbD (n - 1)) f (fun hzero => ?_) fun _ => ?_
  · rw [hzero, BitVec.sshiftRight_zero]
  · rw [BitVec.sshiftRight, Int.shiftRight_eq_div_pow]
    exact congrArg (fun m : Int => BitVec.ofInt 32 (x.toInt / m)) (Int.natCast_pow 2 (shCount n))

theorem rol_eq_shiftBy : rol = shiftBy (fun x n => x <<< n ||| x >>> (32 - n)) fun _ _ r => r.getLsbD 0 := by
  funext f x n
  refine shiftBy_of_result (fun _ _ r => r.getLsbD 0) f (fun hzero => ?_) fun _ => ?_
  · simp [hzero, BitVec.rotateLeft_eq_rotateLeftAux_of_lt, BitVec.rotateLeftAux, BitVec.ushiftRight_eq_zero]
  · rw [BitVec.rotateLeft_eq_rotateLeftAux_of_lt (shCount_lt n), BitVec.rotateLeftAux]

theorem ror_eq_shiftBy : ror = shiftBy (fun x n => x >>> n ||| x <<< (32 - n)) fun _ _ r => r.getLsbD 31 := by
  funext f x n
  refine shiftBy_of_result (fun _ _ r => r.getLsbD 31) f (fun hzero => ?_) fun _ => ?_
  · simp [hzero, BitVec.rotateRight_eq_rotateRightAux_of_lt, BitVec.rotateRightAux]
  · rw [BitVec.rotateRight_eq_rotateRightAux_of_lt (shCount_lt n), BitVec.rotateRightAux]

/-- Settles O11: each row is its stack operation, the shift read as the number or the cell that R126 has it be. -/
theorem shiftsAndRotates : Obligations.ShiftsAndRotates := by
  unfold Obligations.ShiftsAndRotates
  refine ⟨?shl, ?shr, ?sar, ?rol, ?ror⟩
  case shl => exact stackDoes_op (fun _ _ _ => rfl) (congrArg binary shl_eq_shiftBy)
  case shr => exact stackDoes_op (fun _ _ _ => rfl) (congrArg binary shr_eq_shiftBy)
  case sar => exact stackDoes_op (fun _ _ _ => rfl) (congrArg binary sar_eq_shiftBy)
  case rol => exact stackDoes_op (fun _ _ _ => rfl) (congrArg binary rol_eq_shiftBy)
  case ror => exact stackDoes_op (fun _ _ _ => rfl) (congrArg binary ror_eq_shiftBy)

/-- Settles O12: each row is its stack operation with the immediate as it is decoded, and a sign-extended 16-bit immediate is the cell of
its signed value. -/
theorem immediatesAndLiterals : Obligations.ImmediatesAndLiterals := by
  unfold Obligations.ImmediatesAndLiterals
  intro i x
  have hx : immWord i = x := by cases i <;> rfl
  have row {b : Insn} {j : Fin 32 → Cond → Instr} {n : Nat} {f : Word → Core → List Word → Core × List Word}
      (hexec : ∀ c q s, exec (j c q) s = lift (runInstr c.val q b) s) (hrun : b.run = stackOp n 1 (f (immWord i))) (hld : b.ld = false) :
      StackDoes j b.syl b.cyc n 1 (f x) := stackDoes_of_stackOp hexec hrun hld (congrArg f hx)
  refine ⟨?addi, ?subi, ?andi, ?ori, ?xori, ?cmpi, ?lit, ?litS⟩
  case addi => exact row (b := bAddi i) (f := fun x => unary fun _ a => addFlags a x false) (fun _ _ _ => rfl) rfl rfl
  case subi => exact row (b := bSubi i) (f := fun x => unary fun _ a => subFlags a x true) (fun _ _ _ => rfl) rfl rfl
  case andi => exact row (b := bAndi i) (f := fun x => unary (zn1 fun a => a &&& x)) (fun _ _ _ => rfl) rfl rfl
  case ori => exact row (b := bOri i) (f := fun x => unary (zn1 fun a => a ||| x)) (fun _ _ _ => rfl) rfl rfl
  case xori => exact row (b := bXori i) (f := fun x => unary (zn1 fun a => a ^^^ x)) (fun _ _ _ => rfl) rfl rfl
  case cmpi => exact row (b := bCmpi i) (f := cmpiOp) (fun _ _ _ => rfl) rfl rfl
  case lit => exact row (b := bLit i) (f := fun x k _ => (k, [x])) (fun _ _ _ => rfl) rfl rfl
  case litS => exact fun j => stackDoes_of_stackOp (b := bLitS j) (fun _ _ _ => rfl) rfl rfl rfl

end Sys2Proof.Proofs

/-! SUPPORT. One action of an instruction after another: what the state's operations give the rest of a body. -/
namespace Sys2Proof.Proofs

open Sys2Proof Sys2Proof.Machine Sys2Proof.Safety Sys2Proof.Laws

section Actions

variable {α β : Type} {m : IM α} {d e : Dev}

theorem bind_of_ok {a : α} (f : α → IM β) (h : m d = .ok a e) : (m >>= f) d = f a e := by
  simp only [bind, EStateM.bind, h]

theorem bind_of_error {x : Stop} (f : α → IM β) (h : m d = .error x e) : (m >>= f) d = .error x e := by
  simp only [bind, EStateM.bind, h]

theorem get_bind (f : Dev → IM β) (d : Dev) : ((get : IM Dev) >>= f) d = f d d := rfl

theorem getCore_bind (c : Nat) (f : Core → IM β) (d : Dev) : (getCore c >>= f) d = f (d.core c) d := rfl

theorem set_run (d e : Dev) : (set d : IM Unit) e = .ok () d := rfl

theorem need_of_true {ok : Bool} (cause : Byte) (d : Dev) (h : ok = true) : need ok cause d = .ok () d := by
  subst h; rfl

theorem need_of_false {ok : Bool} (cause : Byte) (d : Dev) (h : ok = false) : need ok cause d = .error (.exc (Exc.of cause)) d := by
  subst h; rfl

end Actions

end Sys2Proof.Proofs

/-! SUPPORT. Divides (spec/06 R128): quotient and remainder as integer division has them, and what a divide does with its divisor. -/
namespace Sys2Proof.Proofs

open Sys2Proof Sys2Proof.Machine Sys2Proof.Safety Sys2Proof.Laws

theorem sdiv_eq_tdiv (a b : Word) : a.sdiv b = BitVec.ofInt 32 (a.toInt.tdiv b.toInt) :=
  BitVec.eq_of_toInt_eq (by rw [BitVec.toInt_sdiv, BitVec.toInt_ofInt])

theorem srem_eq_tmod (a b : Word) : a.srem b = BitVec.ofInt 32 (a.toInt.tmod b.toInt) := by
  rw [← BitVec.toInt_srem, BitVec.ofInt_toInt]

theorem udiv_eq_div (a b : Word) : a / b = BitVec.ofNat 32 (a.toNat / b.toNat) := by
  rw [← BitVec.toNat_udiv, BitVec.ofNat_toNat, BitVec.setWidth_eq]

theorem umod_eq_mod (a b : Word) : a % b = BitVec.ofNat 32 (a.toNat % b.toNat) := by
  rw [← BitVec.toNat_umod, BitVec.ofNat_toNat, BitVec.setWidth_eq]

/-- What a divide leaves of the cell `a` over `b`, in the terms of integer division. -/
def quotient (signed rem : Bool) (a b : Word) : Word :=
  if signed then BitVec.ofInt 32 (if rem then a.toInt.tmod b.toInt else a.toInt.tdiv b.toInt)
  else BitVec.ofNat 32 (if rem then a.toNat % b.toNat else a.toNat / b.toNat)

theorem divide_result (signed rem : Bool) (a b : Word) :
    (if rem then (divide signed a b).2.1 else (divide signed a b).1) = quotient signed rem a b :=
  match signed, rem with
  | true, true => srem_eq_tmod a b
  | true, false => sdiv_eq_tdiv a b
  | false, true => umod_eq_mod a b
  | false, false => udiv_eq_div a b

theorem divide_overflow (signed : Bool) (a b : Word) :
    (divide signed a b).2.2 = (signed && a == 0x80000000 && b == 0xFFFFFFFF) := by
  cases signed <;> rfl

/-- The stack effect of a divide. -/
def divideCells (signed rem : Bool) (k : Core) (l : List Word) : Core × List Word :=
  let x := quotient signed rem (lget l 0 1) (lget l 0 0)
  (k.setFlags { z := x == 0, n := x.msb, c := k.c, v := signed && lget l 0 1 == 0x80000000 && lget l 0 0 == 0xFFFFFFFF }, [x])

section Divide

variable {opc c : Nat} {signed rem : Bool} {d : Dev}

theorem divOp_nonzero (hready : stackReady d c 2 1 = true) (hdivisor : (lget (d.core c).view 0 0 == 0) = false) :
    (divOp opc signed rem).run c d =
      .ok () (d.setCore c (((d.core c).count 3 34).apply (d.tether c) 2 (divideCells signed rem))) := by
  refine (bind_of_ok _ (prepare_ready hready)).trans ?_
  rw [getCore_bind, bind_of_ok _ (need_of_true 0x0A d (by simp only [bne, hdivisor, Bool.not_false])), get_bind, set_run]
  simp only [divide_result, divide_overflow]
  rfl

theorem divOp_zero (hready : stackReady d c 2 1 = true) (hdivisor : (lget (d.core c).view 0 0 == 0) = true) :
    (divOp opc signed rem).run c d = .error (.exc (Exc.of 0x0A)) d := by
  refine (bind_of_ok _ (prepare_ready hready)).trans ?_
  rw [getCore_bind]
  exact bind_of_error _ (need_of_false 0x0A d (by simp only [bne, hdivisor, Bool.not_true]))

end Divide

/-- Settles O14: a divide past its checks leaves what integer division gives, and one that finds a divisor of 0 raises before it has changed
anything. -/
theorem divides : Obligations.Divides := by
  unfold Obligations.Divides
  intro div pre
  have hpre {zero : Bool} {c : Fin 32} {d : Dev} (n : Nat) (h : pre zero c d = true) :
      stackReady (begun n c d) c.val 2 1 = true ∧ (lget ((begun n c d).core c.val).view 0 0 == 0) = zero := by
    obtain ⟨hready, hdivisor⟩ := Bool.and_eq_true_iff.mp h
    rw [stackReady_begun, view_begun]
    exact ⟨hready, eq_of_beq hdivisor⟩
  have does {i : Fin 32 → Cond → Instr} {opc : Nat} (signed rem : Bool)
      (hexec : ∀ c q s, exec (i c q) s = lift (runInstr c.val q (divOp opc signed rem)) s) :
      CoreDoes i [BitVec.ofNat 16 opc] 34 false (pre false) (div signed rem) :=
    coreDoes_of_run (b := divOp opc signed rem) hexec fun c d h => divOp_nonzero (hpre _ h).1 (hpre _ h).2
  have traps {i : Fin 32 → Cond → Instr} {opc : Nat} {signed rem : Bool}
      (hexec : ∀ c q s, exec (i c q) s = lift (runInstr c.val q (divOp opc signed rem)) s) :
      CoreTraps i [BitVec.ofNat 16 opc] (pre true) (fun _ _ => Exc.of 0x0A) :=
    coreTraps_of_run hexec (fun _ => rfl) (fun c q d h => divOp_zero (hpre _ h).1 (hpre _ h).2) fun _ _ => by decide
  exact ⟨⟨does true false fun _ _ _ => rfl, does false false fun _ _ _ => rfl, does true true fun _ _ _ => rfl,
    does false true fun _ _ _ => rfl⟩, traps fun _ _ _ => rfl, traps fun _ _ _ => rfl, traps fun _ _ _ => rfl, traps fun _ _ _ => rfl⟩

end Sys2Proof.Proofs

/-! SUPPORT. Parity, bit reverse and CRC (spec/06 R129): a parity of 0 or 1 as a cell, and where each bit of a reversed group stands. -/
namespace Sys2Proof.Proofs

open Sys2Proof Sys2Proof.Machine Sys2Proof.Safety Sys2Proof.Laws

theorem toWord_bit_eq_zero {n : Nat} (h : n < 2) : (toWord n == 0) = (n == 0) := by
  obtain rfl | rfl : n = 0 ∨ n = 1 := by omega
  · rfl
  · rfl

theorem getLsbD_natCast_one_shiftLeft (p : Nat) {j : Nat} (hj : j < 32) : ((1 <<< p : Nat) : Word).getLsbD j = (p == j) := by
  rw [BitVec.natCast_eq_ofNat, BitVec.getLsbD_ofNat, Nat.one_shiftLeft, Nat.testBit_two_pow, decide_eq_true hj, Bool.true_and]
  rfl

/-- The bits that a sweep over some indexes sets, each at its own place. -/
theorem getLsbD_setBits (x : Word) (p : Nat → Nat) (is : List Nat) (v : Word) {j : Nat} (hj : j < 32) :
    (is.foldl (fun (v : Word) i => if bitOf x i then v ||| (1 <<< p i) else v) v).getLsbD j =
      (v.getLsbD j || is.any fun i => bitOf x i && p i == j) := by
  induction is generalizing v with
  | nil => simp
  | cons i is ih =>
    rw [List.foldl_cons, ih, List.any_cons]
    by_cases hi : bitOf x i = true
    · rw [if_pos hi, BitVec.getLsbD_or, getLsbD_natCast_one_shiftLeft (p i) hj, hi, Bool.true_and, Bool.or_assoc]
    · rw [if_neg hi, eq_false_of_ne_true hi, Bool.false_and, Bool.false_or]

/-- The place of bit `i` in a cell whose groups of `n` bits are reversed. -/
def mirror (n i : Nat) : Nat := i / n * n + (n - 1 - i % n)

theorem mirror_lt {n : Nat} (hn : n ∈ [8, 16, 32]) {i : Nat} (hi : i < 32) : mirror n i < 32 := by
  simp only [List.mem_cons, List.not_mem_nil, or_false] at hn
  unfold mirror
  rcases hn with rfl | rfl | rfl <;> omega

theorem mirror_mirror {n : Nat} (hn : n ∈ [8, 16, 32]) (i : Nat) : mirror n (mirror n i) = i := by
  simp only [List.mem_cons, List.not_mem_nil, or_false] at hn
  unfold mirror
  rcases hn with rfl | rfl | rfl <;> omega

theorem getLsbD_bitRev {n : Nat} (hn : n ∈ [8, 16, 32]) (x : Word) {i : Nat} (hi : i < 32) :
    (bitRev n x).getLsbD (mirror n i) = x.getLsbD i := by
  have hplace (j : Nat) : mirror n j = mirror n i ↔ j = i := (Function.LeftInverse.injective (mirror_mirror hn)).eq_iff
  refine (getLsbD_setBits x (mirror n) (List.range 32) 0 (mirror_lt hn hi)).trans ?_
  rw [Bool.eq_iff_iff]
  simp [hplace, hi, bitOf]

/-- Settles O15: a parity is 0 or 1, the mirror place of a bit is met by no other bit, and CRCB is its stack operation once no save of extended
state is due. -/
theorem parityAndCrc : Obligations.ParityAndCrc := by
  unfold Obligations.ParityAndCrc
  intro par crc
  have hpar (n : Nat) : parOp n = par n := by
    funext k l
    have hodd := toWord_bit_eq_zero (Nat.mod_lt ((List.range n).filter (bitOf (lget l 0 0))).length (by decide : 0 < 2))
    simp only [parOp, parity, hodd]
    rfl
  refine ⟨?par8, ?par32, ?brev8, ?brev16, ?brev32, ?places, ?crcb⟩
  case par8 => exact stackDoes_op (fun _ _ _ => rfl) (hpar 8)
  case par32 => exact stackDoes_op (fun _ _ _ => rfl) (hpar 32)
  case brev8 => exact stackDoes_op (fun _ _ _ => rfl) rfl
  case brev16 => exact stackDoes_op (fun _ _ _ => rfl) rfl
  case brev32 => exact stackDoes_op (fun _ _ _ => rfl) rfl
  case places => exact fun n hn x i hi => getLsbD_bitRev hn x hi
  case crcb =>
    refine coreDoes_of_run (b := bCrcb) (fun _ _ _ => rfl) fun c d hpre => ?_
    obtain ⟨hext, hready⟩ := Bool.and_eq_true_iff.mp hpre
    have hsave := extUse_ready ((extReady_begun d c bCrcb.syl.length).trans hext)
    exact (bind_of_ok _ hsave).trans (stackOp_ready ((stackReady_begun ..).trans hready))

end Sys2Proof.Proofs

/-! SUPPORT. Shared memory, packet memory and retention memory as a core's stores and loads reach them, and addresses with nothing behind them
(spec/13 R267, R278, R282). -/
namespace Sys2Proof.Proofs

open Sys2Proof Sys2Proof.Machine Sys2Proof.Laws

/-- The address lies in a memory of its own port, beside the local memories. -/
def InSharedMemory (a : Nat) : Prop := regionOf a = .sram ∨ regionOf a = .packet ∨ regionOf a = .ret

section Shared

variable {d : Dev} {a : Nat}

theorem isRegs_of_shared (h : InSharedMemory a) : isRegs a = false := by
  rcases h with h | h | h <;> simp only [isRegs, h]

/-- No window and no presence stops an access at M. -/
theorem memCheck_of_shared (c f n : Nat) (k : Acc) (h : InSharedMemory a) : memCheck d c .m f a n k = none := by
  rcases h with h | h | h <;> simp [memCheck, ownLocal, h]

theorem memWrite_of_good_size (v : Word) (n : Nat) (who : String) (u : UnitId) (hecc : eccOf d a = 0) :
    memWrite d a v n who u = (plainWrite d a v n, true) := by
  simp [memWrite, hecc]

theorem anyRead_of_shared (q : Req) (n : Nat) (who : String) (u : UnitId) (h : InSharedMemory a) (hecc : eccOf d a = 0) :
    anyRead d q a n who u = (d, .ok (plainRead d a n)) := by
  have hregs := isRegs_of_shared h
  rcases h with h | h | h <;>
    simp only [anyRead, hregs, h, memRead_of_good d n who u hecc, Bool.false_eq_true, if_false]

theorem anyWrite_of_shared (q : Req) (v : Word) (n : Nat) (h : InSharedMemory a) (hecc : eccOf d a = 0) :
    anyWrite d q a v n = (plainWrite d a (v &&& toWord (2 ^ (8 * n) - 1)) n, .done) := by
  have hregs := isRegs_of_shared h
  rcases h with h | h | h <;>
    simp only [anyWrite, hregs, h, memWrite_of_good_size _ n _ _ hecc, Bool.false_eq_true, if_false]

end Shared

theorem ite_eq_nothing_iff {p : Prop} [Decidable p] {x y : Region} (hx : x ≠ .nothing) :
    (if p then x else y) = .nothing ↔ ¬ p ∧ y = .nothing := by
  by_cases hp : p <;> simp [hp, hx]

theorem regionOf_eq_nothing_iff {a : Nat} :
    regionOf a = .nothing ↔
      (a < 0x01000000 ∨ 0x01200000 ≤ a) ∧ (a < 0x10000000 ∨ 0x10800000 ≤ a) ∧ (a < 0x18000000 ∨ 0x18040000 ≤ a) ∧
      (a < 0x19000000 ∨ 0x19004000 ≤ a) ∧ (a < 0x20000000 ∨ 0x30000000 ≤ a) ∧ (a < 0x40000000 ∨ 0x40400000 ≤ a) ∧
      (a < 0x50000000 ∨ 0x50800000 ≤ a) ∧ (a < 0xF0000000 ∨ 0x100000000 ≤ a) := by
  unfold regionOf
  iterate 8 rw [ite_eq_nothing_iff (by nofun)]
  rw [ite_eq_nothing_iff (by split <;> nofun), ite_eq_nothing_iff (by nofun)]
  simp only [Bool.and_eq_true, decide_eq_true_eq, and_true]
  omega

/-- No cell lies partly where something is. -/
theorem regionOf_cell_of_nothing {a : Nat} (h : regionOf a = .nothing) : regionOf (a / 4 * 4) = .nothing := by
  rw [regionOf_eq_nothing_iff] at h ⊢
  omega

theorem anyWrite_of_nothing {d : Dev} {a : Nat} (q : Req) (v : Word) (n : Nat) (h : regionOf a = .nothing) :
    anyWrite d q a v n = (d, .exc 0x09) := by
  have hregs : isRegs a = true := by simp only [isRegs, h]
  simp only [anyWrite, hregs, regsWrite, regionOf_cell_of_nothing h, if_true]

theorem setPlainByte_pmu (d : Dev) (a : Nat) (b : Byte) : (setPlainByte d a b).pmu = d.pmu := by
  unfold setPlainByte
  split <;> rfl

theorem plainWrite_pmu (d : Dev) (a : Nat) (v : Word) (n : Nat) : (plainWrite d a v n).pmu = d.pmu := by
  induction n generalizing d a v with
  | zero => rfl
  | succ n ih => rw [plainWrite, ih, setPlainByte_pmu]

theorem byte_setPlainByte_other (d : Dev) {a x : Nat} (b : Byte) (hx : x ≠ a) : (setPlainByte d a b).byte x = d.byte x := by
  unfold setPlainByte
  split
  · rfl
  · rfl
  · rw [byte_setByte, if_neg hx]

theorem byte_plainWrite_other {n : Nat} (d : Dev) {a x : Nat} (v : Word) (hx : x < a ∨ a + n ≤ x) :
    (plainWrite d a v n).byte x = d.byte x := by
  induction n generalizing d a v with
  | zero => rfl
  | succ n ih => rw [plainWrite, ih _ _ (by omega), byte_setPlainByte_other d _ (by omega)]

end Sys2Proof.Proofs

/-! SUPPORT. The store buffer's way out and a load's data coming back (spec/13 R280 to R282, spec/06 R131). -/
namespace Sys2Proof.Proofs

open Sys2Proof Sys2Proof.Machine Sys2Proof.Laws

/-- A command whose meaning acts on the device alone. -/
theorem next_of_lift {i : Instr} {s : State} {d : Dev} (f : Dev → Dev) (hexec : exec i s = lift f s) (h : f s.dev = d) :
    exec i s = .next { s with dev := d } := by
  rw [hexec, lift_eq, h]

section Granted

variable {d : Dev} {ports : List Nat} {k : MClass} {f : Option Nat}

theorem whenGranted_of_grant (go : Dev) (h : portsGrant d ports k f = true) : whenGranted d ports k f go = go := if_pos h

theorem whenGranted_of_busy (go : Dev) (h : portsGrant d ports k f = false) : whenGranted d ports k f go = portWait d ports k f :=
  if_neg (ne_true_of_eq_false h)

end Granted

/-- Nothing waits for a buffer to empty. -/
theorem stepProgress_idle {d : Dev} (hstep : d.pmu.step = none) (hdue : d.pmu.due = []) : stepProgress d = d := by
  simp only [stepProgress, runDue, hstep, hdue]
  split <;> rfl

section Buffer

variable {l r : List SbEntry} {e : SbEntry}

theorem sbIssue_oldest (hl : ∀ x ∈ l, x.issued = true) (he : e.issued = false) :
    sbIssue (l ++ e :: r) = some (e, l ++ { e with issued := true } :: r) := by
  induction l with
  | nil => simp [sbIssue, he]
  | cons x l ih =>
    obtain ⟨hx, hl⟩ := List.forall_mem_cons.mp hl
    simp [sbIssue, hx, ih hl]

/-- The oldest entry that waits asks its target's port. -/
theorem mStoreIssue_oldest {d : Dev} {c : Fin 32} (hclock : d.clocked = true) (hsb : (d.core c.val).sb = l ++ e :: r)
    (hl : ∀ x ∈ l, x.issued = true) (he : e.issued = false) :
    mStoreIssue c d = whenGranted d [targetPort e.addr] e.cls (some (d.foldOfCore c.val))
      (charge (d.updCore c.val fun k => { k.count 2 1 with sb := l ++ { e with issued := true } :: r }) (some (d.foldOfCore c.val)) 1
        e.cls e.addr) := by
  simp only [mStoreIssue, hclock, hsb, sbIssue_oldest hl he, Bool.not_true, Bool.false_eq_true, if_false]

theorem acceptable_issued (hl : ∀ x ∈ l, targetPort x.addr ≠ targetPort e.addr) (he : e.issued = true) :
    acceptable (l ++ e :: r) l.length = some (e, l ++ r) := by
  simpa [acceptable, he] using hl

/-- An issued entry with no older one for its port leaves the buffer with its bytes written; no drain waits for it. -/
theorem storeAccept_good {d : Dev} {c : Nat} (hsb : (d.core c).sb = l ++ e :: r)
    (hl : ∀ x ∈ l, targetPort x.addr ≠ targetPort e.addr) (he : e.issued = true) (hstep : d.pmu.step = none) (hdue : d.pmu.due = [])
    (h : InSharedMemory e.addr) (hecc : eccOf d e.addr = 0) :
    storeAccept d c l.length =
      plainWrite (d.updCore c fun k => { k with sb := l ++ r }) e.addr (e.val &&& toWord (2 ^ (8 * e.size) - 1)) e.size := by
  have hwrite (q : Req) := anyWrite_of_shared (d := d.updCore c fun k => { k with sb := l ++ r }) q e.val e.size h hecc
  simp only [storeAccept, hsb, acceptable_issued hl he, isRegs_of_shared h, memCheck_of_shared _ _ _ _ h, hwrite, Option.isSome_none,
    Bool.and_false, Bool.false_eq_true, if_false]
  exact stepProgress_idle (by rw [plainWrite_pmu]; exact hstep) (by rw [plainWrite_pmu]; exact hdue)

/-- One with nothing behind its address leaves the buffer with its posted error held. -/
theorem storeAccept_nothing {d : Dev} {c : Nat} (hsb : (d.core c).sb = l ++ e :: r)
    (hl : ∀ x ∈ l, targetPort x.addr ≠ targetPort e.addr) (he : e.issued = true) (hstep : d.pmu.step = none) (hdue : d.pmu.due = [])
    (h : regionOf e.addr = .nothing) (hst : (d.unit (coreU c)).st ≠ .fenced) :
    storeAccept d c l.length =
      postError (d.updCore c fun k => { k with sb := l ++ r }) c
        { pc := e.pc, addr := toWord e.addr, lvl := e.lvl, slot := e.slot, ecc := false } := by
  have hrefused : (((d.updCore c fun k => { k with sb := l ++ r }).unit (coreU c)).st == .fenced) = false := beq_false_of_ne hst
  have hregs : isRegs e.addr = true := by simp only [isRegs, h]
  simp only [storeAccept, hsb, acceptable_issued hl he, hregs, anyWrite_of_nothing _ _ _ h, sbRefused, hrefused, h, eccRegion, Bool.not_true,
    Bool.false_and, Bool.and_false, Bool.false_eq_true, if_false]
  exact stepProgress_idle hstep hdue

end Buffer

theorem loadReturn_shared {d : Dev} {c l : Nat} {p : PendLoad} (h : InSharedMemory p.addr) (hecc : eccOf d p.addr = 0) :
    loadReturn d c l p = d.setCore c (loadDone d c l p (overlaySb (d.core c).sb p.addr p.size (plainRead d p.addr p.size))) := by
  simp only [loadReturn, anyRead_of_shared _ _ _ _ h hecc]

/-- Settles O33: the oldest entry asks its port, an issued one with no older entry for its port leaves the buffer, its bytes written or the
posted error held, and the data of a granted load goes into the bank of its level. -/
theorem storeBuffer : Obligations.StoreBuffer := by
  unfold Obligations.StoreBuffer
  intro plain
  have hplain {d : Dev} {a : Nat} (h : plain d a = true) : InSharedMemory a ∧ eccOf d a = 0 := by
    simp only [plain, Bool.and_eq_true, Bool.or_eq_true, beq_iff_eq, or_assoc] at h
    exact h
  refine ⟨?issue, ?accept, ?load⟩
  case issue =>
    intro c s l r e hclock hsb hl he f
    have hissue := mStoreIssue_oldest hclock hsb hl he
    exact ⟨fun hbusy => next_of_lift (mStoreIssue c) rfl (hissue.trans (whenGranted_of_busy _ hbusy)),
      fun hgrant => next_of_lift (mStoreIssue c) rfl (hissue.trans (whenGranted_of_grant _ hgrant))⟩
  case accept =>
    intro c s l r e hclock hsb hlen hl he hstep hdue
    have hn : (Fin.ofNat 8 l.length).val = l.length := Nat.mod_eq_of_lt hlen
    have haccept : mStoreAccept ⟨c, Fin.ofNat 8 l.length⟩ s.dev = storeAccept s.dev c.val l.length := by
      simp only [mStoreAccept, hclock, hn, if_true]
    refine ⟨fun hmem => ?_, fun hmem hst => ?_⟩
    · obtain ⟨hshared, hecc⟩ := hplain hmem
      exact ⟨next_of_lift (mStoreAccept _) rfl (haccept.trans (storeAccept_good hsb hl he hstep hdue hshared hecc)),
        fun x _ hx => byte_plainWrite_other _ _ hx⟩
    · exact next_of_lift (mStoreAccept _) rfl (haccept.trans (storeAccept_nothing hsb hl he hstep hdue hmem hst))
  case load =>
    intro c l s p hmoves herr hload hmem hgrant
    obtain ⟨hshared, hecc⟩ := hplain hmem
    have hreturn : mLoadDataReturn c l s.dev = loadReturn s.dev c.val l.val p := by
      simp only [mLoadDataReturn, hload, hmoves, herr, whenGranted_of_grant _ hgrant, Option.isNone_none, Bool.and_self, if_true]
    exact next_of_lift (mLoadDataReturn c l) rfl (hreturn.trans (loadReturn_shared hshared hecc))

end Sys2Proof.Proofs

/-! SUPPORT. The issue of a tile instruction (spec/06 R139, spec/15 R318, R320): what it finds as it begins, its checks in their order, and the
core that waits for its engine. -/
namespace Sys2Proof.Proofs

open Sys2Proof Sys2Proof.Machine Sys2Proof.Safety Sys2Proof.Laws

/-! The fetch leaves the variant, the units and the core's privilege as they are. -/

theorem charge_units (d : Dev) (f : Option Nat) (n : Nat) (k : MClass) (a : Nat) :
    (charge d f n k a).units = d.units ∧ (charge d f n k a).variant = d.variant := by
  cases f <;> exact ⟨rfl, rfl⟩

theorem fetched_units (d : Dev) (c n : Nat) : (fetched d c n).units = d.units ∧ (fetched d c n).variant = d.variant := by
  unfold fetched
  dsimp only
  split
  · exact ⟨rfl, rfl⟩
  · exact charge_units ..

theorem begun_variant (n : Nat) (c : Fin 32) (d : Dev) : (begun n c d).variant = d.variant := (fetched_units d c n).2

theorem begun_unit (n : Nat) (c : Fin 32) (d : Dev) (u : UnitId) : (begun n c d).unit u = d.unit u := by
  obtain ⟨hunits, hvariant⟩ := fetched_units d c n
  change tget (fetched d c n).units (UnitRec.start (startState (fetched d c n).variant u)) (unitCode u) = _
  rw [hunits, hvariant]
  rfl

theorem begun_priv (n : Nat) (c : Fin 32) (d : Dev) : ((begun n c d).core c.val).priv = (d.core c.val).priv := by
  obtain ⟨l, hl⟩ := fetched_core d c n
  rw [begun, core_updCore_same, hl]
  rfl

theorem begun_pc (n : Nat) (c : Fin 32) (d : Dev) : ((begun n c d).core c.val).pc = (d.core c.val).pc + toWord (2 * n) := by
  obtain ⟨l, hl⟩ := fetched_core d c n
  rw [begun, core_updCore_same, hl]
  rfl

/-- The address a tile instruction takes from the stack, 0 where it takes none. -/
def tileAddr (d : Dev) (c op : Nat) : Word := if tileMem op then lget (d.core c).view 0 0 else 0

theorem tileAddr_begun (n : Nat) (c : Fin 32) (d : Dev) (op : Nat) : tileAddr (begun n c d) c.val op = tileAddr d c.val op := by
  rw [tileAddr, tileAddr, view_begun]

/-- Core `c` waits for its engine with `w` at its PC, counted where the engine is busy, and the engine takes the next core it can serve. -/
def tileQueue (c : Nat) (w : TileWait) (d : Dev) : Dev :=
  let p := penOf c
  let b := d.updCore c fun k => { k with pc := w.pc, tileWait := some w }
  tileTake (if (b.pen p).te.op.isSome then updTile b p fun te =>
    let n := lget te.perCore (0, 0, 0) (c % 4)
    { te with perCore := lset te.perCore (c % 4) (n.1 + 1, n.2) } else b) p

/-- What a core at the end of its fetch waits with. -/
def tileWaiting (words : List Half) (op : Nat) (e addr : Word) (k : Core) : TileWait :=
  { op := op, ext := e, addr := addr, priv := k.priv, pc := herePc k 3, next := k.pc, syl := words }

theorem tileWaitSet_run (words : List Half) (op : Nat) (e addr : Word) (c : Nat) (d : Dev) :
    tileWaitSet c words op e addr d = .ok () (tileQueue c (tileWaiting words op e addr (d.core c)) d) := rfl

section Checks

variable {words : List Half} {op c : Nat} {e : Word} {d : Dev}

theorem tileRun_badShape (hpresent : unitPresent d.variant (tileU (penOf c)) = true)
    (hready : stackReady d c (if tileMem op then 1 else 0) 0 = true) (hshape : shapeBad op e = true) :
    tileRun words op e c d = .error (.exc { Exc.of 0x0B with detail := e }) d := by
  unfold tileRun
  rw [get_bind, bind_of_ok _ (need_of_true 0x0D d hpresent), bind_of_ok _ (prepare_ready hready)]
  simp only [hshape, if_true]
  exact bind_of_error _ rfl

theorem tileRun_issues (hpresent : unitPresent d.variant (tileU (penOf c)) = true)
    (hready : stackReady d c (if tileMem op then 1 else 0) 0 = true) (hshape : shapeBad op e = false)
    (halign : (tileAddr d c op).toNat % 4 = 0) (hoperand : operandBad d c (d.core c).priv op e (tileAddr d c op).toNat = none)
    (hon : (d.unit (tileU (penOf c))).st ≠ .off) (hopen : (d.unit (tileU (penOf c))).st ≠ .fenced) :
    tileRun words op e c d = .ok () (tileQueue c (tileWaiting words op e (tileAddr d c op) (d.core c)) d) := by
  unfold tileRun
  rw [get_bind, bind_of_ok _ (need_of_true 0x0D d hpresent), bind_of_ok _ (prepare_ready hready)]
  simp only [hshape, Bool.false_eq_true, if_false]
  rw [get_bind]
  unfold tileAddr at halign hoperand ⊢
  simp only [halign, hoperand, beq_false_of_ne hon, beq_false_of_ne hopen, bne_self_eq_false, Bool.or_self, Bool.false_eq_true, if_false,
    tileWaitSet_run]

end Checks

theorem tileAsked_eq (op : Nat) (e : Word) (c : Fin 32) (q : Cond) (d : Dev) :
    tileAsked op e c q d =
      ended 0 false c (tileQueue c.val (tileWaiting (coded q (extSyl 5 op e)) op e (tileAddr d c.val op) ((begun 3 c d).core c.val))
        (begun 3 c d)) := by
  have hnext : (d.core c.val).pc + toWord 6 = (d.core c.val).pc + 6 := rfl
  have hpc : (d.core c.val).pc + 6 - toWord 6 = (d.core c.val).pc := BitVec.add_sub_cancel ..
  simp only [tileWaiting, herePc, begun_priv, begun_pc, Nat.reduceMul, hnext, hpc]
  rfl

/-- A tile instruction of `n` cells issues past its checks, and a refused shape raises before them. -/
theorem tileRuns_of_tileOp {i : Word → Fin 32 → Cond → Instr} {op n : Nat} (hn : (if tileMem op then 1 else 0) = n)
    (hexec : ∀ e c q s, exec (i e c q) s = lift (runInstr c.val q (tileOp q op e)) s) : TileRuns i op n := by
  subst hn
  refine ⟨fun e c q s hexe hready hissues => ?_, fun e => ?_⟩
  · simp only [tileIssues, Bool.and_eq_true, Bool.not_eq_true', beq_iff_eq, bne_iff_ne, Option.isNone_iff_eq_none] at hissues
    obtain ⟨⟨⟨⟨⟨hpresent, hshape⟩, halign⟩, hoperand⟩, hon⟩, hopen⟩ := hissues
    have hrun := tileRun_issues (words := (tileOp q op e).words q) (op := op) (e := e) (d := begun 3 c s.dev) (by rwa [begun_variant])
      ((stackReady_begun ..).trans hready) hshape (by rwa [tileAddr_begun]) (by rwa [tileAddr_begun, begun_priv]) (by rwa [begun_unit])
      (by rwa [begun_unit])
    rw [hexec, lift_eq, tileAsked_eq, run_body (i := tileOp q op e) hexe hrun, tileAddr_begun]
    rfl
  · refine coreTraps_of_run (hexec e) (fun _ => rfl) (fun c q d hpre => ?_) fun _ _ => (by decide : (0x0B : Byte) ≠ 0x10)
    simp only [Bool.and_eq_true] at hpre
    obtain ⟨⟨hready, hpresent⟩, hshape⟩ := hpre
    exact tileRun_badShape (by rwa [begun_variant]) ((stackReady_begun ..).trans hready) hshape

/-- Settles O37: all twelve run one body, which takes a cell where the operation has an operand in memory. -/
theorem tileInstructions : Obligations.TileInstructions := by
  unfold Obligations.TileInstructions
  refine ⟨?tzero, ?tld, ?tst, ?tadd, ?tsub, ?tmul, ?tmin, ?tmax, ?tmac, ?tsumr, ?tcvt, ?tlerp⟩
  all_goals exact tileRuns_of_tileOp rfl fun _ _ _ _ => rfl

end Sys2Proof.Proofs

/-! SUPPORT. Cells that the hardware of a core moves between its registers and its own local memory, one after another in transfers of
16 bytes (spec/05 R92, spec/07 R147, spec/10 R214). -/
namespace Sys2Proof.Proofs

open Sys2Proof Sys2Proof.Machine Sys2Proof.Safety Sys2Proof.Laws

/-- The cell at a core's own address lies in its own local memory and has good check bits. -/
structure GoodCell (d : Dev) (c a : Nat) : Prop where
  own : ownLocal c (absAddr c a) = true
  ecc : eccOf d (absAddr c a) = 0

theorem goodCell_of_hwCells {d : Dev} {c a n : Nat} {p : Priv} {k : Acc} (h : hwCells d c p a n k = true) {i : Nat} (hi : i < n) :
    GoodCell d c (a + 4 * i) := by
  have hcell := List.all_eq_true.mp h i (List.mem_range.mpr hi)
  simp only [hwOk, Bool.and_eq_true, beq_iff_eq] at hcell
  obtain ⟨⟨hown, -⟩, hecc⟩ := hcell
  exact ⟨hown, hecc⟩

theorem regionOf_of_ownLocal {c a : Nat} (h : ownLocal c a = true) : regionOf a = .local_ c := eq_of_beq h

/-- Above U no window and no guard stops a core's access to its own local memory. -/
theorem accCheck_of_ownLocal (d : Dev) {c a : Nat} {p : Priv} (n : Nat) (k : Acc) (hp : p ≠ .u) (h : ownLocal c a = true) :
    accCheck d c p a n k = none := by
  simp [accCheck, memCheck, regionOf_of_ownLocal h, h, hp]

theorem isRegs_of_ownLocal {c a : Nat} (h : ownLocal c a = true) : isRegs a = false := by
  simp only [isRegs, regionOf_of_ownLocal h]

theorem anyRead_of_ownLocal {d : Dev} {c a : Nat} (q : Req) (n : Nat) (who : String) (u : UnitId) (h : ownLocal c a = true)
    (hecc : eccOf d a = 0) : anyRead d q a n who u = (d, .ok (plainRead d a n)) := by
  simp only [anyRead, isRegs_of_ownLocal h, regionOf_of_ownLocal h, memRead_of_good d n who u hecc, Bool.false_eq_true, if_false]

theorem anyWrite_of_ownLocal {d : Dev} {c a : Nat} (q : Req) (v : Word) (h : ownLocal c a = true) (hecc : eccOf d a = 0) :
    anyWrite d q a v 4 = (plainWrite d a v 4, .done) := by
  have hones : toWord (2 ^ (8 * 4) - 1) = BitVec.allOnes 32 := by decide
  simp only [anyWrite, isRegs_of_ownLocal h, regionOf_of_ownLocal h, hones, BitVec.and_allOnes, memWrite_of_good d v _ _ hecc,
    Bool.false_eq_true, if_false]

/-! One cell. -/

/-- The device with an access at a core's local data port counted, where a transfer begins. -/
def beatCounted (beat : Bool) (c : Nat) (d : Dev) : Dev := if beat then d.updCore c fun k => k.count 1 1 else d

theorem eccOf_beatCounted (beat : Bool) (c : Nat) (d : Dev) (a : Nat) : eccOf (beatCounted beat c d) a = eccOf d a := by
  cases beat <;> rfl

theorem countAccess_of_ownLocal {beat : Bool} {d : Dev} {c a : Nat} (cls : MClass) (h : ownLocal c a = true) :
    (if beat then countAccess d c a cls else d) = beatCounted beat c d := by
  simp only [countAccess, h, if_true, beatCounted]

/-- A cell as the core reads it. -/
def cellAt (d : Dev) (c a : Nat) : Word := overlaySb (d.core c).sb (absAddr c a) 4 (plainRead d (absAddr c a) 4)

theorem cellAt_beatCounted (beat : Bool) (d : Dev) (c a : Nat) : cellAt (beatCounted beat c d) c a = cellAt d c a := by
  cases beat with
  | false => rfl
  | true =>
    have hsb : ((d.updCore c fun k => k.count 1 1).core c).sb = (d.core c).sb := by rw [core_updCore_same]; rfl
    have hread : plainRead (d.updCore c fun k => k.count 1 1) (absAddr c a) 4 = plainRead d (absAddr c a) 4 := by
      rw [plainRead_four, plainRead_four]; rfl
    simp only [beatCounted, cellAt, if_true, hsb, hread]

section Cell

variable {d : Dev} {c a : Nat} {p : Priv} (hp : p ≠ .u) (h : GoodCell d c a)
include hp h

theorem hwWrite_good (beat : Bool) (q : Byte) (v : Word) :
    hwWrite beat c p q a v d = .ok () (plainWrite (beatCounted beat c d) (absAddr c a) v 4) := by
  have hecc := (eccOf_beatCounted beat c d (absAddr c a)).trans h.ecc
  have hwrite : coreWrite beat d c p (absAddr c a) v 4 = (plainWrite (beatCounted beat c d) (absAddr c a) v 4, none) := by
    simp only [coreWrite, accCheck_of_ownLocal d 4 .w hp h.own, countAccess_of_ownLocal _ h.own, anyWrite_of_ownLocal _ v h.own hecc]
  unfold hwWrite
  rw [get_bind, hwrite]
  rfl

theorem hwRead_good (beat : Bool) (q : Byte) :
    hwRead beat c p q a d = .ok (cellAt d c a) (beatCounted beat c d) := by
  have hecc := (eccOf_beatCounted beat c d (absAddr c a)).trans h.ecc
  have hread : coreRead beat d c p (absAddr c a) 4 = (beatCounted beat c d, .ok (cellAt (beatCounted beat c d) c a)) := by
    simp only [coreRead, accCheck_of_ownLocal d 4 .r hp h.own, countAccess_of_ownLocal _ h.own,
      anyRead_of_ownLocal _ 4 _ _ h.own hecc, cellAt]
  unfold hwRead
  rw [get_bind, hread, cellAt_beatCounted]
  rfl

end Cell

theorem setPlainByte_myc (d : Dev) (a : Nat) (b : Byte) : (setPlainByte d a b).myc = d.myc := by
  unfold setPlainByte
  split <;> rfl

theorem plainWrite_myc (d : Dev) (a : Nat) (v : Word) (n : Nat) : (plainWrite d a v n).myc = d.myc := by
  induction n generalizing d a v with
  | zero => rfl
  | succ n ih => rw [plainWrite, ih, setPlainByte_myc]

theorem goodCell_beatCounted {d : Dev} {c a : Nat} (beat : Bool) (h : GoodCell d c a) : GoodCell (beatCounted beat c d) c a :=
  ⟨h.own, (eccOf_beatCounted ..).trans h.ecc⟩

theorem goodCell_plainWrite {d : Dev} {c a : Nat} (x : Nat) (v : Word) (n : Nat) (h : GoodCell d c a) :
    GoodCell (plainWrite d x v n) c a :=
  ⟨h.own, by rw [eccOf, plainWrite_myc]; exact h.ecc⟩

/-! A block of cells. -/

/-- Whether cell `n` of a block from address `a` begins a transfer. -/
def beginsTransfer (a n : Nat) : Bool := n == 0 || (a + 4 * n) % 16 == 0

theorem beginsTransfer_succ (a n : Nat) : beginsTransfer a (n + 1) = ((a + 4 * n + 4) % 16 == 0) := by
  have hnext : a + 4 * (n + 1) = a + 4 * n + 4 := by omega
  simp only [beginsTransfer, hnext, beq_false_of_ne (Nat.succ_ne_zero n), Bool.false_or]

/-- `writtenBlock` from cell `n` of the block on. -/
def writtenFrom (c a n : Nat) (l : List Word) (d : Dev) : Dev :=
  match l with
  | [] => d
  | v :: r => writtenFrom c a (n + 1) r (plainWrite (beatCounted (beginsTransfer a n) c d) (absAddr c (a + 4 * n)) v 4)

theorem writtenFrom_eq_foldl (c a n : Nat) (l : List Word) (d : Dev) :
    writtenFrom c a n l d = (l.zipIdx n).foldl (fun d x =>
      plainWrite (if x.2 == 0 || (a + 4 * x.2) % 16 == 0 then d.updCore c fun k => k.count 1 1 else d) (absAddr c (a + 4 * x.2)) x.1 4)
      d := by
  induction l generalizing n d with
  | nil => rfl
  | cons v r ih => exact ih _ _

theorem writtenBlock_eq (c a : Nat) (l : List Word) (d : Dev) : writtenBlock c a l d = writtenFrom c a 0 l d :=
  (writtenFrom_eq_foldl c a 0 l d).symm

section Block

variable {d : Dev} {c a : Nat} {p : Priv} (hp : p ≠ .u)
include hp

theorem writeMore_good (q : Byte) {l : List Word} {n : Nat} (h : ∀ i < l.length, GoodCell d c (a + 4 * (n + i))) :
    writeMore (beginsTransfer a n) c p q (a + 4 * n) l d = .ok () (writtenFrom c a n l d) := by
  induction l generalizing n d with
  | nil => rfl
  | cons v r ih =>
    unfold writeMore
    refine (bind_of_ok _ (hwWrite_good hp (h 0 (Nat.succ_pos _)) _ q v)).trans ?_
    rw [← beginsTransfer_succ]
    refine ih fun i hi => goodCell_plainWrite _ v 4 <| goodCell_beatCounted _ ?_
    have hcell := h (i + 1) (Nat.succ_lt_succ hi)
    rwa [← Nat.add_assoc, Nat.add_right_comm] at hcell

theorem writeCells_good (q : Byte) {l : List Word} (h : ∀ i < l.length, GoodCell d c (a + 4 * i)) :
    writeCells c p q a l d = .ok () (writtenBlock c a l d) := by
  rw [writtenBlock_eq]
  exact writeMore_good hp q (n := 0) fun i hi => (Nat.zero_add i).symm ▸ h i hi

end Block

/-! Reads, whose accesses alone change the device. -/

theorem hits_succ (c n : Nat) (d : Dev) : hits c (n + 1) d = hits c n (d.updCore c fun k => k.count 1 1) := by
  rw [hits, List.range_succ_eq_map, List.foldl_cons, List.foldl_map, hits]

/-- The accesses of the cells from `i` on. -/
def transfersFrom (a i n : Nat) : Nat := ((List.range' i n).filter (beginsTransfer a)).length

theorem hits_transfersFrom_succ (c a i n : Nat) (d : Dev) :
    hits c (transfersFrom a i (n + 1)) d = hits c (transfersFrom a (i + 1) n) (beatCounted (beginsTransfer a i) c d) := by
  rw [transfersFrom, List.range'_succ, List.filter_cons]
  cases beginsTransfer a i with
  | false => rfl
  | true => rw [if_pos rfl, List.length_cons, hits_succ]; rfl

theorem readMore_good {d : Dev} {c a : Nat} {p : Priv} (hp : p ≠ .u) (q : Byte) {i n : Nat}
    (h : ∀ j < n, GoodCell d c (a + 4 * (i + j))) :
    readMore (beginsTransfer a i) c p q (a + 4 * i) n d =
      .ok ((List.range' i n).map fun j => cellAt d c (a + 4 * j)) (hits c (transfersFrom a i n) d) := by
  induction n generalizing i d with
  | zero => rfl
  | succ n ih =>
    have hrest : ∀ j < n, GoodCell (beatCounted (beginsTransfer a i) c d) c (a + 4 * (i + 1 + j)) := fun j hj => by
      rw [Nat.add_right_comm, Nat.add_assoc]
      exact goodCell_beatCounted _ (h (j + 1) (Nat.succ_lt_succ hj))
    unfold readMore
    refine (bind_of_ok _ (hwRead_good hp (h 0 (Nat.succ_pos _)) _ q)).trans ?_
    refine (bind_of_ok _ (beginsTransfer_succ a i ▸ ih hrest)).trans ?_
    simp only [List.range'_succ, List.map_cons, hits_transfersFrom_succ, cellAt_beatCounted]
    rfl

theorem readCells_good {d : Dev} {c a n : Nat} {p : Priv} (hp : p ≠ .u) (q : Byte) (h : ∀ i < n, GoodCell d c (a + 4 * i)) :
    readCells c p q a n d = .ok (cellsAt d c a n) (hits c (transfers a n) d) := by
  have hread := readMore_good hp q (i := 0) fun j hj => (Nat.zero_add j).symm ▸ h j hj
  rw [← List.range_eq_range', transfersFrom, ← List.range_eq_range'] at hread
  exact hread

end Sys2Proof.Proofs

/-! SUPPORT. The steps of a Drove task switch (spec/07 R145 to R148, R158, spec/10 R217 to R221). -/
namespace Sys2Proof.Proofs

open Sys2Proof Sys2Proof.Machine Sys2Proof.Safety Sys2Proof.Laws

/-! What a switch finds. -/

theorem tileCutoff_slot (d : Dev) (c : Nat) : ((tileCutoff d c).core c).slot = (d.core c).slot := by
  have hcore : ((d.updCore c fun k => { k with tileWait := none }).core c).slot = (d.core c).slot := by rw [core_updCore_same]
  unfold tileCutoff
  dsimp only
  split
  · split <;> exact hcore
  · exact hcore

theorem winCell_known {d : Dev} {c a : Nat} (h : (tfind (d.core c).bank.wc a).isSome = true) : ∃ v, winCell c a d = .ok v d := by
  obtain ⟨v, hv⟩ := Option.isSome_iff_exists.mp h
  refine ⟨v, ?_⟩
  unfold winCell
  rw [get_bind, hv]
  rfl

/-- Window cells that are known keep what they hold. -/
theorem fixWindows_known {d : Dev} {c : Nat} (h : windowsKnown (d.core c) = true) (n : Nat) : fixWindows n c d = .ok () d := by
  induction n with
  | zero => rfl
  | succ n ih =>
    unfold fixWindows
    rw [getCore_bind]
    by_cases hn : n < (d.core c).bank.wn
    · obtain ⟨v, hv⟩ := winCell_known (List.all_eq_true.mp h n (List.mem_range.mpr hn))
      rw [if_pos hn]
      exact (bind_of_ok _ hv).trans ih
    · rw [if_neg hn]
      exact ih

/-! The save of the outgoing block (R147). -/

/-- The device with the running task's block written. -/
def blockSaved (c reason : Nat) (d : Dev) : Dev :=
  let d := d.updCore c fun k => k.flushMul.count 4 20
  writtenBlock c (d.core c).tsbr.toNat (blockCells (d.core c) false reason) d

theorem flushMul_tsbr (k : Core) : k.flushMul.tsbr = k.tsbr := by
  unfold Core.flushMul
  split <;> rfl

section Save

variable {d : Dev} {c : Nat} (hwin : windowsKnown (d.core c) = true) (hblock : hwCells d c .f (d.core c).tsbr.toNat 20 .w = true)

include hblock in
theorem saveBlock_good (reason : Nat) : saveBlock c reason d = .ok () (blockSaved c reason d) := by
  have htsbr : ((d.updCore c fun k => k.flushMul.count 4 20).core c).tsbr = (d.core c).tsbr := by
    rw [core_updCore_same]
    exact flushMul_tsbr _
  refine writeCells_good (p := .f) nofun qualTsb (d := d.updCore c fun k => k.flushMul.count 4 20) fun i hi => ?_
  obtain ⟨hown, hecc⟩ := goodCell_of_hwCells hblock hi
  rw [htsbr]
  exact ⟨hown, hecc⟩

include hwin hblock

theorem switchSave_good (reason : Nat) (hslot : (d.core c).slot.isSome = true) :
    switchSave c reason d = .ok () (blockSaved c reason d) := by
  refine (bind_of_ok _ (fixWindows_known hwin 100)).trans ?_
  rw [getCore_bind, if_pos hslot]
  exact saveBlock_good hblock reason

end Save

/-! The restore of the incoming block (R148). -/

theorem hits_keep {α : Type} (f : Dev → α) (c n : Nat) (d : Dev) (h : ∀ d : Dev, f (d.updCore c fun k => k.count 1 1) = f d) :
    f (hits c n d) = f d := by
  induction n generalizing d with
  | zero => rfl
  | succ n ih => rw [hits_succ, ih, h]

theorem switchRestore_good {d : Dev} {c : Nat} {t : NextTask} (hblock : hwCells d c .f t.tsb.toNat 20 .r = true)
    (htctx : tctxOk d c (lget (cellsAt d c t.tsb.toNat 20) 0 17) = true) :
    switchRestore c t d = .ok (cellsAt d c t.tsb.toNat 20) (hits c (transfers t.tsb.toNat 20) d) := by
  have hread := readCells_good (p := .f) nofun qualTsb fun i hi => goodCell_of_hwCells hblock hi
  refine (bind_of_ok _ hread).trans ?_
  rw [get_bind, hits_keep (fun d => tctxOk d c _) c _ d fun _ => rfl, if_pos htctx]
  rfl

/-! The switch as a whole. -/

section Switch

variable {d : Dev} {c : Nat} (hwin : windowsKnown ((tileCutoff d c).core c) = true)
  (hblock : hwCells (tileCutoff d c) c .f ((tileCutoff d c).core c).tsbr.toNat 20 .w = true)
include hwin hblock

theorem cutoff_saves (reason : Nat) (hslot : (d.core c).slot.isSome = true) :
    switchSave c reason (tileCutoff d c) = .ok () (blockSaved c reason (tileCutoff d c)) :=
  switchSave_good hwin hblock reason ((tileCutoff_slot d c).symm ▸ hslot)

theorem switchTo_cut (t : NextTask) (hslot : (d.core c).slot.isSome = true) :
    let r := switchReason (tileCutoff d c) c t
    switchTo d c t true = switchCut (blockSaved c r (tileCutoff d c)) c t r := by
  simp only [switchTo, cutoff_saves hwin hblock _ hslot, if_true]

theorem switchTo_commit (t : NextTask) (hslot : (d.core c).slot.isSome = true) {r : Nat} {e : Dev}
    (hr : switchReason (tileCutoff d c) c t = r) (he : blockSaved c r (tileCutoff d c) = e)
    (hread : hwCells e c .f t.tsb.toNat 20 .r = true) (htctx : tctxOk e c (lget (cellsAt e c t.tsb.toNat 20) 0 17) = true) :
    switchTo d c t false = switchCommit (hits c (transfers t.tsb.toNat 20) e) c t r (cellsAt e c t.tsb.toNat 20) := by
  simp only [switchTo, hr, cutoff_saves hwin hblock _ hslot, he, switchRestore_good hread htctx, Bool.false_eq_true, if_false]

theorem giveUp_saves (n r : Nat) (hslot : (d.core c).slot.isSome = true) :
    giveUp d c n r = leaveSlot (dropTask (blockSaved c r (tileCutoff d c)) c) (penOf c) n r := by
  simp only [giveUp, cutoff_saves hwin hblock _ hslot]

end Switch

/-! What the incoming block gives (R145, R148). -/

/-- An index beyond those of a table is listed at its end. -/
theorem tput_after {α : Type} {t : List (Nat × α)} {k : Nat} (v : α) (h : ∀ x ∈ t, x.1 < k) : tput t k v = t ++ [(k, v)] := by
  have habsent : tdel t k = t := tdel_of_absent fun x hx => Nat.ne_of_lt (h x hx)
  rw [tput, habsent]
  clear habsent
  induction t with
  | nil => rfl
  | cons y r ih =>
    obtain ⟨hy, hr⟩ := List.forall_mem_cons.mp h
    simp only [tins, if_neg (Nat.lt_asymm hy), ih hr, List.cons_append]

/-- A table written into a table below it. -/
theorem foldl_tput_rising {α : Type} {t u : List (Nat × α)} (h : Rising (t ++ u)) :
    u.foldl (fun t x => tput t x.1 x.2) t = t ++ u := by
  induction u generalizing t with
  | nil => rw [List.append_nil]; rfl
  | cons x u ih =>
    have hbelow : ∀ y ∈ t, y.1 < x.1 := fun y hy => (List.pairwise_append.mp h).2.2 y hy x List.mem_cons_self
    rw [List.foldl_cons, tput_after x.2 hbelow, ih (by rwa [List.append_assoc]), List.append_assoc]
    rfl

theorem rising_foldl_tput {α β : Type} (f : β → Nat) (g : β → α) (l : List β) {t : List (Nat × α)} (h : Rising t) :
    Rising (l.foldl (fun t x => tput t (f x) (g x)) t) := by
  induction l generalizing t with
  | nil => exact h
  | cons x l ih => exact ih (rising_tput _ _ h)

theorem rising_bankCells (b : Bank) : Rising (bankCells b) :=
  rising_foldl_tput _ _ _ <| rising_foldl_tput _ _ _ <| rising_foldl_tput _ _ _ List.Pairwise.nil

theorem exchange_spare_of_empty {k : Core} (h : k.spare = []) : k.exchange.spare = bankCells k.bank := by
  rw [Core.exchange, h]
  exact foldl_tput_rising (rising_bankCells k.bank)

theorem blockPriv_of_fold {fold : Nat} (flg : Word) (h : fold ≠ 0) : blockPriv fold flg = .u ∨ blockPriv fold flg = .f := by
  unfold blockPriv
  cases privOf (fld flg 12 2) <;> simp [h]

theorem concat_cells (x y : Word) : x.setWidth (32 + 32) <<< 32 ||| y.setWidth (32 + 32) = x ++ y := by
  ext i hi
  simp only [BitVec.getElem_or, BitVec.getElem_shiftLeft, BitVec.getElem_setWidth, BitVec.getElem_append]
  by_cases h : i < 32
  · simp [h]
  · have hy : y.getLsbD i = false := BitVec.getLsbD_of_ge y i (Nat.le_of_not_lt h)
    have hx : x.getLsbD (i - 32) = x[i - 32] := BitVec.getLsbD_eq_getElem (by omega)
    simp [h, hx, hy]

theorem restoreBlock_bank {k : Core} (t : NextTask) (f : Nat) (tile : Bool) (l : List Word) (h : k.lvl < k.banks.length) :
    (k.restoreBlock t f tile l).bank = { Bank.empty with
      spd := lget l 0 2, spr := lget l 0 3, fp := lget l 0 4, wn := 0, tflg := if tile then lget l 0 16 else 0 } := by
  unfold Core.bank
  simp [Core.restoreBlock, Core.setBank, Core.exchange, Core.setZncv, lget, lset, h]

/-- Settles O35: a save meets nothing that stops it where the windows are known and the block's cells are good, a restore likewise, and the
registers of a block are those of its cells. -/
theorem taskSwitch : Obligations.TaskSwitch := by
  unfold Obligations.TaskSwitch
  refine ⟨?switch, ?block, ?givesUp, ?still⟩
  case switch =>
    intro c s t hnext hcan hslot _ hwin hblock
    have hto (cut : Bool) : mTaskSwitch ⟨c, cut⟩ s.dev = switchTo s.dev c.val t cut := by simp only [mTaskSwitch, hcan, hnext, if_true]
    exact ⟨next_of_lift (mTaskSwitch _) rfl ((hto true).trans (switchTo_cut hwin hblock t hslot)),
      fun hread htctx => next_of_lift (mTaskSwitch _) rfl ((hto false).trans (switchTo_commit hwin hblock t hslot rfl rfl hread htctx))⟩
  case block =>
    intro k t f l hlvl v j
    have hbank := restoreBlock_bank t f true l hlvl
    exact ⟨rfl, rfl, rfl, rfl, rfl, rfl, congrArg Bank.spd hbank, congrArg Bank.spr hbank, congrArg Bank.fp hbank, rfl, rfl, rfl, rfl,
      concat_cells .., rfl, rfl, rfl, rfl, rfl, congrArg Bank.tflg hbank, rfl, rfl, rfl, rfl, rfl, congrArg Bank.data hbank,
      congrArg Bank.rets hbank, congrArg Bank.wn hbank, exchange_spare_of_empty, rfl, rfl, blockPriv_of_fold _⟩
  case givesUp =>
    intro c s n r cut hnext hslot hgives hcan _ hwin hblock
    have hsome : (s.dev.core c.val).slot.isSome = true := by rw [hslot]; rfl
    have hrun : mTaskSwitch ⟨c, cut⟩ s.dev = giveUp s.dev c.val n r := by simp only [mTaskSwitch, hcan, hnext, hslot, hgives, if_true]
    exact next_of_lift (mTaskSwitch _) rfl (hrun.trans (giveUp_saves hwin hblock n r hsome))
  case still =>
    intro c s cut hcan
    exact next_of_lift (mTaskSwitch _) rfl (by simp only [mTaskSwitch, hcan, Bool.false_eq_true, if_false])

end Sys2Proof.Proofs

/-! SUPPORT. Register requests that name a generation, and the personality a pen takes at its next load (spec/04 R69 to R72, spec/07 R143,
R158, R163). -/
namespace Sys2Proof.Proofs

open Sys2Proof Sys2Proof.Machine Sys2Proof.Safety Sys2Proof.Laws

/-! A register request on a settled unit. -/

theorem takesRequests_of_settled {d : Dev} {u : UnitId} (h : settled d u = true) :
    TakesRequests d u ∧ ((d.unit u).st == .fenced) = false := by
  simp only [settled, Bool.and_eq_true, bne_iff_ne, Bool.not_eq_true'] at h
  obtain ⟨⟨⟨⟨hpresent, hopen⟩, hstill⟩, hagrees⟩, hparity⟩ := h
  exact ⟨⟨hpresent, hagrees, hparity, hstill⟩, beq_false_of_ne hopen⟩

section Request

variable {d d' : Dev} {q : Req} {src : String} {u : UnitId} {f : Dev → Except RCode Dev} {r : Dev → Dev} (h : settled d u = true)
include h

theorem regRequest_own {g : Option Nat} (hg : NamesOwn d u g) (hf : f d = .ok d') :
    regRequest d src u g f = (granted src u (fun _ => d') d, .ok) := by
  obtain ⟨htakes, hopen⟩ := takesRequests_of_settled h
  exact request_own htakes hg (by simp only [hopen, hf, Bool.false_eq_true, if_false])

theorem regRequest_invalid {g : Option Nat} (hg : NamesOwn d u g) (hf : f d = .error .invalid) :
    regRequest d src u g f = (arbLog d src u "write" .invalid, .invalid) := by
  obtain ⟨htakes, hopen⟩ := takesRequests_of_settled h
  simp only [regRequest, request, arbGate_own htakes hg, hopen, hf, beq_self_eq_true, Bool.false_eq_true, if_true, if_false]

theorem stWrite_own {g : Option Nat} (hg : NamesOwn d u g) (hf : f d = .ok d') :
    stWrite d q u g r f = (granted q.src u (fun _ => d') d, .done) := by
  simp only [stWrite, regRequest_own h hg hf]

theorem stWrite_invalid {g : Option Nat} (hg : NamesOwn d u g) (hf : f d = .error .invalid) :
    stWrite d q u g r f = (r (arbLog d q.src u "write" .invalid), .refused .invalid) := by
  simp only [stWrite, regRequest_invalid h hg hf]

theorem stWrite_stale {n : Nat} (hn : n ≠ (d.unit u).gen.toNat) :
    stWrite d q u (some n) r f = (r (arbLog d q.src u "write" .stale), .refused .stale) := by
  simp only [stWrite, regRequest, request_stale (takesRequests_of_settled h).1 hn]

theorem vReg_own {o : Via} {g : Option Nat} (hg : NamesOwn d u g) (hf : f d = .ok d') :
    vReg o u g f d = (granted (viaSrc o) u (fun _ => d') d, some ([], okS)) := by
  simp only [vReg, regRequest_own h hg hf, vCode, codeStatus]

end Request

/-! PERSSEL. -/

theorem penU_val (p : Fin 8) : penU p.val = .pen p := congrArg UnitId.pen (Fin.ofNat_val_eq_self p)

theorem fld_high (v : Word) : fld v 16 16 = (v >>> 16).toNat := by
  have hlt : v.toNat >>> 16 < 2 ^ 16 := by
    rw [Nat.shiftRight_eq_div_pow]
    have := v.isLt
    omega
  rw [BitVec.toNat_ushiftRight, fld, Nat.mod_eq_of_lt hlt]

theorem persOk_eq (d : Dev) (p : Nat) (t : Bool) :
    persOk d p t = ((t || !isLastWatch d p) && lget d.golden.baseHeld false (if t then 1 else 0)) := by
  rw [persOk, Bool.not_and, Bool.not_not]

/-- The device as PERSSEL finds it, with REFUSED cleared where the write asks for it. -/
def refusedCleared (d : Dev) (p : Nat) (v : Word) : Dev :=
  if v.getLsbD 1 then d.updPen p fun k => { k with persRefused := false } else d

theorem refusedCleared_unit (d : Dev) (p : Nat) (v : Word) (u : UnitId) : (refusedCleared d p v).unit u = d.unit u := by
  unfold refusedCleared
  split <;> rfl

theorem persOk_refusedCleared (d : Dev) (p : Nat) (v : Word) (t : Bool) : persOk (refusedCleared d p v) p t = persOk d p t := by
  unfold refusedCleared
  split <;> rfl

theorem namesOwn_refusedCleared (d : Dev) (p : Nat) (v : Word) (u : UnitId) (g : Option Nat) :
    NamesOwn (refusedCleared d p v) u g ↔ NamesOwn d u g := by
  rw [NamesOwn, refusedCleared_unit, NamesOwn]

theorem settled_refusedCleared (d : Dev) (p : Nat) (v : Word) (u : UnitId) : settled (refusedCleared d p v) u = settled d u := by
  rw [settled, refusedCleared_unit, settled]

/-- While a reset loads the pen, a selection is kept for the load after it. -/
theorem persWhileLoading_ok {d : Dev} (src : String) {p : Fin 8} {n : Nat} {t : Bool} (hgen : n = (d.unit (.pen p)).gen.toNat)
    (hok : persOk d p.val t = true) :
    persWhileLoading d src p.val (some n) t =
      (arbLog (bumpGen (d.updPen p.val fun k => { k with persNext := t }) (.pen p)) src (.pen p) "write" .ok, .ok) := by
  simp [persWhileLoading, penU_val, hgen, hok]

section Perssel

variable {a : Agent} {p : Fin 8} {v : Word} {d : Dev} (hpresent : unitPresent d.variant (.pen p) = true)
  (hk : isK (reqOf d a) = true)
include hpresent hk

/-- The write reaches PERSSEL. -/
theorem mPersselWrite_reaches :
    mPersselWrite a p v d = writeRow a (toWord (penBlock p.val + 4)) (persselWrite d (reqOf d a) p.val v) := by
  have hwritable : penReadOnly 4 = false := by decide
  simp [mPersselWrite, penWrite, penU_val, hpresent, hwritable, guardW, hk]

theorem mPersselWrite_settled (hs : settled d (.pen p) = true) :
    let e := refusedCleared d p.val v
    mPersselWrite a p v d = writeRow a (toWord (penBlock p.val + 4))
      (stWrite e (reqOf d a) (.pen p) (some (v >>> 16).toNat) (persRefuse p.val) fun e =>
        if persOk e p.val (v.getLsbD 0) then .ok (e.updPen p.val fun k => { k with persNext := v.getLsbD 0 }) else .error .invalid) := by
  have hstill : ((refusedCleared d p.val v).unit (.pen p)).resetting = false := by
    rw [refusedCleared_unit]
    exact (takesRequests_of_settled hs).1.still
  rw [mPersselWrite_reaches hpresent hk, persselWrite, penU_val, fld_high]
  exact congrArg (writeRow a _) (if_neg (ne_true_of_eq_false hstill))

section Settled

variable (hs : settled d (.pen p) = true)
include hs

theorem mPersselWrite_taken (hgen : NamesOwn d (.pen p) (some (v >>> 16).toNat)) (hok : persOk d p.val (v.getLsbD 0) = true) :
    mPersselWrite a p v d =
      granted (reqOf d a).src (.pen p) (fun d => d.updPen p.val fun k => { k with persNext := v.getLsbD 0 }) (refusedCleared d p.val v) := by
  rw [mPersselWrite_settled hpresent hk hs, stWrite_own ((settled_refusedCleared ..).trans hs) ((namesOwn_refusedCleared ..).mpr hgen)
    (if_pos ((persOk_refusedCleared ..).trans hok))]
  rfl

theorem mPersselWrite_invalid (hgen : NamesOwn d (.pen p) (some (v >>> 16).toNat)) (hbad : persOk d p.val (v.getLsbD 0) = false) :
    mPersselWrite a p v d = persRefuse p.val (arbLog (refusedCleared d p.val v) (reqOf d a).src (.pen p) "write" .invalid) := by
  rw [mPersselWrite_settled hpresent hk hs, stWrite_invalid ((settled_refusedCleared ..).trans hs) ((namesOwn_refusedCleared ..).mpr hgen)
    (if_neg (ne_true_of_eq_false ((persOk_refusedCleared ..).trans hbad)))]
  rfl

theorem mPersselWrite_stale (hgen : (v >>> 16).toNat ≠ (d.unit (.pen p)).gen.toNat) :
    mPersselWrite a p v d = persRefuse p.val (arbLog (refusedCleared d p.val v) (reqOf d a).src (.pen p) "write" .stale) := by
  rw [mPersselWrite_settled hpresent hk hs, stWrite_stale ((settled_refusedCleared ..).trans hs) (by rwa [refusedCleared_unit])]
  rfl

end Settled

theorem mPersselWrite_resetting (hreset : (d.unit (.pen p)).resetting = true) (hclear : v.getLsbD 1 = false)
    (hgen : (v >>> 16).toNat = (d.unit (.pen p)).gen.toNat) (hok : persOk d p.val (v.getLsbD 0) = true) :
    mPersselWrite a p v d =
      arbLog (bumpGen (d.updPen p.val fun k => { k with persNext := v.getLsbD 0 }) (.pen p)) (reqOf d a).src (.pen p) "write" .ok := by
  have hload := persWhileLoading_ok (reqOf d a).src hgen hok
  simp only [mPersselWrite_reaches hpresent hk, persselWrite, bitOf, penU_val, fld_high, hclear, hreset, hload, writeRow,
    Bool.false_eq_true, if_false, if_true]

end Perssel

end Sys2Proof.Proofs

/-! SUPPORT. The scrubber's steal: a beat passed, a beat found, its repair, and what is still bad after it (spec/08 R177 to R183). -/
namespace Sys2Proof.Proofs

open Sys2Proof Sys2Proof.Machine Sys2Proof.Safety Sys2Proof.Laws

/-- The last beat of a pass is 4223. -/
theorem scrubNext_eq : scrubNext = fun c =>
    if c.beat = 4223 then { c with beat := 0, passes := c.passes + 1, found := none }
    else { c with beat := c.beat + 1, found := none } := by
  funext c
  have hlast : c.beat + 1 = 4224 ↔ c.beat = 4223 := by omega
  simp only [scrubNext, beq_iff_eq, hlast]

/-! The comparison of a beat with the golden copy (R177, R183). -/

/-- The golden address of the beat a pen's scrubber is at. -/
def beatSource (k : Pen) : Nat := goldenAddr (csTether k) (csOverlay k) (16 * k.cs.beat)

/-- The device with the golden beat fetched. -/
def beatFetched (d : Dev) (p : Nat) : Dev := charge d (some (d.pen p).fold) 1 .bulk (beatSource (d.pen p))

section Compare

variable {d : Dev} {p : Nat}

/-- A steal compares the beat the scrubber is at. -/
def beatCompared (d : Dev) (p : Nat) : Dev := scrubCompare d p (d.pen p) (d.pen p).cs.beat

theorem beatCompared_good (hgolden : goldenBad (beatFetched d p) p (d.pen p).cs.beat = none)
    (hbeat : beatBad (beatFetched d p) p (d.pen p).cs.beat = false) : beatCompared d p = updCs (beatFetched d p) p scrubNext := by
  unfold beatFetched beatSource at *
  simp only [beatCompared, scrubCompare, hgolden, hbeat, Bool.false_eq_true, if_false]

theorem beatCompared_bad (hgolden : goldenBad (beatFetched d p) p (d.pen p).cs.beat = none)
    (hbeat : beatBad (beatFetched d p) p (d.pen p).cs.beat = true) :
    beatCompared d p = updCs (beatFetched d p) p fun c => { c with found := some ((d.pen p).cs.beat, false) } := by
  unfold beatFetched beatSource at *
  simp only [beatCompared, scrubCompare, hgolden, hbeat, if_true]

theorem csOverlay_isSome (k : Pen) : (csOverlay k).isSome = k.cs.ovl := by
  unfold csOverlay
  cases k.cs.ovl <;> rfl

theorem beatCompared_golden {a : Nat} (hgolden : goldenBad (beatFetched d p) p (d.pen p).cs.beat = some a) :
    let k := d.pen p
    beatCompared d p = updCs (goldenError (beatFetched d p) (csTether k)
      (if k.cs.ovl && inOvl (csTether k) (16 * k.cs.beat) then some k.fold else none) (16 * k.cs.beat + a % 16) (penU p)) p scrubNext := by
  unfold beatFetched beatSource at *
  simp only [beatCompared, scrubCompare, hgolden, csOverlay_isSome]

end Compare

/-! The repair of a beat (R178, R182). -/

theorem csPut_times (t : Bool) (c : CStore) (o : Nat) (b : Byte) : (csPut t c o b).times = c.times := by
  unfold csPut
  split <;> rfl

theorem foldl_csPut_times (t : Bool) (g : Nat → Byte) (l : List Nat) (c : CStore) :
    (l.foldl (fun c o => csPut t c o (g o)) c).times = c.times := by
  induction l generalizing c with
  | nil => rfl
  | cons o l ih => rw [List.foldl_cons, ih, csPut_times]

/-- A pen's array with a beat rewritten from the golden copy. -/
def beatRewritten (d : Dev) (k : Pen) (b : Nat) : CStore :=
  (beatOffs b).foldl (fun c o => csPut (csTether k) c o (goldenByte d k o)) k.cs

/-- The time of the next repair. -/
def repairTime (d : Dev) : Word × Nat := (d.pmu.rtcSec, (Config.micros d.free).toNat)

/-- The repairs kept once a beat is repaired now: those of the last second, and this one. -/
def repairTimes (d : Dev) (p b : Nat) : List (Nat × Word × Nat) :=
  ((beatRewritten d (d.pen p) b).times.filter fun t => withinSecond t.2 (repairTime d)) ++ [(b, repairTime d)]

/-- The repairs of a beat within a second, this one included. -/
def repairsInSecond (d : Dev) (p b : Nat) : Nat :=
  ((d.pen p).cs.times.filter fun t => withinSecond t.2 (repairTime d) && t.1 == b).length + 1

/-- The device with a beat repaired, and counted as weak or not. -/
def beatRepaired (d : Dev) (p b : Nat) (weak : Bool) : Dev :=
  let c := beatRewritten d (d.pen p) b
  let times := repairTimes d p b
  updCs { d with free := d.free + 1 } p fun _ => { c with
    repairs := satInc c.repairs 0xFFFF, last := b, lastValid := true, found := some (b, true),
    times := if weak then times.filter fun t => t.1 != b else times, weak := if weak then satInc c.weak 255 else c.weak }

theorem repairTimes_of_beat (d : Dev) (p b : Nat) : ((repairTimes d p b).filter fun t => t.1 == b).length = repairsInSecond d p b := by
  have htimes : (beatRewritten d (d.pen p) b).times = (d.pen p).cs.times := foldl_csPut_times ..
  simp only [repairTimes, htimes, repairsInSecond, List.filter_append, List.filter_filter, List.length_append, Bool.and_comm]
  simp

/-- The third repair of a beat in a second is weak. -/
theorem scrubRepair_eq (d : Dev) (p b : Nat) :
    scrubRepair d p b =
      if 3 ≤ repairsInSecond d p b then
        emit (beatRepaired d p b true) (some .state) (some (penU p)) ("!UCODE WEAK pen" ++ toString p ++ " " ++ offText (16 * b))
      else beatRepaired d p b false := by
  rw [← repairTimes_of_beat]
  by_cases h : 3 ≤ ((repairTimes d p b).filter fun t => t.1 == b).length
  · rw [if_pos h]
    unfold repairTimes beatRewritten repairTime at h
    simp only [scrubRepair, beatRepaired, repairTimes, beatRewritten, repairTime, h, if_true]
  · rw [if_neg h]
    unfold repairTimes beatRewritten repairTime at h
    simp only [scrubRepair, beatRepaired, repairTimes, beatRewritten, repairTime, h, Bool.false_eq_true, if_false]

/-! The steal. -/

section Steal

variable {p : Fin 8} {d : Dev} (hruns : scrubRuns d p.val = true)
include hruns

theorem mScrubSteal_compares (hfound : (d.pen p.val).cs.found = none) :
    mScrubSteal p d =
      whenGranted d [targetPort (beatSource (d.pen p.val))] .bulk (some (d.pen p.val).fold) (beatCompared d p.val) := by
  simp only [mScrubSteal, hruns, hfound, Bool.not_true, Bool.false_eq_true, if_false]
  rfl

theorem mScrubSteal_repairs {b : Nat} (hfound : (d.pen p.val).cs.found = some (b, false)) :
    mScrubSteal p d = scrubRepair d p.val b := by
  simp only [mScrubSteal, hruns, hfound, Bool.not_true, Bool.false_eq_true, if_false]

theorem mScrubSteal_repaired {b : Nat} (hfound : (d.pen p.val).cs.found = some (b, true)) (hbad : beatBad d p.val b = false) :
    mScrubSteal p d = updCs d p.val scrubNext := by
  simp only [mScrubSteal, hruns, hfound, hbad, Bool.not_true, Bool.false_eq_true, if_false]

theorem mScrubSteal_stuck {b : Nat} (hfound : (d.pen p.val).cs.found = some (b, true)) (hbad : beatBad d p.val b = true) :
    mScrubSteal p d =
      emit (parityOnUse (updCs d p.val fun c => { c with found := none }) p.val (16 * b)) (some .state) (some (.pen p))
        ("!UCODE STUCK pen" ++ toString p.val ++ " " ++ offText (16 * b)) := by
  simp only [mScrubSteal, hruns, hfound, hbad, penU_val, Bool.not_true, Bool.false_eq_true, if_false, if_true]

end Steal

end Sys2Proof.Proofs

/-! SUPPORT. Golden images: the report of a bad beat and the reload from the image that booted (spec/08 R183, spec/18 R410). -/
namespace Sys2Proof.Proofs

open Sys2Proof Sys2Proof.Machine Sys2Proof.Safety Sys2Proof.Laws

theorem goldenText (name : String) (off : Nat) :
    "!UCODE GOLDEN " ++ name ++ " 0x" ++ hexDigits (off / 0x10000) 1 ++ "_" ++ hexDigits off 4 =
      "!UCODE GOLDEN " ++ name ++ " " ++ offText off := by
  have hhex : " 0x" = " " ++ "0x" := by decide
  simp only [offText, hhex, String.append_assoc]

theorem goldenError_base (d : Dev) (t : Bool) (off : Nat) (u : UnitId) :
    let a := baseAddr t + off
    let d' := setEcc d a 3
    goldenError d t none off u =
      emit (mcheckReport { d' with golden := { d'.golden with baseBad := lset d'.golden.baseBad (if t then 1 else 0) true } } u 0x11
        (toWord off) 0 (toWord a)) (some .state) none ("!UCODE GOLDEN " ++ persName t ++ " " ++ offText off) := by
  simp only [goldenError, goldenText]
  rfl

theorem goldenError_overlay (d : Dev) (t : Bool) (f off : Nat) (u : UnitId) :
    let a := goldenAddr t (some (ovlAddr f t)) off
    let d' := setEcc d a 3
    goldenError d t (some f) off u =
      emit (mcheckReport { d' with golden := { d'.golden with ovlBad := lset d'.golden.ovlBad (ovlSlot f t) true } } u 0x11
        (toWord off) 0 (toWord a)) (some .state) none ("!UCODE GOLDEN fold" ++ toString f ++ " " ++ persName t ++ " " ++ offText off) := by
  have hfold : "!UCODE GOLDEN fold" = "!UCODE GOLDEN " ++ "fold" := by decide
  have htext : "!UCODE GOLDEN fold" ++ toString f ++ " " ++ persName t ++ " " ++ offText off =
      "!UCODE GOLDEN " ++ ("fold" ++ toString f ++ " " ++ persName t) ++ " " ++ offText off := by
    simp only [hfold, String.append_assoc]
  simp only [goldenError, goldenText, htext]
  rfl

/-! The reload. -/

theorem reloadBytes_eq (d : Dev) (img : BootImg) (off len hash : Nat) :
    reloadBytes d img (off, len, hash) =
      let l := bytesAt (flashAt d (img.base + off)) 0 len
      if beNat (sha256 l) = hash then some l else none := by
  simp only [reloadBytes, beq_iff_eq]

section Reload

variable {d : Dev} {img : BootImg} {t : Bool} {off len hash : Nat}

section Base

variable (hsection : (if t then img.tether else img.drove) = some (off, len, hash))
  (hbad : lget d.golden.baseBad false (if t then 1 else 0) = true) (hheld : lget d.golden.baseHeld false (if t then 1 else 0) = true)
include hsection hbad hheld

theorem reloadBase_same (hhash : beNat (sha256 (bytesAt (flashAt d (img.base + off)) 0 len)) = hash) :
    let e := goldenWrite d (baseAddr t) (bytesAt (flashAt d (img.base + off)) 0 len)
    reloadBase d img t = { e with golden := { e.golden with baseBad := lset e.golden.baseBad (if t then 1 else 0) false } } := by
  simp only [reloadBase, hsection, hbad, hheld, reloadBytes_eq, hhash, Bool.not_true, Bool.or_self, Bool.false_eq_true, if_false, if_true]

theorem reloadBase_other (hhash : beNat (sha256 (bytesAt (flashAt d (img.base + off)) 0 len)) ≠ hash) :
    let e := emit d (some .state) none ("!UCODE GOLDEN " ++ persName t ++ " FAIL")
    reloadBase d img t = { e with golden := { e.golden with baseHeld := lset e.golden.baseHeld (if t then 1 else 0) false } } := by
  simp only [reloadBase, hsection, hbad, hheld, reloadBytes_eq, hhash, Bool.not_true, Bool.or_self, Bool.false_eq_true, if_false]

end Base

section Overlay

variable {f : Nat} (hsection : tfind img.ovls (ovlSlot f t) = some (off, len, hash))
  (hbad : lget d.golden.ovlBad false (ovlSlot f t) = true) (hactive : lget d.golden.active false (ovlSlot f t) = true)
include hsection hbad hactive

theorem reloadOverlay_same (hhash : beNat (sha256 (bytesAt (flashAt d (img.base + off)) 0 len)) = hash) :
    let e := goldenWrite d (ovlAddr f t) ((bytesAt (flashAt d (img.base + off)) 0 len).drop 0x80)
    reloadOverlay d img f t = { e with golden := { e.golden with ovlBad := lset e.golden.ovlBad (ovlSlot f t) false } } := by
  simp only [reloadOverlay, hsection, hbad, hactive, reloadBytes_eq, hhash, Bool.not_true, Bool.or_self, Bool.false_eq_true, if_false,
    if_true]

theorem reloadOverlay_other (hhash : beNat (sha256 (bytesAt (flashAt d (img.base + off)) 0 len)) ≠ hash) :
    let e := emit d (some .state) none ("!UCODE GOLDEN fold" ++ toString f ++ " " ++ persName t ++ " FAIL")
    reloadOverlay d img f t = { e with boot := { e.boot with img := some { img with ovls := tdel img.ovls (ovlSlot f t) } } } := by
  simp only [reloadOverlay, hsection, hbad, hactive, reloadBytes_eq, hhash, Bool.not_true, Bool.or_self, Bool.false_eq_true, if_false]

end Overlay

theorem mGoldenReload_base (t : Bool) (himg : d.boot.img = some img) (hhalt : d.bw.halt = false) :
    mGoldenReload (.base t) d = reloadBase d img t := by
  simp only [mGoldenReload, himg, hhalt, Bool.false_eq_true, if_false]

theorem mGoldenReload_overlay (f : Fin 8) (t : Bool) (himg : d.boot.img = some img) (hhalt : d.bw.halt = false) :
    mGoldenReload (.overlay f t) d = reloadOverlay d img f.val t := by
  simp only [mGoldenReload, himg, hhalt, Bool.false_eq_true, if_false]

end Reload

/-- Settles O49: a selection passes the arbiter where its generation and personality do, a steal does what the state of its beat asks for, and
a golden image is reloaded where its hash is the one kept since boot. -/
theorem controlStore : Obligations.ControlStore := by
  unfold Obligations.ControlStore
  intro genOk canTake onUse passed source fold fetched recent repaired repairsNow rewritten flip
  have hown {d : Dev} {u : UnitId} {g : Option Nat} (h : genOk d u g = true) : NamesOwn d u g := fun n hn => by
    subst hn
    exact eq_of_beq h
  have hok {d : Dev} {p : Nat} {t : Bool} {b : Bool} (h : canTake d p t = b) : persOk d p t = b := (persOk_eq d p t).trans h
  have hsize : csSize = 0x10800 := rfl
  refine ⟨?penPers, ?perssel, ?persselResetting, ?hwmClear, ?scrub, ?parity, ?goldenBase, ?goldenOverlay, ?reloadBase, ?reloadOverlay,
    ?injGo, ?inject⟩
  case penPers =>
    intro p t g
    refine does_verb (fun _ _ => rfl) fun o d hpre => ?_
    simp only [Bool.and_eq_true] at hpre
    obtain ⟨⟨hs, hgen⟩, htake⟩ := hpre
    refine (if_neg (ne_true_of_eq_false (takesRequests_of_settled hs).1.still)).trans ?_
    exact vReg_own hs (hown hgen) (if_pos (hok htake))
  case perssel =>
    intro p v a s t d q hk hs hpresent
    refine ⟨fun hgen => ⟨fun htake => ?_, fun htake => ?_⟩, fun hgen => ?_⟩
    · exact next_of_lift (mPersselWrite a p v) rfl (mPersselWrite_taken hpresent hk hs (hown hgen) (hok htake))
    · exact next_of_lift (mPersselWrite a p v) rfl (mPersselWrite_invalid hpresent hk hs (hown hgen) (hok htake))
    · exact next_of_lift (mPersselWrite a p v) rfl (mPersselWrite_stale hpresent hk hs (ne_of_beq_false hgen))
  case persselResetting =>
    intro p v a s q t d hk hreset hpresent hclear hgen htake
    exact next_of_lift (mPersselWrite a p v) rfl
      (mPersselWrite_resetting hpresent hk hreset hclear (eq_of_beq hgen) (hok htake))
  case hwmClear => exact fun p => does_verb (fun _ _ => rfl) fun _ _ _ => rfl
  case scrub =>
    intro p at' due unread found beat
    have hdue {d : Dev} (h : due d = true) : scrubRuns d p.val = true ∧ (d.pen p.val).cs.found = none := by
      simpa only [due, Bool.and_eq_true, Option.isNone_iff_eq_none] using h
    have hunread {d : Dev} (h : unread d = true) : mScrubSteal p d = beatCompared d p.val := by
      obtain ⟨hd, hgrant⟩ := Bool.and_eq_true_iff.mp h
      obtain ⟨hruns, hfound⟩ := hdue hd
      refine (mScrubSteal_compares hruns hfound).trans (whenGranted_of_grant _ ?_)
      exact (Bool.and_true _).trans hgrant
    have hfound {d : Dev} {b : Bool} (h : found d b = true) :
        scrubRuns d p.val = true ∧ (d.pen p.val).cs.found = some (beat d, b) := by
      obtain ⟨hruns, hmatch⟩ := Bool.and_eq_true_iff.mp h
      refine ⟨hruns, ?_⟩
      cases hf : (d.pen p.val).cs.found with
      | none => simp [hf] at hmatch
      | some x => simpa [beat, hf, Prod.ext_iff] using hmatch
    have hpassed (d : Dev) : updCs d p.val scrubNext = updCs d p.val passed := by rw [scrubNext_eq]
    refine ⟨?waits, ?good, ?bad, ?golden, ?repair, ?weak, ?repaired, ?stuck, ?late⟩
    case waits =>
      refine happens_of (fun _ => rfl) fun d hpre => ?_
      obtain ⟨hd, hbusy⟩ := Bool.and_eq_true_iff.mp hpre
      obtain ⟨hruns, hnone⟩ := hdue hd
      refine (mScrubSteal_compares hruns hnone).trans (whenGranted_of_busy _ ?_)
      exact (Bool.and_true _).trans ((Bool.not_eq_true' _).mp hbusy)
    case good =>
      refine happens_of (fun _ => rfl) fun d hpre => ?_
      simp only [Bool.and_eq_true, Option.isNone_iff_eq_none, Bool.not_eq_true'] at hpre
      obtain ⟨⟨hd, hgolden⟩, hbeat⟩ := hpre
      exact (hunread hd).trans ((beatCompared_good hgolden hbeat).trans (hpassed _))
    case bad =>
      refine happens_of (fun _ => rfl) fun d hpre => ?_
      simp only [Bool.and_eq_true, Option.isNone_iff_eq_none] at hpre
      obtain ⟨⟨hd, hgolden⟩, hbeat⟩ := hpre
      exact (hunread hd).trans (beatCompared_bad hgolden hbeat)
    case golden =>
      refine fun x => happens_of (fun _ => rfl) fun d hpre => ?_
      obtain ⟨hd, hgolden⟩ := Bool.and_eq_true_iff.mp hpre
      rw [hunread hd, beatCompared_golden (eq_of_beq hgolden), hpassed, penU_val]
      rfl
    case repair =>
      refine happens_of (fun _ => rfl) fun d hpre => ?_
      obtain ⟨hf, hfew⟩ := Bool.and_eq_true_iff.mp hpre
      obtain ⟨hruns, hbeat⟩ := hfound hf
      rw [mScrubSteal_repairs hruns hbeat, scrubRepair_eq]
      exact if_neg (Nat.not_le.mpr (of_decide_eq_true hfew))
    case weak =>
      refine happens_of (fun _ => rfl) fun d hpre => ?_
      obtain ⟨hf, hmany⟩ := Bool.and_eq_true_iff.mp hpre
      obtain ⟨hruns, hbeat⟩ := hfound hf
      rw [mScrubSteal_repairs hruns hbeat, scrubRepair_eq, penU_val]
      exact if_pos (of_decide_eq_true hmany)
    case repaired =>
      refine happens_of (fun _ => rfl) fun d hpre => ?_
      obtain ⟨hf, hgood⟩ := Bool.and_eq_true_iff.mp hpre
      obtain ⟨hruns, hbeat⟩ := hfound hf
      rw [mScrubSteal_repaired hruns hbeat ((Bool.not_eq_true' _).mp hgood), hpassed]
    case stuck =>
      refine happens_of (fun _ => rfl) fun d hpre => ?_
      obtain ⟨hf, hbad⟩ := Bool.and_eq_true_iff.mp hpre
      obtain ⟨hruns, hbeat⟩ := hfound hf
      exact mScrubSteal_stuck hruns hbeat hbad
    case late => exact happens_of (fun _ => rfl) fun d hpre => if_pos hpre
  case parity =>
    refine fun c off hoff => happens_of (fun _ => rfl) fun d hpre => if_pos ?_
    rw [hsize, decide_eq_true hoff, Bool.true_and]
    exact hpre
  case goldenBase =>
    intro t off hoff
    refine happens_of (fun _ => rfl) fun d _ => ?_
    exact (if_pos (hsize ▸ hoff)).trans (goldenError_base ..)
  case goldenOverlay =>
    intro f t off hoff
    refine happens_of (fun _ => rfl) fun d _ => ?_
    exact (if_pos hoff).trans (goldenError_overlay ..)
  case reloadBase =>
    intro t s img off len hash himg hsection hbad hheld hhalt l
    have hreload := mGoldenReload_base t himg hhalt
    exact ⟨fun hhash => next_of_lift (mGoldenReload _) rfl (hreload.trans (reloadBase_same hsection hbad hheld hhash)),
      fun hhash => next_of_lift (mGoldenReload _) rfl (hreload.trans (reloadBase_other hsection hbad hheld hhash))⟩
  case reloadOverlay =>
    intro f t s img off len hash himg hsection hbad hactive hhalt l
    have hreload := mGoldenReload_overlay f t himg hhalt
    exact ⟨fun hhash => next_of_lift (mGoldenReload _) rfl (hreload.trans (reloadOverlay_same hsection hbad hactive hhash)),
      fun hhash => next_of_lift (mGoldenReload _) rfl (hreload.trans (reloadOverlay_other hsection hbad hactive hhash))⟩
  case injGo =>
    intro p v hgo hbeat
    refine pokes_of (w := fun d q => if unitPresent d.variant (.pen p) then csRegWrite d q p.val 0x80C v else (d, .exc 0x0D))
      (fun _ _ => rfl) fun d q hm hpresent hopen hthere => (if_pos hthere).trans ?_
    have hlevel : atLeast q .m = true := by rw [atLeast, eq_of_beq hm]; rfl
    refine (if_pos hlevel).trans ?_
    rw [penU_val, plWrite_open hpresent hopen, hgo, decide_eq_true hbeat]
    rfl
  case inject =>
    intro p off hoff
    refine does_verb (fun _ _ => rfl) fun o d hopen => ?_
    refine (if_neg (hsize ▸ Nat.not_le.mpr hoff)).trans (if_neg ?_)
    exact ne_true_of_eq_false ((Bool.not_eq_true' _).mp hopen)

end Sys2Proof.Proofs

/-! SUPPORT. A microword that adds its constant to the immediate, action by action, and where sequencing finds it (spec/08 R167 to R170;
log 60). -/
namespace Sys2Proof.Proofs

open Sys2Proof Sys2Proof.Machine Sys2Proof.Safety Sys2Proof.Laws

/-! What a core's instruction finds as it begins, and the free values it draws. -/

/-- The device once `n` free values have been drawn. -/
def drawn (n : Nat) (d : Dev) : Dev := { d with free := d.free + n }

theorem drawn_updCore (n : Nat) (d : Dev) (c : Nat) (f : Core → Core) : drawn n (d.updCore c f) = (drawn n d).updCore c f := rfl

theorem drawn_drawn (n m : Nat) (d : Dev) : drawn m (drawn n d) = drawn (n + m) d := by
  simp only [drawn, Nat.add_assoc]

theorem charge_free (d : Dev) (f : Option Nat) (n : Nat) (k : MClass) (a : Nat) : (charge d f n k a).free = d.free := by
  cases f <;> rfl

theorem fetched_free (d : Dev) (c n : Nat) : (fetched d c n).free = d.free := by
  unfold fetched
  dsimp only
  split
  · rfl
  · exact charge_free ..

theorem begun_free (n : Nat) (c : Fin 32) (d : Dev) : (begun n c d).free = d.free := fetched_free ..

theorem begun_pen (n : Nat) (c : Fin 32) (d : Dev) (p : Nat) : (begun n c d).pen p = d.pen p := fetched_pen ..

theorem begun_tether (n : Nat) (c : Fin 32) (d : Dev) (x : Nat) : (begun n c d).tether x = d.tether x := fetched_tether ..

/-! A word that adds CONST to the immediate: its fields (R168). -/

/-- The microword that adds its constant `k` to IMM, writes the top cell and Z N C V, and ends. -/
def addWord (k : Nat) : Nat := 10 * 2 ^ 22 + 11 * 2 ^ 26 + 2 * 2 ^ 30 + 2 ^ 36 + 2 * 2 ^ 61 + k * 2 ^ 74

/-- A field below CONST does not see what stands in CONST. -/
theorem bf_addWord (k : Nat) {lo n : Nat} (h : lo + n ≤ 74) : bf (addWord k) lo n = bf (addWord 0) lo n := by
  have hpow : 2 ^ 74 = 2 ^ lo * (2 ^ n * 2 ^ (74 - (lo + n))) := by
    rw [← Nat.pow_add, ← Nat.pow_add, ← Nat.add_assoc, Nat.add_sub_cancel' h]
  have hsplit : addWord k = addWord 0 + 2 ^ lo * (2 ^ n * (2 ^ (74 - (lo + n)) * k)) := by
    rw [← Nat.mul_assoc (2 ^ n), ← Nat.mul_assoc, ← hpow]
    simp only [addWord]
    omega
  simp only [bf, hsplit, Nat.add_mul_div_left _ _ (Nat.two_pow_pos lo), Nat.add_mul_mod_self_left]

theorem bf_addWord_const {k : Nat} (hk : k < 2 ^ 17) : bf (addWord k) 74 17 = k := by
  simp only [bf, addWord]
  omega

/-! One microword, action by action: what a field of 0 leaves alone, and what the fields of `addWord` do (R168). -/

section Actions

theorem pure_run {α : Type} (a : α) (d : Dev) : (pure a : IM α) d = .ok a d := rfl

theorem microAlu_add (k : Core) (a b : Word) :
    microAlu 2 k a b = ((addFlags a b false).1, some (addFlags a b false).2.c, some (addFlags a b false).2.v) := rfl

theorem modCore_run (c : Nat) (f : Core → Core) (d : Dev) : modCore c f d = .ok () (d.updCore c f) := rfl

variable {w c : Nat} {m : Micro} {d : Dev}

theorem microRead_none (h : bf w 48 3 = 0) : microRead c m w d = .ok m.mdr d := by
  simp only [microRead, h]; rfl

theorem microSrc_imm (mdr : Word) : microSrc c m mdr w 10 d = .ok m.imm d := rfl

/-- CONST as a source gives it. -/
def constOf (k : Nat) : Word := (BitVec.ofNat 17 k).signExtend 32

theorem microSrc_const (mdr : Word) : microSrc c m mdr w 11 d = .ok (constOf (bf w 74 17)) d := rfl

theorem microWrite_none (pc v : Word) (h : bf w 48 3 = 0) : microWrite c pc m w v d = .ok () d := by
  simp only [microWrite, h]; rfl

theorem microStack_none (h : bf w 40 3 = 0) : microStack c w d = .ok () d := by
  simp only [microStack, h]; rfl

theorem microMul_none (a b : Word) (h : bf w 69 3 = 0) : microMul c w a b d = .ok () d := by
  simp only [microMul, h]; rfl

theorem microStops_none (pc : Word) (h : bf w 72 2 = 0) : microStops c pc w d = .ok false d := by
  simp only [microStops, h]; rfl

theorem microFlags_all (a b : Word) (cin : Bool) (h : bf w 61 3 = 2) :
    microFlags c w (addFlags a b cin).1 (some (addFlags a b cin).2.c) (some (addFlags a b cin).2.v) d =
      .ok () ((drawn 1 d).updCore c fun k => k.setFlags (addFlags a b cin).2) := by
  simp only [microFlags, h]; rfl

/-- The top cell replaced, with no load delay left on it. -/
def topReplaced (v : Word) (k : Core) : Core :=
  { k.setBank { k.bank with data := lset k.bank.data 0 v } with delay := tdel k.delay (k.bank.cellAddr 0) }

theorem microPutDp_top {n : Nat} (v : Word) (h : stackReady d c 1 n = true) :
    microPutDp c 0 v d = .ok () (d.updCore c (topReplaced v)) := by
  obtain ⟨hdepth, hcached⟩ := Bool.and_eq_true_iff.mp h
  have hdepth : ¬ (d.core c).depth (d.tether c) ≤ 0 := Nat.not_le.mpr (of_decide_eq_true hdepth)
  unfold microPutDp
  rw [get_bind]
  simp only [hdepth, if_false]
  cases ht : d.tether c with
  | true => rfl
  | false =>
    simp only [ht, Bool.false_eq_true, if_false, Bool.and_eq_true, decide_eq_true_eq] at hcached
    simp only [Bool.false_eq_true, if_false, bind_of_ok _ (fillData_ready (m := 24) hcached.1)]
    rfl

end Actions

theorem stackReady_zero {d : Dev} {c : Nat} (h : stackReady d c 1 1 = true) : stackReady d c 0 0 = true := by
  simp only [stackReady, Bool.and_eq_true, decide_eq_true_eq] at h ⊢
  obtain ⟨hdepth, hroom⟩ := h
  cases ht : d.tether c with
  | true =>
    simp only [ht, if_true, decide_eq_true_eq] at hdepth hroom ⊢
    omega
  | false =>
    simp only [ht, Bool.false_eq_true, if_false, Bool.and_eq_true, decide_eq_true_eq] at hroom ⊢
    omega

/-- The top cell replaced by `a + b`, with the flags of the sum. -/
def summed (a b : Word) (k : Core) : Core := (topReplaced (addFlags a b false).1 k).setFlags (addFlags a b false).2

theorem microStep_add {c k : Nat} {m : Micro} {d : Dev} (pc : Word) (hready : stackReady d c 1 1 = true) (hk : k < 2 ^ 17) :
    microStep c pc m (addWord k) 0 false false d = .ok (m, []) ((drawn 1 d).updCore c (summed m.imm (constOf k))) := by
  have hfield (lo n : Nat) (h : lo + n ≤ 74) := bf_addWord k h
  have hpop : bf (addWord k) 43 3 = 0 := hfield 43 3 (by decide)
  have hpush : bf (addWord k) 46 2 = 0 := hfield 46 2 (by decide)
  have hmem : bf (addWord k) 48 3 = 0 := hfield 48 3 (by decide)
  have hsrcA : bf (addWord k) 22 4 = 10 := hfield 22 4 (by decide)
  have hsrcB : bf (addWord k) 26 4 = 11 := hfield 26 4 (by decide)
  have halu : bf (addWord k) 30 6 = 2 := hfield 30 6 (by decide)
  have hexc : bf (addWord k) 64 5 = 0 := hfield 64 5 (by decide)
  have hmul : bf (addWord k) 69 3 = 0 := hfield 69 3 (by decide)
  have hstack : bf (addWord k) 40 3 = 0 := hfield 40 3 (by decide)
  have htop : bf (addWord k) 36 4 = 1 := hfield 36 4 (by decide)
  have hflags : bf (addWord k) 61 3 = 2 := hfield 61 3 (by decide)
  have hrep : bf (addWord k) 72 2 = 0 := hfield 72 2 (by decide)
  have hdst : microDst c m (addWord k) (addFlags m.imm (constOf k) false).1 d =
      .ok m (d.updCore c (topReplaced (addFlags m.imm (constOf k) false).1)) := by
    simp only [microDst, htop, bind_of_ok _ (microPutDp_top _ hready)]
    rfl
  unfold microStep
  simp only [hpop, hpush, hsrcA, hsrcB, halu, hexc, hrep, Nat.reduceBEq, Nat.reduceLT, bne_self_eq_false, Bool.or_self,
    Bool.false_eq_true, if_false]
  rw [get_bind, bind_of_ok _ (prepare_ready (stackReady_zero hready)), bind_of_ok _ (microRead_none hmem),
    bind_of_ok _ (microSrc_imm _), bind_of_ok _ (microSrc_const _), bf_addWord_const hk, bind_of_ok _ (pure_run _ _), getCore_bind,
    bind_of_ok _ (pure_run _ _), microAlu_add, bind_of_ok _ (microMul_none _ _ hmul), bind_of_ok _ (microStack_none hstack),
    bind_of_ok _ hdst, bind_of_ok _ (microWrite_none _ _ hmem), bind_of_ok _ (microFlags_all _ _ _ hflags), drawn_updCore,
    updCore_updCore]
  rfl

/-! The word where sequencing finds it, in both personalities (R167, R169, R170). -/

theorem microParity_good {c off n : Nat} {d : Dev} (h : ∀ i < n, wordBad (d.pen (penOf c)) (off + i) = false) :
    microParity c off n d = .ok () d := by
  have hnone : ((List.range n).find? fun i => wordBad (d.pen (penOf c)) (off + i)) = none := by
    simpa only [List.find?_eq_none, List.mem_range, Bool.not_eq_true] using h
  unfold microParity
  rw [get_bind]
  simp only [hnone]
  rfl

/-- The effect of the word with its cycle. -/
def summedCycle (a b : Word) (k : Core) : Core := { summed a b k with cyc := k.cyc + 1 }

/-- The device an instruction leaves whose only word is `addWord`. -/
def addRun (c : Nat) (imm : Word) (k : Nat) (d : Dev) : Dev := (drawn 1 d).updCore c (summedCycle imm (constOf k))

section Sequencing

variable {c k a : Nat} {m : Micro} {d : Dev} (hready : stackReady d c 1 1 = true) (hk : k < 2 ^ 17)
include hready hk

theorem microDrove_add (n : Nat) (pc : Word) (hparity : ∀ i < 16, wordBad (d.pen (penOf c)) (16 * a + i) = false)
    (hword : csNat (d.pen (penOf c)).cs (16 * a) 16 = addWord k) :
    microDrove (n + 1) c pc m a d = .ok () (addRun c m.imm k d) := by
  have hfield (lo n : Nat) (h : lo + n ≤ 74) := bf_addWord k h
  have hnext : bf (addWord k) 0 12 = 0 := hfield 0 12 (by decide)
  have hbrw : bf (addWord k) 12 3 = 0 := hfield 12 3 (by decide)
  have hgroup : bf (addWord k) 15 5 = 0 := hfield 15 5 (by decide)
  have hclen : bf (addWord k) 20 2 = 0 := hfield 20 2 (by decide)
  have hrep : bf (addWord k) 72 2 = 0 := hfield 72 2 (by decide)
  unfold microDrove
  rw [bind_of_ok _ (microParity_good hparity), get_bind]
  simp only [hword, hgroup, hclen, hnext, hbrw, Nat.reduceLeDiff, decide_false, BEq.rfl, ite_self, Bool.and_self, if_true, Nat.add_zero]
  rw [bind_of_ok _ (microStep_add pc hready hk), bind_of_ok _ (modCore_run ..), bind_of_ok _ (microStops_none _ hrep), updCore_updCore]
  rfl

theorem microTether_add {nano : Nat} (n : Nat) (pc : Word) (hshort : ∀ i < 3, wordBad (d.pen (penOf c)) (3 * a + i) = false)
    (hnano : ∀ i < 16, wordBad (d.pen (penOf c)) (0xC000 + 16 * nano + i) = false) (hlt : nano < 512)
    (hends : csNat (d.pen (penOf c)).cs (3 * a) 3 = nano + 2 * 2 ^ 9)
    (hword : csNat (d.pen (penOf c)).cs (0xC000 + 16 * nano) 16 = addWord k) :
    microTether (n + 1) c pc m a d = .ok () (addRun c m.imm k d) := by
  have hindex : bf (nano + 2 * 2 ^ 9) 0 9 = nano := by simp only [bf]; omega
  have hseq : bf (nano + 2 * 2 ^ 9) 9 2 = 2 := by simp only [bf]; omega
  have hgroup : bf (nano + 2 * 2 ^ 9) 13 4 = 0 := by simp only [bf]; omega
  have hrep : bf (addWord k) 72 2 = 0 := bf_addWord k (by decide)
  unfold microTether
  rw [bind_of_ok _ (microParity_good hshort), get_bind]
  simp only [hends, hindex, hseq, hgroup]
  rw [bind_of_ok _ (microParity_good hnano), hword, bind_of_ok _ (microStep_add pc hready hk), bind_of_ok _ (modCore_run ..),
    bind_of_ok _ (microStops_none _ hrep), updCore_updCore]
  rfl

end Sequencing

end Sys2Proof.Proofs

/-! SUPPORT. A custom opcode by its dispatch entry, and the entry that is not valid (spec/08 R165, R166). -/
namespace Sys2Proof.Proofs

open Sys2Proof Sys2Proof.Machine Sys2Proof.Safety Sys2Proof.Laws

/-! The microcode of a custom opcode. -/

/-- The microcode of a custom opcode begins with its immediate latched and six free values in its temporaries. -/
theorem runCustom_begins (op : CustomOp) (c : Nat) (d : Dev) :
    let e := csHalf (d.pen (penOf c)).cs (0x10000 + 2 * (customParts op).1)
    ∃ (m : Micro) (pc : Word), m.imm = (customParts op).2.2.1 ∧ runCustom op c d =
      (if d.tether c then microTether 512 c pc m (bf e 0 14) else microDrove 512 c pc m (bf e 0 12)) (drawn 6 d) :=
  ⟨_, _, rfl, rfl⟩

/-- A unit of the array with good parity, no repair of the scrubber being under way, may execute. -/
theorem wordBad_of_clean {k : Pen} {off n : Nat} (h : (k.cs.found.isNone && (List.range n).all fun i => !csParityBad k (off + i)) = true) :
    ∀ i < n, wordBad k (off + i) = false := by
  simp only [Bool.and_eq_true, Option.isNone_iff_eq_none, List.all_eq_true, List.mem_range, Bool.not_eq_true'] at h
  obtain ⟨hfound, hparity⟩ := h
  intro i hi
  simp only [wordBad, hparity i hi, hfound, Bool.false_or]

section Custom

variable {op : CustomOp} {c k a : Nat} {d : Dev} (hready : stackReady d c 1 1 = true) (hk : k < 2 ^ 17)
  (hentry : csHalf (d.pen (penOf c)).cs (0x10000 + 2 * (customParts op).1) = 0x8000 + a)
include hready hk hentry

theorem runCustom_drove (hdrove : d.tether c = false) (ha : a < 0x1000)
    (hparity : ∀ i < 16, wordBad (d.pen (penOf c)) (16 * a + i) = false)
    (hword : csNat (d.pen (penOf c)).cs (16 * a) 16 = addWord k) :
    runCustom op c d = .ok () (addRun c (customParts op).2.2.1 k (drawn 6 d)) := by
  obtain ⟨m, pc, himm, hbegins⟩ := runCustom_begins op c d
  have haddr : bf (0x8000 + a) 0 12 = a := by simp only [bf]; omega
  simp only [hbegins, hdrove, hentry, haddr, Bool.false_eq_true, if_false, ← himm]
  exact microDrove_add (d := drawn 6 d) hready hk 511 pc hparity hword

theorem runCustom_tether {nano : Nat} (htether : d.tether c = true) (ha : a < 0x4000)
    (hshort : ∀ i < 3, wordBad (d.pen (penOf c)) (3 * a + i) = false)
    (hnano : ∀ i < 16, wordBad (d.pen (penOf c)) (0xC000 + 16 * nano + i) = false) (hlt : nano < 512)
    (hends : csNat (d.pen (penOf c)).cs (3 * a) 3 = nano + 2 * 2 ^ 9)
    (hword : csNat (d.pen (penOf c)).cs (0xC000 + 16 * nano) 16 = addWord k) :
    runCustom op c d = .ok () (addRun c (customParts op).2.2.1 k (drawn 6 d)) := by
  obtain ⟨m, pc, himm, hbegins⟩ := runCustom_begins op c d
  have haddr : bf (0x8000 + a) 0 14 = a := by simp only [bf]; omega
  simp only [hbegins, htether, hentry, haddr, if_true, ← himm]
  exact microTether_add (d := drawn 6 d) hready hk 511 pc hshort hnano hlt hends hword

end Custom

theorem data_of_ready {d : Dev} {c n : Nat} (h : stackReady d c 1 n = true) : ∃ v r, (d.core c).bank.data = v :: r := by
  simp only [stackReady, Bool.and_eq_true, decide_eq_true_eq] at h
  obtain ⟨hdepth, hcached⟩ := h
  have hlength : 1 ≤ (d.core c).bank.data.length := by
    cases ht : d.tether c with
    | true => simpa only [ht, Core.depth, if_true] using hdepth
    | false =>
      simp only [ht, Bool.false_eq_true, if_false, Bool.and_eq_true, decide_eq_true_eq] at hcached
      exact hcached.1
  exact List.exists_cons_of_length_pos hlength

/-- The core with `a + b` for its top cell and the flags of the sum. -/
def topSum (a b : Word) (k : Core) : Core :=
  (k.setBank { k.bank with data := (addFlags a b false).1 :: k.bank.data.drop 1 }).setFlags (addFlags a b false).2

theorem finish_summedCycle {v : Word} {r : List Word} {k : Core} (a b : Word) (h : k.bank.data = v :: r) :
    (summedCycle a b k).finish 0 false = (topSum a b k).finish 1 false := by
  simp only [summedCycle, summed, topReplaced, topSum, h]
  rfl

theorem updCore_congr {d : Dev} {c : Nat} {f g : Core → Core} (h : f (d.core c) = g (d.core c)) : d.updCore c f = d.updCore c g :=
  congrArg (d.setCore c) h

theorem ended_addRun {c : Fin 32} {d : Dev} (imm : Word) (k : Nat) (hready : stackReady d c.val 1 1 = true) :
    ended 0 false c (addRun c.val imm k (drawn 6 d)) = ended 1 false c (drawn 7 (d.updCore c.val (topSum imm (constOf k)))) := by
  obtain ⟨v, r, hdata⟩ := data_of_ready hready
  simp only [ended, addRun, drawn_drawn, drawn_updCore, updCore_updCore]
  exact updCore_congr (finish_summedCycle imm (constOf k) hdata)

theorem customOpcode_adds {c : Fin 32} {q : Cond} {op : CustomOp} {k : Nat} {s : State}
    (hexe : executes s.dev c q (customParts op).2.1 = true) (hready : stackReady s.dev c.val 1 1 = true)
    (hrun : runCustom op c.val (begun (customParts op).2.1.length c s.dev) =
      .ok () (addRun c.val (customParts op).2.2.1 k (drawn 6 (begun (customParts op).2.1.length c s.dev)))) :
    let e := (begun (customParts op).2.1.length c s.dev).updCore c.val (topSum (customParts op).2.2.1 (constOf k))
    exec (.customOpcode c q op) s = .next { s with dev := ended 1 false c { e with free := s.dev.free + 7 } } := by
  have hbegun := (stackReady_begun s.dev c (customParts op).2.1.length 1 1).trans hready
  have hexec : exec (.customOpcode c q op) s = lift (runInstr c.val q (bCustomOpcode op)) s := rfl
  rw [hexec, lift_eq, run_body (i := bCustomOpcode op) hexe hrun, ← begun_free (customParts op).2.1.length c s.dev]
  exact congrArg (fun d => Host.Outcome.next { s with dev := d }) (ended_addRun _ k hbegun)

/-! A dispatch entry that is not valid (R165). -/

theorem runInstr_fetched {c : Nat} {d : Dev} (q : Cond) (i : Insn) (hcan : canRun d c = true)
    (hfetch : fetchClean d c i.syl.length = true) : runInstr c q i d = decoded c q i (fetched d c i.syl.length) := by
  simp only [fetchClean, Bool.and_eq_true, Option.isNone_iff_eq_none, List.all_eq_true, List.mem_range, beq_iff_eq] at hfetch
  obtain ⟨hallowed, hcells⟩ := hfetch
  simp only [runInstr, hcan, hallowed, fetchCells_clean _ _ hcells, Bool.not_true, Bool.false_eq_true, if_false]

theorem decoded_goes {c : Nat} {d : Dev} {q : Cond} {i : Insn} (hmet : condMet (d.core c) q = true) (hrpt : (d.core c).rpt = false)
    (hsquash : (d.core c).rptSquash = false) (hgood : wordBad (d.pen (penOf c)) i.entry = false) :
    decoded c q i d = execute d c i (i.words q) := by
  simp only [decoded, hmet, hrpt, hsquash, hgood, Bool.false_and, Bool.and_false, Bool.not_false, Bool.not_true, Bool.and_self,
    Bool.false_eq_true, if_false]

theorem setCore_updCore (d : Dev) (c : Nat) (f : Core → Core) (k : Core) : (d.updCore c f).setCore c k = d.setCore c k :=
  setCore_setCore ..

theorem dispatched_noEntry {c : Nat} {d : Dev} {i : Insn} (h : (csHalf (d.pen (penOf c)).cs i.entry).testBit 15 = false) :
    dispatched i c d = .error (.exc (Exc.of 0x01)) d := by
  unfold dispatched
  rw [get_bind]
  exact bind_of_error _ (need_of_false 0x01 d h)

theorem execute_noEntry {c : Nat} {d : Dev} {i : Insn} (words : List Half)
    (h : (csHalf (d.pen (penOf c)).cs i.entry).testBit 15 = false) :
    execute d c i words = instrExc (d.setCore c (d.core c)) c (Exc.of 0x01) words := by
  have hraises := dispatched_noEntry (d := d.updCore c fun k => k.begin c i.syl.length) h
  have hcause : ((Exc.of 0x01).cause == 0x10) = false := rfl
  simp only [execute, hraises, hcause, setCore_updCore, Bool.false_eq_true, if_false]

/-- An instruction command runs the instruction that it names. -/
theorem exec_of_insnOf {i : Instr} {c : Fin 32} {q : Cond} {n : Insn} (s : State) (h : insnOf i = some (c, q, n)) :
    exec i s = lift (runInstr c.val q n) s := by
  cases i <;> cases h <;> rfl

/-- Settles O36: one word that adds CONST runs alike from a Drove entry and from a Tether entry through its nanoword, and an entry that is
not valid raises 0x01 before anything else of the instruction. -/
theorem customOpcodes : Obligations.CustomOpcodes := by
  unfold Obligations.CustomOpcodes
  intro word clean done
  refine ⟨?drove, ?tether, ?noEntry⟩
  case drove =>
    intro c q op s a k i cs hexe hready hdrove _ hgood ha hk hentry hword
    refine customOpcode_adds hexe hready (runCustom_drove (a := a) ?_ hk ?_ ?_ ha ?_ ?_)
    · exact (stackReady_begun ..).trans hready
    · rw [begun_pen]; exact hentry
    · exact (begun_tether ..).trans hdrove
    · rw [begun_pen]; exact wordBad_of_clean hgood
    · rw [begun_pen]; exact hword
  case tether =>
    intro c q op s a n k i cs hexe hready htether _ hshort hnano ha hn hk hentry hends hword
    refine customOpcode_adds hexe hready (runCustom_tether (a := a) (nano := n) ?_ hk ?_ ?_ ha ?_ ?_ hn ?_ ?_)
    · exact (stackReady_begun ..).trans hready
    · rw [begun_pen]; exact hentry
    · exact (begun_tether ..).trans htether
    · rw [begun_pen]; exact wordBad_of_clean hshort
    · rw [begun_pen]; exact wordBad_of_clean hnano
    · rw [begun_pen]; exact hends
    · rw [begun_pen]; exact hword
  case noEntry =>
    intro i c q n s hinsn hcan hfetch hmet hrpt hsquash hgood hinvalid d
    obtain ⟨l, hcore⟩ := fetched_core s.dev c n.syl.length
    have hpen : d.pen (penOf c.val) = s.dev.pen (penOf c.val) := fetched_pen ..
    have hgoes : decoded c.val q n d = execute d c.val n (n.words q) := by
      refine decoded_goes ?_ ?_ ?_ (hpen ▸ hgood)
      · rw [hcore]; cases q <;> exact hmet
      · rw [hcore]; exact hrpt
      · rw [hcore]; exact hsquash
    rw [exec_of_insnOf s hinsn, lift_eq, runInstr_fetched q n hcan hfetch, hgoes, execute_noEntry _ (hpen ▸ hinvalid), words_eq_coded]

end Sys2Proof.Proofs

/-! SUPPORT. What a fence leaves of the Bellwether: its ring gains records, and nothing else of it changes (spec/04 R73 to R76, spec/09
R202). -/
namespace Sys2Proof.Proofs

open Sys2Proof Sys2Proof.Machine Sys2Proof.Laws

/-- The Bellwether without where its ring of records stands. -/
def offRing (b : Bw) : Bw := { b with seq := 0, head := 0, wrap := false }

/-- One device has the Bellwether of another, but for its ring. -/
def SameBw (d e : Dev) : Prop := offRing e.bw = offRing d.bw

theorem SameBw.of_eq {d e : Dev} (h : e.bw = d.bw) : SameBw d e := congrArg offRing h

theorem SameBw.refl (d : Dev) : SameBw d d := rfl

theorem SameBw.trans {d e f : Dev} (h : SameBw d e) (g : SameBw e f) : SameBw d f := Eq.trans g h

theorem SameBw.ite {c : Prop} [Decidable c] {d e f : Dev} (he : SameBw d e) (hf : SameBw d f) : SameBw d (if c then e else f) := by
  split <;> assumption

theorem SameBw.foldl {α : Type} {f : Dev → α → Dev} (h : ∀ d x, SameBw d (f d x)) (l : List α) (d : Dev) :
    SameBw d (l.foldl f d) := by
  induction l generalizing d with
  | nil => exact .refl d
  | cons x l ih => exact (h d x).trans (ih (f d x))

theorem SameBw.hook {d e : Dev} (h : SameBw d e) : e.bw.hook = d.bw.hook := congrArg (·.hook) h

theorem SameBw.halt {d e : Dev} (h : SameBw d e) : e.bw.halt = d.bw.halt := congrArg (·.halt) h

theorem SameBw.hookRun {d e : Dev} (h : SameBw d e) : e.bw.hookRun = d.bw.hookRun := congrArg (·.hookRun) h

theorem SameBw.hookAbn {d e : Dev} (h : SameBw d e) : e.bw.hookAbn = d.bw.hookAbn := congrArg (·.hookAbn) h

theorem sameBw_emit (d : Dev) (c : Option EvClass) (u : Option UnitId) (t : String) : SameBw d (emit d c u t) := rfl

theorem sameBw_setUnit (d : Dev) (u : UnitId) (r : UnitRec) : SameBw d (d.setUnit u r) := rfl

theorem sameBw_updCore (d : Dev) (c : Nat) (f : Core → Core) : SameBw d (d.updCore c f) := rfl

theorem sameBw_updPwm (d : Dev) (n : Nat) (f : Pwm → Pwm) : SameBw d (d.updPwm n f) := rfl

theorem sameBw_updPort (d : Dev) (i : Nat) (f : Port → Port) : SameBw d (d.updPort i f) := rfl

/-! A record. -/

theorem setBytes_bw (n : Nat) (d : Dev) (a : Nat) (v : Word) : (d.setBytes a v n).bw = d.bw := by
  induction n generalizing d a v with
  | zero => rfl
  | succ n ih => exact ih _ _ _

theorem setCell_bw (d : Dev) (a : Nat) (v : Word) : (d.setCell a v).bw = d.bw := setBytes_bw 4 d a v

theorem sameBw_bwRecord (d : Dev) (kind : Nat) (u : UnitId) (code : Byte) (detail pc addr : Word) :
    SameBw d (bwRecord d kind u code detail pc addr) := by
  unfold bwRecord
  refine .ite (.refl d) ?_
  simp only [SameBw, offRing, setCell_bw]

/-! What a unit does at once as it is fenced. -/

theorem sameBw_tileCutoff (d : Dev) (c : Nat) : SameBw d (tileCutoff d c) := by
  unfold tileCutoff
  dsimp only
  split
  · exact .ite (.of_eq rfl) (.of_eq rfl)
  · exact .of_eq rfl

theorem sameBw_tileStop (d : Dev) (p : Nat) : SameBw d (tileStop d p) := by
  unfold tileStop
  refine .foldl (fun d i => ?_) _ d
  exact .ite ((sameBw_tileCutoff d (4 * p + i)).trans (sameBw_updCore _ _ _)) (.refl d)

theorem sameBw_dmaQuiesce (d : Dev) (c : Nat) : SameBw d (dmaQuiesce d c) := by
  unfold dmaQuiesce
  exact .ite (.of_eq rfl) (.ite (.of_eq rfl) (.refl d))

theorem sameBw_poolWatch (d : Dev) : SameBw d (poolWatch d) := by
  unfold poolWatch
  exact .ite (.of_eq rfl) (.ite (.of_eq rfl) (.refl d))

theorem sameBw_poolReturn (d : Dev) (b : Nat) : SameBw d (poolReturn d b) :=
  sameBw_poolWatch { d with pool := { d.pool with tags := tdel d.pool.tags b } }

theorem sameBw_pwmFoldHold (d : Dev) (f : Nat) : SameBw d (pwmFoldHold d f) := by
  unfold pwmFoldHold
  exact .foldl (fun _ _ => sameBw_updPwm _ _ _) _ d

theorem sameBw_portAbandon (d : Dev) (i : Nat) : SameBw d (portAbandon d i) := by
  unfold portAbandon
  exact (sameBw_updPort d i _).trans (.foldl sameBw_poolReturn _ _)

theorem sameBw_fenceEffect (d : Dev) (u : UnitId) (cause : FCause) : SameBw d (fenceEffect d u cause) := by
  cases u with
  | core n =>
    unfold fenceEffect
    exact (SameBw.ite (.refl d) (sameBw_updCore _ _ _)).trans (sameBw_tileCutoff _ n.val)
  | tile n => exact sameBw_tileStop d n.val
  | dma n => exact sameBw_dmaQuiesce d n.val
  | fold n =>
    have hpool : SameBw d (poolReturnFold d n.val) := sameBw_poolWatch _
    exact hpool.trans (sameBw_pwmFoldHold _ n.val)
  | mg p => exact .ite (.of_eq (updMg_bw d p dropSession)) (.refl d)
  | t1s n => exact sameBw_portAbandon d n.val
  | can n => exact sameBw_portAbandon d (4 + n.val)
  | gbe n => exact sameBw_portAbandon d (8 + n.val)
  | uart n => exact sameBw_portAbandon d (10 + n.val)
  | _ => exact .of_eq rfl

/-! The fence of a unit and of its contents. -/

theorem sameBw_fenceRecorded (d : Dev) (u : UnitId) (r : UnitRec) (cause : FCause) (t : String) (code : Byte) (detail : Word) :
    SameBw d (bwRecord (emit (fenceEffect (d.setUnit u r) u cause) (some .fence) (some u) t) 2 u code detail 0 0) :=
  (sameBw_setUnit d u r).trans <| (sameBw_fenceEffect _ u cause).trans <| (sameBw_emit _ _ _ _).trans (sameBw_bwRecord ..)

theorem sameBw_fenceOne {sub : Dev → UnitId → Dev} (hsub : ∀ d u, SameBw d (sub d u)) (d : Dev) (u : UnitId) (cause : FCause)
    (code : Byte) :
    SameBw d (fenceOne sub d u cause code) := by
  unfold fenceOne
  exact .ite (.refl d) (.ite ((sameBw_fenceRecorded ..).trans (.foldl hsub _ _)) (sameBw_fenceRecorded ..))

theorem sameBw_disagreeOne {sub : Dev → UnitId → Dev} (hsub : ∀ d u, SameBw d (sub d u)) (d : Dev) (u : UnitId) (h : HeldFence) :
    SameBw d (disagreeOne sub d u h) := by
  unfold disagreeOne
  refine .trans (.trans ?noted (sameBw_fenceOne hsub _ u .disagree h.code)) (sameBw_emit _ _ _ _)
  case noted => exact .of_eq rfl

theorem sameBw_fenceN (n : Nat) (d : Dev) (u : UnitId) (cause : FCause) (code : Byte) : SameBw d (fenceN n d u cause code) := by
  induction n generalizing d u cause code with
  | zero => exact .refl d
  | succ n ih =>
    have hsub (d : Dev) (u : UnitId) : SameBw d (fenceN n d u .parent 0x12) := ih d u .parent 0x12
    unfold fenceN
    refine .ite (.refl d) <| .ite (sameBw_setUnit d u _) ?_
    exact (SameBw.ite (sameBw_disagreeOne hsub d u _) (.refl d)).trans (sameBw_fenceOne hsub _ u cause code)

/-! What follows in the containers of a unit. -/

theorem sameBw_moveOne (d : Dev) (u : UnitId) (s : UState) : SameBw d (moveOne d u s) := .ite (.of_eq rfl) (.of_eq rfl)

theorem sameBw_disagreeAs (d : Dev) (u : UnitId) (data : UState) : SameBw d (disagreeAs d u data) :=
  .ite (.ite (.refl d) (sameBw_setUnit d u _)) (sameBw_disagreeOne (fun d c => sameBw_fenceN 2 d c .parent 0x12) d u _)

theorem sameBw_compareOne (d : Dev) (u : UnitId) : SameBw d (compareOne d u) :=
  .ite (sameBw_disagreeAs d u _) (.ite (.of_eq rfl) (.refl d))

theorem sameBw_follow (d : Dev) (u : UnitId) : SameBw d (follow d u) := by
  unfold follow
  dsimp only
  split
  · exact (sameBw_compareOne d u).trans (sameBw_moveOne _ u _)
  · exact sameBw_compareOne d u

theorem sameBw_followUp (d : Dev) (u : UnitId) : SameBw d (followUp d u) :=
  .foldl (fun d x => .ite (.refl d) (sameBw_follow d x)) _ d

theorem sameBw_arbLog (d : Dev) (src : String) (u : UnitId) (req : String) (c : RCode) : SameBw d (arbLog d src u req c) := by
  unfold arbLog
  exact .of_eq rfl

theorem sameBw_fenceAs (d : Dev) (u : UnitId) (cause : FCause) (code : Byte) : SameBw d (fenceAs d u cause code) := by
  unfold fenceAs
  exact (sameBw_fenceN 3 d u cause code).trans (sameBw_arbLog ..)

theorem sameBw_fence (d : Dev) (u : UnitId) (cause : FCause) : SameBw d (fence d u cause) := by
  unfold fence
  exact (SameBw.ite (sameBw_fenceN ..) (sameBw_fenceAs ..)).trans (sameBw_followUp _ u)

end Sys2Proof.Proofs

/-! SUPPORT. The loader's checks of an overlay, and the Bellwether's hook (spec/08 R175, R176, spec/09 R202, R203). -/
namespace Sys2Proof.Proofs

open Sys2Proof Sys2Proof.Machine Sys2Proof.Safety Sys2Proof.Laws

/-! Verbs that read the OTP, and the loader (R175, R186). -/

/-- A verb that reads the OTP, stopped by its role, a lock or a scope, answers what stopped it. -/
theorem denies_verbS {i : Via → Instr} {role : Role} {us : List UnitId} {f : Via → State → State × VRes}
    (h : ∀ o s, exec (i o) s = .next (rowS o (verbS o role us (f o)) s)) : Denies i role us := by
  intro o s e hheard hgate
  rw [h, rowS_heard hheard]
  simp only [verbS, hgate]
  rfl

/-- A verb that reads the OTP and keeps it, let through. -/
theorem next_rowS_verbS {i : Instr} {o : Via} {role : Role} {us : List UnitId} {f : State → State × VRes} {s : State} {d : Dev}
    {data : List String} {st : Status} (hexec : exec i s = .next (rowS o (verbS o role us f) s))
    (ha : allowed o role us s.dev = true)
    (hf : f { s with dev := arrived o s.dev } = ({ s with dev := arrived o s.dev }, d, some (data, st))) :
    exec i s = .next { s with dev := answered o data st d } := by
  rw [hexec, rowS_verbS ha, hf]
  rfl

/-- The state once a command line has come in. -/
def arrivedS (o : Via) (s : State) : State := { s with dev := arrived o s.dev }

theorem xUcodeCheck_answers {o : Via} {a : Nat} {s : State} (ha : allowed o .engineer [] s.dev = true) :
    let st := (loaderCheck (arrivedS o s) a none).getD okS
    exec (.xUcodeCheck o a) s = .next { s with dev := answered o [] st (arrived o s.dev) } := by
  refine next_rowS_verbS rfl ha ?_
  change (match loaderCheck (arrivedS o s) a none with | some e => _ | none => _) = _
  cases loaderCheck (arrivedS o s) a none <;> rfl

theorem ovlHeader_magic {g : Nat → Byte} {h : Nat × Bool} (hg : ovlHeader g = some h) : Machine.cellAt g 0 = 0x564F594B := by
  unfold ovlHeader at hg
  split at hg
  next hmagic => exact eq_of_beq hmagic
  next => cases hg

/-- What the loader has checked of an overlay that it accepts. -/
theorem loaderCheck_accepts {s : State} {a : Nat} {w : Option (Nat × Bool)} (h : loaderCheck s a w = none) :
    let g (i : Nat) : Byte := memAt s.dev (a + 0x80) i
    a % 4 = 0 ∧ envelopeCheck s.otp (memAt s.dev a) = 0 ∧
      ∃ x, ovlHeader g = some x ∧ (w = none ∨ w = some x) ∧ ovlRule x.2 g (memAt s.dev (baseAddr true)) = none := by
  unfold loaderCheck at h
  dsimp only at h ⊢
  split at h; · cases h
  next hreadable =>
  split at h; · cases h
  next henvelope =>
  split at h; · cases h
  next x hheader =>
  split at h; · cases h
  next hwant =>
  split at h; · cases h
  next hrule =>
  refine ⟨?_, ?_, x, hheader, ?_, hrule⟩
  · simp only [ovlReadable, Bool.not_eq_true', Bool.not_eq_false, Bool.and_eq_true, beq_iff_eq] at hreadable
    exact hreadable.1.1.1.1
  · simpa using henvelope
  · cases w with
    | none => exact .inl rfl
    | some y => exact .inr (by simpa using hwant)

theorem wakeArrives_golden (d : Dev) (w : WakeSrc) : (wakeArrives d w).golden = d.golden := by
  unfold wakeArrives
  cases d.pmu.trans with
  | some t => exact (apply_ite Dev.golden _ _ _).trans (ite_self _)
  | none => exact (apply_ite Dev.golden _ _ _).trans (ite_self _)

theorem lineArrives_golden (d : Dev) (p : MgPort) (gen : Bool) : (lineArrives d p gen).golden = d.golden := by
  simp only [lineArrives, updMg_golden, apply_ite Dev.golden, wakeArrives_golden, ite_self]

theorem arrived_golden (o : Via) (d : Dev) : (arrived o d).golden = d.golden := by
  cases o with
  | typed p => exact lineArrives_golden d p false
  | gen p n => exact lineArrives_golden d p true
  | script => rfl

section Load

variable {o : Via} {f : Fin 8} {t : Bool} {a : Nat} {s : State} (ha : allowed o .machine [.fold f] s.dev = true)
include ha

theorem xUcodeLoad_stages (hfree : s.dev.golden.staged.isNone = true)
    (hcheck : loaderCheck (arrivedS o s) a (some (f.val, t)) = none) :
    let d := arrived o s.dev
    let e := (d.clearRange stagingAddr 0x4800).setByteList stagingAddr (bytesAt (memAt d a) 0x80 0x4800)
    let e := stageOverlay e { fold := f.val, tether := t, empty := false, arb := Machine.cellAt (memAt d a) 8 }
    exec (.xUcodeLoad o f t a) s = .next { s with dev := answered o [] okS e } := by
  have hstaged : ¬ (arrived o s.dev).golden.staged.isSome = true := by
    rw [arrived_golden, Option.not_isSome_iff_eq_none]
    exact Option.isNone_iff_eq_none.mp hfree
  refine next_rowS_verbS rfl ha ((if_neg hstaged).trans ?_)
  change (match loaderCheck (arrivedS o s) a (some (f.val, t)) with | some e => _ | none => _) = _
  rw [hcheck]
  rfl

theorem xUcodeLoad_waits (hstaged : s.dev.golden.staged.isSome = true) :
    exec (.xUcodeLoad o f t a) s = .next { s with dev := answered o [] (er 40) (arrived o s.dev) } :=
  next_rowS_verbS rfl ha (if_pos (arrived_golden o s.dev ▸ hstaged))

end Load

/-! Machine checks and the hook (R202, R203). -/

theorem mcheckReport_running {d : Dev} (u : UnitId) (code : Byte) (x pc a : Word) (hhalt : d.bw.halt = false) :
    mcheckReport d u code x pc a =
      (let e := emit (bwRecord d 1 u code x pc a) (some .fence) (some u) ("!MCHK " ++ hex8 code.toNat ++ " " ++ unitName u)
       if d.bw.hook then { e with bw := { e.bw with hookRun := e.bw.hookRun + 1 } } else e) := by
  have hrecord := sameBw_bwRecord d 1 u code x pc a
  simp only [mcheckReport, hrecord.halt, hhalt, emit_bw, hrecord.hook, Bool.not_false, Bool.and_true, Bool.false_eq_true, if_false]

/-- A machine check that fences its unit calls the hook where it is enabled and the Bellwether runs. -/
theorem causesCheck_calls {d : Dev} (u : UnitId) (pc a : Word) (hhook : d.bw.hook = true) (hhalt : d.bw.halt = false) :
    0 < (causesCheck d u pc a).bw.hookRun := by
  have hfence := sameBw_fence d u .mcheck
  simp only [causesCheck, mcheckReport_running _ _ _ _ _ (hfence.halt.trans hhalt), hfence.hook, hhook, if_true]
  exact Nat.succ_pos _

theorem satInc_of_le {n m : Nat} (h : n ≤ m) : satInc n m = min (n + 1) m := by
  unfold satInc
  split <;> omega

/-- The device once the hook has returned with its requests, where it was called and made some. -/
def hookReturned (hook : List HookReq) (d : Dev) : Dev :=
  if 0 < d.bw.hookRun && hook != [] then
    let d := hook.foldl hookRequest d
    { d with bw := { d.bw with hookRun := 0 } }
  else d

theorem hookReturned_nil (d : Dev) : hookReturned [] d = d := if_neg (ne_true_of_eq_false (Bool.and_false _))

theorem hookReturned_one {d : Dev} (r : HookReq) (h : 0 < d.bw.hookRun) :
    hookReturned [r] d =
      let e := hookRequest d r
      { e with bw := { e.bw with hookRun := 0 } } := by
  refine if_pos ?_
  simp [h]

section Check

variable {d : Dev} {u : UnitId} (h : ((d.unit u).st != .absent) = true) (hook : List HookReq)
include h

theorem mMachineCheck_causes : mMachineCheck u 0x12 hook d = hookReturned hook (causesCheck d u 0 0) := by
  simp [mMachineCheck, hookReturned, bne_iff_ne.mp h]

theorem mMachineCheck_parity :
    mMachineCheck u 0x10 hook d = hookReturned hook (machineCheck { d with free := d.free + 1 } u 0x10 (Config.freeCell d.free) 0 0) := by
  simp [mMachineCheck, hookReturned, bne_iff_ne.mp h]

theorem mMachineCheck_ecc :
    mMachineCheck u 0x11 hook d = hookReturned hook (mcheckReport { d with free := d.free + 1 } u 0x11 (Config.freeCell d.free) 0 0) := by
  simp [mMachineCheck, hookReturned, bne_iff_ne.mp h]

end Check

/-! A gate's argument check (R210). -/

theorem xGateTry_answers {o : Via} {p : Fin 8} {n : Nat} {xs : List Nat} {s : State} (hn : n < 256) (hxs : ∀ x ∈ xs, x < 2 ^ 32)
    (ha : allowed o .engineer [.pen p] s.dev = true) (hargc : xs.length = gateArgc (peekGate (arrived o s.dev) p.val n)) :
    let d := arrived o s.dev
    let l := peekGate d p.val n
    let r := match firstBadArg d (d.pen p.val).fold .u l (xs.map toWord) with
      | some i => toString i ++ " " ++ hex32 (lget (xs.map toWord) 0 i)
      | none => "pass"
    exec (.xGateTry o p n xs) s = .next { s with dev := answered o [r] okS d } := by
  intro d l r
  have hrange : (256 ≤ n || xs.any (0x100000000 ≤ ·) || xs.length != gateArgc l) = false := by
    simpa [l, d, hargc] using And.intro hn hxs
  refine (congrArg (fun d => Host.Outcome.next { s with dev := d }) (row_verb ha)).trans ?_
  refine (congrArg (fun v => Host.Outcome.next { s with dev := reply o v }) (if_neg (ne_true_of_eq_false hrange))).trans ?_
  simp only [r]
  cases firstBadArg d (d.pen p.val).fold .u l (xs.map toWord) <;> rfl

/-- Settles O50: the verbs answer what the loader and the Bellwether's registers give; and because a fence changes nothing of the
Bellwether but its ring of records, a machine check that fences its unit still calls the hook, whose requests then reach the arbiter. -/
theorem overlaysAndBellwether : Obligations.OverlaysAndBellwether := by
  unfold Obligations.OverlaysAndBellwether
  intro fenced with' inUse staged' asked
  have hasked (r : HookReq) (d : Dev) : hookRequest d r = asked r d := by
    obtain ⟨op, u⟩ := r
    cases op with
    | reset =>
      cases hkeeps : (withContents d u).any fun y => hasCause (d.unit y) .shed || hasCause (d.unit y) .disagree with
      | true => simp only [hookRequest, asked, hkeeps, if_true, and_self]
      | false => simp only [hookRequest, asked, hkeeps, Bool.false_eq_true, if_false, and_false]
    | other => rfl
    | on | off | fence | unfence => exact (if_neg fun h => nomatch h.1).symm
  refine ⟨?check, ?load, ?accepts, ?unload, ?cancel, ?fences, ?parity, ?ecc, ?hooked, ?reports, ?timeout, ?lockstep, ?gateTry, ?excInject,
    ?excClear, ?hookOff, ?hookOn⟩
  case check => exact fun a => ⟨denies_verbS fun _ _ => rfl, fun o s ha => xUcodeCheck_answers ha⟩
  case load =>
    refine fun f t a => ⟨denies_verbS fun _ _ => rfl, fun o s ha => ⟨fun hfree hcheck => ?_, fun hstaged => ?_⟩⟩
    · exact xUcodeLoad_stages ha hfree hcheck
    · exact xUcodeLoad_waits ha hstaged
  case accepts =>
    intro s a w h g
    obtain ⟨halign, henvelope, x, hheader, hwant, hrule⟩ := loaderCheck_accepts h
    exact ⟨halign, henvelope, ovlHeader_magic hheader, x, hheader, hwant, hrule⟩
  case unload =>
    refine fun f t => does_verb (fun _ _ => rfl) fun o d hfree => if_neg ?_
    exact Option.not_isSome_iff_eq_none.mpr (Option.isNone_iff_eq_none.mp hfree)
  case cancel => exact does_verb (fun _ _ => rfl) fun _ _ _ => rfl
  case fences =>
    exact fun u => happens_of (fun _ => rfl) fun d h => (mMachineCheck_causes h []).trans (hookReturned_nil _)
  case parity =>
    exact fun u => happens_of (fun _ => rfl) fun d h => (mMachineCheck_parity h []).trans (hookReturned_nil _)
  case ecc =>
    exact fun u => happens_of (fun _ => rfl) fun d h => (mMachineCheck_ecc h []).trans (hookReturned_nil _)
  case hooked =>
    refine fun u r => happens_of (fun _ => rfl) fun d hpre => ?_
    simp only [Bool.and_eq_true, Bool.not_eq_true'] at hpre
    obtain ⟨⟨hpresent, hhook⟩, hhalt⟩ := hpre
    rw [mMachineCheck_causes hpresent, hookReturned_one r (causesCheck_calls u 0 0 hhook hhalt), hasked]
    rfl
  case reports => exact fun d u code x pc a hhalt => mcheckReport_running u code x pc a hhalt
  case timeout =>
    refine happens_of (fun _ => rfl) fun d hpre => ?_
    simp only [Bool.and_eq_true, Bool.not_eq_true', decide_eq_true_eq] at hpre
    obtain ⟨⟨hcalled, hhalt⟩, hfew⟩ := hpre
    have hrecord := sameBw_bwRecord d 4 .pmu 0 0 0 0
    have hgoes : (d.bw.hookRun == 0 || d.bw.halt) = false := by simp [Nat.ne_of_gt hcalled, hhalt]
    simp only [mHookTimeout, hgoes, Bool.false_eq_true, if_false, setCell_bw, hrecord.hookRun, hrecord.hookAbn, satInc_of_le hfew]
  case lockstep => exact happens_of (fun _ => rfl) fun d hruns => if_neg (ne_true_of_eq_false ((Bool.not_eq_true' _).mp hruns))
  case gateTry =>
    refine fun p n xs hn hxs => ⟨denies_verb fun _ _ => rfl, fun o s ha => ?_⟩
    exact fun hargc => xGateTry_answers hn hxs ha hargc
  case excInject =>
    refine fun c n hlo hhi => does_verb (fun _ _ => rfl) fun o d _ => if_neg ?_
    simp only [Bool.or_eq_true, beq_iff_eq, decide_eq_true_eq]
    omega
  case excClear => exact fun p => does_verb (fun _ _ => rfl) fun _ _ _ => rfl
  case hookOff => exact does_verb (fun _ _ => rfl) fun _ _ _ => rfl
  case hookOn =>
    refine does_verb (fun _ _ => rfl) fun o d hpre => if_neg ?_
    simp only [Bool.and_eq_true, decide_eq_true_eq] at hpre
    obtain ⟨hfew, hentry⟩ := hpre
    simpa [hfew] using bne_iff_ne.mp hentry

end Sys2Proof.Proofs

/-! SUPPORT. The entry to an exception handler whose frame is too large for a cell to hold its size (spec/09 R190, R191). -/
namespace Sys2Proof.Proofs

open Sys2Proof Sys2Proof.Machine Sys2Proof.Safety Sys2Proof.Laws

/-- A Tether pen whose exception frames have 2^24 units of 256 bytes, and its core 0 with a gate stack in its own local memory. -/
def oversizedFrame : Dev :=
  (Dev.reset.updPen 0 fun k => { k with pers := some true, exv := 0x300, exctl := 2 ^ 24 }).updCore 0 fun k => { k with gsbF := 0x8000 }

/-- The model takes the size of the frame as a cell, which is 0, and puts the empty stack at the gate-stack base. -/
theorem spd_oversizedFrame :
    ((excEntered (tileCutoff oversizedFrame 0) 0 (Exc.of 7) 0 0 [] 0).core 0).bank.spd = 0x7FFC := by decide +kernel

/-- Refutes O27: the statement bounds the frame size nowhere, and EXCTL.FRAME is a number of any size in a device. At 2^24 units the size in
bytes is 0 as a cell, so that SP.D is left at G - 4 where the statement has G - 2^30 - 4. The register of spec/09 R211 has six bits. -/
theorem not_exceptionEntry : ¬ Obligations.ExceptionEntry := by
  unfold Obligations.ExceptionEntry
  intro h
  obtain ⟨-, hentered⟩ := h oversizedFrame 0 (Exc.of 7) 0 0 [] 0 (by decide +kernel)
  obtain ⟨-, -, -, -, -, -, -, -, -, -, -, -, -, hspd, -⟩ := hentered (by decide +kernel)
  rw [spd_oversizedFrame] at hspd
  exact absurd hspd (by decide +kernel)

end Sys2Proof.Proofs

/-! SUPPORT. The stacks as they switch to a frame and back from it (spec/09 R191 to R193, R197). -/
namespace Sys2Proof.Proofs

open Sys2Proof Sys2Proof.Machine Sys2Proof.Safety Sys2Proof.Laws

/-! A gate-stack base and a bank, read back. -/

@[simp] theorem gsb_setGsb (k : Core) (h : Priv) (v : Word) : (k.setGsb h v).gsb h = v := by
  cases h <;> rfl

@[simp] theorem bank_setBank {k : Core} (b : Bank) (hlvl : k.lvl < k.banks.length) : (k.setBank b).bank = b := by
  simp [Core.bank, Core.setBank, lget, lset, hlvl]

/-! The switch to a frame. -/

theorem setGsb_lvl (k : Core) (h : Priv) (v : Word) : (k.setGsb h v).lvl = k.lvl := by
  cases h <;> rfl

theorem setGsb_banks (k : Core) (h : Priv) (v : Word) : (k.setGsb h v).banks = k.banks := by
  cases h <;> rfl

theorem pushCells_lvl (k : Core) (t : Bool) (l : List Word) : (k.pushCells t l).lvl = k.lvl := by
  cases t <;> rfl

theorem length_pushCells_banks (k : Core) (t : Bool) (l : List Word) : (k.pushCells t l).banks.length = k.banks.length := by
  cases t <;> exact List.length_set

/-- What an open frame keeps of its caller. -/
def gateSave (k : Core) (t : Bool) : GateSave :=
  { lvl := k.lvl, bank := if t then k.bank else { k.bank with data := [], rets := [], wc := [], wn := 0 },
    dbase := k.dbase, rbase := k.rbase, fbase := k.fbase }

section Open

variable (k : Core) (t : Bool) (h : Priv) (g frame : Word) (l : List Word)

theorem openFrame_gates : (k.openFrame t h g frame l).gates = gateSave k t :: k.gates := by
  cases t <;> cases h <;> rfl

theorem openFrame_gdep : (k.openFrame t h g frame l).gdep = k.gdep + 1 := by
  cases t <;> cases h <;> rfl

theorem openFrame_priv : (k.openFrame t h g frame l).priv = h := by
  cases t <;> cases h <;> rfl

theorem openFrame_flags : (k.openFrame t h g frame l).z = false ∧ (k.openFrame t h g frame l).n = false ∧
    (k.openFrame t h g frame l).c = false ∧ (k.openFrame t h g frame l).v = false := by
  cases t <;> cases h <;> exact ⟨rfl, rfl, rfl, rfl⟩

theorem openFrame_lvl : (k.openFrame t h g frame l).lvl = k.lvl := by
  cases t <;> simp [Core.openFrame, pushCells_lvl, setGsb_lvl, Core.clearFlags, Core.setBank, Core.exchange]

theorem length_openFrame_banks : (k.openFrame t h g frame l).banks.length = k.banks.length := by
  cases t <;> simp [Core.openFrame, length_pushCells_banks, setGsb_banks, Core.clearFlags, Core.setBank, Core.exchange, lset]

end Open

/-! The switch back. -/

theorem closeFrame_ie (k : Core) (t : Bool) (h : Priv) (f : List Word) : (k.closeFrame t h f).ie = k.ie := by
  unfold Core.closeFrame
  cases k.gates with
  | nil => rfl
  | cons s r => cases t <;> cases h <;> rfl

section Close

variable {k : Core} {s : GateSave} {r : List GateSave} (hgates : k.gates = s :: r) (t : Bool) (h : Priv) (f : List Word)
include hgates

theorem closeFrame_regs : (k.closeFrame t h f).pc = lget f 0 0 ∧ (k.closeFrame t h f).gfr = lget f 0 7 ∧
    (k.closeFrame t h f).gsb h = lget f 0 6 := by
  unfold Core.closeFrame
  rw [hgates]
  cases t <;> cases h <;> exact ⟨rfl, rfl, rfl⟩

theorem closeFrame_nesting : (k.closeFrame t h f).gates = r ∧ (k.closeFrame t h f).gdep = k.gdep - 1 ∧ (k.closeFrame t h f).lvl = k.lvl := by
  unfold Core.closeFrame
  rw [hgates]
  cases t <;> cases h <;> exact ⟨rfl, rfl, rfl⟩

theorem closeFrame_bases : (k.closeFrame false h f).dbase = s.dbase ∧ (k.closeFrame false h f).rbase = s.rbase ∧
    (k.closeFrame false h f).fbase = s.fbase := by
  unfold Core.closeFrame
  rw [hgates]
  cases h <;> exact ⟨rfl, rfl, rfl⟩

theorem closeFrame_bank (hlvl : k.lvl < k.banks.length) : (k.closeFrame t h f).bank =
    { s.bank with spd := lget f 0 2, spr := lget f 0 3, fp := lget f 0 4, rets := [], tflg := k.bank.tflg } := by
  unfold Core.closeFrame
  rw [hgates]
  cases t <;> cases h <;> exact bank_setBank _ hlvl

end Close

/-- Settles O28: the frame's cells give back the registers, and what the open frame kept gives back the bank and the bases. -/
theorem returnReversesEntry : Obligations.ReturnReversesEntry := by
  unfold Obligations.ReturnReversesEntry
  intro k t h g frame ret spd tag l hlvl r
  have hgates := openFrame_gates k t h g frame l
  have hopen : (k.openFrame t h g frame l).lvl < (k.openFrame t h g frame l).banks.length := by
    rwa [openFrame_lvl, length_openFrame_banks]
  obtain ⟨hpc, hgfr, hgsb⟩ := closeFrame_regs hgates t h (frameCells k t ret spd tag h)
  obtain ⟨hrest, hgdep, hlevel⟩ := closeFrame_nesting hgates t h (frameCells k t ret spd tag h)
  have hfield {α : Type} (f : Bank → α) := congrArg f (closeFrame_bank hgates t h (frameCells k t ret spd tag h) hopen)
  refine ⟨hpc, hfield Bank.spd, hfield Bank.spr, hfield Bank.fp, hgsb, hgfr, ?gdep, hrest, ?lvl, ?rdepth, ?tether, ?drove⟩
  case gdep => rw [hgdep, openFrame_gdep, Nat.add_sub_cancel]
  case lvl => rw [hlevel, openFrame_lvl]
  case rdepth => cases t <;> exact hfield Bank.rdepth
  case tether =>
    rintro rfl
    exact ⟨hfield Bank.data, hfield Bank.wc, hfield Bank.wn⟩
  case drove =>
    rintro rfl
    exact closeFrame_bases hgates h _

end Sys2Proof.Proofs

/-! SUPPORT. A read of registers or of memory that completes leaves every pen its personality, whatever else it does: a return reads its frame
at any address, and its core is of one personality before and after (spec/00 R9, spec/07 R143, spec/09 R193). -/
namespace Sys2Proof.Proofs

open Sys2Proof Sys2Proof.Machine Sys2Proof.Safety Sys2Proof.Laws

/-- Every pen keeps its personality. -/
structure SamePers (d e : Dev) : Prop where
  pers : ∀ p, (e.pen p).pers = (d.pen p).pers

theorem SamePers.refl (d : Dev) : SamePers d d := ⟨fun _ => rfl⟩

theorem SamePers.trans {d e f : Dev} (h : SamePers d e) (g : SamePers e f) : SamePers d f := ⟨fun p => (g.pers p).trans (h.pers p)⟩

theorem SamePers.tether {d e : Dev} (h : SamePers d e) (c : Nat) : e.tether c = d.tether c :=
  congrArg (· == some true) (h.pers (penOf c))

theorem SamePers.ite {c : Prop} [Decidable c] {d e f : Dev} (he : SamePers d e) (hf : SamePers d f) :
    SamePers d (if c then e else f) := by
  split <;> assumption

theorem SamePers.foldl {α : Type} {f : Dev → α → Dev} (h : ∀ d x, SamePers d (f d x)) (l : List α) (d : Dev) :
    SamePers d (l.foldl f d) := by
  induction l generalizing d with
  | nil => exact .refl d
  | cons x l ih => exact (h d x).trans (ih _)

/-! Events (spec/11). -/

theorem samePers_emit (d : Dev) (c : Option EvClass) (u : Option UnitId) (t : String) : SamePers d (emit d c u t) := ⟨fun _ => rfl⟩

theorem samePers_updCore (d : Dev) (c : Nat) (f : Core → Core) : SamePers d (d.updCore c f) := ⟨fun _ => rfl⟩

theorem samePers_updSlice (d : Dev) (n : Nat) (f : Slice → Slice) : SamePers d (d.updSlice n f) := ⟨fun _ => rfl⟩

theorem samePers_updPort (d : Dev) (i : Nat) (f : Port → Port) : SamePers d (d.updPort i f) := ⟨fun _ => rfl⟩

theorem samePers_setPen {d : Dev} {p : Nat} {k : Pen} (h : k.pers = (d.pen p).pers) : SamePers d (d.setPen p k) := by
  refine ⟨fun q => ?_⟩
  by_cases hq : q = p
  · rw [hq, pen_setPen_same, h]
  · rw [pen_setPen_other _ _ _ _ hq]

theorem samePers_setPending (d : Dev) (p l : Nat) : SamePers d (setPending d p l) := by
  have hdeliver (d : Dev) : SamePers d (deliver d p l) := samePers_setPen rfl
  have hmark (d : Dev) : SamePers d (d.setPen p { d.pen p with pend := setBit (d.pen p).pend l true }) := samePers_setPen rfl
  have hcores := SamePers.foldl (fun d i => samePers_updCore d (4 * p + i) fun c => { c with newRec := setBit c.newRec l true })
    (List.range 4)
  exact .ite (.refl d) (.ite ((hmark d).trans ((hcores _).trans (hdeliver _))) ((hmark d).trans (hcores _)))

theorem samePers_passLine (d : Dev) (f l : Nat) : SamePers d (passLine d f l) :=
  .foldl (fun d p => .ite (samePers_setPending d p l) (.refl d)) _ d

theorem samePers_fireLine (d : Dev) (f l : Nat) : SamePers d (fireLine d f l) :=
  .ite (samePers_updSlice ..) <| .ite (.refl d) <| .ite (samePers_updSlice ..) <|
    .ite ((samePers_updSlice ..).trans (samePers_passLine ..)) <|
    .ite (samePers_updSlice ..) ((samePers_updSlice ..).trans (samePers_emit ..))

theorem samePers_fireSource (d : Dev) (n : Nat) : SamePers d (fireSource d n) :=
  .ite (.refl d) <| .ite (.ite ⟨fun _ => rfl⟩ (.refl d)) <| .ite (.refl d) <| .ite (samePers_fireLine ..) (.refl d)

/-! A read of RXQ makes room for a frame that waits (spec/16 R347, R351, R352, R366). -/

theorem samePers_poolWatch (d : Dev) : SamePers d (poolWatch d) :=
  .ite ⟨fun _ => rfl⟩ <| .ite ⟨fun _ => rfl⟩ (.refl d)

theorem samePers_bufTake (d : Dev) (r f : Nat) : SamePers d (bufTake d r f).1 := by
  unfold bufTake
  split
  · exact .refl d
  · exact ⟨(samePers_poolWatch _).pers⟩

theorem samePers_bufRequest (d : Dev) (r f : Nat) : SamePers d (bufRequest d r f).1 := by
  unfold bufRequest
  split
  · exact ⟨fun _ => rfl⟩
  · split
    · exact samePers_bufTake ..
    · exact .refl d

theorem samePers_rxTake (n : Nat) (d : Dev) (i : Nat) (fr : RxFrame) : SamePers d (rxTake n d i fr).1 := by
  induction n generalizing d fr with
  | zero => exact .refl d
  | succ n ih =>
    have hbuf := samePers_bufRequest d i fr.fold
    unfold rxTake
    split
    · exact .refl d
    · split <;> rename_i hreq <;> rw [hreq] at hbuf
      · exact hbuf
      · exact hbuf.trans (ih _ _)

theorem samePers_setByteList (l : List Byte) (d : Dev) (a : Nat) : SamePers d (d.setByteList a l) := by
  induction l generalizing d a with
  | nil => exact .refl d
  | cons b r ih => exact ⟨(ih _ _).pers⟩

theorem samePers_setEcc (d : Dev) (a v : Nat) : SamePers d (setEcc d a v) := ⟨fun _ => rfl⟩

theorem samePers_portStore (d : Dev) (a : Nat) (l : List Byte) : SamePers d (portStore d a l) :=
  (samePers_setByteList l d a).trans (.foldl (fun d j => samePers_setEcc d (a + 4 * j) 0) _ _)

theorem samePers_rxPlace (d : Dev) (i : Nat) (fr : RxFrame) : SamePers d (rxPlace d i fr) := by
  have hbytes := SamePers.foldl (fun d (x : Nat × Nat) => samePers_portStore d (bufAddr x.1) (chunkOf fr.bytes x.2)) fr.bufs.zipIdx d
  refine .ite (.trans ?_ (samePers_fireSource ..)) ?_ <;>
    exact hbytes.trans <| (samePers_updPort ..).trans (samePers_updPort ..)

theorem samePers_portOffer (n : Nat) (d : Dev) (i : Nat) : SamePers d (portOffer n d i) := by
  induction n generalizing d with
  | zero => exact .refl d
  | succ n ih =>
    unfold portOffer
    split
    · exact .refl d
    · have htake := fun fr => samePers_rxTake 2 d i fr
      exact .ite ((htake _).trans <| (samePers_updPort ..).trans <| (samePers_rxPlace ..).trans (ih _))
        ((htake _).trans (samePers_updPort ..))

theorem samePers_rxqPop (d : Dev) (i f : Nat) : SamePers d (rxqPop d i f).1 := by
  have hpop : SamePers d (updSub d i f subPop) := samePers_updPort ..
  exact .ite (hpop.trans (samePers_portOffer ..)) hpop

/-! Registers (spec/00 R9). A read that only shows a value leaves the device as it is. -/

theorem samePers_emptyRead (d : Dev) (dry : Bool) : SamePers d (emptyRead d dry).1 := by
  cases dry <;> exact ⟨fun _ => rfl⟩

theorem samePers_afeRead (d : Dev) (q : Req) (off : Nat) (side : Bool) : SamePers d (afeRead d q off side).1 := by
  unfold afeRead
  dsimp only
  split
  · split
    · exact .refl d
    · split
      · exact samePers_emptyRead ..
      · exact .ite (.refl d) ⟨fun _ => rfl⟩
  · exact ⟨fun _ => rfl⟩

theorem samePers_gpioRead (d : Dev) (q : Req) (off : Nat) (side : Bool) : SamePers d (gpioRead d q off side).1 := by
  unfold gpioRead
  dsimp only
  split
  · exact .refl d
  · split
    · split
      · exact samePers_emptyRead ..
      · exact .ite (.refl d) ⟨fun _ => rfl⟩
    · split
      · exact .refl d
      · split
        · unfold hoLevels
          split <;> exact ⟨fun _ => rfl⟩
        · exact .refl d

theorem samePers_portRead (d : Dev) (q : Req) (u : FieldPort) (off : Nat) (side : Bool) : SamePers d (portRead d q u off side).1 := by
  unfold portRead
  dsimp only
  split
  · exact .refl d
  · split
    · exact .refl d
    · split
      · split
        · exact .refl d
        · exact samePers_rxqPop ..
      · exact .refl d
      · exact .refl d
      · split <;> exact .refl d

theorem samePers_ptabRead (d : Dev) (q : Req) (off : Nat) : SamePers d (ptabRead d q off).1 := by
  unfold ptabRead
  dsimp only
  split
  · split
    · exact .refl d
    · split <;> exact ⟨fun _ => rfl⟩
  · exact ⟨fun _ => rfl⟩

theorem samePers_poolRead (d : Dev) (q : Req) (off : Nat) : SamePers d (poolRead d q off).1 := by
  unfold poolRead
  split
  · split
    · exact .refl d
    next f _ =>
      have hbuf := samePers_bufRequest d (96 + f) f
      split <;> rename_i hreq <;> rw [hreq] at hbuf <;> exact hbuf
  · exact ⟨fun _ => rfl⟩

theorem samePers_dmaRead (d : Dev) (q : Req) (off : Nat) : SamePers d (dmaRead d q off).1 := by
  unfold dmaRead
  dsimp only
  split <;> exact ⟨fun _ => rfl⟩

theorem samePers_periphRead (d : Dev) (q : Req) (a : Nat) : SamePers d (periphRead d q a).1 := by
  unfold periphRead
  dsimp only
  split
  · exact ⟨fun _ => rfl⟩
  · exact ⟨fun _ => rfl⟩
  · exact ⟨fun _ => rfl⟩
  · exact samePers_dmaRead ..
  · exact ⟨fun _ => rfl⟩
  · split
    · exact .refl d
    · split
      · exact samePers_afeRead ..
      · exact .refl d
  · split
    · exact samePers_gpioRead ..
    · exact .refl d
  · split <;> exact ⟨fun _ => rfl⟩
  · exact ⟨fun _ => rfl⟩
  · exact ⟨fun _ => rfl⟩
  · split
    · split
      · exact samePers_portRead ..
      · exact .refl d
    · split
      · split
        · exact samePers_ptabRead ..
        · exact samePers_poolRead ..
      · split
        · exact ⟨fun _ => rfl⟩
        · split <;> exact .refl d

theorem samePers_penEvRead (d : Dev) (q : Req) (p off : Nat) : SamePers d (penEvRead d q p off).1 := by
  unfold penEvRead
  dsimp only
  split
  · exact .refl d
  · split
    · dsimp only
      split
      · exact .ite (samePers_updCore ..) (.refl d)
      · exact .refl d
    · exact .refl d

theorem samePers_penRead (d : Dev) (q : Req) (p off : Nat) : SamePers d (penRead d q p off).1 := by
  unfold penRead
  split
  · exact .refl d
  · split
    · exact ⟨fun _ => rfl⟩
    · split
      · exact ⟨fun _ => rfl⟩
      · split
        · exact samePers_penEvRead ..
        · exact ⟨fun _ => rfl⟩

theorem samePers_tileRead (d : Dev) (q : Req) (p off : Nat) : SamePers d (tileRead d q p off).1 := by
  unfold tileRead
  dsimp only
  split
  · exact .refl d
  · split <;> exact ⟨fun _ => rfl⟩

theorem samePers_penRegRead (d : Dev) (q : Req) (p o : Nat) : SamePers d (penRegRead d q p o).1 := by
  unfold penRegRead
  split
  · exact samePers_penRead ..
  · split
    · exact samePers_tileRead ..
    · exact .refl d

theorem samePers_regsRead (d : Dev) (q : Req) (a : Nat) : SamePers d (regsRead d q a).1 := by
  unfold regsRead
  split
  · exact samePers_periphRead ..
  · exact samePers_penRegRead ..
  · exact ⟨fun _ => rfl⟩
  · exact .refl d

/-! A read by the hardware of a core that completes. -/

theorem samePers_memRead {d e : Dev} {a n : Nat} {who : String} {u : UnitId} {v : Word} (h : memRead d a n who u = (e, some v)) :
    SamePers d e := by
  unfold memRead at h
  by_cases hbad : 2 ≤ (if eccRegion (regionOf a) then eccOf d a else 0)
  · cases (if_pos hbad).symm.trans h
  · obtain ⟨rfl, -⟩ := Prod.mk.inj ((if_neg hbad).symm.trans h)
    exact .ite ⟨fun _ => rfl⟩ (.refl d)

theorem samePers_anyRead {d e : Dev} {q : Req} {a n : Nat} {who : String} {u : UnitId} {v : Word}
    (h : anyRead d q a n who u = (e, .ok v)) : SamePers d e := by
  have hregs := samePers_regsRead d q (a / 4 * 4)
  unfold anyRead at h
  split at h
  · split at h <;> rename_i hread <;> rw [hread] at hregs <;> cases h
    exact hregs
  · split at h
    · cases h
      exact .refl d
    · split at h <;> rename_i hmem <;> cases h
      exact samePers_memRead hmem

theorem samePers_charge (d : Dev) (f : Option Nat) (n : Nat) (k : MClass) (a : Nat) : SamePers d (charge d f n k a) :=
  ⟨fun p => by rw [charge_pen]⟩

theorem samePers_countAccess (d : Dev) (c a : Nat) (k : MClass) : SamePers d (countAccess d c a k) :=
  .ite (samePers_updCore ..) ((samePers_updCore ..).trans (samePers_charge ..))

theorem samePers_coreRead {beat : Bool} {d e : Dev} {c : Nat} {p : Priv} {a n : Nat} {v : Word}
    (h : coreRead beat d c p a n = (e, .ok v)) : SamePers d e := by
  unfold coreRead at h
  split at h
  · cases h
  · have hcount : SamePers d (if beat then countAccess d c a (coreClass d c (d.core c).lvl) else d) :=
      .ite (samePers_countAccess ..) (.refl d)
    dsimp only at h
    split at h
    · rename_i hread
      cases h
      exact hcount.trans (samePers_anyRead hread)
    · exact hcount.trans (samePers_anyRead h)

theorem samePers_hwRead {beat : Bool} {c : Nat} {p : Priv} {q : Byte} {a : Nat} {d e : Dev} {v : Word}
    (h : hwRead beat c p q a d = .ok v e) : SamePers d e := by
  unfold hwRead at h
  rw [get_bind] at h
  rcases hread : coreRead beat d c p (absAddr c a) 4 with ⟨f, r⟩
  rw [hread] at h
  cases r <;> cases h
  exact samePers_coreRead hread

/-- An action that completes after another: the first completes, and the second on what it leaves. -/
theorem ok_of_bind {α β : Type} {m : IM α} {f : α → IM β} {b : β} {d e : Dev} (h : (m >>= f) d = .ok b e) :
    ∃ a d', m d = .ok a d' ∧ f a d' = .ok b e := by
  simp only [bind, EStateM.bind] at h
  split at h
  · exact ⟨_, _, ‹_›, h⟩
  · cases h

theorem samePers_readMore {beat : Bool} {c : Nat} {p : Priv} {q : Byte} {a n : Nat} {d e : Dev} {l : List Word}
    (h : readMore beat c p q a n d = .ok l e) : SamePers d e := by
  induction n generalizing beat a d e l with
  | zero =>
    cases h
    exact .refl d
  | succ n ih =>
    obtain ⟨v, d', hread, h⟩ := ok_of_bind h
    obtain ⟨r, e', hrest, h⟩ := ok_of_bind h
    cases h
    exact (samePers_hwRead hread).trans (ih hrest)

theorem eq_of_need_ok {ok : Bool} {cause : Byte} {d e : Dev} (h : need ok cause d = .ok () e) : e = d := by
  cases ok
  · rw [need_of_false cause d rfl] at h
    cases h
  · rw [need_of_true cause d rfl] at h
    cases h
    rfl

/-- A frame is read without a change of personality. -/
theorem samePers_readFrame {c : Nat} {exc : Bool} {d e : Dev} {f : List Word} (h : readFrame c exc d = .ok f e) : SamePers d e := by
  unfold readFrame at h
  rw [get_bind] at h
  obtain ⟨_, d₁, hopen, h⟩ := ok_of_bind h
  obtain ⟨l, d₂, hread, h⟩ := ok_of_bind h
  obtain ⟨_, d₃, htag, h⟩ := ok_of_bind h
  cases h
  rw [eq_of_need_ok htag]
  rw [eq_of_need_ok hopen] at hread
  exact samePers_readMore hread

theorem readFrame_of_frameFound {c : Nat} {exc : Bool} {d e : Dev} {f : List Word} (h : frameFound c exc d = some (f, e)) :
    readFrame c exc d = .ok f e := by
  unfold frameFound at h
  split at h <;> cases h
  assumption

theorem readFrame_of_gdep_zero {c : Nat} {d : Dev} (exc : Bool) (h : (d.core c).gdep = 0) :
    readFrame c exc d = .error (.exc (Exc.of 0x03)) d := by
  unfold readFrame
  rw [get_bind]
  exact bind_of_error _ (need_of_false 0x03 d (by simp [h]))

theorem needEven_of_even {a : Word} (d : Dev) (h : a.getLsbD 0 = false) : needEven a d = .ok () d := by
  unfold needEven bitOf
  rw [h]
  rfl

end Sys2Proof.Proofs

/-! SUPPORT. The returns ERET and GRET, and GATE by its steps (spec/09 R193, R195, R197, R200). -/
namespace Sys2Proof.Proofs

open Sys2Proof Sys2Proof.Machine Sys2Proof.Safety Sys2Proof.Laws

theorem popN_run (c n : Nat) (d : Dev) : popN c n d = .ok ((d.core c).view.take n) (popped c n d) := rfl

section Returns

variable {c : Nat} {d e : Dev} {f : List Word}

/-- What a return leaves of the core that holds the frame `f`: PC, stacks and gate registers from it, RPT and IE from its FLG, the privilege
from its TAG. -/
def returned (k : Core) (t : Bool) (f : List Word) (cyc : Nat) : Core :=
  { k.closeFrame t k.priv f with
    rpt := (lget f 0 1).getLsbD 4, ie := if t then (lget f 0 1).getLsbD 5 else k.ie, priv := returnPriv (lget f 0 5) k.priv,
    cyc := k.cyc + cyc }

theorem bEret_run (hpriv : (d.core c).priv ≠ .u) (hframe : readFrame c true d = .ok f e) (heven : (lget f 0 0).getLsbD 0 = false) :
    bEret.run c d = .ok () (e.updCore c fun k => (returned k (d.tether c) f 4).setZncv (lget f 0 1)) := by
  refine (bind_of_ok _ (need_of_true 0x02 d (bne_iff_ne.mpr hpriv))).trans ?_
  refine (bind_of_ok _ hframe).trans ?_
  refine (bind_of_ok _ (needEven_of_even e heven)).trans ?_
  rw [get_bind, (samePers_readFrame hframe).tether c]
  rfl

theorem bEret_run_atU (hpriv : (d.core c).priv = .u) : bEret.run c d = .error (.exc (Exc.of 0x02)) d := by
  refine (getCore_bind c _ d).trans (bind_of_error _ (need_of_false 0x02 d ?_))
  rw [hpriv]
  rfl

/-- RETC of a frame. -/
def frameRetc (f : List Word) : Nat := fld (lget f 0 5) 16 2

/-- Whether a return can hand `m` cells to its caller. -/
def handsBack (k : Core) (t : Bool) (m : Nat) : Bool :=
  if t then (match k.gates with | g :: _ => decide (k.hidden + m ≤ 16) || g.lvl != k.lvl | [] => true)
  else decide (m ≤ k.bank.data.length)

theorem bGret_run (hframe : readFrame c false d = .ok f e) (heven : (lget f 0 0).getLsbD 0 = false)
    (hdepth : frameRetc f ≤ (e.core c).depth (d.tether c)) (hroom : handsBack (e.core c) (d.tether c) (frameRetc f) = true) :
    bGret.run c d = .ok () (pushed c ((e.core c).view.take (frameRetc f))
      ((popped c (frameRetc f) e).updCore c fun k => returned k (d.tether c) f 5)) := by
  have ht := (samePers_readFrame hframe).tether c
  refine (bind_of_ok _ hframe).trans ?_
  rw [get_bind, ht]
  refine (bind_of_ok _ (need_of_true 0x06 e (decide_eq_true hdepth))).trans ?_
  unfold handsBack at hroom
  cases htether : d.tether c <;> rw [htether] at hroom
  · exact (bind_of_ok _ (fillData_ready (of_decide_eq_true hroom))).trans (bind_of_ok _ (needEven_of_even e heven))
  · exact (bind_of_ok _ (need_of_true 0x05 e hroom)).trans (bind_of_ok _ (needEven_of_even e heven))

theorem bGret_run_noFrame (hgdep : (d.core c).gdep = 0) : bGret.run c d = .error (.exc (Exc.of 0x03)) d :=
  bind_of_error _ (readFrame_of_gdep_zero false hgdep)

theorem bEret_run_noFrame (hpriv : (d.core c).priv ≠ .u) (hgdep : (d.core c).gdep = 0) :
    bEret.run c d = .error (.exc (Exc.of 0x03)) d :=
  (bind_of_ok _ (need_of_true 0x02 d (bne_iff_ne.mpr hpriv))).trans (bind_of_error _ (readFrame_of_gdep_zero true hgdep))

end Returns

/-- The call through gate `n` meets a gate fault before its descriptor is read: the nesting is full, or the gate is of a level below the
caller's (spec/09 R195, R200). -/
def gateClosed (c : Nat) (n : BitVec 8) (d : Dev) : Bool :=
  decide (14 ≤ (d.core c).gdep) || decide (privNum (gateLevel n.toNat) < privNum (d.core c).priv)

/-- The steps of spec/09 R195 all pass for the call through gate `n` on `d`: `d₁` is left once the descriptor `l` is read, `d₂` once the frame
is written. -/
structure GatePasses (c : Nat) (n : BitVec 8) (d d₁ d₂ : Dev) (l : List Word) : Prop where
  free : spareBusy d c = false
  opens : gateClosed c n d = false
  read : readGate c n.toNat d = .ok l d₁
  valid : gateBad d₁ c n.toNat l = false
  depth : gateArgc l ≤ (d₁.core c).depth (d₁.tether c)
  room : (if d₁.tether c then bankRoom (d₁.core c) (gateArgc l) else decide (gateArgc l ≤ (d₁.core c).bank.data.length)) = true
  args : firstBadArg d₁ (d₁.foldOfCore c) (d₁.core c).priv l ((d₁.core c).view.take (gateArgc l)).reverse = none
  windows : (d₁.tether c || windowsKnown (d₁.core c)) = true
  write : writeCells c (gateLevel n.toNat) qualGate ((d₁.core c).gsb (gateLevel n.toNat) - 64).toNat
    (frameCells (d₁.core c) (d₁.tether c) (d₁.core c).pc ((d₁.core c).bank.spd + toWord (4 * gateArgc l))
      (tagWord n.toNat (d₁.core c).priv (gateLevel n.toNat) false (if d₁.tether c then (d₁.core c).lvl else 0) (gateRetc l))
      (gateLevel n.toNat)) d₁ = .ok () d₂

/-- The device once the callee is entered. -/
def gateEntered (c : Nat) (n : BitVec 8) (d₁ d₂ : Dev) (l : List Word) : Dev :=
  (popped c (gateArgc l) d₂).updCore c fun k =>
    { k.openFrame (d₁.tether c) (gateLevel n.toNat) ((d₁.core c).gsb (gateLevel n.toNat)) (toWord (256 * gateFrame l))
        ((d₁.core c).view.take (gateArgc l)).reverse.reverse with
      pc := gcell l 0, cyc := k.cyc + 10 + ((List.range (gateArgc l)).filter fun i => argKind l i != 0).length }

theorem of_ite_none_eq_some {α : Type} {b : Bool} {x : Option α} {a : α} (h : (if b then none else x) = some a) : b = false ∧ x = some a := by
  cases b
  · exact ⟨rfl, h⟩
  · cases h

theorem gateCall_eq_some {c : Nat} {n : BitVec 8} {d e : Dev} (h : gateCall c n d = some e) :
    ∃ d₁ d₂ l, GatePasses c n d d₁ d₂ l ∧ e = gateEntered c n d₁ d₂ l := by
  obtain ⟨hopens, h⟩ := of_ite_none_eq_some h
  split at h
  · cases h
  next l d₁ hread =>
    obtain ⟨hpasses, h⟩ := of_ite_none_eq_some h
    simp only [Bool.or_eq_false_iff] at hopens hpasses
    obtain ⟨⟨hfree, hdeep⟩, hlevel⟩ := hopens
    obtain ⟨⟨⟨⟨hvalid, hdepth⟩, hroom⟩, hargs⟩, hwindows⟩ := hpasses
    dsimp only at h
    split at h
    · cases h
    next d₂ hwrite =>
      cases h
      refine ⟨d₁, d₂, l, ⟨hfree, Bool.or_eq_false_iff.mpr ⟨hdeep, hlevel⟩, hread, hvalid, ?_, ?_, ?_, ?_, hwrite⟩, rfl⟩
      · exact Nat.not_lt.mp (of_decide_eq_false hdepth)
      · exact (Bool.not_eq_false' ..).mp hroom
      · exact Option.isSome_eq_false_iff.mp hargs |> Option.isNone_iff_eq_none.mp
      · exact (Bool.not_eq_false' ..).mp hwindows

theorem ite_run_of_false {α : Type} {b : Bool} {m₁ m₂ : IM α} (d : Dev) (h : b = false) : (if b then m₁ else m₂) d = m₂ d := by
  rw [h]
  rfl

theorem ite_run_of_true {α : Type} {b : Bool} {m₁ m₂ : IM α} (d : Dev) (h : b = true) : (if b then m₁ else m₂) d = m₁ d := by
  rw [h]
  rfl

theorem gateRoom_ready {c m : Nat} {d : Dev} (hdepth : m ≤ (d.core c).depth (d.tether c))
    (hroom : (if d.tether c then bankRoom (d.core c) m else decide (m ≤ (d.core c).bank.data.length)) = true) :
    gateRoom c m d = .ok () d := by
  unfold gateRoom
  refine (get_bind _ d).trans <| (bind_of_ok _ (need_of_true 0x06 d (decide_eq_true hdepth))).trans ?_
  cases htether : d.tether c <;> rw [htether] at hroom
  · exact fillData_ready (of_decide_eq_true hroom)
  · exact need_of_true 0x05 d hroom

theorem checkArgs_good {c n : Nat} {l : List Word} {d : Dev}
    (hargs : firstBadArg d (d.foldOfCore c) (d.core c).priv l ((d.core c).view.take (gateArgc l)).reverse = none) :
    checkArgs c n l d = .ok ((d.core c).view.take (gateArgc l)).reverse d := by
  unfold checkArgs
  refine (get_bind _ d).trans ?_
  dsimp only
  rw [hargs]
  rfl

theorem hideWindows_known {c : Nat} {d : Dev} (h : (d.tether c || windowsKnown (d.core c)) = true) : hideWindows c d = .ok () d := by
  unfold hideWindows
  refine (get_bind _ d).trans ?_
  cases htether : d.tether c <;> rw [htether] at h
  · exact fixWindows_known h 100
  · rfl

section Gate

variable {c : Nat} {n : BitVec 8} {d d₁ d₂ : Dev} {l : List Word}

theorem bGate_run_closed (hfree : spareBusy d c = false) (hclosed : gateClosed c n d = true) :
    (bGate n).run c d = .error (.exc { Exc.of 0x03 with gate := n.toNat }) d := by
  refine (get_bind _ d).trans <| (ite_run_of_false d hfree).trans <| (ite_run_of_true d hclosed).trans ?_
  exact bind_of_error _ rfl

theorem bGate_run (h : GatePasses c n d d₁ d₂ l) : (bGate n).run c d = .ok () (gateEntered c n d₁ d₂ l) := by
  refine (get_bind _ d).trans ?_
  refine (ite_run_of_false d h.free).trans ?_
  refine (ite_run_of_false d h.opens).trans ?_
  refine (bind_of_ok _ h.read).trans <| (get_bind _ d₁).trans ?_
  refine (ite_run_of_false d₁ h.valid).trans ?_
  refine (bind_of_ok _ (gateRoom_ready h.depth h.room)).trans ?_
  refine (bind_of_ok _ (checkArgs_good h.args)).trans ?_
  refine (bind_of_ok _ (hideWindows_known h.windows)).trans <| (get_bind _ d₁).trans ?_
  refine (bind_of_ok _ h.write).trans ?_
  exact bind_of_ok _ (popN_run ..)

end Gate

theorem begun_gdep (n : Nat) (c : Fin 32) (d : Dev) : ((begun n c d).core c.val).gdep = (d.core c.val).gdep := by
  obtain ⟨l, hl⟩ := fetched_core d c n
  rw [begun, core_updCore_same, hl]
  rfl

theorem spareBusy_begun (n : Nat) (c : Fin 32) (d : Dev) : spareBusy (begun n c d) c.val = spareBusy d c.val := by
  obtain ⟨l, hl⟩ := fetched_core d c n
  unfold spareBusy begun
  rw [core_updCore_same, tether_updCore, fetched_tether, hl]
  rfl

theorem gateClosed_begun (m : Nat) (c : Fin 32) (n : BitVec 8) (d : Dev) : gateClosed c.val n (begun m c d) = gateClosed c.val n d := by
  simp only [gateClosed, begun_gdep, begun_priv]

/-- What the callee starts with: its level, and the flags clear (spec/09 R195). -/
theorem gateEntered_core (c : Nat) (n : BitVec 8) (d₁ d₂ : Dev) (l : List Word) :
    let k := (gateEntered c n d₁ d₂ l).core c
    k.priv = gateLevel n.toNat ∧ k.z = false ∧ k.n = false ∧ k.c = false ∧ k.v = false := by
  unfold gateEntered
  rw [core_updCore_same]
  exact ⟨openFrame_priv .., openFrame_flags ..⟩

/-- Settles O30: GATE's body is the chain of the steps that `gateCall` passes, a return ends on the frame that `frameFound` gives, its core of the
personality it began with, and each trap is raised before anything is read. -/
theorem gatesAndReturns : Obligations.GatesAndReturns := by
  unfold Obligations.GatesAndReturns
  intro flags
  refine ⟨fun n => ⟨?gateDoes, ?gateLeaves, ?gateTraps⟩, ?eret, ?gret, ?eretAtU, ?eretNoFrame, ?gretNoFrame⟩
  case gateDoes =>
    refine coreDoes_of_run (b := bGate n) (fun _ _ _ => rfl) fun c d hcall => ?_
    obtain ⟨e, he⟩ := Option.isSome_iff_exists.mp hcall
    obtain ⟨d₁, d₂, l, hpasses, rfl⟩ := gateCall_eq_some he
    exact (bGate_run hpasses).trans (congrArg _ (congrArg (fun o => o.getD (begun 1 c d)) he).symm)
  case gateLeaves =>
    intro c d e he
    obtain ⟨d₁, d₂, l, -, rfl⟩ := gateCall_eq_some he
    exact gateEntered_core ..
  case gateTraps =>
    refine coreTraps_of_run (b := fun _ => bGate n) (fun _ _ _ => rfl) (fun _ => rfl) (fun c q d hpre => ?_) fun _ _ =>
      (by decide : (0x03 : Byte) ≠ 0x10)
    obtain ⟨hfree, hclosed⟩ := Bool.and_eq_true_iff.mp hpre
    exact bGate_run_closed ((spareBusy_begun ..).trans ((Bool.not_eq_true' _).mp hfree)) ((gateClosed_begun ..).trans hclosed)
  case eret =>
    refine coreDoes_of_run (b := bEret) (fun _ _ _ => rfl) fun c d hpre => ?_
    obtain ⟨hpriv, hframe⟩ := Bool.and_eq_true_iff.mp hpre
    have hpriv : ((begun 1 c d).core c.val).priv ≠ .u := by rw [begun_priv]; exact bne_iff_ne.mp hpriv
    cases hfound : frameFound c.val true (begun 1 c d) with
    | none => rw [hfound] at hframe; cases hframe
    | some found =>
      obtain ⟨f, e⟩ := found
      rw [hfound] at hframe
      refine (bEret_run hpriv (readFrame_of_frameFound hfound) ((Bool.not_eq_true' _).mp hframe)).trans ?_
      simp only [bEret, Insn.op, List.length, hfound, flags, closeFrame_ie]
      rfl
  case gret =>
    refine coreDoes_of_run (b := bGret) (fun _ _ _ => rfl) fun c d hpre => ?_
    cases hfound : frameFound c.val false (begun 1 c d) with
    | none => rw [hfound] at hpre; cases hpre
    | some found =>
      obtain ⟨f, e⟩ := found
      rw [hfound] at hpre
      obtain ⟨hpre, hroom⟩ := Bool.and_eq_true_iff.mp hpre
      obtain ⟨heven, hdepth⟩ := Bool.and_eq_true_iff.mp hpre
      refine (bGret_run (readFrame_of_frameFound hfound) ((Bool.not_eq_true' _).mp heven) ?_ ?_).trans ?_
      · rw [begun_tether]
        exact of_decide_eq_true hdepth
      · rw [begun_tether]
        exact hroom
      · simp only [bGret, Insn.op, List.length, hfound, flags, closeFrame_ie]
        rfl
  case eretAtU =>
    refine coreTraps_of_run (b := fun _ => bEret) (fun _ _ _ => rfl) (fun _ => rfl) (fun c q d hpre => ?_) fun _ _ => by decide
    exact bEret_run_atU ((begun_priv ..).trans (eq_of_beq hpre))
  case eretNoFrame =>
    refine coreTraps_of_run (b := fun _ => bEret) (fun _ _ _ => rfl) (fun _ => rfl) (fun c q d hpre => ?_) fun _ _ => by decide
    obtain ⟨hpriv, hgdep⟩ := Bool.and_eq_true_iff.mp hpre
    exact bEret_run_noFrame ((begun_priv ..).symm ▸ bne_iff_ne.mp hpriv) ((begun_gdep ..).trans (eq_of_beq hgdep))
  case gretNoFrame =>
    refine coreTraps_of_run (b := fun _ => bGret) (fun _ _ _ => rfl) (fun _ => rfl) (fun c q d hpre => ?_) fun _ _ => by decide
    exact bGret_run_noFrame ((begun_gdep ..).trans (eq_of_beq hpre))

end Sys2Proof.Proofs

/-! SUPPORT. The limiter's figures as `evr limit` sets them while the slice's storm is not over (spec/11 R245, R246, R256). -/
namespace Sys2Proof.Proofs

open Sys2Proof Sys2Proof.Machine

/-- The start-up script runs, and the slice of fold 0 is in storm with its held lines released and one token of 256 in its bucket, as the
limiter leaves it on the way to CALM. -/
def drainedStorm : State :=
  let d := { Dev.reset with boot := { Boot.reset with inScript := true } }
  { State.reset with dev := d.updSlice 0 fun s => { s with storm := true, tokens := 1 } }

/-- Whether the slice of fold 0 is in storm in the state a command leaves. -/
def stormLeft (r : Host.Outcome State Fault Refusal) : Bool :=
  match r with
  | .next t => (t.dev.slice 0).storm
  | .fault _ | .refused _ => false

/-- The model ends the storm as R246 has it: nothing is held, and with DEPTH 1 the one token fills the bucket. -/
theorem stormLeft_drainedStorm : stormLeft (exec (.evrLimit .script 0 100 1 (some 7) (some 7)) drainedStorm) = false := by
  decide +kernel

/-- Refutes O53: its clause on `evr limit` sets the figures of a slice and leaves its storm. A DEPTH that the tokens reach fills the bucket
of a slice in storm that holds nothing, so that CALM is due (R246); the clause leaves the slice in storm, where the model ends it. -/
theorem not_eventRouter : ¬ Obligations.EventRouter := by
  unfold Obligations.EventRouter
  intro h
  obtain ⟨-, -, -, -, -, -, -, -, -, -, -, -, -, -, -, hlimit, -⟩ := h
  obtain ⟨-, hset⟩ := hlimit 0 100 1 7 7 (by decide) (by decide) (by decide) (by decide) (by decide)
  have hclaim := stormLeft_drainedStorm.symm.trans <|
    congrArg stormLeft (hset .script drainedStorm (by decide +kernel) (by decide +kernel))
  exact absurd hclaim (by decide +kernel)

end Sys2Proof.Proofs

/-! SUPPORT. A simulated input of the halter map that has no place to be held in (spec/11 R248, R257). -/
namespace Sys2Proof.Proofs

open Sys2Proof Sys2Proof.Machine

/-- The start-up script runs, output 0 names input 0, no input is active, and the list of simulated values is empty. -/
def noSimPlaces : State :=
  let maps := lset Halter.reset.maps 0 { haltMap Halter.reset 0 with ins := 1 }
  { State.reset with dev := { Dev.reset with
      boot := { Boot.reset with inScript := true }
      halter := { Halter.reset with maps := maps, sims := [] } } }

/-- The outputs that are tripped in the state a command leaves. -/
def tripsLeft (r : Host.Outcome State Fault Refusal) : BitVec 8 :=
  match r with
  | .next t => t.dev.halter.trip
  | .fault _ | .refused _ => 0

/-- The model trips the outputs of inputs that it sees become active, and an input whose simulated value is not held stays as it is. -/
theorem tripsLeft_noSimPlaces : tripsLeft (exec (.xHaltSim .script 0 true) noSimPlaces) = 0 := by decide +kernel

/-- Refutes O54: the statement asks nowhere that the list of simulated inputs has its eight places, as it asks of the filters. Where the list
is empty a simulated value of 1 is not held and input 0 stays inactive; the clause on `x halt sim` trips output 0 all the same. -/
theorem not_halterMapping : ¬ Obligations.HalterMapping := by
  unfold Obligations.HalterMapping
  intro h
  obtain ⟨-, -, -, -, -, -, -, -, -, -, -, -, -, -, -, -, hsim⟩ := h
  obtain ⟨⟨-, htrips⟩, -⟩ := hsim 0
  have hclaim := tripsLeft_noSimPlaces.symm.trans <|
    congrArg tripsLeft (htrips .script noSimPlaces (by decide +kernel) (by decide +kernel))
  exact absurd hclaim (by decide +kernel)

end Sys2Proof.Proofs
